-- ==== Sys2Proof/Word.lean ====
section
/-! DEFINITION. The word types of the Norbin model and the sparse map every store is kept in.
Bit-field, byte-order and number-format helpers stand in Sys2Proof/Machine/Bits.lean and Num.lean. -/

namespace Sys2Proof

abbrev Byte := BitVec 8
abbrev W32 := BitVec 32
abbrev W64 := BitVec 64

/-- A sparse store: keys strictly rising, and no entry equal to what an unlisted key reads as. -/
abbrev SMap (α : Type) := List (Nat × α)

/-- Sparse byte memory: an unlisted address reads as 0x00. -/
abbrev Mem := SMap Byte

abbrev ClusterId := Fin 32
abbrev MeId := Fin 4
abbrev EngId := Fin 7
abbrev DieId := Fin 2
abbrev ImpId := Fin 4
abbrev StackId := Fin 8
abbrev ChanId := Fin 16
abbrev PartId := Fin 16
abbrev SlotId := Fin 64
abbrev WinId := Fin 96
abbrev LinkId := Fin 48
abbrev GroupId := Fin 16
/-- 0 the physical function, k from 1 to 16 the virtual function of partition k - 1 (R373). -/
abbrev FnId := Fin 17

end Sys2Proof
end

