-- ==== Sys2Proof/Machine/Bits.lean ====
section
/-! DEFINITION. Bit fields, byte order, sparse maps and byte memories: the helpers every other
definition is written with. -/

namespace Sys2Proof.Machine

/-- name[hi:lo] of a word as a number (Table 0.3). -/
def bf {n : Nat} (w : BitVec n) (hi lo : Nat) : Nat := (w.toNat >>> lo) % 2 ^ (hi - lo + 1)

/-- name[i] as a truth value. -/
def bit {n : Nat} (w : BitVec n) (i : Nat) : Bool := w.getLsbD i

/-- w with name[hi:lo] replaced by v, the rest unchanged. -/
def setBf (w : W64) (hi lo v : Nat) : W64 :=
  let m := BitVec.ofNat 64 ((2 ^ (hi - lo + 1) - 1) <<< lo)
  (w &&& ~~~ m) ||| (BitVec.ofNat 64 ((v % 2 ^ (hi - lo + 1)) <<< lo))

/-- A two's-complement reading of the low n bits of v. -/
def sext (n v : Nat) : Int :=
  let u := v % 2 ^ n
  if u < 2 ^ (n - 1) then (u : Int) else (u : Int) - (2 ^ n : Nat)

/-- The low n bits of an integer's two's-complement form. -/
def wrapInt (n : Nat) (v : Int) : Nat := (v % (2 ^ n : Nat)).toNat

def boolNat (b : Bool) : Nat := if b then 1 else 0

/-- A count that saturates at the largest value of n bits. -/
def satTo (n v : Nat) : Nat := min v (2 ^ n - 1)

def ceilDiv (a b : Nat) : Nat := (a + b - 1) / b

/-- Number of one bits among the low n. -/
def popBits (v : Nat) : Nat → Nat
  | 0 => 0
  | n + 1 => boolNat (v.testBit n) + popBits v n

/-! ### Sparse maps -/

/-- What key k reads as, d where nothing is listed. -/
def sget {α : Type} (d : α) : SMap α → Nat → α
  | [], _ => d
  | (k', v) :: t, k => if k' = k then v else sget d t k

def sins {α : Type} : SMap α → Nat → α → SMap α
  | [], k, v => [(k, v)]
  | (k', v') :: t, k, v =>
    if k < k' then (k, v) :: (k', v') :: t
    else if k = k' then (k, v) :: t
    else (k', v') :: sins t k v

def sdel {α : Type} (m : SMap α) (k : Nat) : SMap α := m.filter (fun e => e.1 != k)

/-- Write v at k, keeping the map free of entries equal to d. -/
def sset {α : Type} [DecidableEq α] (d : α) (m : SMap α) (k : Nat) (v : α) : SMap α :=
  if v = d then sdel m k else sins m k v

/-- Keys strictly rising from above lo. -/
def srising {α : Type} : Nat → SMap α → Bool
  | _, [] => true
  | lo, (k, _) :: t => decide (lo ≤ k) && srising (k + 1) t

/-- The canonical form: keys strictly rising and no entry equal to the unlisted value. -/
def swf {α : Type} [DecidableEq α] (d : α) (m : SMap α) : Bool :=
  srising 0 m && m.all (fun e => decide (e.2 ≠ d))

/-- Set every key of a list. -/
def ssetAll {α : Type} [DecidableEq α] (d : α) (m : SMap α) (ks : List Nat) (v : α) : SMap α :=
  ks.foldl (fun a k => sset d a k v) m

/-- The map that lists f k for each k below n where f k is not d. -/
def stab {α : Type} [DecidableEq α] (d : α) (n : Nat) (f : Nat → α) : SMap α :=
  (List.range n).filterMap (fun k => let v := f k; if v = d then none else some (k, v))

/-! ### Byte memories -/

/-- Memory.wf: addresses strictly rising, and no entry equal to what an unlisted address reads as. -/
abbrev Memory.wf (m : Mem) : Bool := swf (0 : Byte) m

def mget (m : Mem) (a : Nat) : Byte := sget 0 m a

def mset (m : Mem) (a : Nat) (b : Byte) : Mem := sset 0 m a b

/-- Replace the bits of mask in the byte at a by those of v. -/
def mmask (m : Mem) (a : Nat) (mask v : Byte) : Mem :=
  mset m a ((mget m a &&& ~~~ mask) ||| (v &&& mask))

/-- Zero the len bytes from lo. -/
def mzero (m : Mem) (lo len : Nat) : Mem := m.filter (fun e => !(decide (lo ≤ e.1) && decide (e.1 < lo + len)))

def mbytes (m : Mem) (a n : Nat) : List Byte := (List.range n).map (fun i => mget m (a + i))

def mput (m : Mem) (a : Nat) : List Byte → Mem
  | [] => m
  | b :: t => mput (mset m a b) (a + 1) t

/-- Little-endian value of bytes, the first least significant. -/
def leNat : List Byte → Nat
  | [] => 0
  | b :: t => b.toNat + 256 * leNat t

/-- The n low bytes of v, least significant first. -/
def leBytes : Nat → Nat → List Byte
  | 0, _ => []
  | n + 1, v => BitVec.ofNat 8 v :: leBytes n (v / 256)

/-- 64-bit word at byte address a. -/
def mword (m : Mem) (a : Nat) : W64 := BitVec.ofNat 64 (leNat (mbytes m a 8))

def mputWord (m : Mem) (a : Nat) (v : W64) : Mem := mput m a (leBytes 8 v.toNat)

/-- Split a list into pieces of n (the last may be shorter); fuel bounds the number of pieces. -/
def chunks {α : Type} (n : Nat) : Nat → List α → List (List α)
  | 0, _ => []
  | _ + 1, [] => []
  | f + 1, l => l.take n :: chunks n f (l.drop n)

/-- 64-bit words of a byte list. -/
def wordsOf (bs : List Byte) : List W64 := (chunks 8 (bs.length + 1) bs).map (fun c => BitVec.ofNat 64 (leNat c))

def bytesOf (ws : List W64) : List Byte := ws.flatMap (fun w => leBytes 8 w.toNat)

/-- Element n of a list of words, 0 beyond it. -/
def wordAt (ws : List W64) (n : Nat) : W64 := ws.getD n 0

/-- Insert into a strictly rising list. -/
def linsert (k : Nat) : List Nat → List Nat
  | [] => [k]
  | h :: t => if k < h then k :: h :: t else if k = h then h :: t else h :: linsert k t

/-- Stable insertion sort by a key order: le a b says a may stand before b. -/
def insertBy {α : Type} (le : α → α → Bool) (x : α) : List α → List α
  | [] => [x]
  | h :: t => if le x h then x :: h :: t else h :: insertBy le x t

def sortBy {α : Type} (le : α → α → Bool) : List α → List α
  | [] => []
  | h :: t => insertBy le h (sortBy le t)

/-- First element in list order that no other beats: better a b says a beats b. -/
def pickBy {α : Type} (better : α → α → Bool) : List α → Option α
  | [] => none
  | h :: t => match pickBy better t with
    | none => some h
    | some x => if better x h then some x else some h

/-- Remove the element at place k. -/
def dropAt {α : Type} (l : List α) (k : Nat) : List α := l.take k ++ l.drop (k + 1)

/-- Replace the element at place k. -/
def setAt {α : Type} (l : List α) (k : Nat) (x : α) : List α := l.set k x

end Sys2Proof.Machine
end

