-- ==== Sys2Proof/Machine/Serving.lean ====
section
/-! DEFINITION. The data of the serving control unit (chapter 11): request entries with their pages, moves, prefix
entries, composed steps, and the composition record that a mirror pair exchanges (R296). -/

namespace Sys2Proof

/-- The primary's composition record (R296, R356, R442): the step number, the grade, the fabric time
its deadline checks used, the start of the serving slot that the step lands in, where one is programmed, the control
actions it took (kind and request), the requests that it found QUEUED and hashed, the tier copies that it
found complete (request, layer, page, inward) with the requests that have none left, and the variant that it found
newly resident. -/
structure CompRecord where
  step : Nat
  grade : BitVec 3
  deadlineTime : Nat
  slotAt : Option Nat := none
  acts : List (Nat × Nat) := []
  admissions : List Nat := []
  moves : List (Nat × Nat × Nat × Bool) := []
  movesDone : List Nat
  variantDone : Option (BitVec 6)
  deriving DecidableEq, Repr

namespace Machine

/-- A cache page of a request (R264): address in the cache, or slot in the tier. -/
structure PageRef where
  layer : Nat
  page : Nat
  addr : Option Nat
  tier : Option Nat
  shared : Bool
  deriving DecidableEq, Repr

/-- A request table entry (Table 11.1) with what the SCU keeps beside it. -/
structure Req where
  w0 : W64 := 0
  w1 : W64 := 0
  w2 : W64 := 0
  w3 : W64 := 0
  w4 : W64 := 0
  w5 : W64 := 0
  w6 : W64 := 0
  w7 : W64 := 0
  part : Nat := 0
  /-- Token count table (R319). -/
  counts : SMap Nat := []
  pages : List PageRef := []
  stash : List Nat := []
  /-- H_b of the prompt's full blocks, as 128-bit numbers (R314). -/
  hashes : List Nat := []
  deriving DecidableEq, Repr

/-- A page move queued or under way (R311, R313). -/
structure PageMove where
  req : Nat
  layer : Nat
  page : Nat
  addr : Nat
  staging : Nat
  tier : Nat
  inward : Bool
  /-- Step whose move record carries it. -/
  step : Option Nat
  /-- True once the step that carries it has completed (out), or once staged from the tier (in). -/
  ready : Bool
  /-- On a shadow, the copy has ended here; the primary's record has still to name it (R296). -/
  landed : Bool := false
  deriving DecidableEq, Repr

/-- A prefix entry (R315, R316). -/
structure PrefixEntry where
  hash : Nat
  variant : Nat
  block : Nat
  /-- (layer, page address). -/
  pages : List (Nat × Nat)
  stash : Nat
  refs : Nat
  used : Nat
  deriving DecidableEq, Repr

/-- A prefill piece of a composed step (Table 11.9). -/
structure Piece where
  req : Nat
  pos : Nat
  len : Nat
  last : Bool
  stash : Nat
  deriving DecidableEq, Repr

/-- A composed step waiting for its slot or running. -/
structure Composed where
  n : Nat
  empty : Bool
  kernel : Nat
  variant : Nat
  resident : Nat
  decodes : List Nat
  pieces : List Piece
  moves : Nat
  params : List Nat
  /-- Fabric time at which composition completed, and the earliest start of a slot that may run the step (R302, R359). -/
  at_ : Nat
  from_ : Nat
  /-- Grade it was composed under (R306, R439). -/
  grade : Nat := 0
  deriving DecidableEq, Repr

/-- The SCU's state for one partition, beside its registers. -/
structure ScuPart where
  /-- Control actions in arrival order: 2 CANCEL, 3 PAUSE, 4 RESUME, with the entry's index (R295). -/
  acts : List (Nat × Nat) := []
  seq : Nat := 0
  composed : Option Composed := none
  running : Option Composed := none
  moves : List PageMove := []
  prefixes : List PrefixEntry := []
  /-- Reference counts of cache pages by partition stack address. -/
  refs : SMap Nat := []
  stashUsed : List Nat := []
  /-- A swap in progress: variant, resident slot, MiB left to copy (R322). -/
  swap : Option (Nat × Nat × Nat) := none
  /-- Last step that used each resident slot. -/
  lastUse : SMap Nat := []
  /-- True when composition of the next step may begin (R302). -/
  due : Bool := false
  /-- True while the queue of prompt hashings is not empty (R314). -/
  hashing : List Nat := []
  /-- Counts matches of prefix entries, for their age. -/
  stamp : Nat := 0
  /-- Composition records of the primary, not yet applied (R359). -/
  records : List CompRecord := []
  /-- Tier copies found complete since the last composition: request, layer, page, inward (R296). -/
  doneMoves : List (Nat × Nat × Nat × Bool) := []
  /-- Steps composed here whose digest is not yet compared: number and digest (R360). -/
  digests : List (Nat × W64) := []
  /-- Digests received for steps not yet run here. -/
  theirs : List (Nat × W64) := []
  deriving DecidableEq, Repr

end Machine

end Sys2Proof
end

