-- ==== Sys2Proof/Syntax.lean ====
section
/-! DEFINITION. The commands of the Norbin module: one constructor per row of spec/opcode_table.json,
with the operands the chapters give that row. -/

namespace Sys2Proof

/-- The fields of an instruction word (Table 4.1, R111) without OPC, which the constructor names. -/
structure IWord where
  opf : BitVec 4 := 0
  sigK : BitVec 2 := 0
  sigT : BitVec 9 := 0
  w0K : BitVec 3 := 0
  w0T : BitVec 9 := 0
  base : BitVec 16 := 0
  stride : BitVec 8 := 0
  w1K : BitVec 3 := 0
  w1T : BitVec 9 := 0
  opnd : BitVec 20 := 0
  itag : BitVec 5 := 0
  imm : BitVec 32 := 0
  deriving DecidableEq, Repr

/-- A fabric frame as it arrives or leaves (R335): four header words, the payload bytes, and the trailer: its
CRC-32, and its bytes 4 to 7, sent as zeros. mask holds, byte for byte, the payload bits that belong to elements of the
forme; where it lists none, all do. R202 has padding written nowhere, and Table 12.6 gives a mask no place.
DESIGN CHOICE (log 31). -/
structure Frame where
  w0 : W64 := 0
  w1 : W64 := 0
  w2 : W64 := 0
  w3 : W64 := 0
  payload : List Byte := []
  mask : List Byte := []
  crc : W32 := 0
  trail : W32 := 0
  deriving DecidableEq, Repr

/-- A heartbeat on the mirror port (R362). -/
structure Heartbeat where
  time : Nat
  role : BitVec 3
  fenced : Bool
  failed : Bool
  deriving DecidableEq, Repr

/-- What crosses the mirror port towards a shadow, or towards a joining module (Table 13.3, R356, R369). -/
inductive MirrorMsg where
  /-- A galley command of a mirrored partition: its eight words. -/
  | galley (p : PartId) (entry : List W64)
  /-- A doorbell of a mirrored partition: the TAIL it wrote. -/
  | doorbell (p : PartId) (tail : BitVec 10)
  /-- A host write into a mirrored partition's memory: BAR2 offset and bytes. -/
  | write (p : PartId) (addr : Nat) (data : List Byte)
  /-- A 2 MiB page of the bulk copy, by its number in the copy map: the bytes that are not 0, by offset, and the
  offsets of the units sent as poison. -/
  | page (k : Nat) (bytes : List (Nat × Byte)) (poison : List Nat)
  /-- At cutover: a partition's SCU state, request table entries with their count tables, and registers that the SCU
  writes. -/
  | serving (p : PartId) (scu : Machine.ScuPart) (reqs : List (Nat × Machine.Req)) (regs : List (Nat × W64))
  /-- The sender has found the shadow's lag above LAGMAX: both modules have diverged (R361). -/
  | lagged (p : PartId) (step : Nat)
  /-- The copy is complete: of one partition, or of all. -/
  | complete (only : Option PartId)
  deriving DecidableEq, Repr

/-- What the surroundings decide during bring-up (Table 19.1): how long each of stages 0 to 4 takes
in ns, which supplies and images pass, and what the memory, cluster and link tests find. -/
structure BootPlan where
  durations : List Nat := []
  supplyOk : Bool := true
  /-- (stack, channel, die) whose training fails (R467). -/
  badDies : List (StackId × ChanId × Fin 18) := []
  /-- (C-die, physical cluster) that fails its built-in test (R467). -/
  badClusters : List (DieId × Fin 17) := []
  /-- Links that train in stage 4, with the partner's generation (1 to 3), one-way delay, and whether cable and partner
  let the spare lane serve the link (R328). -/
  linksUp : List (LinkId × Nat × Nat × Bool) := []
  /-- Keep words that are uncorrectable (R432). -/
  badKeep : List (BitVec 10) := []
  /-- Lane groups of MIR that train, 0 to 2, and the pair identity word of the partner (R353). -/
  mirLanes : Fin 3 := 0
  mirPair : W64 := 0
  deriving DecidableEq, Repr

/-- What training finds at the far end of a link (Table 12.2): whether a rate trained, the partner's generation
(1 Apenaso, 2 Zhomembe, 3 Norbin), the median round-trip delay, and whether sparing can serve the link as far as
cable and partner decide it: the spare lane is connected, and the partner is the Norbin of the group's other links
and advertises SPARE_EN (R328). For MIR, the lane groups that trained, 0 to 2, and the partner's pair identity word
(R353, R355). -/
structure Training where
  up : Bool
  gen : BitVec 2
  roundTrip : Nat
  spareWired : Bool
  lanes : Fin 3 := 0
  pair : W64 := 0
  deriving DecidableEq, Repr

/-- The integrity sites of R412. -/
inductive Site where
  | chan (n : StackId) (m : ChanId)
  | case (d : DieId)
  | store (c : ClusterId)
  deriving DecidableEq, Repr

/-- Width of a register access (R12). -/
inductive Width where
  | w64
  | lo32
  | hi32
  deriving DecidableEq, Repr

/-- The commands, in the order of spec/opcode_table.json. -/
inductive Instr where
  -- Engine instructions. c the logical cluster, e or m the engine, w the word's fields.
  | nop (c : ClusterId) (e : EngId) (w : IWord)
  | endStream (c : ClusterId) (e : EngId) (w : IWord)
  | loop (c : ClusterId) (e : EngId) (w : IWord)
  | zacc (c : ClusterId) (m : MeId) (w : IWord)
  | anchor (c : ClusterId) (m : MeId) (w : IWord)
  | mma (c : ClusterId) (m : MeId) (w : IWord)
  | mmaz (c : ClusterId) (m : MeId) (w : IWord)
  | mmax (c : ClusterId) (m : MeId) (w : IWord)
  | mmaxz (c : ClusterId) (m : MeId) (w : IWord)
  | drain (c : ClusterId) (m : MeId) (w : IWord)
  | drainz (c : ClusterId) (m : MeId) (w : IWord)
  | vadd (c : ClusterId) (w : IWord)
  | vsub (c : ClusterId) (w : IWord)
  | vmul (c : ClusterId) (w : IWord)
  | vfma (c : ClusterId) (w : IWord)
  | vmax (c : ClusterId) (w : IWord)
  | vmin (c : ClusterId) (w : IWord)
  | vabs (c : ClusterId) (w : IWord)
  | vneg (c : ClusterId) (w : IWord)
  | vand (c : ClusterId) (w : IWord)
  | vor (c : ClusterId) (w : IWord)
  | vxor (c : ClusterId) (w : IWord)
  | vshl (c : ClusterId) (w : IWord)
  | vshr (c : ClusterId) (w : IWord)
  | vmov (c : ClusterId) (w : IWord)
  | vsel (c : ClusterId) (w : IWord)
  | vcmpeq (c : ClusterId) (w : IWord)
  | vcmplt (c : ClusterId) (w : IWord)
  | vcmple (c : ClusterId) (w : IWord)
  | vexp2 (c : ClusterId) (w : IWord)
  | vrcp (c : ClusterId) (w : IWord)
  | vrsq (c : ClusterId) (w : IWord)
  | vcvt (c : ClusterId) (w : IWord)
  | vredrSum (c : ClusterId) (w : IWord)
  | vredrMax (c : ClusterId) (w : IWord)
  | vredrMin (c : ClusterId) (w : IWord)
  | vredcSum (c : ClusterId) (w : IWord)
  | vredcMax (c : ClusterId) (w : IWord)
  | vredcMin (c : ClusterId) (w : IWord)
  /-- opc is the code of the full-tile form, 0x20 to 0x3F; the word's OPC is opc + 0x80 (R126). -/
  | rowForm (c : ClusterId) (opc : BitVec 8) (w : IWord)
  | compress (c : ClusterId) (w : IWord)
  | compressAppend (c : ClusterId) (w : IWord)
  | expand (c : ClusterId) (w : IWord)
  | expandAppend (c : ClusterId) (w : IWord)
  | rsum (c : ClusterId) (w : IWord)
  | rmax (c : ClusterId) (w : IWord)
  | rmin (c : ClusterId) (w : IWord)
  | rssum (c : ClusterId) (w : IWord)
  | rsmax (c : ClusterId) (w : IWord)
  | rsmin (c : ClusterId) (w : IWord)
  | load (c : ClusterId) (w : IWord)
  | store (c : ClusterId) (w : IWord)
  | fdef (c : ClusterId) (w : IWord)
  | nbcmd (c : ClusterId) (w : IWord)
  | rwrite (c : ClusterId) (w : IWord)
  | wgann (c : ClusterId) (w : IWord)
  | rfinal (c : ClusterId) (w : IWord)
  | flgclr (c : ClusterId) (w : IWord)
  | copy (c : ClusterId) (w : IWord)
  | transpose (c : ClusterId) (w : IWord)
  | permute (c : ClusterId) (w : IWord)
  | convert (c : ClusterId) (w : IWord)
  | dieslice (c : ClusterId) (w : IWord)
  | gather (c : ClusterId) (w : IWord)
  | scatter (c : ClusterId) (w : IWord)
  | scatterAdd (c : ClusterId) (w : IWord)
  -- Engine events.
  | instructionIssue (c : ClusterId) (e : EngId)
  | staticCompletion (c : ClusterId) (e : EngId)
  /-- k counts the cluster's outstanding MV instructions from the oldest. -/
  | mvCompletion (c : ClusterId) (k : Nat)
  | impositionComplete (c : ClusterId) (x : ImpId)
  -- Near-bank list commands: the next command of channel m of stack n starts.
  | nbNop (n : StackId) (m : ChanId)
  | fence (n : StackId) (m : ChanId)
  | nbEnd (n : StackId) (m : ChanId)
  | ldv (n : StackId) (m : ChanId)
  | stv (n : StackId) (m : ChanId)
  | ldq (n : StackId) (m : ChanId)
  | sti (n : StackId) (m : ChanId)
  | zst (n : StackId) (m : ChanId)
  | dot (n : StackId) (m : ChanId)
  | axpy (n : StackId) (m : ChanId)
  | vmac (n : StackId) (m : ChanId)
  | nbVadd (n : StackId) (m : ChanId)
  | nbVmul (n : StackId) (m : ChanId)
  | nbVmax (n : StackId) (m : ChanId)
  | vcmp (n : StackId) (m : ChanId)
  | sta (n : StackId) (m : ChanId)
  | exp2 (n : StackId) (m : ChanId)
  | osm (n : StackId) (m : ChanId)
  | scale (n : StackId) (m : ChanId)
  | cvt (n : StackId) (m : ChanId)
  | att (n : StackId) (m : ChanId)
  | send (n : StackId) (m : ChanId)
  | fin (n : StackId) (m : ChanId)
  | szero (n : StackId) (m : ChanId)
  | bcast (n : StackId) (m : ChanId)
  | putc (n : StackId) (m : ChanId)
  | nbListArrived (n : StackId) (m : ChanId)
  | nbListComplete (n : StackId) (m : ChanId)
  -- Landing, groups and staging.
  /-- k counts the writes that have completed and not landed, from the oldest. -/
  | writeLanded (k : Nat)
  /-- The held RFINAL of group g of cluster c, issued here (none) or over a link. -/
  | rfinalRelease (src : Option LinkId) (c : ClusterId) (g : GroupId)
  | sendStagingAccept (c : ClusterId)
  -- Timetable.
  | frameBoundary (p : PartId)
  | slotStart (p : PartId) (n : SlotId)
  | stepComplete (p : PartId) (n : SlotId)
  | modeswDuty (p : PartId) (n : SlotId)
  | modeswToMemory (n : StackId) (m : ChanId)
  | modeswToProcessor (n : StackId) (m : ChanId)
  | recodeInPlace (n : StackId) (m : ChanId)
  | modeswDone (n : StackId) (m : ChanId)
  | swapDuty (p : PartId) (n : SlotId)
  | maintDuty (p : PartId) (n : SlotId)
  | dutyLenExpiry (p : PartId) (n : SlotId)
  | bkgd (p : PartId) (n : SlotId)
  | overrun (p : PartId) (n : SlotId)
  | stepWatchdog (p : PartId) (n : SlotId)
  | sendWindowOpen (p : PartId) (n : SlotId) (x : WinId)
  | windowClose (p : PartId) (n : SlotId) (x : WinId)
  | ttCommit (p : PartId)
  | ttSrcWrite (v : W64)
  | epochPulse
  /-- The fields of a received idle ordered set (R336). -/
  | idleOrderedSet (l : LinkId) (time : Nat) (hold : BitVec 24) (hops : BitVec 3) (locked fallback : Bool)
  | refLost
  | linkLost (l : LinkId)
  | fallback
  | locked
  | refresh (n : StackId) (m : ChanId)
  | refreshEnd (n : StackId) (m : ChanId)
  | throttleRefresh (n : StackId) (m : ChanId)
  -- Fabric links.
  | linkEnable (l : LinkId)
  | retrain (l : LinkId)
  | restore (l : LinkId)
  /-- none: training of MIR. -/
  | linkTrained (l : Option LinkId) (t : Training)
  | trainRetry (l : LinkId)
  /-- none: MIR. -/
  | lanesLost (l : Option LinkId)
  /-- none: a lane of MIR, whose group of four fails with it (R355). -/
  | laneFail (l : Option LinkId) (lane : Fin 4)
  | writeFrame (l : LinkId) (f : Frame)
  | wgannFrame (l : LinkId) (f : Frame)
  | rfinalFrame (l : LinkId) (f : Frame)
  | rel (l : LinkId) (f : Frame)
  | nak (l : LinkId) (f : Frame)
  | credit (l : LinkId) (f : Frame)
  /-- none: received on MIR. -/
  | haltFrame (l : Option LinkId) (f : Frame)
  | ackTimeout (l : LinkId)
  | vc0Release (l : LinkId)
  | wgtmo (l : LinkId) (c : ClusterId) (g : GroupId)
  | qwinExpiry (l : LinkId)
  -- Mirror pair.
  | heartbeatSend
  | heartbeatReceive (h : Heartbeat)
  | heartbeatAck (sent : Nat)
  | leaseExpiry
  | heartbeatMiss
  | setroleJoining
  | setroleSolo
  | rsync
  | cutover
  | rsyncComplete
  | digest (p : PartId) (step : Nat) (d : W64)
  | compositionRecord (p : PartId) (r : CompRecord)
  | mirrorInput (x : MirrorMsg)
  | clusterFail (d : DieId) (phys : Fin 17)
  -- Partitions and host.
  | apply (p : PartId)
  | release (p : PartId)
  | applyDone (p : PartId)
  | releaseDone (p : PartId)
  /-- addr is a BAR2 offset, or with imem true a BAR0 offset in the function's instruction memory. -/
  | hostRead (f : FnId) (imem : Bool) (addr : Nat) (len : Nat)
  | hostWrite (f : FnId) (imem : Bool) (addr : Nat) (data : List Byte)
  | galleyDoorbell (p : PartId) (tail : BitVec 10)
  /-- A galley entry's eight words (Table 14.5). -/
  | submit (p : PartId) (entry : List W64)
  | cancel (p : PartId) (entry : List W64)
  | pause (p : PartId) (entry : List W64)
  | resume (p : PartId) (entry : List W64)
  | galleyNop (p : PartId)
  | tierCopy (p : PartId) (entry : List W64)
  /-- k counts the partition's running tier copies from the oldest. -/
  | copyDone (p : PartId) (k : Nat)
  | hostEbaseWrite (f : FnId) (v : W64)
  | eventInterrupt (f : FnId)
  | perstN (asserted : Bool)
  -- Serving control unit.
  | scuEnable (p : PartId)
  | compose (p : PartId)
  | prefixHash (p : PartId) (r : BitVec 14)
  | variantSwapDone (p : PartId)
  -- Integrity.
  | scrubBurst (x : Site)
  | rowCopyDone (n : StackId) (m : ChanId)
  | lapLimit (x : Site)
  | siteSplit (x : Site) (v : W64)
  -- Firmware and keep registers.
  | keepWrite (w : BitVec 10) (v : W64)
  | keepWriteDone
  | fwUpd (v : W64)
  | clusterMove (d : DieId)
  | schSwitch
  | pwrSwitch
  | secSwitch
  | trialTimeout (k : Fin 4)
  | horizonExpiry
  | dramCalibration (n : StackId) (m : ChanId)
  | linkTrim (l : LinkId) (trims : W64)
  | memoryTest (n : StackId) (m : ChanId)
  | sensorTest
  | oscCompensationTest (ppb : BitVec 32)
  | clusterSelfTest (d : DieId)
  -- Power, clocks, temperature.
  /-- The thirteen raw readings in 1/16 °C and the input power in W. -/
  | sensorRead (raws : List Int) (power : Nat)
  | droop (c : ClusterId)
  | vminStop (d : DieId)
  | frequencyStop (d : DieId)
  | clockRestart (d : DieId)
  /-- The 1 ms rolling mean of the input power, and how long it has kept its side of PCAP, in ms. -/
  | gradeChange (power : Nat) (overMs underMs : Nat)
  | fullChLower (n : StackId)
  | oscCompensation
  | compensationPoint (ppb : BitVec 32)
  | inputOvervoltage
  | inputLoss
  | powerOn (b : BootPlan)
  | timeStageLimit
  -- Halt, proof and trace.
  | haltGo
  | haltResume
  | proofGo
  | scanOutDone
  | trcAuditBufWrite (v : W64)
  | trcTbufWrite (v : W64)
  -- JTAG and management.
  /-- code is the instruction register's; one that is not listed acts as BYPASS (R484). -/
  | bypass (code : BitVec 8) (tdi : List Bool)
  | idcode
  | samplePreload (tdi : List Bool)
  | extest (tdi : List Bool)
  | extestPulse (tdi : List Bool)
  | extestTrain (tdi : List Bool)
  | unlock (response : List Byte)
  | jtagHalt
  | proofrd (offset : W64) (words : Nat)
  | trstN
  | i3cPrivateWrite (offset : W32) (data : Option W64)
  | i3cPrivateRead
  /-- off is a byte offset of the function's BAR0. -/
  | registerWrite (f : FnId) (off : BitVec 25) (wd : Width) (v : W64)
  -- Rows the table adds after the chapters' own.
  | nbCommandDone (n : StackId) (m : ChanId) (k : Nat)
  | impositionTurn (d : DieId) (x : ImpId)
  | tierMoveDone (p : PartId) (k : Nat)
  | promotionDone
  | updateStored
  | healthyReport (k : Fin 4)
  | droopRecovery (c : ClusterId)
  /-- k is the request's place in the queue; sensors that pass a test of kind 4 (R446). -/
  | selfTestDone (k : Nat) (pass : Bool) (detail : BitVec 32) (sensors : BitVec 13)
  /-- poison: the 64-byte lines of the device that return poison when they are read (R393). -/
  | tierPortTrained (t : Fin 3) (cap : BitVec 32) (poison : List Nat)
  | idleSetSend (l : LinkId)
  | unknownOpcodeFrame (l : LinkId) (f : Frame)
  | i3cDynamicAddress (a : BitVec 7)
  deriving DecidableEq, Repr

end Sys2Proof
end

