-- ==== Sys2Proof/Decode.lean ====
section
/-! DEFINITION. The commands that words spell. No row of spec/opcode_table.json gives bits, so no word spells
one; engine instruction words, whose OPC Table 4.1 places, are fetched by INSTRUCTION_ISSUE
(Sys2Proof/Machine/Issue.lean), and a frame is read by its header (Sys2Proof/Machine/Frames.lean). -/

namespace Sys2Proof

/-- The command that a word of nbits bits spells by the table's bits. -/
def decodeTableWord (_nbits _w : Nat) : Option Instr := none

end Sys2Proof
end

