-- ==== Sys2Proof/Config.lean ====
section
/-! DEFINITION. What one implementation fixes and the manual does not, and the free values.
Every constant here is opaque: no proof can see what it is, and a claim holds whatever it is. -/

namespace Sys2Proof.Config

/-- Free yes-or-no choice number n (State.free counts them): R83, R121, R274, R389 and the others
named in the assumption log. -/
opaque freeBool : Nat → Bool

/-- Free bytes of choice number n, at position k. -/
opaque freeByte : Nat → Nat → Byte

/-- Free 64-bit word of choice number n, at position k. -/
opaque freeWord : Nat → Nat → W64

/-- HOST_ID.REVISION, per silicon (Table 1.9). -/
opaque revision : BitVec 8

/-- Keep word 1, the serial number locked at manufacture (Table 16.5). -/
opaque serial : W64

/-- Whether the header digest and signature of an image verify under the fused key (R415). -/
opaque imageVerifies : List Byte → Bool

/-- VERSION in an image's 512-byte header; R415 gives no offset for the field. -/
opaque imageVersion : List Byte → BitVec 16

/-- Whether SEC accepts a response to a challenge (Table 20.4, UNLOCK). -/
opaque unlockVerifies : List Byte → List Byte → Bool

/-- Orders the columns of the parity-check matrix of the address-covering SECDED code among those that R395 allows; it
gives only the matrix's properties. -/
opaque secdedOrder : Nat → Nat

/-- Window W of a layer (R268), by partition, variant, layer and word 0 of the variant entry; 0 for a layer without
a window. The entry says only that the variant has such layers (Table 11.6). -/
opaque layerWindow : Nat → Nat → Nat → W64 → Nat

/-- Number of cells of the boundary register (Table 20.4 gives no length). -/
opaque boundaryCells : Nat

/-- The straps SLOT_ID (Table 20.2). -/
opaque slotId : BitVec 3

end Sys2Proof.Config
end

