-- ==== Sys2Proof/Machine/Hash.lean ====
section
/-! DEFINITION. The named standard codes the spec uses: CRC-32 (IEEE 802.3, R335), CRC-64 (ECMA-182,
R360), SHA-256 (FIPS 180-4, R314 and R320) and the stack symbol code of R396. -/

namespace Sys2Proof.Machine

/-! ### CRC-32, IEEE 802.3: reflected polynomial 0xEDB88320, initial and final all ones -/

def crc32Bit (c : W32) : W32 := if c.getLsbD 0 then (c >>> 1) ^^^ 0xEDB88320 else c >>> 1

def crc32Byte (c : W32) (b : Byte) : W32 :=
  (List.range 8).foldl (fun x _ => crc32Bit x) (c ^^^ b.setWidth 32)

def crc32 (bs : List Byte) : W32 := ~~~ (bs.foldl crc32Byte 0xFFFFFFFF)

/-! ### CRC-64, ECMA-182: polynomial 0x42F0E1EBA9EA3693, most significant bit first, initial 0 -/

def crc64Bit (c : W64) : W64 := if c.getLsbD 63 then (c <<< 1) ^^^ 0x42F0E1EBA9EA3693 else c <<< 1

def crc64Byte (c : W64) (b : Byte) : W64 :=
  (List.range 8).foldl (fun x _ => crc64Bit x) (c ^^^ (b.setWidth 64 <<< 56))

def crc64 (bs : List Byte) : W64 := bs.foldl crc64Byte 0

/-! ### SHA-256

FIPS 180-4 takes its constants from the fractional parts of roots of primes, and so does the model. -/

/-- The greatest r below 2^b with r^n at most x. -/
def rootBelow (n x : Nat) : Nat → Nat → Nat
  | 0, r => r
  | b + 1, r => rootBelow n x b (if (r + 2 ^ b) ^ n ≤ x then r + 2 ^ b else r)

/-- First 32 bits of the fractional part of the n-th root of p. -/
def rootBits (n p : Nat) : W32 := BitVec.ofNat 32 (rootBelow n (p * 2 ^ (32 * n)) 40 0)

/-- The 64 primes up to 311. -/
def primesTo311 : List Nat := (List.range 312).filter (fun p => decide (2 ≤ p) && (List.range 18).all (fun d => d < 2
    || d == p || p % d != 0))

/-- Exclusive or of the rotations of a word to the right by the amounts listed. -/
def spins (rs : List Nat) (x : W32) : W32 := (rs.map x.rotateRight).foldl (· ^^^ ·) 0

/-- The next words of the message schedule; the latest stands first. -/
def schedule (ws : List W32) : Nat → List W32
  | 0 => ws
  | n + 1 =>
    let back := fun (t : Nat) => ws.getD (t - 1) 0
    schedule ((back 16 + (spins [7, 18] (back 15) ^^^ (back 15 >>> 3)) + back 7
      + (spins [17, 19] (back 2) ^^^ (back 2 >>> 10))) :: ws) n

/-- One round on the last four values of the standard's a and of its e, the latest first, with the round's constant and
schedule word added up. -/
def digestRound (v : List W32 × List W32) (kw : W32) : List W32 × List W32 :=
  let a := fun (t : Nat) => v.1.getD t 0
  let e := fun (t : Nat) => v.2.getD t 0
  let t := e 3 + kw + spins [6, 11, 25] (e 0) + (e 2 ^^^ (e 0 &&& (e 1 ^^^ e 2)))
  ((t + spins [2, 13, 22] (a 0) + ((a 0 &&& a 1) ||| (a 2 &&& (a 0 ||| a 1)))) :: v.1.take 3, (a 3 + t) :: v.2.take 3)

def beNat (bs : List Byte) : Nat := bs.foldl (fun a b => a * 256 + b.toNat) 0

def beBytes (n v : Nat) : List Byte := (leBytes n v).reverse

/-- The chaining value after one more block of 64 bytes. -/
def digestBlock (v : List W32 × List W32) (blk : List Byte) : List W32 × List W32 :=
  let words := (chunks 4 17 blk).map (fun c => BitVec.ofNat 32 (beNat c))
  let kws := List.zipWith (· + ·) (primesTo311.map (rootBits 3)) (schedule words.reverse 48).reverse
  let w := kws.foldl digestRound v
  (List.zipWith (· + ·) v.1 w.1, List.zipWith (· + ·) v.2 w.2)

/-- The SHA-256 digest, 32 bytes. -/
def sha256 (bs : List Byte) : List Byte :=
  let msg := bs ++ [0x80] ++ List.replicate ((119 - bs.length % 64) % 64) 0 ++ beBytes 8 (8 * bs.length)
  let seed := (primesTo311.take 8).map (rootBits 2)
  let v := (chunks 64 (msg.length / 64 + 1) msg).foldl digestBlock (seed.take 4, seed.drop 4)
  (v.1 ++ v.2).flatMap (fun w => beBytes 4 w.toNat)

/-! ### GF(2^8) with x^8 + x^4 + x^3 + x^2 + 1, and the two check symbols of a codeword (R396) -/

def gfDouble (a : Nat) : Nat := if a < 128 then 2 * a else (2 * a) ^^^ 0x11D

def gfMul : Nat → Nat → Nat → Nat
  | 0, _, _ => 0
  | n + 1, a, b => (if b % 2 = 1 then a else 0) ^^^ gfMul n (gfDouble a) (b / 2)

/-- Remainder by the generator (x + 1)(x + α) = x² + 3x + 2, data symbol 0 first: the check symbols
of dies 16 and 17. -/
def rsCheck (data : List Nat) : Nat × Nat :=
  data.foldl (fun (r : Nat × Nat) d =>
    let f := d ^^^ r.1
    (r.2 ^^^ gfMul 8 f 3, gfMul 8 f 2)) (0, 0)

/-- α to the power n. -/
def gfPow : Nat → Nat
  | 0 => 1
  | n + 1 => gfDouble (gfPow n)

/-- What a codeword's decoder makes of the errors of its 18 symbols, with no erasure: no error seen, one symbol that
it corrects with its value, or none that it can (R396, R397). Symbol 0 stands at the highest power. -/
def rsDecode (errs : List Nat) : Option (Option (Nat × Nat)) :=
  let s0 := errs.foldl (· ^^^ ·) 0
  let s1 := errs.foldl (fun a e => gfDouble a ^^^ e) 0
  if s0 = 0 then (if s1 = 0 then some none else none)
  else ((List.range 18).find? (fun p => gfMul 8 s0 (gfPow (17 - p)) == s1)).map (fun p => some (p, s0))

/-- The two sums of a codeword's errors that its check symbols show, the symbols of some dies left out. -/
def rsSums (errs : List Nat) (out : List Nat) : Nat × Nat :=
  let es := (List.range errs.length).map (fun d => if out.contains d then 0 else errs.getD d 0)
  (es.foldl (· ^^^ ·) 0, es.foldl (fun a e => gfDouble a ^^^ e) 0)

/-- a to the power 254, which is its inverse. -/
def gfInv (a : Nat) : Nat := (List.replicate 253 a).foldl (gfMul 8) a

/-- What is wrong with the symbol of an erased die once it has been rebuilt; none where another error of the codeword
shows (Table 15.2). -/
def rsOneErased (errs : List Nat) (p : Nat) : Option Nat :=
  let (s0, s1) := rsSums errs [p]
  if gfMul 8 s0 (gfPow (17 - p)) = s1 then some s0 else none

/-- What is wrong with the symbols of two erased dies once they have been rebuilt. -/
def rsTwoErased (errs : List Nat) (p q : Nat) : Nat × Nat :=
  let (s0, s1) := rsSums errs [p, q]
  let x := gfMul 8 (s1 ^^^ gfMul 8 s0 (gfPow (17 - q))) (gfInv (gfPow (17 - p) ^^^ gfPow (17 - q)))
  (x, s0 ^^^ x)

end Sys2Proof.Machine
end

