-- ==== Sys2Proof/Machine/Num.lean ====
section
/-! DEFINITION. Number formats and exact arithmetic (chapter 5): every element is read as a value,
computed on exactly, and rounded once into its destination. -/

namespace Sys2Proof.Machine

/-- Format codes of Table 4.5. -/
inductive Fmt where
  | fp32 | bf16 | fp16 | e4m3 | e5m2 | e3m2 | e2m3 | e2m1 | int8 | int4 | int32 | a12 | zb8 | e8m0 | int16
  deriving DecidableEq, Repr

/-- Table 4.5; code 15 is reserved. -/
def Fmt.ofCode : Nat → Option Fmt
  | 0 => some .fp32 | 1 => some .bf16 | 2 => some .fp16 | 3 => some .e4m3 | 4 => some .e5m2
  | 5 => some .e3m2 | 6 => some .e2m3 | 7 => some .e2m1 | 8 => some .int8 | 9 => some .int4
  | 10 => some .int32 | 11 => some .a12 | 12 => some .zb8 | 13 => some .e8m0 | 14 => some .int16
  | _ => none

/-- Bits one element takes in a row (Table 6.1); a ZB8 mantissa takes 8. -/
def Fmt.bits : Fmt → Nat
  | .fp32 | .int32 => 32
  | .bf16 | .fp16 | .a12 | .int16 => 16
  | .e4m3 | .e5m2 | .int8 | .e8m0 | .zb8 => 8
  | .e3m2 | .e2m3 => 6
  | .e2m1 | .int4 => 4

/-- Elements per tile row E (Table 6.1). -/
def Fmt.perRow : Fmt → Nat
  | .fp32 | .int32 => 64
  | .bf16 | .fp16 | .a12 | .int16 => 128
  | .e4m3 | .e5m2 | .int8 | .e8m0 | .e3m2 | .e2m3 => 256
  | .e2m1 | .int4 => 512
  | .zb8 => 240

/-- Bytes of a tile row an operation in the format uses (Table 6.1). -/
def Fmt.rowBytes : Fmt → Nat
  | .e3m2 | .e2m3 => 192
  | _ => 256

/-- Integer formats and their widths (R140). -/
def Fmt.intWidth : Fmt → Option Nat
  | .int4 => some 4 | .int8 => some 8 | .int16 => some 16 | .int32 => some 32 | _ => none

/-- An element's value: (-1)^neg × m × 2^e when finite, so zeros keep their sign. -/
inductive Val where
  | nan
  | inf (neg : Bool)
  | fin (neg : Bool) (m : Nat) (e : Int)
  deriving DecidableEq, Repr

/-- Layout of a floating-point format (Table 5.1): exponent bits, mantissa bits, bias, code of the
largest finite magnitude, whether it has infinities, and whether finite overflow becomes one. -/
structure FpSpec where
  eb : Nat
  mb : Nat
  bias : Nat
  maxFin : Nat
  infCode : Option Nat
  overInf : Bool
  nanCode : Option Nat
  deriving DecidableEq, Repr

def Fmt.fp : Fmt → Option FpSpec
  | .fp32 => some ⟨8, 23, 127, 0x7F7FFFFF, some 0x7F800000, true, some 0x7FC00000⟩
  | .bf16 => some ⟨8, 7, 127, 0x7F7F, some 0x7F80, true, some 0x7FC0⟩
  | .fp16 => some ⟨5, 10, 15, 0x7BFF, some 0x7C00, true, some 0x7E00⟩
  | .a12 => some ⟨5, 6, 15, 0x7FE, none, false, some 0x7FF⟩
  | .e4m3 => some ⟨4, 3, 7, 0x7E, none, false, some 0x7F⟩
  | .e5m2 => some ⟨5, 2, 15, 0x7B, some 0x7C, false, some 0x7E⟩
  | .e3m2 => some ⟨3, 2, 3, 0x1F, none, false, none⟩
  | .e2m3 => some ⟨2, 3, 1, 0x1F, none, false, none⟩
  | .e2m1 => some ⟨2, 1, 1, 0x7, none, false, none⟩
  | _ => none

/-! ### Reading -/

/-- Value of a floating-point code (R136, R137: subnormals are values). -/
def fpDecode (s : FpSpec) (code : Nat) : Val :=
  let mag := code % 2 ^ (s.eb + s.mb)
  let neg := (code / 2 ^ (s.eb + s.mb)) % 2 = 1
  let ex := mag / 2 ^ s.mb
  let ma := mag % 2 ^ s.mb
  if mag > s.maxFin then
    if s.infCode = some mag then .inf neg else .nan
  else if ex = 0 then .fin neg ma (1 - (s.bias : Int) - s.mb)
  else .fin neg (2 ^ s.mb + ma) ((ex : Int) - s.bias - s.mb)

def ofInt (v : Int) : Val := .fin (decide (v < 0)) v.natAbs 0

/-- Value of an element code; ZB8 codes here are mantissas of a block with exponent 0. -/
def decode (f : Fmt) (code : Nat) : Val :=
  match f.fp, f with
  | some s, _ => fpDecode s code
  | none, .int4 => ofInt (sext 4 code)
  | none, .int8 => ofInt (sext 8 code)
  | none, .int16 => ofInt (sext 16 code)
  | none, .int32 => ofInt (sext 32 code)
  | none, .e8m0 => if code % 256 = 255 then .nan else .fin false 1 ((code % 256 : Nat) - 127)
  | none, _ => ofInt (sext 8 code)

/-! ### Rounding -/

/-- m × 2^k rounded to a natural number, to nearest with ties to even. -/
def rneShift (m : Nat) (k : Int) : Nat :=
  if 0 ≤ k then m * 2 ^ k.toNat
  else
    let d := 2 ^ (-k).toNat
    let q := m / d
    let r := m % d
    if 2 * r > d ∨ (2 * r = d ∧ q % 2 = 1) then q + 1 else q

/-- Exponent of the leading bit of m × 2^e, for m not 0. -/
def leadExp (m : Nat) (e : Int) : Int := (Nat.log2 m : Int) + e

/-- Code of a finite magnitude before overflow is judged: exact value rounded RNE on the format's
grid, subnormals included. -/
def fpMagnitude (s : FpSpec) (m : Nat) (e : Int) : Nat :=
  if m = 0 then 0 else
  let emin := 1 - (s.bias : Int)
  let lx := max (leadExp m e) emin
  let r := rneShift m (e - (lx - s.mb))
  (lx - emin).toNat * 2 ^ s.mb + r

/-- Round a value once into a floating-point format (R145, Table 5.3). -/
def fpEncode (s : FpSpec) (v : Val) : Nat :=
  let sgn := fun (neg : Bool) (mag : Nat) => mag + boolNat neg * 2 ^ (s.eb + s.mb)
  match v with
  | .nan => s.nanCode.getD 0
  | .inf neg => sgn neg (s.infCode.getD s.maxFin)
  | .fin neg m e =>
    let mag := fpMagnitude s m e
    if mag > s.maxFin then sgn neg (if s.overInf then s.infCode.getD s.maxFin else s.maxFin)
    else sgn neg mag

/-- Round a value once into a two's-complement integer of w bits, saturating; NaN gives the most
negative value (Table 5.3). -/
def intEncode (w : Nat) (v : Val) : Nat :=
  let lo := 2 ^ (w - 1)
  match v with
  | .nan => lo
  | .inf neg => if neg then lo else lo - 1
  | .fin neg m e =>
    let r := rneShift m e
    if neg then (if r ≥ lo then lo else (2 ^ w - r) % 2 ^ w)
    else (if r ≥ lo then lo - 1 else r)

/-- A single value into E8M0 (R146). -/
def e8m0Encode (v : Val) : Nat :=
  match v with
  | .nan => 0xFF
  | .inf _ => 254
  | .fin _ m e => if m = 0 then 0 else (min 254 (max 0 (leadExp m e + 127))).toNat

/-- Round a value once into a format (R145). ZB8 elements are converted by blocks, zb8Block below. -/
def encode (f : Fmt) (v : Val) : Nat :=
  match f.fp, f.intWidth with
  | some s, _ => fpEncode s v
  | none, some w => intEncode w v
  | none, none => if f = .e8m0 then e8m0Encode v else intEncode 8 v

/-! ### Exact arithmetic -/

/-- The integer m with the sign applied. -/
def signed (neg : Bool) (m : Nat) : Int := if neg then -(m : Int) else m

/-- A finite value as an integer multiple of 2^g; exact when its exponent is at least g. -/
def fixedAt (g : Int) (neg : Bool) (m : Nat) (e : Int) : Int := signed neg (m * 2 ^ (e - g).toNat)

/-- The value of an integer times 2^g; zero takes the sign given. -/
def ofFixed (zneg : Bool) (v : Int) (g : Int) : Val :=
  if v = 0 then .fin zneg 0 0 else .fin (decide (v < 0)) v.natAbs g

def vneg : Val → Val
  | .nan => .nan
  | .inf n => .inf (!n)
  | .fin n m e => .fin (!n) m e

/-- Exact sum under IEEE 754: opposite infinities give NaN; an exact zero is +0 unless both are −0. -/
def vadd : Val → Val → Val
  | .nan, _ => .nan
  | _, .nan => .nan
  | .inf a, .inf b => if a = b then .inf a else .nan
  | .inf a, .fin _ _ _ => .inf a
  | .fin _ _ _, .inf b => .inf b
  | .fin n m e, .fin n' m' e' =>
    let g := min e e'
    ofFixed (n && n' && (m == 0) && (m' == 0)) (fixedAt g n m e + fixedAt g n' m' e') g

/-- Exact product under IEEE 754. -/
def vmul : Val → Val → Val
  | .nan, _ => .nan
  | _, .nan => .nan
  | .inf a, .inf b => .inf (a != b)
  | .inf a, .fin n m _ => if m = 0 then .nan else .inf (a != n)
  | .fin n m _, .inf b => if m = 0 then .nan else .inf (n != b)
  | .fin n m e, .fin n' m' e' => .fin (n != n') (m * m') (e + e')

/-- Round to FP32 and read back. -/
def r32 (v : Val) : Val := decode .fp32 (encode .fp32 v)

/-- Round to BF16 and read back. -/
def rbf (v : Val) : Val := decode .bf16 (encode .bf16 v)

def isNan : Val → Bool
  | .nan => true
  | _ => false

def isZero : Val → Bool
  | .fin _ m _ => m == 0
  | _ => false

/-- Strict order of numbers; zeros are equal; NaN compares false. -/
def vlt : Val → Val → Bool
  | .nan, _ => false
  | _, .nan => false
  | .inf a, .inf b => a && !b
  | .inf a, .fin _ _ _ => a
  | .fin _ _ _, .inf b => !b
  | .fin n m e, .fin n' m' e' => let g := min e e'; decide (fixedAt g n m e < fixedAt g n' m' e')

def veq : Val → Val → Bool
  | .nan, _ => false
  | _, .nan => false
  | a, b => !vlt a b && !vlt b a

def vleq (a b : Val) : Bool := vlt a b || veq a b

def isNeg : Val → Bool
  | .nan => false
  | .inf n => n
  | .fin n _ _ => n

/-- Maximum: NaN if either is NaN, −0 below +0 (R168). -/
def vmaxv (a b : Val) : Val :=
  if isNan a || isNan b then .nan
  else if vlt a b then b else if vlt b a then a else if isNeg a then b else a

def vminv (a b : Val) : Val :=
  if isNan a || isNan b then .nan
  else if vlt a b then a else if vlt b a then b else if isNeg a then a else b

/-- Quotient with a sticky bit: enough bits below the leading one for a single rounding to FP32 or
narrower to be correct. -/
def vdiv : Val → Val → Val
  | .nan, _ => .nan
  | _, .nan => .nan
  | .inf _, .inf _ => .nan
  | .inf a, .fin n _ _ => .inf (a != n)
  | .fin n _ _, .inf b => .fin (n != b) 0 0
  | .fin n m e, .fin n' m' e' =>
    if m' = 0 then (if m = 0 then .nan else .inf (n != n'))
    else if m = 0 then .fin (n != n') 0 0
    else
      let k := 200 + Nat.log2 m'
      let q := (m * 2 ^ k) / m'
      let s := boolNat ((m * 2 ^ k) % m' != 0)
      .fin (n != n') (2 * q + s) (e - e' - k - 1)

/-- Integer square root by bits: r is the root found so far, from bit b - 1 downwards. -/
def isqrt (n : Nat) : Nat → Nat → Nat
  | 0, r => r
  | b + 1, r => let t := r + 2 ^ b; isqrt n b (if t * t ≤ n then t else r)

/-- 1/√x with a sticky bit (R169). -/
def vrsqv : Val → Val
  | .nan => .nan
  | .inf n => if n then .nan else .fin false 0 0
  | .fin n m e =>
    if m = 0 then .inf n
    else if n then .nan
    else
      -- make the exponent even, then take the root of 2^k / m with k even and large
      let m2 := if e % 2 = 0 then m else 2 * m
      let e2 := if e % 2 = 0 then e else e - 1
      let k := 2 * (100 + Nat.log2 m2)
      let t := 2 ^ k / m2
      let r := isqrt t (k / 2 + 1) 0
      let s := boolNat (r * r * m2 != 2 ^ k)
      .fin false (2 * r + s) (-(e2 / 2) - (k / 2 : Nat) - 1)

def vrcp (v : Val) : Val := vdiv (.fin false 1 0) v

/-- Scaled natural logarithm of 2: 2^p × ln 2, from the series Σ 1/(k 2^k). -/
def ln2Scaled (p : Nat) : Nat := (List.range (p + 8)).foldl (fun a k => a + 2 ^ p / ((k + 1) * 2 ^ (k + 1))) 0

/-- 2^p × e^(y/2^p) for 0 ≤ y < 2^p by its power series. -/
def expScaled (p y : Nat) : Nat → Nat → Nat → Nat
  | 0, _, _ => 0
  | f + 1, k, term => term + expScaled p y f (k + 1) (term * y / 2 ^ p / (k + 1))

/-- 2^x (R169): integers exactly; otherwise 2^n times the fraction's power to 180 bits with a sticky
bit. The exponent is first cut to the range that FP32 can tell apart. -/
def vexp2v : Val → Val
  | .nan => .nan
  | .inf n => if n then .fin false 0 0 else .inf false
  | .fin n m e =>
    if m = 0 then .fin false 1 0
    else if leadExp m e ≥ 9 then (if n then .fin false 0 0 else .inf false)
    else if leadExp m e < -150 then .fin false (2 ^ 60 + 1) (-60)
    else
      let p := 180
      -- x as a multiple of 2^-400 is exact for every FP32 input
      let x := fixedAt (-400) n m e
      let ip := x / (2 ^ 400 : Nat)
      let fp := (x % (2 ^ 400 : Nat)).toNat
      if fp = 0 then .fin false 1 ip
      else
        let y := (fp * ln2Scaled (p + 220)) / 2 ^ (400 + 220)
        .fin false (2 * expScaled p y 60 0 (2 ^ p) + 1) (ip - p - 1)

/-! ### Shared exponents (R146) -/

def emaxOf : Fmt → Int
  | .e4m3 => 8 | .e5m2 => 15 | .e3m2 => 4 | _ => 2

/-- Largest leading exponent among the finite non-zero elements. -/
def blockExp (vs : List Val) : Option Int :=
  vs.foldl (fun a v => match v with
    | .fin _ m e => if m = 0 then a else some (match a with | none => leadExp m e | some x => max x (leadExp m e))
    | _ => a) none

/-- Scale code of an MX block (R146). -/
def mxScale (f : Fmt) (vs : List Val) : Nat :=
  match blockExp vs with
  | none => 0
  | some l => (min 254 (max 0 (l - emaxOf f + 127))).toNat

/-- v × 2^k. -/
def vscale (k : Int) : Val → Val
  | .fin n m e => .fin n m (e + k)
  | v => v

/-- Element code of a block-scaled destination under a scale code. -/
def mxElem (f : Fmt) (scale : Nat) (v : Val) : Nat := encode f (vscale (127 - (scale : Int)) v)

/-- Exponent byte of a ZB8 block holding these values (R146). -/
def zbExp (vs : List Val) : Nat :=
  match blockExp vs with
  | some l => wrapInt 8 (min 15 (max (-16) (l - 6)))
  | none => if vs.any (fun v => match v with | .inf _ => true | _ => false) then 15 else 0x80

/-- Mantissa byte of a value under an exponent byte. -/
def zbMant (x : Nat) (v : Val) : Nat :=
  if x = 0x80 then 0
  else match v with
  | .nan => 0
  | .inf n => wrapInt 8 (if n then -127 else 127)
  | .fin n m e => wrapInt 8 (signed n (min 127 (rneShift m (e - sext 8 x))))

/-- Exponent that a stored exponent byte reads as; none for a zero block (R143). -/
def zbRead (x : Nat) : Option Int :=
  if x % 256 = 0x80 then none else some (min 15 (max (-16) (sext 8 x)))

/-- Value of mantissa byte m in a block with exponent byte x. -/
def zbVal (x m : Nat) : Val :=
  match zbRead x with
  | none => .fin false 0 0
  | some k => vscale k (ofInt (sext 8 m))

/-- Value of an element of a block-scaled side: scale 0xFF reads as NaN (Table 5.2). -/
def mxVal (f : Fmt) (scale code : Nat) : Val :=
  if scale % 256 = 255 then .nan else vscale ((scale % 256 : Nat) - 127) (decode f code)

/-! ### Sums -/

/-- Pairwise tree over a list: level by level, adjacent pairs, each addition rounded by rnd (R150,
R173). Fuel is the number of levels allowed. -/
def treeSum (rnd : Val → Val) : Nat → List Val → Val
  | _, [] => .fin false 0 0
  | 0, v :: _ => v
  | _, [v] => v
  | f + 1, l => treeSum rnd f (pairUp l)
where
  pairUp : List Val → List Val
    | a :: b :: t => rnd (vadd a b) :: pairUp t
    | l => l

/-- Chain sum in list order, each addition rounded (R178). -/
def chainSum (rnd : Val → Val) : List Val → Val
  | [] => .fin false 0 0
  | v :: t => t.foldl (fun a x => rnd (vadd a x)) v

/-- Sum in the near-bank order of R229: lane j takes elements j, j + 8, … in order, then lanes pair
up (0, 1), (2, 3), (4, 5), (6, 7), then halves. -/
def laneSum (xs : List Val) : Val :=
  let lane := fun j => chainSum r32 ((List.range (xs.length / 8)).map (fun i => xs.getD (8 * i + j) (.fin false 0 0)))
  treeSum r32 3 ((List.range 8).map lane)

end Sys2Proof.Machine
end

