-- ==== Sys2Proof/Machine/State.lean ====
section
/-! DEFINITION. The state of the Norbin module as plain data, and the state after reset.
Registers of the BAR0 windows stand in one sparse register file (State.regs, layouts in
Sys2Proof/Machine/Regs.lean); every other piece of state has a field of its own below.
Sparse maps read as the type's reset value where nothing is listed. -/

namespace Sys2Proof.Machine

/-- A memory a write can target: the stacks by physical address (Table 8.1), the case store by
physical case address (Table 7.2), or the store of one logical cluster. -/
inductive Space where
  | stack
  | case
  | store (c : Nat)
  deriving DecidableEq, Repr

/-- A masked byte write to a module memory: bits of mask are replaced by those of val. -/
structure PWrite where
  sp : Space
  addr : Nat
  mask : Byte
  val : Byte
  deriving DecidableEq, Repr

/-- A masked byte write to a cluster's tile registers; addr = 32,768 × tile + 256 × row + byte. -/
structure TWrite where
  addr : Nat
  mask : Byte
  val : Byte
  deriving DecidableEq, Repr

/-- One accumulator element: a 120-bit field and three sticky flags (chapter 5, R147). -/
structure Acc where
  field : BitVec 120 := 0
  infP : Bool := false
  infN : Bool := false
  nan : Bool := false
  deriving DecidableEq, Repr

/-- Kind of the last accumulating instruction into a bank (Table 5.4). -/
inductive BankKind where
  | exact
  | float
  | anchored
  deriving DecidableEq, Repr

/-- One accumulator bank: element (r, c) under key 128r + c, the kind and the anchor (R153). -/
structure Bank where
  elems : SMap Acc := []
  kind : BankKind := .exact
  anchor : Int := 0
  deriving DecidableEq, Repr

/-- One open hardware loop (R96 to R100). -/
structure LoopLevel where
  first : Nat
  len : Nat
  count : Nat
  i : Nat
  deriving DecidableEq, Repr

/-- One entry of an engine's instruction queue: an instruction word with its index (R105, R106). -/
structure QWord where
  idx : Nat
  lo : W64
  hi : W64
  deriving DecidableEq, Repr

/-- A wait: fabric time and cycle at which it began, how often the cluster's clock had been slowed by then, and which
conditions were last found unmet (1 the first, 2 the second, 3 both) (R461). -/
structure Held where
  began : Nat
  cyc : Nat
  slowed : Nat
  unmet : Nat
  deriving DecidableEq, Repr

/-- One instruction stream of a cluster (R72, R76). -/
structure Stream where
  live : Bool := false
  /-- Index of the next instruction. -/
  pc : Nat := 0
  /-- LAST of the kernel header. -/
  last : Nat := 0
  /-- Open loops, innermost first. -/
  loops : List LoopLevel := []
  /-- The engine's instruction queue, oldest first (Table 3.11). -/
  queue : List QWord := []
  /-- First cycle of the cluster in which the next instruction may issue (R81). -/
  nextCc : Nat := 0
  /-- The wait that holds the next instruction. -/
  held : Option Held := none
  /-- First cycle of issue after an acquire whose condition held (R277). -/
  acq : Option Nat := none
  deriving DecidableEq, Repr

/-- An issued ME, VE or RU instruction that has not reached static completion (R81). -/
structure Flight where
  eng : Nat
  opc : Nat
  w : IWord
  idx : Nat
  it : Nat
  issueNs : Nat
  issueCc : Nat
  /-- First cycle after the read interval (R121). -/
  readEnd : Nat
  /-- Cycle of static completion. -/
  due : Nat
  /-- Tile bytes the instruction reads, as (start, length) ranges; the bytes it could read under another mask row
  (R182); and what it has read of them. -/
  reads : List (Nat × Nat)
  span : List (Nat × Nat)
  src : Mem
  /-- Words that take their value after the write of a producer still in flight: word, and the producer's engine
  and cycle of issue (R83). -/
  news : List (Nat × Nat × Nat) := []
  /-- The bank as the instruction found it, the issue cycle of the instruction in flight it found it from, and the
  bank as it leaves it (R122). -/
  bankIn : Option (Nat × Bank)
  bankPrev : Option Nat := none
  bankOut : Option (Nat × Bank)
  out : List TWrite
  /-- Counter values written at completion, with their counters (R179, R183, R185). -/
  counts : List (Nat × Nat)
  fault : Option Nat
  /-- Counter value the instruction reads (R183 to R185), and the issue cycle of the instruction in flight that it was
  forwarded from (R184). -/
  cin : Nat
  cinFrom : Option Nat := none
  /-- Writes to words that it may read, of which R86 records the latest to one that it reads: engine code, instruction
  index, cycle at which it takes effect, and the words. -/
  met : List (Nat × Nat × Nat × List Nat)
  /-- Words that have been read: they take no later write (R83, R121). -/
  kept : List Nat := []
  deriving DecidableEq, Repr

/-- A range the tracker of R84 holds for an MV or imposition operation. -/
structure TRange where
  tile : Bool
  lo : Nat
  len : Nat
  write : Bool
  deriving DecidableEq, Repr

/-- A forme descriptor as captured by FDEF: its eight words (Table 7.1). -/
structure Forme where
  w0 : W64 := 0
  w1 : W64 := 0
  w2 : W64 := 0
  w3 : W64 := 0
  w4 : W64 := 0
  w5 : W64 := 0
  w6 : W64 := 0
  w7 : W64 := 0
  deriving DecidableEq, Repr

/-- One byte a LOAD moves: tile byte and bits, source byte (none for fill) and its value at issue, and the bits of it
that are carried, the others being written as 0. -/
structure LoadByte where
  ta : Nat
  mask : Byte
  src : Option (Space × Nat)
  old : Byte
  bits : Byte := 0xFF
  deriving DecidableEq, Repr

/-- What a remote RWRITE or RFINAL sends when send staging accepts it: tile and block, forme, route entry, write
group, opcode and ARG of its frames (R332, R335). -/
structure RemoteW where
  td : Nat
  block : Nat
  forme : Forme
  route : W64
  group : Nat
  opc : Nat
  arg : Nat
  deriving DecidableEq, Repr

/-- An issued MV instruction whose signal has not yet acted (R82, R93). -/
structure MvOp where
  seq : Nat
  opc : Nat
  w : IWord
  idx : Nat
  it : Nat
  issueNs : Nat
  /-- True once the operation has completed and only its turn to signal is awaited; the first cycle in which it may
  signal (R93, R119). -/
  done : Bool := false
  due : Nat := 0
  fault : Option Nat := none
  ranges : List TRange := []
  loads : List LoadByte := []
  /-- Lines a LOAD fetches into the read cache; none of them is kept after an invalidation (R276). -/
  fills : List (Space × Nat) := []
  /-- Lines a LOAD found in the read cache, and whether one of them was fetched as poison (R275, R399). -/
  hits : List (Space × Nat) := []
  poison : Bool := false
  writes : List PWrite := []
  /-- Tile byte from which each write takes its value, and the bits of it that are carried (R139, R142). -/
  tsrc : List (Nat × Byte) := []
  /-- A remote operation: its link, and a WGANN's frame, or a write with the tile bytes it sends as they were at
  issue (R332, R338). -/
  link : Option Nat := none
  frames : List Frame := []
  remote : Option RemoteW := none
  sent : List (Nat × Byte) := []
  /-- Write group, the announced count (WGANN), and the flag an RFINAL sets: die, flag, granted. -/
  group : Option Nat := none
  announce : Option Nat := none
  finalFlag : Option (Nat × Nat × Bool) := none
  clearFlag : Option (Nat × Nat) := none
  /-- NBCMD: channel key 16n + m of its list. -/
  list : Option Nat := none
  /-- IMP: imposition engine that runs it. -/
  imp : Option Nat := none
  deriving DecidableEq, Repr

/-- A captured imposition operation in a share (R191, R203). -/
structure ImpOp where
  seq : Nat
  idx : Nat
  code : Nat
  nop : Bool
  fault : Option Nat
  part : Nat
  d0 : W64
  d1 : W64
  /-- The other words of the captured descriptor (R203). -/
  more : List W64 := []
  src : Forme
  dst : Forme
  ix : Forme
  ssc : Forme
  dsc : Forme
  ranges : List TRange
  /-- Units already moved, and how many there are once the operation has started. -/
  pos : Nat
  total : Option Nat
  /-- Row under way in GATHER, SCATTER and SCATTERADD: destination and source row, the source elements read so far
  and, in SCATTERADD, those of the destination (R208, R210). -/
  row : Option (Nat × Nat) := none
  codes : List (Option (Nat × Nat)) := []
  prior : List (Nat × Nat) := []
  /-- SCATTERADD: exact sums so far by destination row and piece of it (R209). -/
  accs : SMap (List Val) := []
  /-- What earlier turns have spent on the unit that comes next (R131, R132), and whether the bytes read are the ones
  counted (Table 4.13). -/
  credit : Nat := 0
  byRead : Bool := false
  /-- The step that issued it. -/
  slot : Nat
  deriving DecidableEq, Repr

/-- One line of a cluster's read cache, as it was fetched (R275); the list holds the most recently used first. -/
structure CacheLine where
  sp : Space
  line : Nat
  bytes : List Byte
  poison : Bool := false
  deriving DecidableEq, Repr

/-- One logical cluster (Table 1.2). -/
structure Cluster where
  streams : SMap Stream := []
  /-- Partition, slot of the step the cluster runs. -/
  run : Option (Nat × Nat) := none
  sycs : SMap Nat := []
  /-- Increments not yet visible: (counter, first cycle in which waits see it) (Table 3.8). -/
  sycFresh : List (Nat × Nat) := []
  /-- Engine code of the last signaller of a counter, plus 1 (Table 18.5, WHOM). -/
  sycBy : SMap Nat := []
  tiles : Mem := []
  store : Mem := []
  imem : Mem := []
  banks : SMap Bank := []
  /-- Issue cycle, plus 1, of the instruction that left each bank as it stands (R122). -/
  bankAt : SMap Nat := []
  flight : List Flight := []
  mv : List MvOp := []
  mvSeq : Nat := 0
  shares : SMap (List ImpOp) := []
  formes : SMap (Option Forme) := []
  /-- Read cache SIZE in effect, 0 to 8 (R278), and its lines. -/
  rcSize : Nat := 0
  cache : List CacheLine := []
  /-- Write groups of this cluster whose RFINAL is issued and not reported released (R283). -/
  openGroups : List Nat := []
  /-- Bytes held in the cluster's send staging on the I-die (R334). -/
  staged : Nat := 0
  /-- Cycles delivered (R464), ps left of the current cycle, and stretch in ps per cycle (R436). -/
  cyc : Nat := 0
  left : Nat := 0
  stretch : Nat := 0
  /-- Ticks in which the clock stood or was stretched (Table 18.5, STR), and cycles that events 1 to 3 have counted
  already (R465). -/
  slowed : Nat := 0
  counted : List (Nat × Nat) := []
  /-- First fabric time at which a step may issue here: 4 ns after the last step that ran here (R67). -/
  freeAt : Nat := 0
  deriving DecidableEq, Repr

/-- One change of a die flag: its value before, and the cycle counts of the 32 clusters at the change, from
which Table 3.8 counts. -/
structure FlagChange where
  old : Bool
  cycs : List Nat
  deriving DecidableEq, Repr

/-- One die flag: its value on the board, who changed it last (Table 18.5: 0-31 cluster, 32 exchange,
33 RFINAL, 34 host, 63 unknown), and its changes, oldest first, that some cluster may not yet see (R94, R280). -/
structure DieFlag where
  val : Bool := false
  who : Nat := 63
  changes : List FlagChange := []
  deriving DecidableEq, Repr

/-- The clock of a C-die itself, which its imposition engines run on: cycles delivered, ps left of the current
cycle, and stretch in ps per cycle (R131, R436). -/
structure DieClk where
  cyc : Nat := 0
  left : Nat := 0
  stretch : Nat := 0
  deriving DecidableEq, Repr

/-- States of a stack channel (R217). -/
inductive ChState where
  | memory
  | processor
  | toMemory
  | toProcessor
  | recoding
  deriving DecidableEq, Repr

/-- One near-bank unit of a data die (Table 8.7). V elements 0 to 127 are V0 to V7. -/
structure Nbu where
  v : SMap (BitVec 16) := []
  acc : SMap W32 := []
  dotr : W32 := 0
  pr : W32 := 0
  maxr : W32 := 0xFF800000
  sumr : W32 := 0
  deriving DecidableEq, Repr

/-- One slot of a channel's merge unit (R242). -/
structure MergeSlot where
  max : W32 := 0xFF800000
  sum : W32 := 0
  vec : SMap W32 := []
  deriving DecidableEq, Repr

/-- A near-bank command that has started and not ended (R233). Times in sixteenths of a ns. -/
structure NbRun where
  bank : Option Nat
  slot : Option Nat
  /-- It holds the stack bus; what follows its bus transfer lasts (SEND's fold, STI's burst with its first row
  closed); the first and last rows of STI's burst, plus 1, and 0 in other commands. -/
  onBus : Bool
  next : Nat
  row : Nat := 0
  lastRow : Nat := 0
  /-- End of the present phase. -/
  due : Nat
  isPutc : Bool
  /-- PUTC: the bytes to be written to the issuing cluster's store when it ends. -/
  puts : List PWrite
  /-- Compute burst: the ns it was started at. -/
  burst : Option Nat
  deriving DecidableEq, Repr

/-- A list accepted by a channel and not yet completed (R233, R234). -/
structure NbList where
  cluster : Nat
  seq : Nat
  part : Nat
  addr : Nat
  len : Nat
  /-- When its turn began, in sixteenths of a ns (R233). -/
  turn : Option Nat := none
  arrived : Bool := false
  /-- Since when the power rules alone have held its next command. -/
  powHeld : Option Nat := none
  /-- The list's bytes, copied when its turn comes. -/
  bytes : List Byte := []
  /-- Next command: line and place in it. -/
  line : Nat := 0
  q : Nat := 0
  ended : Bool := false
  running : List NbRun := []
  addrSt : Bool := false
  ueSt : Bool := false
  wbSt : Bool := false
  first : Nat := 0
  /-- FULL_CH when the list started (R222). -/
  fullCh : Nat := 16
  deriving DecidableEq, Repr

/-- A compute burst, kept for the power rules of Table 8.10: its end, none while it runs; its row activates, each
with the number of data dies, from die 0 on, that make it; the one die of a burst that acts on one alone. -/
structure Burst where
  bank : Nat
  start : Nat
  stop : Option Nat
  activates : List (Nat × Nat)
  die : Option Nat
  deriving DecidableEq, Repr

/-- One stack channel. -/
structure Chan where
  state : ChState := .memory
  /-- Mode-switch entry in progress: its WLIMIT, and when its work ends once that has begun (ns). -/
  switch : Option (Nat × Option Nat) := none
  wlimit : Nat := 0
  /-- Marked row segments, rising: (bank × 9,216 + row) × 8 + segment (R248). -/
  dirty : List Nat := []
  /-- NBU of bank b on data die d under key 16b + d. -/
  nbus : SMap Nbu := []
  slots : SMap MergeSlot := []
  lists : List NbList := []
  /-- Open row of a bank, plus 1 (R235). -/
  openRow : SMap Nat := []
  bursts : List Burst := []
  refreshing : Option Nat := none
  deriving DecidableEq, Repr

/-- Phases of a slot (R46). -/
inductive Phase where
  | step
  | modesw
  | duties
  | maint
  | background
  | finished
  deriving DecidableEq, Repr

/-- One exchange window of a running slot (R53, R337). -/
structure WinRun where
  /-- The window entry's words as the slot found them. -/
  w0 : W64 := 0
  w1 : W64 := 0
  bytes : Nat := 0
  opened : Bool := false
  closed : Bool := false
  /-- A send window whose BYTES are used (R338), and one whose data travels unscheduled (R62). -/
  full : Bool := false
  unsched : Bool := false
  deriving DecidableEq, Repr

/-- A slot that has started and is not finished. -/
structure SlotRun where
  kernel : Nat
  /-- Programmed start and length in ns, and words 1 and 2 of the slot entry it started with. -/
  start : Nat
  len : Nat
  w1 : W64 := 0
  w2 : W64 := 0
  /-- Logical clusters running the step, and those still waiting for an overrunning step (R67). -/
  clusters : List Nat
  waiting : List Nat
  phase : Phase
  late : Bool := false
  clamp : Bool := false
  nest : Bool := false
  imageBad : Bool := false
  watchdog : Bool := false
  poison : Bool := false
  overrun : Bool := false
  /-- Number of the composed step, when the slot is a serving slot, and EMPTY. -/
  step : Option Nat := none
  empty : Bool := false
  params : List Nat := []
  wins : SMap WinRun := []
  /-- The MODESW duty has begun, and channels that it acted on and that are still switching. -/
  switching : Bool := false
  acted : List Nat := []
  dutyStart : Option Nat := none
  /-- Fabric time this slot's step spent halted (R458). -/
  haltedNs : Nat := 0
  /-- Running sum of the line terms of the step's digest (R360). -/
  lineSum : W64 := 0
  deriving DecidableEq, Repr

/-- A partition template's words (Table 14.3). -/
structure Template where
  ctl : W64 := 0
  rq : W64 := 0
  flg : W64 := 0
  links : W64 := 0
  tier : W64 := 0
  chmap : List W64 := []
  slmap : List W64 := []
  alloc : List W64 := []
  deriving DecidableEq, Repr

/-- A TIERCOPY in progress (Table 14.5). -/
structure TierJob where
  toTier : Bool
  sp : Bool
  taddr : Nat
  paddr : Nat
  len : Nat
  cookie : W32
  deriving DecidableEq, Repr

/-- Run state of one partition. -/
structure Part where
  /-- The template in force, zero while none is. -/
  tmpl : Template := {}
  /-- The template an apply in progress is taking, and whether it is a release. -/
  taking : Option Template := none
  releasing : Bool := false
  /-- Start of the current frame; FRAME_LEN and PHASE in force. -/
  frame : Option Nat := none
  actLen : Nat := 0
  actPhase : Nat := 0
  /-- Runs of slots by number; while the last runs of a slot are unfinished, or their windows still bear on traffic, its
  next run stands under number + 64 or number + 128. -/
  slots : SMap (Option SlotRun) := []
  /-- Send windows of the slot before the current one: link and opening (R367). -/
  keptWins : List (Nat × Nat) := []
  copies : List TierJob := []
  deriving DecidableEq, Repr

/-- Received data that its queue holds until it can land (R239, R339): its virtual channel (3 where its cell is free
already), the write group that a WRITE counts in, and the opening of the window and the bytes that it counts there. -/
structure RxCell where
  vc : Nat
  writes : List PWrite
  group : Option Nat
  opening : Option Nat
  bytes : Nat
  deriving DecidableEq, Repr

/-- One fabric link beside its registers. -/
structure Link where
  rxNext : Nat := 0
  rxNext0 : Nat := 0
  txNext : Nat := 0
  txNext0 : Nat := 0
  /-- Credits this module holds to send on VC1, VC2, and those the partner holds. -/
  txCred1 : Nat := 0
  txCred2 : Nat := 0
  rxCred1 : Nat := 0
  rxCred2 : Nat := 0
  /-- Credits to be returned in the next header. -/
  ret1 : Nat := 0
  ret2 : Nat := 0
  /-- SEQ of the last frame of the scheduled stream received in order (R340). -/
  seen0 : Nat := 65535
  /-- Frames that take no cell and no credit: CREDIT and HALT, and frames sent again. -/
  outQ : List Frame := []
  /-- Unscheduled frames waiting, of which the first inCells hold a send cell; scheduled frames waiting for a window
  (with its opening); frames not yet acknowledged. -/
  sendQ : List Frame := []
  inCells : Nat := 0
  winQ : List Frame := []
  unacked : List Frame := []
  unacked0 : List Frame := []
  /-- Received frames that wait to land; and whether the partner's last header showed a backlog of VC1, of VC2
  (R343). -/
  rxQ : List RxCell := []
  back1 : Bool := false
  back2 : Bool := false
  /-- When the last payload sent has left, in units of 1/94 ns (R324). -/
  txFree : Nat := 0
  /-- Shared cells the link's queues hold beyond their guarantee: VC1, VC2, send (R343). -/
  extra1 : Nat := 0
  extra2 : Nat := 0
  extraS : Nat := 0
  resends : Nat := 0
  ackAt : Nat := 0
  /-- Frames put on the wire, oldest first. -/
  wire : List Frame := []
  /-- Idle ordered sets sent: time, HOLD_NS, HOPS, LOCKED, FALLBACK. -/
  idles : List (Nat × Nat × Nat × Bool × Bool) := []
  /-- The partner's last idle ordered set: HOLD_NS, HOPS, FALLBACK, and its arrival. -/
  pHold : Nat := 0
  pHops : Nat := 0
  pFallback : Bool := false
  pAt : Nat := 0
  badSets : Nat := 0
  /-- Violations in the current quarantine interval (R352), and timing violations by partition in its frame (R351). -/
  viol : Nat := 0
  dviol : SMap Nat := []
  qStart : Nat := 0
  restoreAsked : Bool := false
  /-- Generation to be tried next while training, and since when the link has been down. -/
  tryGen : Nat := 3
  downAt : Nat := 0
  /-- Lanes failed on this link and not spared; the lane being steered onto the spare, and when that is done (R329). -/
  lanesDown : List Nat := []
  sparing : Option (Nat × Nat) := none
  /-- Whether cable and partner let the spare lane serve this link; none before the first training tells. -/
  spareWired : Option Bool := none
  /-- Bytes landed for a window whose slot has not started: opening, bytes (R54). -/
  early : List (Nat × Nat) := []
  deriving DecidableEq, Repr

/-- A write that has completed and not landed (R273). -/
structure Landing where
  part : Nat
  slot : Nat
  cluster : Nat
  writes : List PWrite
  /-- Key of the write group it counts in. -/
  group : Option Nat
  deriving DecidableEq, Repr

/-- A held RFINAL (R282): block, flag, and whether a step of this module issued it. -/
structure HeldFinal where
  writes : List PWrite
  die : Nat
  flag : Nat
  granted : Bool
  part : Nat
  /-- Slot of the step that issued it; none over a link. -/
  slot : Option Nat
  since : Nat
  /-- SEQ of the frame that brought it. -/
  seq : Nat := 0
  /-- Its block has arrived whole; case 16 of Table 12.12 answers it, so that it may be discarded after 1 ms. -/
  whole : Bool := true
  timed : Bool := true
  deriving DecidableEq, Repr

/-- A write group as its target keeps it, under key (source × 32 + cluster) × 16 + group, where the
source is 0 for this module and link + 1 for a partner (R282, R345). -/
structure WGroup where
  count : Nat := 0
  announced : Option Nat := none
  held : Option HeldFinal := none
  deriving DecidableEq, Repr

/-- The time unit (chapter 2). -/
structure TimeUnit where
  /-- Fabric time in ns. -/
  ns : Nat := 0
  /-- Error still to be slewed away, in ns: positive when fabric time must advance. -/
  err : Int := 0
  /-- Holdover uncertainty in units of 10^-9 ns (RATE in ppb adds one unit per ns). -/
  hold : Nat := 0
  /-- Ticks since the last slewed ns, or since a correction began. -/
  slewTick : Nat := 0
  lastPulse : Option Nat := none
  /-- Since when idle sets of the source have agreed with fabric time (R469). -/
  agreeAt : Option Nat := none
  /-- Link the time is taken from after a loss, when it is not TT_SRC.LINK (R38). -/
  altInUse : Bool := false
  /-- A slot of some partition has started (R35). -/
  slotSeen : Bool := false
  deriving DecidableEq, Repr

/-- The mirror port (chapter 13) beside its registers. -/
structure Mirror where
  lastRx : Option Nat := none
  lastTx : Option Nat := none
  /-- Sending time of the last acknowledged heartbeat. -/
  acked : Option Nat := none
  promoting : Option Nat := none
  /-- Heartbeats and acknowledgements sent, oldest first. -/
  sent : List Heartbeat := []
  acks : List Nat := []
  /-- 2 MiB pages still to be copied, as (space code, page number): the copy map of R369. -/
  copyMap : List Nat := []
  copied : List Nat := []
  /-- A partition resynchronised alone (DIVPOL 0), or all of PARTS when none; partitions that wait for the same. -/
  only : Option Nat := none
  waitSync : List Nat := []
  /-- Copies that the partner has completed: of a partition, or of all of PARTS. -/
  handed : List (Option Nat) := []
  /-- What was sent to the partner as input, or as part of a resynchronisation. -/
  forwarded : List MirrorMsg := []
  recsSent : List CompRecord := []
  digSent : List (Nat × Nat × W64) := []
  /-- HALT frames sent on MIR. -/
  halts : List Frame := []
  deriving DecidableEq, Repr

/-- Stored errors of one line or unit: flips per die (data bits, check bits, wrong address), poison, and by what the
symbol check bytes that dies 16 and 17 hold differ from those of the data (R396, R407). -/
structure ErrPat where
  poison : Bool := false
  flips : List (Nat × W32 × Byte × Bool) := []
  stale : W32 × W32 := (0, 0)
  deriving DecidableEq, Repr

/-- A retired row, slice, lane or cluster, as its retirement entry word (Table 15.5). -/
abbrev RetWord := W64

/-- Progress of the scrubber over one site (R404, R405). -/
structure Scrub where
  pos : Nat := 0
  lapAt : Option Nat := none
  /-- Corrected errors this lap by die row: (die × 32 + bank) × 9,216 + row. -/
  rowErrs : SMap Nat := []
  deriving DecidableEq, Repr

/-- Codes, poison, scrubber and retirement (chapter 15). -/
structure Integrity where
  /-- Error patterns by line key. -/
  errs : SMap ErrPat := []
  scrub : SMap Scrub := []
  retired : List RetWord := []
  /-- Rows that qualified in processor mode and wait for memory mode, and rows being copied: channel key and entry. -/
  waitRows : List (Nat × RetWord) := []
  copying : List (Nat × RetWord) := []
  /-- Retired slices and rows already in force decide erasures; failed physical clusters by die. -/
  failedClusters : List (Nat × Nat) := []
  /-- Out-of-service physical cluster of a mapping that waits for its frame boundary, by C-die (R22). -/
  pendOut : SMap (Option Nat) := []
  deriving DecidableEq, Repr

/-- An image slot in the flash: bytes are the header and body SEC stored. -/
structure Image where
  ok : Bool := true
  version : BitVec 16 := 0
  deriving DecidableEq, Repr

/-- A queued self-test or calibration request (R423). -/
structure StReq where
  kind : Nat
  target : Nat
  queuedAt : Nat
  running : Bool
  deferred : Bool
  /-- When it started, while it runs. -/
  startedAt : Nat := 0
  /-- The firmware scheduled it itself; it takes none of the 8 places (R424). -/
  own : Bool := false
  deriving DecidableEq, Repr

/-- A firmware update in progress (R418). -/
structure FwUpd where
  kind : Nat
  activate : Bool
  len : Nat
  addr : Nat
  startedAt : Nat
  /-- The image, once it is fetched. -/
  fetched : Option (List Byte) := none
  deriving DecidableEq, Repr

/-- Firmware cores (chapter 16). -/
structure Firmware where
  /-- Image slot 2k + s of kind k. -/
  images : SMap Image := []
  upd : Option FwUpd := none
  /-- Kind whose live switch waits or runs, and since when. -/
  switching : Option (Nat × Nat) := none
  /-- Logical clusters still to be moved by a CC update, in walk order (R420). -/
  walk : List Nat := []
  walkAt : Nat := 0
  /-- Start of a core on trial, plus 1. -/
  trialAt : SMap Nat := []
  queue : List StReq := []
  /-- Writes of FW_UPD (true) and FW_STREQ (false) that wait for the end of SEC's switch (Table 16.3). -/
  waits : List (Bool × W64) := []
  /-- Cores started: bit k. -/
  started : List Nat := []
  deriving DecidableEq, Repr

/-- The keep registers' persistent store and write queue (R427 to R433). -/
structure Keep where
  words : SMap W64 := []
  counts : SMap Nat := []
  bad : List Nat := []
  /-- Writes queued, 16 at most, and writes of the cores that wait for a place. -/
  queue : List (Nat × W64) := []
  waiting : List (Nat × W64) := []
  /-- Fabric time, plus 1, of PWR's last write to each of its words (R431). -/
  pwrAt : SMap Nat := []
  deriving DecidableEq, Repr

/-- One diode sensor (R444 to R446). -/
structure Sensor where
  reading : Int := 0
  inForce : Int := 0
  /-- Earlier readings: fabric time and value, newest first, 1 ms of them. -/
  hist : List (Nat × Int) := []
  /-- Since when the neighbour test has failed. -/
  nbSince : Option Nat := none
  broken : Bool := false
  why : BitVec 3 := 0
  deriving DecidableEq, Repr

/-- Why a C-die clock is stopped (R437, Table 17.6). -/
inductive StopCause where
  | vmin
  | frequency
  deriving DecidableEq, Repr

/-- Supplies, clocks and sensors. -/
structure Power where
  /-- The always-on domain is supplied. -/
  alive : Bool := false
  /-- The input is at or above 40 V. -/
  input : Bool := false
  /-- Clocks stopped: why, and when (R437, R449). -/
  stops : SMap (Option (StopCause × Nat)) := []
  sensors : SMap Sensor := []
  droops : List Nat := []
  gradeAt : Nat := 0
  /-- When a throttle last acted (Table 17.2). -/
  throttleAt : Option Nat := none
  lastComp : Option Nat := none
  /-- Correction PWR applies to the oscillator, in ppb, and the readings from which each die's voltage references are
  corrected, by sensor (R447). -/
  oscPpb : Int := 0
  vrefs : SMap Int := []
  /-- Stacks whose FULL_CH is still to be lowered after a grade rise (R440). -/
  lower : List Nat := []
  /-- By how many ps PWR stretches the cycles of each C-die (R436). -/
  pwrStretch : SMap Nat := []
  /-- FAULT_N is asserted (R480). -/
  fault : Bool := false
  deriving DecidableEq, Repr

/-- Bring-up in progress (chapter 19). -/
structure Boot where
  plan : BootPlan := {}
  running : Bool := false
  /-- ns since the input first reached 40 V, and when the current stage began on that count. -/
  elapsed : Nat := 0
  stageAt : Nat := 0
  /-- Boot templates still to be applied, then host APPLY writes in order of arrival, each with what its template
  held as it was written; none for a boot template (R377, R471). -/
  applyQ : List (Nat × Option Template) := []
  /-- When the link source was declared lost or the time stage's limit restarted, on the same count. -/
  limitAt : Nat := 0
  deriving DecidableEq, Repr

/-- Halt state beside TRC_HSTAT. -/
structure HaltSt where
  /-- Halts this module originated (R456). -/
  own : Nat := 0
  haltedAt : Nat := 0
  /-- The slice that the scan-out under way writes (R460). -/
  slice : Nat := 0
  /-- When a C-die last wrote a trace or audit record (R463). -/
  recAt : SMap (Option Nat) := []
  deriving DecidableEq, Repr

/-- The TAP and the management target (R483 to R485). -/
structure Tap where
  /-- The instruction register; IDCODE after a reset of the TAP. -/
  ir : BitVec 8 := 0x01
  unlocked : Bool := false
  challenge : List Byte := []
  /-- Challenges with the responses that wait for the end of SEC's switch (Table 16.3). -/
  waiting : List (List Byte × List Byte) := []
  boundary : List Bool := []
  tdo : List Bool := []
  i3cOffset : Nat := 0
  /-- Dynamic address, once assigned; the static one is Config's. -/
  i3cDynamic : Option (BitVec 7) := none
  i3cData : List Byte := []
  deriving DecidableEq, Repr

/-- What waits at the host port (R239, R290): a BAR2 read or write that a refresh holds, with its function and offset,
its bytes and the places that it touches; and, behind the accesses of its function, a doorbell with its TAIL or a galley
command of a partition. -/
inductive HostAcc where
  | read (fn addr : Nat) (places : List (Space × Nat))
  | write (fn addr : Nat) (data : List Byte) (places : List (Space × Nat))
  | bell (p tail : Nat)
  | command (p : Nat) (entry : List W64)
  /-- A page of a bulk copy that has come in on the mirror port (R369). -/
  | page (k : Nat) (bytes : List (Nat × Byte)) (poison : List Nat)
  deriving DecidableEq, Repr

def HostAcc.isPage : HostAcc → Bool
  | .page .. => true
  | _ => false

def HostAcc.isRead : HostAcc → Bool
  | .read _ _ _ => true
  | _ => false

/-- What leaves the host port: the last completion, and MSI-X sends. -/
structure HostOut where
  /-- Accesses that wait, oldest first. -/
  waits : List HostAcc := []
  /-- Die flags the host asks to set or clear, with die, number and value: the spec names no register for it, and no row
  fills this list (R90). -/
  flagAsks : List (Fin 2 × Fin 256 × Bool) := []
  bytes : List Byte := []
  /-- The completion carries poisoned data (R399). -/
  ep : Bool := false
  /-- The host port is out of reset (R479). -/
  up : Bool := true
  /-- MSI-X vector 0 sends of a function, and the fabric time of the last one. -/
  msix : SMap Nat := []
  msixAt : SMap Nat := []
  deriving DecidableEq, Repr

/-- The whole module. -/
structure State where
  /-- Commands waiting, first in first out. -/
  pending : List Instr
  /-- The model's own counter of free choices; no part of the spec. -/
  free : Nat
  time : TimeUnit
  /-- BAR0 registers by key: function × 2^32 + offset; listed only where not at reset. -/
  regs : SMap W64
  clusters : SMap Cluster
  /-- Die flags under key 256 × die + number. -/
  flags : SMap DieFlag
  stackMem : Mem
  caseMem : Mem
  /-- Host memory as the module reads and writes it; the memory of the tier devices, and its 64-byte lines that return
  poison (R393). -/
  hostMem : Mem
  tierMem : Mem
  tierPoison : List Nat
  /-- Channels under key 16n + m. -/
  chans : SMap Chan
  /-- Clocks of the C-dies. -/
  dieClks : SMap DieClk
  parts : SMap Part
  scus : SMap ScuPart
  reqs : SMap Req
  links : SMap Link
  landing : List Landing
  groups : SMap WGroup
  mirror : Mirror
  integ : Integrity
  fw : Firmware
  keep : Keep
  power : Power
  boot : Boot
  halt : HaltSt
  tap : Tap
  host : HostOut
  /-- Next cluster in each imposition engine's rotation, key 4 × die + engine, and under that key + 8 the cycle of
  the C-die's clock from which its next turn may begin (R131). -/
  turns : SMap Nat
  /-- Where the round robin of the hamper's shared cells goes on: 3 × link, plus 0 for receive VC1, 1 for receive VC2,
  2 for send (R343). -/
  hamper : Nat
  deriving DecidableEq, Repr

/-- Why the machine stops: the spec gives no command that stops it. The host errors of Table 14.8 leave values of
the offending partition free, and the module goes on (R13, R15, R391; State.unpredictable). -/
inductive Fault where
  deriving DecidableEq, Repr

/-- Why a command has no meaning here. -/
inductive Refusal where
  /-- The command is not modelled yet. Raised by exec's refused arms alone. Safe. -/
  | notModelled (mnemonic : String)
  deriving DecidableEq, Repr

/-- The module right after a power-on reset: every register at its Reset column (R10), memories and
engine state empty, every channel in memory mode (R217), role FENCED (R353), input not yet applied. -/
def State.reset : State where
  pending := []
  free := 0
  time := {}
  regs := []
  clusters := []
  flags := []
  stackMem := []
  caseMem := []
  hostMem := []
  tierMem := []
  tierPoison := []
  chans := []
  dieClks := []
  parts := []
  scus := []
  reqs := []
  links := []
  landing := []
  groups := []
  mirror := {}
  integ := {}
  fw := {}
  keep := {}
  power := {}
  boot := {}
  halt := {}
  tap := {}
  host := {}
  turns := []
  hamper := 0

end Sys2Proof.Machine
end

