-- ==== Sys2Proof/Machine/Regs.lean ====
section
/-! DEFINITION. The registers of the BAR0 windows: their fields as the manual's register tables give
them, where each register lies (Table 1.8 and the block maps, Table 14.1), what it holds at reset (R10),
and what a write does to it (R9, R11, R12). -/

namespace Sys2Proof.Machine

/-- Access codes of Table 0.4. -/
inductive Access where
  | ro | rw | w1c | wo | keep
  deriving DecidableEq, Repr

/-- One field of a register table; reserved bits are not listed (R11). -/
structure Fld where
  name : String
  hi : Nat
  lo : Nat
  acc : Access
  rst : Nat
  deriving DecidableEq, Repr

/-- HOST_ID, Table 1.9. -/
def fHostId : List Fld := [
  ⟨"VENDOR", 63, 48, .ro, 0x5346⟩, ⟨"PRODUCT", 47, 32, .ro, 0x576⟩, ⟨"GENERATION", 31, 24, .ro, 3⟩,
  ⟨"REVISION", 23, 16, .ro, 0⟩]

/-- HOST_CLMAP, Table 1.10. -/
def fHostClmap : List Fld := [
  ⟨"PEND1", 31, 31, .ro, 0⟩, ⟨"OUT1", 28, 24, .ro, 16⟩, ⟨"PEND0", 15, 15, .ro, 0⟩, ⟨"OUT0", 12, 8, .ro, 16⟩]

/-- TT_TIME, Table 2.3. -/
def fTtTime : List Fld := [
  ⟨"TIME", 63, 0, .ro, 0⟩]

/-- TT_EPOCH, Table 2.3. -/
def fTtEpoch : List Fld := [
  ⟨"EPOCH", 63, 0, .rw, 0⟩]

/-- TT_SRC, Table 2.4. -/
def fTtSrc : List Fld := [
  ⟨"ALT_LINK", 31, 26, .rw, 0⟩, ⟨"LINK", 23, 18, .rw, 0⟩, ⟨"SRC", 1, 0, .rw, 0⟩]

/-- TT_STATUS, Table 2.5. -/
def fTtStatus : List Fld := [
  ⟨"FALLBACK", 7, 7, .ro, 0⟩, ⟨"HOLDOVER", 6, 6, .ro, 0⟩, ⟨"LOCKED", 5, 5, .ro, 0⟩,
  ⟨"COMP_BAD", 4, 4, .ro, 0⟩, ⟨"REF_LOST", 3, 3, .w1c, 0⟩, ⟨"LINK_LOST", 2, 2, .w1c, 0⟩,
  ⟨"FALLBACK_EV", 1, 1, .w1c, 0⟩, ⟨"EPOCH_SEEN", 0, 0, .ro, 0⟩]

/-- TT_UNCERT, Table 2.6. -/
def fTtUncert : List Fld := [
  ⟨"HOLD_NS", 63, 32, .ro, 0⟩, ⟨"LEAD_NS", 31, 0, .ro, 200⟩]

/-- TT_HOLD, Table 2.7. -/
def fTtHold : List Fld := [
  ⟨"RATE", 47, 32, .rw, 250⟩, ⟨"LIMIT", 31, 16, .rw, 0x7d0⟩, ⟨"LEAD_BASE", 15, 0, .rw, 200⟩]

/-- TT_FRAME, Table 2.9. -/
def fTtFrame : List Fld := [
  ⟨"ENABLE", 63, 63, .rw, 0⟩, ⟨"COMMIT", 62, 62, .wo, 0⟩, ⟨"PENDING", 61, 61, .ro, 0⟩,
  ⟨"REJECT", 60, 60, .ro, 0⟩, ⟨"REJ_CODE", 59, 56, .ro, 0⟩, ⟨"FRAME_LEN", 48, 32, .rw, 0⟩,
  ⟨"PHASE", 16, 0, .rw, 0⟩]

/-- SLOT_W0, Table 2.11. -/
def fSlotW0 : List Fld := [
  ⟨"VALID", 63, 63, .rw, 0⟩, ⟨"KERNEL", 55, 48, .rw, 0⟩, ⟨"SLOT_LEN", 47, 24, .rw, 0⟩,
  ⟨"SLOT_START", 23, 0, .rw, 0⟩]

/-- SLOT_W1, Table 2.11. -/
def fSlotW1 : List Fld := [
  ⟨"EXW_CNT", 45, 39, .rw, 0⟩, ⟨"EXW_BASE", 38, 32, .rw, 0⟩, ⟨"CLUSTERS", 31, 0, .rw, 0⟩]

/-- SLOT_W2, Table 2.11. -/
def fSlotW2 : List Fld := [
  ⟨"BKGD", 63, 63, .rw, 0⟩, ⟨"MAINT", 62, 62, .rw, 0⟩, ⟨"SWAP", 61, 61, .rw, 0⟩, ⟨"MODESW", 60, 60, .rw, 0⟩,
  ⟨"MSW_IDX", 55, 48, .rw, 0⟩, ⟨"DUTY_LEN", 47, 24, .rw, 0⟩, ⟨"WCET", 23, 0, .rw, 0⟩]

/-- EXW_W0, Table 2.12. -/
def fExwW0 : List Fld := [
  ⟨"VALID", 63, 63, .rw, 0⟩, ⟨"DIR", 62, 62, .rw, 0⟩, ⟨"LATE_ACC", 61, 61, .rw, 0⟩, ⟨"LINK", 53, 48, .rw, 0⟩,
  ⟨"WIN_LEN", 47, 24, .rw, 0⟩, ⟨"WIN_OFF", 23, 0, .rw, 0⟩]

/-- EXW_W1, Table 2.12. -/
def fExwW1 : List Fld := [
  ⟨"FDIE", 48, 48, .rw, 0⟩, ⟨"FLAG", 47, 40, .rw, 0⟩, ⟨"BYTES", 31, 0, .rw, 0⟩]

/-- TT_OVR, Table 2.13. -/
def fTtOvr : List Fld := [
  ⟨"LAST_OVR", 63, 40, .ro, 0⟩, ⟨"LAST_SLOT", 37, 32, .ro, 0⟩, ⟨"COUNT", 31, 0, .ro, 0⟩]

/-- TT_TIGHT, Table 2.13. -/
def fTtTight : List Fld := [
  ⟨"TIGHT", 63, 0, .ro, 0⟩]

/-- TT_LATE, Table 2.13. -/
def fTtLate : List Fld := [
  ⟨"LATE_TX", 63, 32, .ro, 0⟩, ⟨"LATE_RX", 31, 0, .ro, 0⟩]

/-- TT_VIEW, Table 2.13. -/
def fTtView : List Fld := [
  ⟨"ACTIVE", 0, 0, .rw, 0⟩]

/-- TRC_AUDIT, Table 3.5. -/
def fTrcAudit : List Fld := [
  ⟨"PART_EN", 15, 0, .rw, 0⟩]

/-- TRC_AUDIT_BUF, Table 3.5. -/
def fTrcAuditBuf : List Fld := [
  ⟨"BASE", 33, 12, .rw, 0⟩, ⟨"SIZE", 3, 0, .rw, 0⟩]

/-- TRC_AUDIT_STAT, Table 3.5. -/
def fTrcAuditStat : List Fld := [
  ⟨"LOST", 63, 32, .ro, 0⟩, ⟨"WR_IDX", 31, 0, .ro, 0⟩]

/-- STK_CFG, Table 8.3. -/
def fStkCfg : List Fld := [
  ⟨"FULL_CH", 4, 0, .rw, 16⟩]

/-- STK_CHST, Table 8.4. -/
def fStkChst : List Fld := [
  ⟨"STATE", 63, 62, .ro, 0⟩, ⟨"WB_EV", 61, 61, .w1c, 0⟩, ⟨"UE_EV", 60, 60, .w1c, 0⟩,
  ⟨"QLISTS", 59, 56, .ro, 0⟩, ⟨"WLIMIT", 43, 22, .ro, 0⟩, ⟨"DIRTY", 21, 0, .ro, 0⟩]

/-- MSW_ENTRY, Table 8.5. -/
def fMswEntry : List Fld := [
  ⟨"ACT", 63, 62, .rw, 0⟩, ⟨"WLIMIT", 21, 0, .rw, 0⟩]

/-- HOST_RCACHE, Table 10.2. -/
def fHostRcache : List Fld := [
  ⟨"ACQ_COUNT", 63, 32, .ro, 0⟩, ⟨"SIZE", 3, 0, .rw, 0⟩]

/-- SCU_CTL, Table 11.5. -/
def fScuCtl : List Fld := [
  ⟨"ENABLE", 63, 63, .rw, 0⟩, ⟨"GRADE", 62, 60, .ro, 0⟩, ⟨"PIECE_MAX", 59, 56, .rw, 8⟩,
  ⟨"TIERP", 55, 55, .rw, 0⟩, ⟨"MAXRUN", 47, 32, .rw, 256⟩, ⟨"PREEMPT", 31, 24, .rw, 4⟩]

/-- SCU_SERVE, Table 11.5. -/
def fScuServe : List Fld := [
  ⟨"SERVE", 63, 0, .rw, 0⟩]

/-- SCU_POOLk, Table 11.5. -/
def fScuPoolk : List Fld := [
  ⟨"CH", 63, 0, .rw, 0⟩]

/-- SCU_DESC and SCU_LOGIT, Table 11.5. -/
def fScuDesc : List Fld := [
  ⟨"BASE", 33, 6, .rw, 0⟩]

/-- SCU_TOK and SCU_PGT, Table 11.5. -/
def fScuTok : List Fld := [
  ⟨"STRIDE", 63, 48, .rw, 0⟩, ⟨"BASE", 33, 6, .rw, 0⟩]

/-- SCU_STAGE, Table 11.5. -/
def fScuStage : List Fld := [
  ⟨"SLOTS", 63, 48, .rw, 0⟩, ⟨"BASE", 33, 6, .rw, 0⟩]

/-- SCU_TIERPG, Table 11.5. -/
def fScuTierpg : List Fld := [
  ⟨"PAGES", 63, 40, .rw, 0⟩, ⟨"BASE", 39, 0, .rw, 0⟩]

/-- SCU_STASH and SCU_VREG, Table 11.5. -/
def fScuStash : List Fld := [
  ⟨"COUNT", 63, 48, .rw, 0⟩, ⟨"SIZE", 47, 32, .rw, 0⟩, ⟨"BASE", 31, 0, .rw, 0⟩]

/-- SCU_STAT0, Table 11.5. -/
def fScuStat0 : List Fld := [
  ⟨"FREE", 63, 32, .ro, 0⟩, ⟨"RUN", 31, 16, .ro, 0⟩, ⟨"PWAIT", 15, 0, .ro, 0⟩]

/-- SCU_STAT1, Table 11.5. -/
def fScuStat1 : List Fld := [
  ⟨"OVF", 63, 32, .ro, 0⟩, ⟨"EMPTY", 31, 0, .ro, 0⟩]

/-- SCU_STEP, Table 11.5. -/
def fScuStep : List Fld := [
  ⟨"STEP", 63, 0, .ro, 0⟩]

/-- SCU_RQSEL, Table 11.5. -/
def fScuRqsel : List Fld := [
  ⟨"INDEX", 13, 0, .rw, 0⟩]

/-- VARIANT_W0, Table 11.6. -/
def fVariantW0 : List Fld := [
  ⟨"VALID", 63, 63, .rw, 0⟩, ⟨"RES", 62, 62, .ro, 0⟩, ⟨"WIN", 61, 61, .rw, 0⟩, ⟨"LFP32", 60, 60, .rw, 0⟩,
  ⟨"LAYERS", 55, 48, .rw, 0⟩, ⟨"HKV", 47, 40, .rw, 0⟩, ⟨"HDIM", 39, 32, .rw, 0⟩, ⟨"VOCAB", 19, 0, .rw, 0⟩]

/-- VARIANT_W1, Table 11.6. -/
def fVariantW1 : List Fld := [
  ⟨"TIER_ADDR", 63, 0, .rw, 0⟩]

/-- VARIANT_W2, Table 11.6. -/
def fVariantW2 : List Fld := [
  ⟨"SIZE", 63, 40, .rw, 0⟩, ⟨"RSLOT", 39, 32, .ro, 255⟩]

/-- VARIANT_W3, Table 11.6. -/
def fVariantW3 : List Fld := [
  ⟨"END0", 63, 32, .rw, 0⟩, ⟨"END1", 31, 0, .rw, 0⟩]

/-- CATALOGUE_W0, Table 11.7. -/
def fCatalogueW0 : List Fld := [
  ⟨"VALID", 63, 63, .rw, 0⟩, ⟨"GRADE", 62, 60, .rw, 0⟩, ⟨"KERNEL", 55, 48, .rw, 0⟩, ⟨"WCET", 47, 24, .rw, 0⟩,
  ⟨"MOVES", 23, 16, .rw, 0⟩]

/-- CATALOGUE_W1, Table 11.7. -/
def fCatalogueW1 : List Fld := [
  ⟨"DECODE", 63, 48, .rw, 0⟩, ⟨"CHUNK", 47, 32, .rw, 0⟩]

/-- FAB_LCTL, Table 12.4. -/
def fFabLctl : List Fld := [
  ⟨"ENABLE", 63, 63, .rw, 0⟩, ⟨"RETRAIN", 62, 62, .wo, 0⟩, ⟨"RESTORE", 61, 61, .wo, 0⟩,
  ⟨"SPARE_EN", 60, 60, .rw, 0⟩, ⟨"MAXGEN", 59, 58, .rw, 3⟩, ⟨"RXFMT", 57, 54, .rw, 0⟩]

/-- FAB_LST, Table 12.4. -/
def fFabLst : List Fld := [
  ⟨"STATE", 63, 62, .ro, 0⟩, ⟨"GEN", 61, 60, .ro, 0⟩, ⟨"DEMOTED", 59, 59, .ro, 0⟩, ⟨"SPARED", 58, 58, .ro, 0⟩,
  ⟨"SPLANE", 57, 56, .ro, 0⟩, ⟨"PLOCK", 55, 55, .ro, 0⟩, ⟨"OWD", 31, 0, .ro, 0⟩]

/-- FAB_LERR, Table 12.4. -/
def fFabLerr : List Fld := [
  ⟨"FEC_CORR", 63, 40, .ro, 0⟩, ⟨"FEC_UNC", 39, 24, .ro, 0⟩, ⟨"DROP", 23, 8, .ro, 0⟩, ⟨"VIOL", 7, 0, .ro, 0⟩]

/-- FAB_HCFG, Table 12.4. -/
def fFabHcfg : List Fld := [
  ⟨"CEIL", 47, 32, .rw, 512⟩, ⟨"SFREE", 15, 0, .ro, 0x1e00⟩]

/-- FAB_QTHR, Table 12.4. -/
def fFabQthr : List Fld := [
  ⟨"QWIN", 47, 32, .rw, 0x2710⟩, ⟨"QCOUNT", 31, 16, .rw, 64⟩, ⟨"DCOUNT", 7, 0, .rw, 8⟩]

/-- FAB_PFLCTL, Table 12.4. -/
def fFabPflctl : List Fld := [
  ⟨"TOTAL", 63, 32, .ro, 0⟩, ⟨"WR_IDX", 9, 0, .ro, 0⟩]

/-- FAB_ROUTE, Table 12.5. -/
def fFabRoute : List Fld := [
  ⟨"VALID", 63, 63, .rw, 0⟩, ⟨"REMOTE", 62, 62, .rw, 0⟩, ⟨"LINK", 61, 56, .rw, 0⟩, ⟨"TPART", 55, 52, .rw, 0⟩,
  ⟨"CONV", 51, 48, .rw, 0⟩]

/-- MIR_CTL, Table 13.2. -/
def fMirCtl : List Fld := [
  ⟨"PARTS", 63, 48, .rw, 0⟩, ⟨"DIVPOL", 47, 46, .rw, 0⟩, ⟨"SETROLE", 45, 43, .wo, 0⟩,
  ⟨"RSYNC", 42, 42, .wo, 0⟩, ⟨"LAGMAX", 31, 24, .rw, 4⟩, ⟨"CUTPAGES", 15, 0, .rw, 64⟩]

/-- MIR_HB, Table 13.2. -/
def fMirHb : List Fld := [
  ⟨"MISS", 39, 32, .rw, 3⟩, ⟨"PERIOD", 31, 0, .rw, 250⟩]

/-- MIR_STAT, Table 13.2. -/
def fMirStat : List Fld := [
  ⟨"ROLE", 63, 61, .ro, 4⟩, ⟨"LANES", 60, 59, .ro, 0⟩, ⟨"FAILED_RX", 58, 58, .w1c, 0⟩,
  ⟨"PROMO_EV", 57, 57, .w1c, 0⟩, ⟨"FENCE_EV", 56, 56, .w1c, 0⟩, ⟨"DIV_EV", 55, 55, .w1c, 0⟩,
  ⟨"OOS", 47, 32, .ro, 0⟩, ⟨"LAG", 31, 24, .ro, 0⟩]

/-- MIR_DIV, Table 13.2. -/
def fMirDiv : List Fld := [
  ⟨"PART", 63, 60, .ro, 0⟩, ⟨"CAUSE", 59, 56, .ro, 0⟩, ⟨"STEP", 31, 0, .ro, 0⟩]

/-- MIR_DIGP and MIR_DIGS, Table 13.2. -/
def fMirDigp : List Fld := [
  ⟨"DIGEST", 63, 0, .ro, 0⟩]

/-- MIR_RSYNC, Table 13.2. -/
def fMirRsync : List Fld := [
  ⟨"PHASE", 63, 62, .ro, 0⟩, ⟨"LEFT", 31, 0, .ro, 0⟩]

/-- PART_CTL, Table 14.3. -/
def fPartCtl : List Fld := [
  ⟨"VALID", 63, 63, .ro, 0⟩, ⟨"APPLY", 62, 62, .wo, 0⟩, ⟨"REJECT", 61, 61, .ro, 0⟩, ⟨"BUSY", 60, 60, .ro, 0⟩,
  ⟨"REJ_CODE", 59, 56, .ro, 0⟩, ⟨"PS", 55, 53, .rw, 0⟩, ⟨"FULL", 52, 52, .ro, 0⟩, ⟨"DEPTH", 41, 32, .rw, 0⟩,
  ⟨"CLUSTERS", 31, 0, .rw, 0⟩]

/-- PART_RQ, Table 14.3. -/
def fPartRq : List Fld := [
  ⟨"RQBASE", 45, 32, .rw, 0⟩, ⟨"RQCOUNT", 14, 0, .rw, 0⟩]

/-- PART_FLG, Table 14.3. -/
def fPartFlg : List Fld := [
  ⟨"FGRP1", 31, 16, .rw, 0⟩, ⟨"FGRP0", 15, 0, .rw, 0⟩]

/-- PART_LINKS, Table 14.3. -/
def fPartLinks : List Fld := [
  ⟨"LINKS", 47, 0, .rw, 0⟩]

/-- PART_TIER, Table 14.3. -/
def fPartTier : List Fld := [
  ⟨"TBASE", 63, 32, .rw, 0⟩, ⟨"TSIZE", 31, 0, .rw, 0⟩]

/-- HOST_GTAIL, Table 14.6. -/
def fHostGtail : List Fld := [
  ⟨"TAIL", 9, 0, .rw, 0⟩]

/-- HOST_GHEAD, Table 14.6. -/
def fHostGhead : List Fld := [
  ⟨"DEPTH", 41, 32, .ro, 0⟩, ⟨"HEAD", 9, 0, .ro, 0⟩]

/-- HOST_EBASE, Table 14.6. -/
def fHostEbase : List Fld := [
  ⟨"BASE", 63, 12, .rw, 0⟩, ⟨"SIZE", 3, 0, .rw, 0⟩]

/-- HOST_EHEAD, Table 14.6. -/
def fHostEhead : List Fld := [
  ⟨"HEAD", 15, 0, .rw, 0⟩]

/-- HOST_ESTAT, Table 14.6. -/
def fHostEstat : List Fld := [
  ⟨"LOST", 63, 32, .ro, 0⟩, ⟨"TAIL", 15, 0, .ro, 0⟩]

/-- HOST_TIER, Table 14.9. -/
def fHostTier : List Fld := [
  ⟨"MODE", 63, 62, .rw, 0⟩, ⟨"STATE", 61, 60, .ro, 0⟩, ⟨"ERR", 47, 32, .ro, 0⟩, ⟨"CAP", 31, 0, .ro, 0⟩]

/-- STK_ECFG, Table 15.6. -/
def fStkEcfg : List Fld := [
  ⟨"LAPMAX", 63, 32, .rw, 0x15180⟩, ⟨"ROWTH", 31, 24, .rw, 4⟩, ⟨"RETFULL", 1, 1, .ro, 0⟩,
  ⟨"SCRUB_EN", 0, 0, .rw, 1⟩]

/-- ECNT, Table 15.6. -/
def fEcnt : List Fld := [
  ⟨"CE_SYM", 63, 48, .w1c, 0⟩, ⟨"CE_DIE", 47, 32, .w1c, 0⟩, ⟨"UE", 31, 16, .w1c, 0⟩,
  ⟨"POISON_RD", 15, 0, .w1c, 0⟩]

/-- SCRUB, Table 15.6. -/
def fScrub : List Fld := [
  ⟨"LAP", 63, 32, .ro, 0⟩, ⟨"PCT", 31, 24, .ro, 0⟩, ⟨"SLOW", 0, 0, .w1c, 0⟩]

/-- FLIP, Table 15.6. -/
def fFlip : List Fld := [
  ⟨"ARM", 63, 63, .rw, 0⟩, ⟨"ADDRX", 62, 62, .rw, 0⟩, ⟨"DIE", 61, 57, .rw, 0⟩, ⟨"CMASK", 39, 32, .rw, 0⟩,
  ⟨"DMASK", 31, 0, .rw, 0⟩]

/-- SPLIT, Table 15.6. -/
def fSplit : List Fld := [
  ⟨"EN", 63, 63, .rw, 0⟩, ⟨"CHK", 62, 62, .rw, 0⟩]

/-- FW_IMG, Table 16.2. -/
def fFwImg : List Fld := [
  ⟨"ACTIVE", 63, 63, .ro, 0⟩, ⟨"TRIAL", 62, 62, .ro, 0⟩, ⟨"FELLBACK", 61, 61, .w1c, 0⟩,
  ⟨"VER_B", 47, 32, .ro, 0⟩, ⟨"VER_A", 15, 0, .ro, 0⟩]

/-- FW_UPD, Table 16.2. -/
def fFwUpd : List Fld := [
  ⟨"GO", 63, 63, .wo, 0⟩, ⟨"KIND", 62, 61, .wo, 0⟩, ⟨"ACTIVATE", 60, 60, .wo, 0⟩, ⟨"LEN", 31, 0, .wo, 0⟩]

/-- FW_UPDADDR, Table 16.2. -/
def fFwUpdaddr : List Fld := [
  ⟨"ADDR", 63, 0, .rw, 0⟩]

/-- FW_UPDSTAT, Table 16.2. -/
def fFwUpdstat : List Fld := [
  ⟨"PHASE", 63, 61, .ro, 0⟩, ⟨"DONE", 15, 0, .ro, 0⟩]

/-- FW_STREQ, Table 16.2. -/
def fFwStreq : List Fld := [
  ⟨"GO", 63, 63, .wo, 0⟩, ⟨"KIND", 62, 59, .wo, 0⟩, ⟨"TARGET", 58, 52, .wo, 0⟩]

/-- FW_STRES, Table 16.2. -/
def fFwStres : List Fld := [
  ⟨"STATE", 63, 61, .ro, 0⟩, ⟨"KIND", 60, 57, .ro, 0⟩, ⟨"TARGET", 56, 50, .ro, 0⟩, ⟨"DETAIL", 31, 0, .ro, 0⟩]

/-- FW_HORIZON, Table 16.2. -/
def fFwHorizon : List Fld := [
  ⟨"HORIZON", 31, 0, .rw, 0x3e8⟩]

/-- FW_LOGBASE, Table 16.2. -/
def fFwLogbase : List Fld := [
  ⟨"BASE", 63, 12, .rw, 0⟩, ⟨"SIZE", 3, 0, .rw, 0⟩]

/-- FW_LOGHEAD, Table 16.2. -/
def fFwLoghead : List Fld := [
  ⟨"HEAD", 15, 0, .rw, 0⟩]

/-- FW_LOGSTAT, Table 16.2. -/
def fFwLogstat : List Fld := [
  ⟨"LOST", 63, 32, .ro, 0⟩, ⟨"TAIL", 15, 0, .ro, 0⟩]

/-- FW_TPEN, Table 16.2. -/
def fFwTpen : List Fld := [
  ⟨"EN", 63, 0, .rw, 0⟩]

/-- KEEP_CNT, Table 16.6. -/
def fKeepCnt : List Fld := [
  ⟨"WORN", 63, 63, .ro, 0⟩, ⟨"COUNT", 19, 0, .ro, 0⟩]

/-- KEEP_STAT, Table 16.6. -/
def fKeepStat : List Fld := [
  ⟨"REFUSED", 63, 32, .ro, 0⟩, ⟨"UE", 31, 31, .w1c, 0⟩, ⟨"PEND", 4, 0, .ro, 0⟩]

/-- CLK_CTL, Table 17.5. -/
def fClkCtl : List Fld := [
  ⟨"GRADE_EN", 63, 63, .rw, 1⟩, ⟨"GMAX", 62, 60, .rw, 0⟩, ⟨"PCAP", 31, 16, .rw, 0x9c4⟩,
  ⟨"HYST", 7, 0, .rw, 100⟩]

/-- CLK_GRADE, Table 17.5. -/
def fClkGrade : List Fld := [
  ⟨"G", 63, 61, .ro, 0⟩, ⟨"P", 15, 0, .ro, 0⟩]

/-- CLK_GCFG, Table 17.5. -/
def fClkGcfg : List Fld := [
  ⟨"FULL_CH", 4, 0, .rw, 16⟩]

/-- CLK_STAT, Table 17.5. -/
def fClkStat : List Fld := [
  ⟨"STR1", 63, 56, .ro, 0⟩, ⟨"STR0", 55, 48, .ro, 0⟩, ⟨"STOP1", 31, 16, .ro, 0⟩, ⟨"STOP0", 15, 0, .ro, 0⟩]

/-- THM_T, Table 17.5. -/
def fThmT : List Fld := [
  ⟨"TEMP", 63, 48, .ro, 0⟩, ⟨"RAW", 47, 32, .ro, 0⟩, ⟨"BROKEN", 31, 31, .ro, 0⟩, ⟨"WHY", 30, 28, .ro, 0⟩]

/-- THM_STAT, Table 17.5. -/
def fThmStat : List Fld := [
  ⟨"TRIPPED", 63, 63, .ro, 0⟩, ⟨"TRIP_SRC", 62, 59, .ro, 0⟩, ⟨"BROKEN_EV", 58, 58, .w1c, 0⟩,
  ⟨"SEGTHR", 17, 10, .ro, 0⟩, ⟨"CTHR", 9, 8, .ro, 0⟩]

/-- TRC_HALT, Table 18.1. -/
def fTrcHalt : List Fld := [
  ⟨"GO", 63, 63, .wo, 0⟩, ⟨"RESUME", 62, 62, .wo, 0⟩, ⟨"AUTOPROOF", 61, 61, .rw, 1⟩,
  ⟨"MIR_EN", 60, 60, .rw, 1⟩, ⟨"LINKS", 47, 0, .rw, 0⟩]

/-- TRC_HSTAT, Table 18.1. -/
def fTrcHstat : List Fld := [
  ⟨"HALTED", 63, 63, .ro, 0⟩, ⟨"CAUSE", 62, 60, .ro, 0⟩, ⟨"HOPS", 59, 57, .ro, 0⟩, ⟨"SRC", 56, 51, .ro, 0⟩,
  ⟨"HID", 47, 32, .ro, 0⟩, ⟨"SKIP", 31, 16, .ro, 0⟩, ⟨"IGN", 15, 0, .ro, 0⟩]

/-- TRC_HTIME, Table 18.1. -/
def fTrcHtime : List Fld := [
  ⟨"TIME", 63, 0, .ro, 0⟩]

/-- TRC_PROOF, Table 18.1. -/
def fTrcProof : List Fld := [
  ⟨"GO", 63, 63, .wo, 0⟩, ⟨"BUSY", 62, 62, .ro, 0⟩, ⟨"DONE", 61, 61, .ro, 0⟩, ⟨"ERR", 60, 60, .ro, 0⟩,
  ⟨"WSEL", 11, 8, .rw, 0⟩, ⟨"SLICE", 4, 0, .rw, 31⟩]

/-- TRC_TCTL, Table 18.1. -/
def fTrcTctl : List Fld := [
  ⟨"EN", 63, 63, .rw, 0⟩, ⟨"PART_EN", 47, 32, .rw, 0⟩, ⟨"MINWAIT", 31, 16, .rw, 32⟩, ⟨"TRIG", 15, 0, .rw, 0⟩]

/-- TRC_TBUF, Table 18.1. -/
def fTrcTbuf : List Fld := [
  ⟨"BASE", 33, 12, .rw, 0⟩, ⟨"SIZE", 3, 0, .rw, 0⟩]

/-- TRC_TSTAT, Table 18.1. -/
def fTrcTstat : List Fld := [
  ⟨"LOST", 63, 32, .ro, 0⟩, ⟨"WR_IDX", 31, 0, .ro, 0⟩]

/-- TRC_PCSEL, Table 18.1. -/
def fTrcPcsel : List Fld := [
  ⟨"EN", 63, 63, .rw, 0⟩, ⟨"EVENT", 62, 56, .rw, 0⟩, ⟨"PART", 55, 40, .rw, 0⟩, ⟨"CLSEL", 39, 32, .rw, 255⟩]

/-- TRC_PCNT, Table 18.1. -/
def fTrcPcnt : List Fld := [
  ⟨"COUNT", 47, 0, .rw, 0⟩]

/-- HOST_BOOT, Table 19.2. -/
def fHostBoot : List Fld := [
  ⟨"STAGE", 63, 61, .ro, 0⟩, ⟨"FAIL", 60, 60, .ro, 0⟩, ⟨"TLATE", 59, 59, .ro, 0⟩, ⟨"FCODE", 55, 48, .ro, 0⟩,
  ⟨"RETNEW", 47, 40, .ro, 0⟩, ⟨"RESTARTS", 39, 32, .ro, 0⟩, ⟨"ELAPSED", 31, 0, .ro, 0⟩]

/-- A word of memory-like contents that the host writes freely: galley entries, parameter blocks. -/
def fPlain : List Fld := [⟨"WORD", 63, 0, .rw, 0⟩]

/-- A word of a log that only the module writes (R346, R402). -/
def fLog : List Fld := [⟨"WORD", 63, 0, .ro, 0⟩]

/-- A keep word (R427). -/
def fKeep : List Fld := [⟨"WORD", 63, 0, .keep, 0⟩]

/-! ### Where registers lie -/

/-- The entry of a block map at an offset; nothing where the map lists none. -/
def pickOff (off : Nat) (t : List (Nat × List Fld)) : List Fld := (t.lookup off).getD []

/-- TT_ block of the physical function: Tables 2.2 and 2.8. -/
def layoutTt (off : Nat) : List Fld :=
  if off < 0x1000 then
    pickOff off [(0x00, fTtTime), (0x08, fTtSrc), (0x10, fTtStatus), (0x18, fTtUncert),
      (0x20, fTtHold), (0x28, fTtEpoch)]
  else if off < 0x11000 then
    let w := off % 0x1000
    if w < 0x200 then
      pickOff w [(0x00, fTtFrame), (0x10, fTtOvr), (0x18, fTtTight), (0x20, fTtLate), (0x28, fTtView)]
    else if w < 0xA00 then
      match (w % 0x20) / 8 with
      | 0 => fSlotW0 | 1 => fSlotW1 | 2 => fSlotW2 | _ => []
    else match (w % 0x10) / 8 with
      | 0 => fExwW0 | _ => fExwW1
  else []

/-- SCU_ block: Tables 11.3 and 11.4. -/
def layoutScu (off : Nat) : List Fld :=
  if 0x1000 ≤ off ∧ off < 0x11000 then
    let w := off % 0x1000
    if 0x80 ≤ w ∧ w < 0xC0 then fLog
    else if 0x100 ≤ w ∧ w < 0x900 then
      match (w % 0x20) / 8 with
      | 0 => fVariantW0 | 1 => fVariantW1 | 2 => fVariantW2 | _ => fVariantW3
    else pickOff w [(0x00, fScuCtl), (0x08, fScuServe), (0x10, fScuPoolk), (0x18, fScuPoolk),
      (0x20, fScuDesc), (0x28, fScuDesc), (0x30, fScuTok), (0x38, fScuTok),
      (0x40, fScuStage), (0x48, fScuTierpg), (0x50, fScuStash), (0x58, fScuStash),
      (0x60, fScuStat0), (0x68, fScuStat1), (0x70, fScuStep), (0x78, fScuRqsel)]
  else if 0x20000 ≤ off ∧ off < 0x30000 then
    match (off % 0x10) / 8 with
    | 0 => fCatalogueW0 | _ => fCatalogueW1
  else []

/-- FAB_ block: Table 12.3. -/
def layoutFab (off : Nat) : List Fld :=
  if off < 0xC00 then
    pickOff (off % 0x40) [(0x00, fFabLctl), (0x08, fFabLst), (0x10, fFabLerr)]
  else if off = 0x1000 then fFabHcfg
  else if off = 0x1008 then fFabQthr
  else if off = 0x1010 then fFabPflctl
  else if 0x2000 ≤ off ∧ off < 0x2800 then fFabRoute
  else if 0x10000 ≤ off ∧ off < 0x14000 then fLog
  else []

/-- MIR_ block (R355). -/
def layoutMir (off : Nat) : List Fld :=
  pickOff off [(0x00, fMirCtl), (0x08, fMirHb), (0x10, fMirStat), (0x18, fMirDiv), (0x20, fMirDigp),
      (0x28, fMirDigp), (0x30, fMirRsync)]

/-- CLK_ and THM_ blocks (R451). -/
def layoutClk (off : Nat) : List Fld :=
  if off = 0 then fClkCtl else if off = 8 then fClkGrade
  else if 0x10 ≤ off ∧ off < 0x50 then fClkGcfg else if off = 0x50 then fClkStat else []

def layoutThm (off : Nat) : List Fld :=
  if off < 0x68 then fThmT else if off = 0x80 then fThmStat else []

/-- FW_ block (R417). -/
def layoutFw (off : Nat) : List Fld :=
  if off < 0x20 then fFwImg
  else if 0x80 ≤ off ∧ off < 0x100 then fFwTpen
  else pickOff off [(0x20, fFwUpd), (0x28, fFwUpdaddr), (0x30, fFwUpdstat), (0x40, fFwStreq),
      (0x48, fFwStres), (0x50, fFwHorizon), (0x60, fFwLogbase), (0x68, fFwLoghead),
      (0x70, fFwLogstat)]

/-- KEEP_ block (R427, R433). -/
def layoutKeep (off : Nat) : List Fld :=
  if off < 0x2000 then fKeep else if off < 0x4000 then fKeepCnt else if off = 0x4000 then fKeepStat else []

/-- TRC_ block (R452, Table 3.5). -/
def layoutTrc (off : Nat) : List Fld :=
  if 0x100 ≤ off ∧ off < 0x180 then (if off % 0x10 = 0 then fTrcPcsel else fTrcPcnt)
  else pickOff off [(0x00, fTrcHalt), (0x08, fTrcHstat), (0x10, fTrcHtime), (0x18, fTrcProof),
      (0x20, fTrcTctl), (0x28, fTrcTbuf), (0x30, fTrcTstat), (0xF00, fTrcAudit),
      (0xF08, fTrcAuditBuf), (0xF10, fTrcAuditStat)]

/-- The four registers of an integrity site (R412). -/
def layoutSite (off : Nat) : List Fld :=
  match (off % 0x20) / 8 with
  | 0 => fEcnt | 1 => fScrub | 2 => fFlip | _ => fSplit

/-- Window of stack n: Table 8.2 and R412. -/
def layoutStk (n off : Nat) : List Fld :=
  if off = 0 then fStkCfg
  else if 0x100 ≤ off ∧ off < 0x180 then fStkChst
  else if 0x8000 ≤ off ∧ off < 0x10000 then fMswEntry
  else if off = 0x10000 then fStkEcfg
  else if off = 0x10008 then fFabPflctl
  else if 0x10100 ≤ off ∧ off < 0x10300 then layoutSite off
  else if 0x11000 ≤ off ∧ off < 0x12000 then fLog
  else if n % 4 = 0 ∧ 0x30000 ≤ off ∧ off < 0x30020 then layoutSite off
  else if n % 4 = 0 ∧ 0x30100 ≤ off ∧ off < 0x30300 then layoutSite off
  else []

/-- Galley and event ring registers: Table 14.6. -/
def layoutRing (off : Nat) : List Fld :=
  pickOff off [(0x00, fHostGtail), (0x08, fHostGhead), (0x10, fHostEbase), (0x18, fHostEhead),
      (0x20, fHostEstat)]

/-- HOST_ block of the physical function (R31, R32, R278, R375, R392, R474). The physical function has
no galley. -/
def layoutHost (off : Nat) : List Fld :=
  if off = 0 then fHostId else if off = 8 then fHostClmap else if off = 0x10 then fHostBoot
  else if 0x100 ≤ off ∧ off < 0x200 then fHostRcache
  else if 0x210 ≤ off ∧ off < 0x228 then layoutRing (off - 0x200)
  else if 0x300 ≤ off ∧ off < 0x318 then fHostTier
  else []

/-- Eight bytes of PART_SLMAP, each with VALID in bit 7 and a slice in bits 4:0; bits 6:5 are reserved (R11). -/
def fSlmap : List Fld :=
  (List.range 8).flatMap (fun j => [⟨"VALID", 8 * j + 7, 8 * j + 7, .rw, 0⟩, ⟨"SLICE", 8 * j + 4, 8 * j, .rw, 0⟩])

/-- Partition templates: Table 14.3. -/
def layoutPart (off : Nat) : List Fld :=
  let w := off % 0x1000
  if 0x40 ≤ w ∧ w < 0xC0 then fPlain
  else if 0xC0 ≤ w ∧ w < 0xE0 then fSlmap
  else if 0x100 ≤ w ∧ w < 0x180 then
    [⟨"SPACE", 63, 62, .rw, 0⟩, ⟨"VALID", 61, 61, .rw, 0⟩, ⟨"BASE", 47, 24, .rw, 0⟩, ⟨"SIZE", 23, 0, .rw, 0⟩]
  else pickOff w [(0x00, fPartCtl), (0x08, fPartRq), (0x10, fPartFlg), (0x18, fPartLinks),
      (0x20, fPartTier)]

/-- BAR0 of the physical function: Table 1.8. -/
def layoutPf (off : Nat) : List Fld :=
  if off % 8 ≠ 0 then []
  else if off < 0x10000 then layoutHost off
  else if off < 0x20000 then layoutPart (off - 0x10000)
  else if off < 0x40000 then layoutTt (off - 0x20000)
  else if off < 0x80000 then layoutScu (off - 0x40000)
  else if off < 0xC0000 then layoutFab (off - 0x80000)
  else if off < 0xD0000 then layoutMir (off - 0xC0000)
  else if off < 0xE0000 then layoutClk (off - 0xD0000)
  else if off < 0xF0000 then layoutThm (off - 0xE0000)
  else if off < 0x100000 then layoutFw (off - 0xF0000)
  else if off < 0x110000 then layoutKeep (off - 0x100000)
  else if off < 0x120000 then layoutTrc (off - 0x110000)
  else if off < 0x200000 then []
  else if off < 0x400000 then layoutStk ((off - 0x200000) / 0x40000) ((off - 0x200000) % 0x40000)
  else []

/-- BAR0 of a virtual function: Table 14.1, without instruction memory and the template copy. -/
def layoutVf (off : Nat) : List Fld :=
  if off % 8 ≠ 0 then []
  else if off < 0x40 then layoutRing off
  else if 0x1000 ≤ off ∧ off < 0x1800 then fPlain
  else if 0x10000 ≤ off ∧ off < 0x20000 then fPlain
  else []

/-! ### Keys: function × 2^32 + offset; the active bank of a timetable 2^48 above -/

def activeBank : Nat := 2 ^ 48

def layoutOf (key : Nat) : List Fld :=
  let k := key % 2 ^ 48
  if k < 2 ^ 32 then layoutPf k else layoutVf (k % 2 ^ 32)

/-- A word with bits hi:lo set. -/
def fmask (hi lo : Nat) : W64 := BitVec.ofNat 64 ((2 ^ (hi - lo + 1) - 1) <<< lo)

/-- What a register with these fields holds at reset (R10). -/
def resetWord (fs : List Fld) : W64 := fs.foldl (fun w f => w ||| BitVec.ofNat 64 (f.rst <<< f.lo)) 0

/-- All the bits of the fields with an access code. -/
def accMask (fs : List Fld) (a : Access) : W64 :=
  fs.foldl (fun w f => if f.acc = a then w ||| fmask f.hi f.lo else w) 0

def halfMask : Width → W64
  | .w64 => fmask 63 0
  | .lo32 => fmask 31 0
  | .hi32 => fmask 63 32

/-- Whether a write of this width acts: whole always; a half only when all its fields are RW, RO or
reserved (R12). -/
def writeActs (fs : List Fld) (wd : Width) : Bool :=
  wd = .w64 || fs.all (fun f => f.acc = .rw || f.acc = .ro || (halfMask wd &&& fmask f.hi f.lo == 0))

/-- The value a register keeps after a write: RW bits taken, W1C bits cleared by ones, RO, WO and K
bits and reserved bits as they were (R9, R11, R12). A half write's value stands in bits 31:0. -/
def writeWord (fs : List Fld) (old : W64) (wd : Width) (v : W64) : W64 :=
  if writeActs fs wd then
    let x := if wd = .hi32 then v <<< 32 else v
    let rw := accMask fs .rw &&& halfMask wd
    let clr := accMask fs .w1c &&& halfMask wd &&& x
    (old &&& ~~~ rw &&& ~~~ clr) ||| (x &&& rw)
  else old

/-! ### The register file -/

/-- What the register at a key holds. The file keeps the difference from the reset value. -/
def regGet (m : SMap W64) (key : Nat) : W64 := sget 0 m key ^^^ resetWord (layoutOf key)

def regPut (m : SMap W64) (key : Nat) (v : W64) : SMap W64 := sset 0 m key (v ^^^ resetWord (layoutOf key))

/-! ### Register offsets -/

def rHostClmap : Nat := 0x8
def rHostBoot : Nat := 0x10
def rRcache (c : Nat) : Nat := 0x100 + 8 * c
def rTier (n : Nat) : Nat := 0x300 + 8 * n
/-- Galley and event ring registers of function f. -/
def ringBase (f : Nat) : Nat := if f = 0 then 0x200 else f * 2 ^ 32
def rGtail (f : Nat) : Nat := ringBase f
def rGhead (f : Nat) : Nat := ringBase f + 8
def rEbase (f : Nat) : Nat := ringBase f + 0x10
def rEhead (f : Nat) : Nat := ringBase f + 0x18
def rEstat (f : Nat) : Nat := ringBase f + 0x20
def rParam (p n : Nat) : Nat := (p + 1) * 2 ^ 32 + 0x1000 + 32 * n
def rGalley (p k : Nat) : Nat := (p + 1) * 2 ^ 32 + 0x10000 + 64 * k
def rPart (p : Nat) : Nat := 0x10000 + 0x1000 * p
def rTtSrc : Nat := 0x20008
def rTtStatus : Nat := 0x20010
def rTtHold : Nat := 0x20020
def rTtEpoch : Nat := 0x20028
def rTtFrame (p : Nat) : Nat := 0x21000 + 0x1000 * p
def rTtOvr (p : Nat) : Nat := rTtFrame p + 0x10
def rTtLate (p : Nat) : Nat := rTtFrame p + 0x20
def rTtView (p : Nat) : Nat := rTtFrame p + 0x28
def rSlot (p n w : Nat) : Nat := rTtFrame p + 0x200 + 0x20 * n + 8 * w
def rExw (p x w : Nat) : Nat := rTtFrame p + 0xA00 + 0x10 * x + 8 * w
def rScu (p : Nat) : Nat := 0x41000 + 0x1000 * p
def rVariant (p v w : Nat) : Nat := rScu p + 0x100 + 0x20 * v + 8 * w
def rCatalogue (p k w : Nat) : Nat := 0x60000 + 0x1000 * p + 0x10 * k + 8 * w
def rLctl (l : Nat) : Nat := 0x80000 + 0x40 * l
def rLst (l : Nat) : Nat := 0x80008 + 0x40 * l
def rLerr (l : Nat) : Nat := 0x80010 + 0x40 * l
def rHcfg : Nat := 0x81000
def rQthr : Nat := 0x81008
def rPflctl : Nat := 0x81010
def rRoute (p g : Nat) : Nat := 0x82000 + 0x80 * p + 8 * g
def rPfl (k : Nat) : Nat := 0x90000 + 16 * k
def rMirCtl : Nat := 0xC0000
def rMirHb : Nat := 0xC0008
def rMirStat : Nat := 0xC0010
def rMirDiv : Nat := 0xC0018
def rMirDigp : Nat := 0xC0020
def rMirDigs : Nat := 0xC0028
def rMirRsync : Nat := 0xC0030
def rClkCtl : Nat := 0xD0000
def rClkGrade : Nat := 0xD0008
def rClkGcfg (g : Nat) : Nat := 0xD0010 + 8 * g
def rClkStat : Nat := 0xD0050
def rThmT (k : Nat) : Nat := 0xE0000 + 8 * k
def rThmStat : Nat := 0xE0080
def rFwImg (k : Nat) : Nat := 0xF0000 + 8 * k
def rFwUpdaddr : Nat := 0xF0028
def rFwUpdstat : Nat := 0xF0030
def rFwStres : Nat := 0xF0048
def rFwHorizon : Nat := 0xF0050
def rFwLogbase : Nat := 0xF0060
def rFwLoghead : Nat := 0xF0068
def rFwLogstat : Nat := 0xF0070
def rFwTpen (j : Nat) : Nat := 0xF0080 + 8 * j
def rKeepStat : Nat := 0x104000
def rTrcHalt : Nat := 0x110000
def rTrcHstat : Nat := 0x110008
def rTrcHtime : Nat := 0x110010
def rTrcProof : Nat := 0x110018
def rTrcTctl : Nat := 0x110020
def rTrcTbuf : Nat := 0x110028
def rTrcTstat : Nat := 0x110030
def rTrcPcsel (j : Nat) : Nat := 0x110100 + 16 * j
def rTrcPcnt (j : Nat) : Nat := 0x110108 + 16 * j
def rTrcAudit : Nat := 0x110F00
def rTrcAuditBuf : Nat := 0x110F08
def rTrcAuditStat : Nat := 0x110F10
def rStk (n : Nat) : Nat := 0x200000 + 0x40000 * n
def rChst (n m : Nat) : Nat := rStk n + 0x100 + 8 * m
def rMsw (n k m : Nat) : Nat := rStk n + 0x8000 + 0x80 * k + 8 * m
def rEcfg (n : Nat) : Nat := rStk n + 0x10000
def rLogctl (n : Nat) : Nat := rStk n + 0x10008
def rErrlog (n k : Nat) : Nat := rStk n + 0x11000 + 16 * k

/-- First register of an integrity site (R412): ECNT, then SCRUB, FLIP and SPLIT 8 bytes apart. -/
def rSite : Site → Nat
  | .chan n m => rStk n.val + 0x10100 + 0x20 * m.val
  | .case d => rStk (4 * d.val) + 0x30000
  | .store c => rStk (4 * (c.val / 16)) + 0x30100 + 0x20 * (c.val % 16)

end Sys2Proof.Machine
end

