-- ==== Sys2Proof/Machine/Ops.lean ====
section
/-! DEFINITION. The named operations over the state: whole-field updates, registers, clusters and the
other units, free choices, partitions and their grants, address maps and translation (R215, R381), event
records (R386, R387) and the report of a module failure (R365). -/

namespace Sys2Proof.Machine

/-! ### Whole-field updates -/

def State.withPending (s : State) (x : List Instr) : State := { s with pending := x }
def State.withFree (s : State) (x : Nat) : State := { s with free := x }
def State.withTime (s : State) (x : TimeUnit) : State := { s with time := x }
def State.withRegs (s : State) (x : SMap W64) : State := { s with regs := x }
def State.withClusters (s : State) (x : SMap Cluster) : State := { s with clusters := x }
def State.withFlags (s : State) (x : SMap DieFlag) : State := { s with flags := x }
def State.withStackMem (s : State) (x : Mem) : State := { s with stackMem := x }
def State.withCaseMem (s : State) (x : Mem) : State := { s with caseMem := x }
def State.withHostMem (s : State) (x : Mem) : State := { s with hostMem := x }
def State.withTierMem (s : State) (x : Mem) : State := { s with tierMem := x }
def State.withTierPoison (s : State) (x : List Nat) : State := { s with tierPoison := x }
def State.withChans (s : State) (x : SMap Chan) : State := { s with chans := x }
def State.withDieClks (s : State) (x : SMap DieClk) : State := { s with dieClks := x }
def State.withParts (s : State) (x : SMap Part) : State := { s with parts := x }
def State.withScus (s : State) (x : SMap ScuPart) : State := { s with scus := x }
def State.withReqs (s : State) (x : SMap Req) : State := { s with reqs := x }
def State.withLinks (s : State) (x : SMap Link) : State := { s with links := x }
def State.withLanding (s : State) (x : List Landing) : State := { s with landing := x }
def State.withGroups (s : State) (x : SMap WGroup) : State := { s with groups := x }
def State.withMirror (s : State) (x : Mirror) : State := { s with mirror := x }
def State.withInteg (s : State) (x : Integrity) : State := { s with integ := x }
def State.withFw (s : State) (x : Firmware) : State := { s with fw := x }
def State.withKeep (s : State) (x : Keep) : State := { s with keep := x }
def State.withPower (s : State) (x : Power) : State := { s with power := x }
def State.withBoot (s : State) (x : Boot) : State := { s with boot := x }
def State.withHalt (s : State) (x : HaltSt) : State := { s with halt := x }
def State.withTap (s : State) (x : Tap) : State := { s with tap := x }
def State.withHost (s : State) (x : HostOut) : State := { s with host := x }
def State.withTurns (s : State) (x : SMap Nat) : State := { s with turns := x }
def State.withHamper (s : State) (x : Nat) : State := { s with hamper := x }

/-! ### Free choices -/

/-- Take the next free yes-or-no choice. -/
def State.choose (s : State) : Bool × State := (Config.freeBool s.free, s.withFree (s.free + 1))

/-- The bytes the next free choice stands for. -/
def State.chooseBytes (s : State) (n : Nat) : List Byte × State :=
  ((List.range n).map (Config.freeByte s.free), s.withFree (s.free + 1))

/-! ### Registers -/

/-- The register at a key. -/
def State.reg (s : State) (key : Nat) : W64 := regGet s.regs key

def State.setReg (s : State) (key : Nat) (v : W64) : State := s.withRegs (regPut s.regs key v)

/-- A register field as a number. -/
def State.fld (s : State) (key hi lo : Nat) : Nat := bf (s.reg key) hi lo

def State.fbit (s : State) (key i : Nat) : Bool := bit (s.reg key) i

def State.setFld (s : State) (key hi lo v : Nat) : State := s.setReg key (setBf (s.reg key) hi lo v)

def State.setBit (s : State) (key i : Nat) (b : Bool) : State := s.setFld key i i (boolNat b)

/-- Add to a saturating count field. -/
def State.incFld (s : State) (key hi lo : Nat) (by_ : Nat := 1) : State :=
  s.setFld key hi lo (satTo (hi - lo + 1) (s.fld key hi lo + by_))

/-! ### Units -/

def State.cluster (s : State) (c : Nat) : Cluster := sget {} s.clusters c
def State.setCluster (s : State) (c : Nat) (x : Cluster) : State := s.withClusters (sset {} s.clusters c x)
def State.modCluster (s : State) (c : Nat) (f : Cluster → Cluster) : State := s.setCluster c (f (s.cluster c))

def State.chan (s : State) (k : Nat) : Chan := sget {} s.chans k
def State.setChan (s : State) (k : Nat) (x : Chan) : State := s.withChans (sset {} s.chans k x)
def State.modChan (s : State) (k : Nat) (f : Chan → Chan) : State := s.setChan k (f (s.chan k))

def State.dieClk (s : State) (d : Nat) : DieClk := sget {} s.dieClks d
def State.setDieClk (s : State) (d : Nat) (x : DieClk) : State := s.withDieClks (sset {} s.dieClks d x)

def State.part (s : State) (p : Nat) : Part := sget {} s.parts p
def State.setPart (s : State) (p : Nat) (x : Part) : State := s.withParts (sset {} s.parts p x)
def State.modPart (s : State) (p : Nat) (f : Part → Part) : State := s.setPart p (f (s.part p))

def State.scu (s : State) (p : Nat) : ScuPart := sget {} s.scus p
def State.setScu (s : State) (p : Nat) (x : ScuPart) : State := s.withScus (sset {} s.scus p x)
def State.modScu (s : State) (p : Nat) (f : ScuPart → ScuPart) : State := s.setScu p (f (s.scu p))

def State.req (s : State) (r : Nat) : Req := sget {} s.reqs r
def State.setReq (s : State) (r : Nat) (x : Req) : State := s.withReqs (sset {} s.reqs r x)
def State.modReq (s : State) (r : Nat) (f : Req → Req) : State := s.setReq r (f (s.req r))

def State.link (s : State) (l : Nat) : Link := sget {} s.links l
def State.setLink (s : State) (l : Nat) (x : Link) : State := s.withLinks (sset {} s.links l x)
def State.modLink (s : State) (l : Nat) (f : Link → Link) : State := s.setLink l (f (s.link l))

def State.group (s : State) (k : Nat) : WGroup := sget {} s.groups k
def State.setGroup (s : State) (k : Nat) (x : WGroup) : State := s.withGroups (sset {} s.groups k x)

def State.slot (s : State) (p n : Nat) : Option SlotRun := sget none (s.part p).slots n
def State.setSlot (s : State) (p n : Nat) (x : Option SlotRun) : State :=
  s.modPart p (fun q => { q with slots := sset none q.slots n x })
def State.modSlot (s : State) (p n : Nat) (f : SlotRun → SlotRun) : State :=
  match s.slot p n with
  | some r => s.setSlot p n (some (f r))
  | none => s

def flagKey (die n : Nat) : Nat := 256 * die + n
def State.flag (s : State) (die n : Nat) : DieFlag := sget {} s.flags (flagKey die n)

/-- Fabric time in ns (TT_TIME shows its low 64 bits). -/
def State.now (s : State) : Nat := s.time.ns

def State.nowWord (s : State) : W64 := BitVec.ofNat 64 s.time.ns

/-- Partition and slot of the step a cluster runs. -/
def State.runOf (s : State) (c : Nat) : Option (Nat × Nat) := (s.cluster c).run

/-! ### Halt and clocks -/

/-- TRC_HSTAT.HALTED. -/
def State.halted (s : State) : Bool := s.fbit rTrcHstat 63

/-- A trip has latched: the C-dies, case dies and stacks have no supply, and every clock of theirs stands (R450). -/
def State.tripped (s : State) : Bool := s.fbit rThmStat 63

/-- What runs on the stacks stands still: the module is halted, or a trip has latched (R450, R454). -/
def State.frozen (s : State) : Bool := s.halted || s.tripped

/-- MIR_STAT.ROLE (Table 13.1). -/
def State.role (s : State) : Nat := s.fld rMirStat 63 61

def roleSolo : Nat := 0
def rolePrimary : Nat := 1
def roleShadow : Nat := 2
def roleJoining : Nat := 3
def roleFenced : Nat := 4

def State.mirrored (s : State) (p : Nat) : Bool := s.fbit rMirCtl (48 + p)

/-- Bring-up has reached READY (Table 19.1). -/
def State.ready (s : State) : Bool := s.fld rHostBoot 63 61 == 7

/-- Whether the clock of a cluster runs: its die is neither stopped (R437) nor the module halted or tripped (R450,
R454), and the power is on. -/
def State.clockRuns (s : State) (c : Nat) : Bool :=
  s.power.alive && s.power.input && !s.frozen && (sget none s.power.stops (c / 16)).isNone

/-! ### Partitions and grants (chapter 14) -/

/-- Byte i of words of a map. -/
def mapByte (ws : List W64) (i : Nat) : Nat := bf (wordAt ws (i / 8)) (8 * (i % 8) + 7) (8 * (i % 8))

/-- PART_CTL.VALID of template p. -/
def State.validPart (s : State) (p : Nat) : Bool := s.fbit (rPart p) 63

def State.tmpl (s : State) (p : Nat) : Template := (s.part p).tmpl

def Template.clusters (t : Template) : Nat := bf t.ctl 31 0
def Template.chByte (t : Template) (i : Nat) : Nat := mapByte t.chmap i
def Template.slByte (t : Template) (i : Nat) : Nat := mapByte t.slmap i

/-- R380: every cluster, and every channel and slice byte valid. -/
def Template.full (t : Template) : Bool :=
  t.clusters == 0xFFFFFFFF && (List.range 128).all (fun i => t.chByte i ≥ 128)
    && (List.range 32).all (fun i => t.slByte i ≥ 128)

def Template.hasCluster (t : Template) (c : Nat) : Bool := t.ctl.getLsbD c && decide (c < 32)

/-- Two valid bytes of a map name one channel or slice (Table 14.8); a full-module template's maps are ignored (R380). -/
def Template.twice (t : Template) : Bool :=
  let chs := ((List.range 128).map t.chByte).filter (· ≥ 128)
  let sls := (((List.range 32).map t.slByte).filter (· ≥ 128)).map (· % 32)
  !t.full && (chs.eraseDups.length != chs.length || sls.eraseDups.length != sls.length)

/-- Physical channels a template names; all 128 when it is full-module. -/
def Template.chans (t : Template) : List Nat :=
  if t.full then List.range 128
  else (List.range 128).filterMap (fun i => let b := t.chByte i; if b ≥ 128 then some (b % 128) else none)

def Template.slices (t : Template) : List Nat :=
  if t.full then List.range 32
  else (List.range 32).filterMap (fun i => let b := t.slByte i; if b ≥ 128 then some (b % 32) else none)

def Template.hasFlag (t : Template) (die n : Nat) : Bool := t.flg.getLsbD (16 * (die % 2) + n / 16)

def Template.hasLink (t : Template) (l : Nat) : Bool := decide (l < 48) && t.links.getLsbD l

/-- Page size in bytes (PART_CTL.PS). -/
def Template.pageBytes (t : Template) : Nat := 65536 * 2 ^ bf t.ctl 55 53

/-- Galley entries; 0 acts as 1,024. -/
def Template.depth (t : Template) : Nat := let d := bf t.ctl 41 32; if d = 0 then 1024 else d

def Template.rqBase (t : Template) : Nat := bf t.rq 45 32
def Template.rqCount (t : Template) : Nat := bf t.rq 14 0

/-- Partition to which a cluster is granted. -/
def State.partOf (s : State) (c : Nat) : Option Nat :=
  (List.range 16).find? (fun p => s.validPart p && (s.tmpl p).hasCluster c)

/-- Partition to which a physical channel, or a physical case slice, is granted. -/
def State.partOfChan (s : State) (k : Nat) : Option Nat :=
  (List.range 16).find? (fun p => s.validPart p && (s.tmpl p).chans.contains k)

def State.partOfSlice (s : State) (k : Nat) : Option Nat :=
  (List.range 16).find? (fun p => s.validPart p && (s.tmpl p).slices.contains k)

/-! ### Stack addresses (Table 8.1) -/

def stackBytes : Nat := 72 * 2 ^ 30
def caseBytes : Nat := 2 ^ 33
def storeBytes : Nat := 2 ^ 23

/-- Channel key 16n + m of a physical stack address. -/
def chanOfPa (pa : Nat) : Nat := 16 * (pa / stackBytes) + (pa % stackBytes / 2 ^ 21) % 16

def bankOfPa (pa : Nat) : Nat := (pa % stackBytes / 2 ^ 25) % 32

def rowOfPa (pa : Nat) : Nat := 128 * (pa % stackBytes / 2 ^ 30) + (pa % 2 ^ 21) / 2 ^ 14

def lineOfPa (pa : Nat) : Nat := (pa % 2 ^ 14) / 64

/-- Physical address of byte b of a row of a bank of channel key k. -/
def paOfRow (k bank row b : Nat) : Nat :=
  (k / 16) * stackBytes + (512 * (row / 128) + 16 * bank + k % 16) * 2 ^ 21 + (row % 128) * 2 ^ 14 + b

/-- Physical address of byte j of data die d of a bank, from die byte 0 of row 0 (R216, R231). -/
def paOfDie (k bank d j : Nat) : Nat :=
  paOfRow k bank (j / 1024) (64 * ((j % 1024) / 4) + 4 * d + j % 4)

/-- Row segment of a physical address within its channel: (bank × 9,216 + row) × 8 + segment. -/
def segOfPa (pa : Nat) : Nat := (bankOfPa pa * 9216 + rowOfPa pa) * 8 + lineOfPa pa / 32

/-! ### Translation (R381) -/

/-- Physical address of a partition stack address; none where translation fails. -/
def Template.xlStack (t : Template) (a : Nat) : Option Nat :=
  if a ≥ 8 * stackBytes then none
  else if t.full then some a
  else
    let b := t.chByte (chanOfPa a)
    if b < 128 then none
    else
      let o := a % stackBytes
      let k := (o / 2 ^ 21 / 16) * 16 + b % 16
      some ((b % 128 / 16) * stackBytes + k * 2 ^ 21 + o % 2 ^ 21)

/-- Physical address of a partition case address. -/
def Template.xlCase (t : Template) (a : Nat) : Option Nat :=
  if a ≥ caseBytes then none
  else if t.full then some a
  else
    let b := t.slByte (a / 2 ^ 28)
    if b < 128 then none else some ((b % 32) * 2 ^ 28 + a % 2 ^ 28)

/-- Bytes of a cluster's store outside its read cache (Table 7.2). -/
def State.storeTop (s : State) (c : Nat) : Nat := storeBytes - (s.cluster c).rcSize * 2 ^ 18

/-- Physical address of byte a of forme space sp (0 stacks, 1 case store, 2 the store of cluster c) of
partition p. -/
def State.xl (s : State) (p sp c a : Nat) : Option (Space × Nat) :=
  let t := s.tmpl p
  match sp with
  | 0 => (t.xlStack a).map (fun x => (.stack, x))
  | 1 => (t.xlCase a).map (fun x => (.case, x))
  | 2 => if t.hasCluster c && decide (a < s.storeTop c) then some (.store c, a) else none
  | _ => none

/-- The partition's name for a physical location, as its BAR2 aperture offset (Table 14.2). -/
def Template.unxl (t : Template) (sp : Space) (a : Nat) : Nat :=
  match sp with
  | .stack =>
    if t.full then a
    else
      let k := chanOfPa a
      let i := ((List.range 128).find? (fun i => t.chByte i == 128 + k)).getD k
      let o := a % stackBytes
      (i / 16) * stackBytes + ((o / 2 ^ 21 / 16) * 16 + i % 16) * 2 ^ 21 + o % 2 ^ 21
  | .case =>
    if t.full then 0xC000000000 + a
    else
      let sl := ((List.range 32).find? (fun i => t.slByte i ≥ 128 && t.slByte i % 32 == a / 2 ^ 28)).getD (a / 2 ^ 28)
      0xC000000000 + sl * 2 ^ 28 + a % 2 ^ 28
  | .store c => 0xE000000000 + c * 2 ^ 23 + a

/-- C-die a memory is attached to. -/
def dieOfSpace (sp : Space) (a : Nat) : Nat :=
  match sp with
  | .stack => a / stackBytes / 4
  | .case => a / 2 ^ 32
  | .store c => c / 16

/-! ### Event records (R386, R387) -/

/-- Records an event or log ring holds: 2^(SIZE + 6), SIZE up to 10. -/
def ringSize (base : W64) : Nat := 2 ^ (min 10 (bf base 3 0) + 6)

/-- Write one 32-byte record at TAIL of a ring with the given registers; a full ring, or a host
port that is down (R479), drops it and counts it in LOST. Answers whether the ring was empty and took the record. -/
def State.ringPut (s : State) (kBase kHead kStat : Nat) (ws : List W64) : Bool × State :=
  let base := s.reg kBase
  let n := ringSize base
  let head := s.fld kHead 15 0
  let tail := s.fld kStat 15 0
  if (tail + 1) % n = head % n ∨ !s.host.up then (false, s.incFld kStat 63 32)
  else
    let a := bf base 63 12 * 4096 + 32 * tail
    let s := s.withHostMem (mput s.hostMem a (bytesOf ws))
    (tail == head, s.setFld kStat 15 0 ((tail + 1) % n))

/-- Send MSI-X vector 0 of a function. -/
def State.msix (s : State) (f : Nat) : State :=
  s.withHost { s.host with
    msix := sset 0 s.host.msix f (sget 0 s.host.msix f + 1)
    msixAt := sset 0 s.host.msixAt f s.now }

/-- Post a record to the event ring of function f with its time word given. -/
def State.postAt (s : State) (f : Nat) (w0 : W64) (time : Nat) (w2 : W64) (step : Nat) : State :=
  let (first, s) := s.ringPut (rEbase f) (rEhead f) (rEstat f)
    [w0, BitVec.ofNat 64 time, w2, BitVec.ofNat 64 step]
  if first then s.msix f else s

def evWord (type p body : Nat) : W64 := BitVec.ofNat 64 (type * 2 ^ 60 + (p % 16) * 2 ^ 56 + body % 2 ^ 56)

/-- Post a record of partition p to its own ring. -/
def State.post (s : State) (p type body : Nat) (w2 : W64) (step : Nat) : State :=
  s.postAt (p + 1) (evWord type p body) s.now w2 step

/-- Post a PFEV record with a block code of Table 14.7. -/
def State.pfev (s : State) (block p : Nat) : State :=
  s.postAt 0 (evWord 9 p (block * 2 ^ 48)) s.now 0 0

/-- Number of the composed step a slot runs; 0 where no step applies. -/
def State.stepNo (s : State) (p n : Nat) : Nat := ((s.slot p n).bind (fun r => r.step)).getD 0

/-- Fault codes of R387. -/
def fltAlign : Nat := 1
def fltOverlap : Nat := 2
def fltXlate : Nat := 3
def fltBound : Nat := 4
def fltChmode : Nat := 5
def fltAnchor : Nat := 6

/-- Place of a fault in the order of Table 4.14, in which the first of several is reported (R135). -/
def faultRank (f : Nat) : Nat :=
  if f = fltAlign then 0 else if f = fltBound then 1 else if f = fltXlate then 2
  else if f = fltChmode then 3 else if f = fltOverlap then 4 else 5

/-- The fault an instruction reports among those it raised. -/
def firstFault (fs : List Nat) : Option Nat := pickBy (fun a b => faultRank a < faultRank b) fs

/-- FAULT record of an engine's instruction (R135): word 1 holds the fabric time of issue. -/
def State.postFault (s : State) (c eng idx t fault : Nat) : State :=
  match s.runOf c with
  | some (p, n) =>
    s.postAt (p + 1) (evWord 2 p (fault * 2 ^ 52 + c * 2 ^ 47 + eng * 2 ^ 44 + idx * 2 ^ 30)) t 0 (s.stepNo p n)
  | none =>
    match s.partOf c with
    | some p => s.postAt (p + 1) (evWord 2 p (fault * 2 ^ 52 + c * 2 ^ 47 + eng * 2 ^ 44 + idx * 2 ^ 30)) t 0 0
    | none => s

/-- FAULT record of a host access: engine code 7, the partition address in word 2 (R376, Table 14.7). -/
def State.postHostFault (s : State) (p fault addr : Nat) : State :=
  s.post p 2 (fault * 2 ^ 52 + 7 * 2 ^ 44) (BitVec.ofNat 64 addr) 0

/-! ### Keep words -/

/-- What persists in a keep word; word 1 is the serial number, locked at manufacture (Table 16.5). -/
def State.keepStored (s : State) (w : Nat) : W64 := if w = 1 then Config.serial else sget 0 s.keep.words w

/-- Value of a keep word as it persists; an uncorrectable word reads as 0 (R432). -/
def State.keepWord (s : State) (w : Nat) : W64 := if s.keep.bad.contains w then 0 else s.keepStored w

/-! ### Log ring of the firmware cores (R425, R426) -/

def coreSec : Nat := 0
def corePwr : Nat := 1
def coreSch : Nat := 2
def coreCc : Nat := 3

/-- One log record: core kind, cluster, severity and trace point; arguments in words 2 and 3. The first record into an
empty ring sends MSI-X vector 0 of the physical function, as the event ring does (R386). -/
def State.logRecord (s : State) (kind c sev tp : Nat) (a b : W64) : State :=
  let (first, s) := s.ringPut rFwLogbase rFwLoghead rFwLogstat
    [s.nowWord, BitVec.ofNat 64 (kind * 2 ^ 60 + c * 2 ^ 55 + sev * 2 ^ 53 + tp * 2 ^ 32), a, b]
  if first then s.msix 0 else s

/-- A core logs an error; the trace point and its arguments are the image's own (R425, R426). A core that does not run
logs nothing. -/
def State.logError (s : State) (k c : Nat) : State :=
  if !s.fw.started.contains k then s
  else
    let w := fun (j : Nat) => Config.freeWord s.free j
    (s.logRecord k c 2 ((w 0).toNat % 1024) (w 1) (w 2)).withFree (s.free + 1)

/-! ### Module failure (R23, R330, R365, R450) -/

/-- Take a role; a promotion under way ends with the role of a shadow (R364). -/
def State.setRole (s : State) (r : Nat) : State :=
  (if r = roleShadow then s else s.withMirror { s.mirror with promoting := none }).setFld rMirStat 63 61 r

/-- Whether the mirror port is up: the module has power, and at least four lanes have trained (R355, R372). -/
def State.mirUp (s : State) : Bool := s.power.input && s.fld rMirStat 60 59 != 0

/-- Send a heartbeat (R362); a port that is down carries none. -/
def State.sendHeartbeat (s : State) (fenced failed : Bool) : State :=
  let s := if failed then s.withPower { s.power with fault := true } else s
  if !s.mirUp then s
  else s.withMirror { s.mirror with
    lastTx := some s.now
    sent := s.mirror.sent ++ [{ time := s.now, role := BitVec.ofNat 3 s.role, fenced := fenced, failed := failed }] }

/-- The module reports itself failed: one heartbeat with FAILED set, then FENCED (R365). -/
def State.moduleFail (s : State) : State := ((s.sendHeartbeat false true).setRole roleFenced).logError coreSec 0

/-! ### Performance counters (Table 18.4) and the list of owned clusters -/

/-- Add to every enabled counter that selects the event, the partition and the cluster; none where the
event is not a cluster's. Nothing counts while the module is halted (R465). -/
def State.perf (s : State) (event : Nat) (p : Nat) (c : Option Nat) (by_ : Nat) : State :=
  if s.halted then s
  else (List.range 8).foldl (fun s j =>
    let k := rTrcPcsel j
    let cl := s.fld k 39 32
    let sel := s.fbit k 63 && s.fld k 62 56 == event && s.fbit k (40 + p)
      && (match c with | none => true | some c => cl == 0xFF || cl == c)
    if sel then s.incFld (rTrcPcnt j) 47 0 by_ else s) s

/-- Numbers of the one bits of a word below n. -/
def bitsOf (w n : Nat) : List Nat := (List.range n).filter (fun i => w.testBit i)

end Sys2Proof.Machine
end

