-- ==== Sys2Proof/Machine/Memory.lean ====
section
/-! DEFINITION. Reading and writing the module's memories under their codes (chapter 15): the check of a
line or unit, poison, error counts and log, the flip masks, the start of retirements, and the marks that
a write leaves for the mirror copy map and the step digest. Data is kept as encoded by the last write;
stored errors are kept beside it, as flips by line or unit. -/

namespace Sys2Proof.Machine

def State.memOf (s : State) : Space → Mem
  | .stack => s.stackMem
  | .case => s.caseMem
  | .store c => (s.cluster c).store

def State.withMem (s : State) (sp : Space) (m : Mem) : State :=
  match sp with
  | .stack => s.withStackMem m
  | .case => s.withCaseMem m
  | .store c => s.modCluster c (fun x => { x with store := m })

/-- Bytes of a line or unit that is poisoned whole (Table 15.1). -/
def unitBytes : Space → Nat
  | .store _ => 32
  | _ => 64

/-- Key of the error pattern of the line or unit that holds a byte. -/
def errKey : Space → Nat → Nat
  | .stack, a => a / 64
  | .case, a => 2 ^ 40 + a / 64
  | .store c, a => 2 ^ 48 + c * 2 ^ 20 + a / 32

def State.errOf (s : State) (sp : Space) (a : Nat) : ErrPat := sget {} s.integ.errs (errKey sp a)

def State.setErr (s : State) (sp : Space) (a : Nat) (e : ErrPat) : State :=
  s.withInteg { s.integ with errs := sset {} s.integ.errs (errKey sp a) e }

/-- Integrity site of a location (R412). -/
def siteOf : Space → Nat → Nat × Nat
  | .stack, a => (0, chanOfPa a)
  | .case, a => (1, a / 2 ^ 32)
  | .store c, _ => (2, c)

/-- First register of a site (R412). -/
def siteReg : Nat × Nat → Nat
  | (0, k) => rStk (k / 16) + 0x10100 + 0x20 * (k % 16)
  | (1, d) => rStk (4 * d) + 0x30000
  | (_, c) => rStk (4 * (c / 16)) + 0x30100 + 0x20 * (c % 16)

/-- Stack whose window holds a site's registers and log. -/
def siteWin : Nat × Nat → Nat
  | (0, k) => k / 16
  | (1, d) => 4 * d
  | (_, c) => 4 * (c / 16)

/-- SITE code of an error log entry (Table 15.3). -/
def siteCode : Nat × Nat → Nat
  | (0, k) => k % 16
  | (1, _) => 16
  | (_, c) => 32 + c % 16

/-- LOC of an error log entry (Table 15.3). -/
def locOf : Space → Nat → Nat
  | .stack, a => bankOfPa a * 2 ^ 44 + rowOfPa a * 2 ^ 30 + lineOfPa a * 2 ^ 22
  | _, a => (a / 64) * 2 ^ 21

/-- Write an error log entry (R402). -/
def State.errLog (s : State) (site : Nat × Nat) (kind die loc : Nat) : State :=
  let n := siteWin site
  let k := rLogctl n
  let ix := s.fld k 9 0 % 256
  let s := s.setReg (rErrlog n ix) s.nowWord
  let s := s.setReg (rErrlog n ix + 8)
    (BitVec.ofNat 64 (siteCode site * 2 ^ 58 + kind * 2 ^ 54 + die * 2 ^ 49 + loc))
  (s.setFld k 9 0 ((ix + 1) % 256)).incFld k 63 32

/-! ### Keep writes made by the cores (R429, R431) -/

/-- Keep writes not yet performed, oldest first: those queued, then the cores' that wait for a place. -/
def Keep.all (k : Keep) : List (Nat × W64) := k.queue ++ k.waiting

/-- Whether a word holds this value now: a write of it is neither performed nor counted. -/
def State.keepSame (s : State) (w : Nat) (v : W64) : Bool := s.keepStored w == v && !s.keep.bad.contains w

/-- Queue a keep write; a write of the value already stored and not about to change completes at once. The queue holds
16; a core's write beyond them waits. -/
def State.keepQueue (s : State) (w : Nat) (v : W64) : State :=
  if s.keepSame w v && s.keep.all.all (fun e => e.1 != w) then s
  else if s.keep.queue.length < 16 then s.withKeep { s.keep with queue := s.keep.queue ++ [(w, v)] }
  else s.withKeep { s.keep with waiting := s.keep.waiting ++ [(w, v)] }

/-- Value a keep word will read as once the queue has drained. -/
def State.keepFinal (s : State) (w : Nat) : W64 :=
  s.keep.all.foldl (fun v e => if e.1 = w then e.2 else v) (s.keepWord w)

/-! ### Retirement (R408 to R411) -/

def retEntry (kind stack chan die bank row spare : Nat) : RetWord :=
  BitVec.ofNat 64 (kind * 2 ^ 60 + stack * 2 ^ 57 + chan * 2 ^ 53 + die * 2 ^ 48 + bank * 2 ^ 43
    + row * 2 ^ 29 + spare * 2 ^ 25)

/-- Record an entry in the first empty retirement word; a full region sets RETFULL (R411). -/
def State.recordRetirement (s : State) (w : RetWord) (win : Nat) : State :=
  match (List.range 240).find? (fun k => s.keepFinal (128 + k) == 0) with
  | some k => s.keepQueue (128 + k) w
  | none => s.setBit (rEcfg win) 1 true

/-- Whether slice (channel key, die, bank) is retired. -/
def State.sliceRetired (s : State) (k die bank : Nat) : Bool :=
  s.integ.retired.any (fun w => bf w 63 60 == 2 && bf w 59 57 == k / 16 && bf w 56 53 == k % 16
    && bf w 52 48 == die && bf w 47 43 == bank)

/-- Dies with a retired slice in a bank. -/
def State.retiredDies (s : State) (k bank : Nat) : List Nat :=
  if s.integ.retired.isEmpty then [] else (List.range 18).filter (fun d => s.sliceRetired k d bank)

/-- A row entry of this bank slice, with or without its row. -/
def rowEntryOf (k die bank : Nat) (w : RetWord) : Bool :=
  bf w 63 60 == 1 && bf w 59 57 == k / 16 && bf w 56 53 == k % 16 && bf w 52 48 == die && bf w 47 43 == bank

/-- A row of a die that qualified is retired in memory mode (R408, R409): it takes the next spare row; when the 16
spares are used, the slice is retired; a second retired slice in a bank is not made, and the module fails. -/
def State.retireRow (s : State) (k die bank row : Nat) : State :=
  let i := s.integ
  let mine := (i.retired ++ i.copying.map (·.2)).filter (rowEntryOf k die bank)
  if s.sliceRetired k die bank || mine.any (fun w => bf w 42 29 == row) then s
  else if mine.length < 16 then
    s.withInteg { i with copying := i.copying ++ [(k, retEntry 1 (k / 16) (k % 16) die bank row mine.length)] }
  else if !(s.retiredDies k bank).isEmpty then s.moduleFail
  else
    let w := retEntry 2 (k / 16) (k % 16) die bank 0 0
    let s := s.withInteg { i with retired := i.retired ++ [w] }
    let s := s.recordRetirement w (k / 16)
    let s := s.errLog (0, k) 7 die (bank * 2 ^ 44)
    s.pfev 4 0

/-- A row of a die qualifies for retirement; out of memory mode the retirement waits for it (R404, R408). -/
def State.qualifyRow (s : State) (k die bank row : Nat) : State :=
  if (s.chan k).state = .memory then s.retireRow k die bank row
  else
    let e := (k, retEntry 1 (k / 16) (k % 16) die bank row 0)
    s.withInteg { s.integ with waitRows := if s.integ.waitRows.contains e then s.integ.waitRows else s.integ.waitRows ++ [e] }

/-- The rows of channel k that waited for memory mode are retired (R408). -/
def State.retireWaiting (s : State) (k : Nat) : State :=
  let mine := s.integ.waitRows.filter (fun e => e.1 == k)
  mine.foldl (fun (s : State) e => s.retireRow k (bf e.2 52 48) (bf e.2 47 43) (bf e.2 42 29))
    (s.withInteg { s.integ with waitRows := s.integ.waitRows.filter (fun e => e.1 != k) })

/-- Count one corrected error on a die row within the running lap; ROWTH of them retire the row. -/
def State.noteRowError (s : State) (k die bank row : Nat) : State :=
  let sc : Scrub := sget {} s.integ.scrub k
  let rk := (die * 32 + bank) * 9216 + row
  let n := sget 0 sc.rowErrs rk + 1
  let s := s.withInteg { s.integ with
    scrub := sset {} s.integ.scrub k { sc with rowErrs := sset 0 sc.rowErrs rk n } }
  let th := max 1 (s.fld (rEcfg (k / 16)) 31 24)
  if n ≥ th then s.qualifyRow k die bank row else s

/-! ### Decoding a line or unit -/

/-- What a read of a line or unit finds: delivered as written, corrected, uncorrectable, or poisoned;
the dies it concerns, those among them with a mismatched address; and by what the bytes delivered differ from the
stored ones. -/
structure UnitCheck where
  bad : Bool := false
  poisoned : Bool := false
  fixedDies : List Nat := []
  badDies : List Nat := []
  addrDies : List Nat := []
  raw : List (Nat × Byte) := []
  deriving DecidableEq, Repr

/-- Flips stored under index i of a pattern, all together. -/
def flipsOf (e : ErrPat) (i : Nat) : W32 × Byte × Bool :=
  e.flips.foldl (fun a f => if f.1 = i then (a.1 ^^^ f.2.1, a.2.1 ^^^ f.2.2.1, a.2.2 != f.2.2.2) else a)
    (0, 0, false)

def flipCount (f : W32 × Byte × Bool) : Nat := popBits f.1.toNat 32 + popBits f.2.1.toNat 8

/-- Whether the per-die code reports a die word, with the flips of the two lines it spans (R247): an
address mismatch, or an even number of flips. Odd numbers above one are taken for single errors. -/
def dieReport (mine other : W32 × Byte × Bool) : Bool :=
  let n := flipCount mine + flipCount other
  mine.2.2 || other.2.2 || (n ≥ 2 && n % 2 == 0)

/-- Byte c of die d of a line, as an offset in the line (R216). -/
def dieByte (d c : Nat) : Nat := 4 * d + c

/-- Error of byte c of die d, the check bytes of dies 16 and 17 among them. -/
def symErr (e : ErrPat) (d c : Nat) : Nat :=
  let own : W32 := if d = 16 then e.stale.1 else if d = 17 then e.stale.2 else 0
  ((flipsOf e d).1 ^^^ own).toNat >>> (8 * c) % 256

/-- The symbol errors of codeword c (R396). -/
def codeword (e : ErrPat) (c : Nat) : List Nat := (List.range 18).map (fun d => symErr e d c)

/-- By what a line's data bytes differ when codeword c leaves its symbols with these errors. -/
def lineRaw (left : Nat → Nat → Nat) : List (Nat × Byte) :=
  ((List.range 16).flatMap (fun d => (List.range 4).map (fun c => (dieByte d c, BitVec.ofNat 8 (left d c))))).filter
    (fun x => x.2 != 0)

/-- Table 15.2 with no erasure: the four codewords as their decoders leave them. The symbols they correct must all lie
on one die. More errors than a codeword corrects can pass for another symbol's, or for none. -/
def decodeLine (e : ErrPat) : UnitCheck :=
  let found := (List.range 4).map (fun c => rsDecode (codeword e c))
  let fixed := (found.filterMap id).filterMap (fun x => x.map (·.1))
  if found.any (·.isNone) || fixed.any (fun d => fixed.any (· != d)) then { bad := true }
  else
    { fixedDies := fixed.take 1
      raw := lineRaw (fun d c => symErr e d c ^^^ (match found.getD c none with
        | some (some (p, v)) => if p = d then v else 0
        | _ => 0)) }

/-- Table 15.2 over one stack line. -/
def State.checkStack (s : State) (pa : Nat) : UnitCheck :=
  let e := s.errOf .stack pa
  if e.poison then { poisoned := true }
  else
    let o := s.errOf .stack (if (pa / 64) % 2 = 0 then pa + 64 else pa - 64)
    let reported := (List.range 18).filter (fun d => dieReport (flipsOf e d) (flipsOf o d))
    let ret := s.retiredDies (chanOfPa pa) (bankOfPa pa)
    let erased := (List.range 18).filter (fun d => reported.contains d || ret.contains d)
    let base : UnitCheck :=
      { badDies := reported, addrDies := reported.filter (fun d => (flipsOf e d).2.2 || (flipsOf o d).2.2) }
    match erased with
    | [] => decodeLine e
    | [p] =>
      let rebuilt := (List.range 4).map (fun c => rsOneErased (codeword e c) p)
      if rebuilt.any (·.isNone) then { base with bad := true }
      else { base with
        fixedDies := reported
        raw := lineRaw (fun d c => if d = p then (rebuilt.getD c none).getD 0 else symErr e d c) }
    | [p, q] => { base with
        fixedDies := reported
        raw := lineRaw (fun d c =>
          let x := rsTwoErased (codeword e c) p q
          if d = p then x.1 else if d = q then x.2 else symErr e d c) }
    | _ => { base with bad := true }

/-! The address-covering SECDED code (R395): its matrix gives data and check bits columns of odd weight and covered
address bits columns of even, non-zero weight, all distinct. Which column a bit has is free (Config.secdedOrder); the
check bits have those of weight 1. DESIGN CHOICE (log 111). -/

/-- n columns, all distinct, from a pool. -/
def takeColumns (order : Nat → Nat) : Nat → List Nat → List Nat
  | 0, _ => []
  | n + 1, pool =>
    let i := order n % pool.length
    pool.getD i 0 :: takeColumns order n (dropAt pool i)

/-- Columns of the 64 data bits. -/
def dataColumns : List Nat :=
  takeColumns Config.secdedOrder 64 ((List.range 256).filter (fun v => popBits v 8 % 2 == 1 && popBits v 8 != 1))

/-- Columns of the covered address bits, the lowest first: up to 31 of them. -/
def addrColumns : List Nat :=
  takeColumns (fun n => Config.secdedOrder (64 + n)) 31
    ((List.range 256).filter (fun v => popBits v 8 % 2 == 0 && v != 0))

/-- Sum of the columns of the one bits of a number. -/
def columnSum (cols : List Nat) (v : Nat) : Nat :=
  (List.range cols.length).foldl (fun a i => if v.testBit i then a ^^^ cols.getD i 0 else a) 0

/-- Check byte of a data word at the address whose covered bits are these. -/
def secdedCheck (cover : Nat) (v : W64) : Byte := BitVec.ofNat 8 (columnSum dataColumns v.toNat ^^^ columnSum addrColumns cover)

/-- What a read of an 8-byte word finds: uncorrectable, with a mismatched address, or delivered, corrected or not, with
these bits of its data flipped. -/
structure WordCheck where
  bad : Bool := false
  addr : Bool := false
  fixed : Bool := false
  mask : Nat := 0
  deriving DecidableEq, Repr

/-- Word j of an SECDED unit: halves 2j and 2j + 1 of its pattern. One flip is corrected, and two are uncorrectable, as
is a mismatched address; more than that, as the code's sums come out. -/
def checkWord (e : ErrPat) (j : Nat) : WordCheck :=
  let a := flipsOf e (2 * j)
  let b := flipsOf e (2 * j + 1)
  let x := a.2.2 || b.2.2
  let n := flipCount a + flipCount b
  if n = 0 then { bad := x, addr := x }
  else if n = 1 && !x then { fixed := true }
  else if n = 2 && !x then { bad := true }
  else
    let data := a.1.toNat + b.1.toNat * 2 ^ 32
    let syn := columnSum dataColumns data ^^^ (a.2.1 ^^^ b.2.1).toNat ^^^ (if x then addrColumns.headD 0 else 0)
    if syn = 0 then { mask := data }
    else if popBits syn 8 = 1 then { fixed := true, mask := data }
    else match (List.range 64).find? (fun i => dataColumns.getD i 0 == syn) with
      | some i => { fixed := true, mask := data ^^^ 2 ^ i }
      | none => { bad := true, addr := x }

/-- What a read finds in some words of a case-store line or cluster-store unit (R395). -/
def checkSome (e : ErrPat) (words : List Nat) : UnitCheck :=
  words.foldl (fun u j =>
    let w := checkWord e j
    { u with
      bad := u.bad || w.bad
      addrDies := if w.addr then u.addrDies ++ [j] else u.addrDies
      fixedDies := if w.fixed then u.fixedDies ++ [j] else u.fixedDies
      raw := u.raw ++ ((List.range 8).map (fun c => (8 * j + c,
          BitVec.ofNat 8 (w.mask >>> (8 * c))))).filter (fun x => x.2 != 0) }) {}

/-- What a read of a case-store line or cluster-store unit finds. -/
def State.checkWords (s : State) (sp : Space) (a : Nat) : UnitCheck :=
  let e := s.errOf sp a
  if e.poison then { poisoned := true } else checkSome e (List.range (unitBytes sp / 8))

/-- Key of the error pattern of an 8-byte word of cluster instruction memory. -/
def imemKey (c a : Nat) : Nat := 2 ^ 56 + c * 2 ^ 15 + a / 8

/-- Whether an 8-byte word of a cluster's instruction memory is uncorrectable (R395). -/
def State.imemWordBad (s : State) (c a : Nat) : Bool := (checkWord (sget {} s.integ.errs (imemKey c a)) 0).bad

/-- Whether an instruction word is uncorrectable. -/
def State.imemBad (s : State) (c k : Nat) : Bool := s.imemWordBad c (16 * k) || s.imemWordBad c (16 * k + 8)

/-- What a read of the line or unit at a finds. -/
def State.checkUnit (s : State) (sp : Space) (a : Nat) : UnitCheck :=
  match sp with
  | .stack => s.checkStack a
  | _ => s.checkWords sp a

/-- Count and log what a read found, poison an uncorrectable line, and qualify rows (R398, R401, R408). -/
def State.noteCheck (s : State) (sp : Space) (a : Nat) (u : UnitCheck) : State :=
  let site := siteOf sp a
  let r := siteReg site
  let loc := locOf sp a
  let isStack := sp = .stack
  let die := fun (d : Nat) => if isStack then d else 0
  if u.poisoned then (s.incFld r 15 0).errLog site 5 0 loc
  else
    let s := if u.bad then
        let d := (u.badDies ++ u.addrDies).headD 0
        let s := s.incFld r 31 16
        let s := s.errLog site (if u.addrDies.isEmpty then 3 else 4) (die d) loc
        let s := s.setErr sp a { poison := true }
        s.pfev 4 0
      else u.fixedDies.foldl (fun s d => (s.incFld r 63 48).errLog site 1 (die d) loc) s
    if isStack then
      let k := chanOfPa a
      let s := u.badDies.foldl (fun s d => s.qualifyRow k d (bankOfPa a) (rowOfPa a)) s
      if u.bad then s
      else (u.fixedDies.filter (fun d => !u.badDies.contains d)).foldl
        (fun s d => s.noteRowError k d (bankOfPa a) (rowOfPa a)) s
    else s

/-! ### Reads -/

/-- First byte of the unit of a location. -/
def unitBase (sp : Space) (a : Nat) : Nat := a - a % unitBytes sp

/-- Whether a line or unit, or the line that shares its die words, holds an error pattern. -/
def State.suspect (s : State) (sp : Space) (a : Nat) : Bool :=
  s.errOf sp a != {} || (sp == .stack && s.errOf .stack (if (a / 64) % 2 = 0 then a + 64 else a - 64) != {})

/-- Units among the locations that are suspect. -/
def State.suspectUnits (s : State) (ls : List (Space × Nat)) : List (Space × Nat) :=
  if s.integ.errs.isEmpty then []
  else ls.foldl (fun acc l =>
    let u := (l.1, unitBase l.1 l.2)
    if acc.contains u || !s.suspect u.1 u.2 then acc else acc ++ [u]) []

/-- Read bytes at physical locations: the bytes, and whether any came from a poisoned or uncorrectable
line or unit, which delivers 0xFF (R399). After a trip the memories have no supply, and what they deliver is free
(R450). -/
def State.readBytes (s : State) (ls : List (Space × Nat)) : List Byte × Bool × State :=
  let sus := s.suspectUnits ls
  if s.tripped then
    let (bs, s) := s.chooseBytes ls.length
    (bs, false, s)
  else if sus.isEmpty then (ls.map (fun l => mget (s.memOf l.1) l.2), false, s)
  else
    let found := sus.map (fun u => (u, s.checkUnit u.1 u.2))
    let bytes := ls.map (fun l =>
      match found.find? (fun f => f.1 = (l.1, unitBase l.1 l.2)) with
      | some (u, r) =>
        let o := l.2 - u.2
        if r.bad || r.poisoned then (0xFF : Byte)
        else mget (s.memOf l.1) l.2 ^^^ ((r.raw.find? (fun x => x.1 = o)).map (·.2)).getD 0
      | none => mget (s.memOf l.1) l.2)
    let s' := found.foldl (fun s f => s.noteCheck f.1.1 f.1.2 f.2) s
    (bytes, found.any (fun f => f.2.bad || f.2.poisoned), s')

/-- Read n consecutive bytes of one memory. -/
def State.readRun (s : State) (sp : Space) (a n : Nat) : List Byte × Bool × State :=
  s.readBytes ((List.range n).map (fun i => (sp, a + i)))

/-! ### Writes -/

/-- 2 MiB page of a location in the copy map's numbering (R369). -/
def pageKey : Space → Nat → Nat
  | .stack, a => a / 2 ^ 21
  | .case, a => 2 ^ 20 + a / 2 ^ 21
  | .store c, a => 2 ^ 21 + 4 * c + a / 2 ^ 21

/-- A page written after it was sent is marked again (R369). -/
def State.markPages (s : State) (ps : List Nat) : State :=
  if s.mirror.copied.isEmpty then s
  else
    let again := s.mirror.copied.filter ps.contains
    let map := again.foldl (fun m p => linsert p m) s.mirror.copyMap
    s.withMirror { s.mirror with
      copied := s.mirror.copied.filter (fun p => !ps.contains p), copyMap := map }

/-- Every site (R412). -/
def allSites : List (Nat × Nat) :=
  (List.range 128).map (fun k => (0, k)) ++ [(1, 0), (1, 1)] ++ (List.range 32).map (fun c => (2, c))

/-- Apply the armed flip masks to the first line or word that a host or engine write touches at each
armed site (R406). -/
def State.applyFlips (s : State) (ws : List PWrite) : State :=
  (allSites.filter (fun t => s.fbit (siteReg t + 16) 63)).foldl (fun s t =>
    match ws.find? (fun w => siteOf w.sp w.addr = t) with
    | none => s
    | some w =>
      let r := s.reg (siteReg t + 16)
      let ix := match w.sp with
        | .stack => bf r 61 57
        | _ => 2 * (w.addr % unitBytes w.sp / 8) + bf r 57 57
      let e := s.errOf w.sp w.addr
      let s := s.setErr w.sp w.addr { e with
        flips := e.flips ++ [(ix, BitVec.ofNat 32 (bf r 31 0), BitVec.ofNat 8 (bf r 39 32), bit r 62)] }
      s.setBit (siteReg t + 16) 63 false) s

/-- Whether a write covers every byte of the unit at u. -/
def coversUnit (ws : List PWrite) (sp : Space) (u n : Nat) : Bool :=
  (List.range n).all (fun i => ws.any (fun w => w.sp = sp && w.addr = u + i && w.mask = 0xFF))

/-- A part write takes up what the code delivers of a unit. -/
def State.takeRaw (s : State) (sp : Space) (u : Nat) (raw : List (Nat × Byte)) : State :=
  if raw.isEmpty then s
  else s.withMem sp (raw.foldl (fun m x => mset m (u + x.1) (mget m (u + x.1) ^^^ x.2)) (s.memOf sp))

/-- What a write does to a unit that is suspect: whether its bytes are written, and the state after (R398, R400). A write
of part of a line or word reads the rest through the code. -/
def State.writeUnit (s : State) (ws : List PWrite) (u : Space × Nat) : Bool × State :=
  let e := s.errOf u.1 u.2
  if coversUnit ws u.1 u.2 (unitBytes u.1) then (true, s.setErr u.1 u.2 {})
  else if e.poison then (false, s)
  else match u.1 with
  | .stack =>
    let r := s.checkUnit .stack u.2
    let s := s.noteCheck .stack u.2 r
    if r.bad then (false, s) else (true, (s.takeRaw .stack u.2 r.raw).setErr .stack u.2 {})
  | sp =>
    let words := (List.range (unitBytes sp / 8)).filter (fun j =>
      ws.any (fun w => w.sp = sp && decide (u.2 + 8 * j ≤ w.addr) && decide (w.addr < u.2 + 8 * j + 8)))
    let r := checkSome e (words.filter (fun j => !coversUnit ws sp (u.2 + 8 * j) 8))
    let s := s.noteCheck sp u.2 r
    if r.bad then (false, s)
    else (true, (s.takeRaw sp u.2 r.raw).setErr sp u.2 { e with flips := e.flips.filter (fun f => !words.contains (f.1 / 2)) })

/-- Write masked bytes. agent: the write is a host's or an engine's, which an armed flip mask corrupts. A memory without
supply takes none (R450). Two unordered writes of different elements of one byte both stand.
DESIGN CHOICE (log 115). -/
def State.writeBytes (s : State) (ws : List PWrite) (agent : Bool := true) : State :=
  if ws.isEmpty || s.tripped then s
  else
    let sus := if s.integ.errs.isEmpty then [] else
      (ws.map (fun w => (w.sp, unitBase w.sp w.addr))).foldl (fun acc u =>
        if acc.contains u || !s.suspect u.1 u.2 then acc else acc ++ [u]) []
    let (drop, s) := sus.foldl (fun (a : List (Space × Nat) × State) u =>
      let (ok, s') := a.2.writeUnit ws u
      (if ok then a.1 else a.1 ++ [u], s')) ([], s)
    let ws := if drop.isEmpty then ws else ws.filter (fun w => !drop.contains (w.sp, unitBase w.sp w.addr))
    let s := ws.foldl (fun s w => s.withMem w.sp (mmask (s.memOf w.sp) w.addr w.mask w.val)) s
    let s := if agent then s.applyFlips ws else s
    if s.mirror.copied.isEmpty then s
    else s.markPages (ws.foldl (fun l w => linsert (pageKey w.sp w.addr) l) [])

/-- Whole bytes as masked writes. -/
def putsAt (sp : Space) (a : Nat) (bs : List Byte) : List PWrite :=
  (List.range bs.length).map (fun i => ⟨sp, a + i, 0xFF, bs.getD i 0⟩)

/-! ### Digest terms of a step's writes (R360) -/

/-- CRC-64 term of one written 64-byte line: its partition address, byte mask and bytes. -/
def lineTerm (t : Template) (ws : List PWrite) (l : Space × Nat) : W64 :=
  let ws := ws.filter (fun w => w.sp = l.1 && decide (l.2 ≤ w.addr) && decide (w.addr < l.2 + 64))
  let mask := (List.range 8).map (fun j => BitVec.ofNat 8 ((List.range 8).foldl (fun a i =>
    a + (if ws.any (fun w => w.addr = l.2 + 8 * j + i) then 2 ^ i else 0)) 0))
  let bytes := (List.range 64).map (fun i =>
    ws.foldl (fun b w => if w.addr = l.2 + i then (b &&& ~~~ w.mask) ||| (w.val &&& w.mask) else b) (0 : Byte))
  crc64 (leBytes 8 (t.unxl l.1 l.2) ++ mask ++ bytes)

/-- Add the terms of a write to its step's digest, when the partition is mirrored. -/
def State.digestWrites (s : State) (p n : Nat) (ws : List PWrite) : State :=
  if s.mirrored p then
    let lines := ws.foldl (fun (acc : List (Space × Nat)) w =>
      let l := (w.sp, w.addr - w.addr % 64); if acc.contains l then acc else acc ++ [l]) []
    let sum := lines.foldl (fun a l => a + lineTerm (s.tmpl p) ws l) (0 : W64)
    s.modSlot p n (fun r => { r with lineSum := r.lineSum + sum })
  else s

/-- A write made by the step in slot n of partition p. -/
def State.stepWrite (s : State) (p n : Nat) (ws : List PWrite) : State :=
  (s.writeBytes ws).digestWrites p n ws

/-- Set POISON in the completion record of a step (R399). -/
def State.stepPoison (s : State) (run : Option (Nat × Nat)) (b : Bool) : State :=
  match run with
  | some (p, n) => if b then s.modSlot p n (fun r => { r with poison := true }) else s
  | none => s

/-- Stack lines of an access to consecutive places, read or written in memory mode, count for the partitions of their
channels (performance event 6). -/
def State.countLines (s : State) (c : Option Nat) (ls : List (Space × Nat)) : State :=
  (ls.foldl (fun (a : Option Nat × State) l =>
    if l.1 = .stack ∧ a.1 ≠ some (l.2 / 64) then
      (some (l.2 / 64), match a.2.partOfChan (chanOfPa l.2) with
        | some p => a.2.perf 6 p c 1
        | none => a.2)
    else a) (none, s)).2

/-- Stack lines among locations, for performance event 6. -/
def stackLines (ls : List (Space × Nat)) : Nat :=
  (ls.foldl (fun (acc : List Nat) l => if l.1 = .stack
      ∧ !acc.contains (l.2 / 64) then (l.2 / 64) :: acc else acc) []).length

end Sys2Proof.Machine
end

