-- ==== Sys2Proof/Machine/Operands.lean ====
section
/-! DEFINITION. Operand forms: the fields of OPND, tile numbers (R118), the element views of a row
(Table 6.1, R141, R142), masked element writes (R490), immediates (R103, R104) and the word as it stands
in cluster instruction memory (Table 4.1). -/

namespace Sys2Proof.Machine

/-! ### The instruction word -/

/-- OPND[hi:lo]. -/
def opnd (w : IWord) (hi lo : Nat) : Nat := bf w.opnd hi lo

/-- IMM[hi:lo]. -/
def immf (w : IWord) (hi lo : Nat) : Nat := bf w.imm hi lo

/-- OPC and the other fields of a 128-bit word (Table 4.1). -/
def unpackWord (lo hi : W64) : Nat × IWord :=
  let v := lo.toNat + 2 ^ 64 * hi.toNat
  let f := fun h l => (v >>> l) % 2 ^ (h - l + 1)
  (f 127 120,
   { opf := BitVec.ofNat 4 (f 119 116), sigK := BitVec.ofNat 2 (f 115 114), sigT := BitVec.ofNat 9 (f 113 105)
     w0K := BitVec.ofNat 3 (f 104 102), w0T := BitVec.ofNat 9 (f 101 93), base := BitVec.ofNat 16 (f 92 77)
     stride := BitVec.ofNat 8 (f 76 69), w1K := BitVec.ofNat 3 (f 68 66), w1T := BitVec.ofNat 9 (f 65 57)
     opnd := BitVec.ofNat 20 (f 56 37), itag := BitVec.ofNat 5 (f 36 32), imm := BitVec.ofNat 32 (f 31 0) })

/-- The word with its OPC as a number. -/
def packWord (opc : Nat) (w : IWord) : Nat :=
  opc * 2 ^ 120 + w.opf.toNat * 2 ^ 116 + w.sigK.toNat * 2 ^ 114 + w.sigT.toNat * 2 ^ 105
    + w.w0K.toNat * 2 ^ 102 + w.w0T.toNat * 2 ^ 93 + w.base.toNat * 2 ^ 77 + w.stride.toNat * 2 ^ 69
    + w.w1K.toNat * 2 ^ 66 + w.w1T.toNat * 2 ^ 57 + w.opnd.toNat * 2 ^ 37 + w.itag.toNat * 2 ^ 32
    + w.imm.toNat

/-- Tile of a field value: plus i when IX applies, modulo 48 (R118). -/
def tileNo (v : Nat) (ix : Bool) (i : Nat) : Nat := (if ix then v + i else v) % 48

/-- First byte of row r of tile t. -/
def rowAddr (t r : Nat) : Nat := 32768 * (t % 48) + 256 * r

/-! ### Elements of a row -/

/-- w bits from bit position b of a byte sequence, least significant first. -/
def bitsAt (rd : Nat → Byte) (b w : Nat) : Nat :=
  let k := b / 8
  let n := ceilDiv (b % 8 + w) 8
  (leNat ((List.range n).map (fun i => rd (k + i))) >>> (b % 8)) % 2 ^ w

/-- Byte, mask and value of each byte that w bits at position b touch. -/
def bitsPut (b w v : Nat) : List (Nat × Byte × Byte) :=
  let k := b / 8
  let sh := b % 8
  let n := ceilDiv (sh + w) 8
  let x := (v % 2 ^ w) <<< sh
  let m := (2 ^ w - 1) <<< sh
  (List.range n).map (fun i => (k + i, BitVec.ofNat 8 (m >>> (8 * i)), BitVec.ofNat 8 (x >>> (8 * i))))

/-- Code of element j of a row read in a format; A12 keeps bits 11:0 (R139); ZB8 gives the mantissa. -/
def elemCode (f : Fmt) (rd : Nat → Byte) (j : Nat) : Nat :=
  let c := bitsAt rd (j * f.bits) f.bits
  if f = .a12 then c % 4096 else c

/-- Value of element j of a row; a ZB8 element takes the exponent byte of its block (R142, R143). -/
def elemVal (f : Fmt) (rd : Nat → Byte) (j : Nat) : Val :=
  if f = .zb8 then zbVal (rd (240 + j / 16)).toNat (elemCode f rd j) else decode f (elemCode f rd j)

/-- Bytes that writing code v as element j of a row touches. -/
def elemPut (f : Fmt) (j v : Nat) : List (Nat × Byte × Byte) := bitsPut (j * f.bits) f.bits v

/-- Tile writes of elements (j, code) of the row at base. -/
def rowWrites (f : Fmt) (base : Nat) (es : List (Nat × Nat)) : List TWrite :=
  es.flatMap (fun e => (elemPut f e.1 e.2).map (fun b => ⟨base + b.1, b.2.1, b.2.2⟩))

/-- Byte reader of the row at base of tile memory. -/
def rowRd (m : Mem) (base : Nat) : Nat → Byte := fun i => mget m (base + i)

/-- Codes of all E elements of a row. -/
def rowCodes (f : Fmt) (m : Mem) (base : Nat) : List Nat := (List.range f.perRow).map (elemCode f (rowRd m base))

/-- Values of all E elements of a row. -/
def rowVals (f : Fmt) (m : Mem) (base : Nat) : List Val := (List.range f.perRow).map (elemVal f (rowRd m base))

/-- The bytes of a row as a move in format f writes them: the bytes used, A12 containers with bits 15:12
written as 0 (R139), and byte 255 of a ZB8 row written as 0 (R142). -/
def moveRow (f : Fmt) (m : Mem) (src dst : Nat) : List TWrite :=
  (List.range f.rowBytes).map (fun i =>
    let b := mget m (src + i)
    ⟨dst + i, 0xFF, if f = .a12 ∧ i % 2 = 1 then b &&& 0x0F else if f = .zb8 ∧ i = 255 then 0 else b⟩)

/-! ### Immediates (R103, R104, Tables 3.10 and 4.4) -/

/-- Format of an immediate tag that is a plain format; reserved tags act as INT32 (R115). -/
def tagFmt : Nat → Option Fmt
  | 1 => some .fp32 | 2 => some .bf16 | 3 => some .fp16 | 4 => some .a12 | 5 => some .e4m3 | 6 => some .e5m2
  | 7 => some .e3m2 | 8 => some .e2m3 | 9 => some .e2m1 | 10 => some .int8 | 11 => some .int4
  | 12 | 13 | 14 | 15 | 16 => none | 17 => some .zb8 | 18 => some .e8m0 | _ => some .int32

/-- Element format of a block-scaled tag. -/
def tagMx : Nat → Fmt
  | 12 => .e4m3 | 13 => .e5m2 | 14 => .e3m2 | 15 => .e2m3 | _ => .e2m1

/-- Bits of an immediate that its format uses. -/
def immBits (f : Fmt) : Nat := if f = .a12 then 12 else f.bits

/-- Value of an immediate. -/
def immVal (w : IWord) : Val :=
  match tagFmt w.itag.toNat with
  | none => let f := tagMx w.itag.toNat; mxVal f (immf w 15 8) (immf w 7 0 % 2 ^ f.bits)
  | some .zb8 => zbVal (immf w 15 8) (immf w 7 0)
  | some f => decode f (w.imm.toNat % 2 ^ immBits f)

/-- Code of an immediate in an operation's format: unchanged in that format, otherwise converted. -/
def immCode (f : Fmt) (w : IWord) : Nat :=
  if tagFmt w.itag.toNat = some f then w.imm.toNat % 2 ^ immBits f else encode f (immVal w)

/-- Mantissa and exponent of an immediate taken by an operation in ZB8. -/
def immZb (w : IWord) : Nat × Nat :=
  if w.itag.toNat = 17 then (immf w 7 0, immf w 15 8)
  else
    let v := immVal w
    let x := zbExp [v]
    (zbMant x v, x)

/-- IMM as FP32 after conversion (R124). -/
def immF32 (w : IWord) : Val := decode .fp32 (immCode .fp32 w)

/-! ### Engines and common operation codes -/

def engVe : Nat := 4
def engRu : Nat := 5
def engMv : Nat := 6

def opcNop : Nat := 0x00
def opcEnd : Nat := 0x01
def opcLoop : Nat := 0x02

end Sys2Proof.Machine
end

