-- ==== Sys2Proof/Machine/Matrix.lean ====
section
/-! DEFINITION. What the matrix engine operations compute (chapters 4, 5 and 6): the accumulator kinds,
MMA and MMAX, DRAIN and its placement, and their timing. -/

namespace Sys2Proof.Machine

/-- What an instruction of ME, VE or RU leaves: tile writes, the bank after it, counter writes, a fault. -/
structure EngRes where
  out : List TWrite := []
  bank : Option (Nat × Bank) := none
  counts : List (Nat × Nat) := []
  fault : Option Nat := none
  deriving DecidableEq, Repr

/-- Formats MMA and MMAZ accept (Table 4.8). -/
def mmaFmt : Fmt → Bool
  | .fp32 | .bf16 | .fp16 | .e4m3 | .e5m2 | .e3m2 | .e2m3 | .e2m1 | .int8 | .int4 | .a12 | .zb8 => true
  | _ => false

/-- Formats MMAX and MMAXZ accept. -/
def mmaxFmt : Fmt → Bool
  | .e4m3 | .e5m2 | .e3m2 | .e2m3 | .e2m1 => true
  | _ => false

/-- Output formats of DRAIN and DRAINZ. -/
def drainFmt : Fmt → Bool
  | .fp32 | .bf16 | .fp16 | .e4m3 | .e5m2 | .int32 | .int8 | .a12 => true
  | _ => false

/-- Reduction depth K (Table 4.7). -/
def mmaDepth : Fmt → Nat
  | .fp32 => 64
  | .bf16 | .fp16 | .a12 => 128
  | .zb8 => 240
  | .e2m1 | .int4 => 512
  | _ => 256

/-- Issue interval of MMA (Table 4.7). -/
def mmaInterval : Fmt → Nat
  | .fp32 => 2048
  | .a12 => 128
  | .zb8 => 240
  | _ => 256

/-! ### Accumulator elements -/

/-- The field as a two's-complement integer. -/
def Acc.int (a : Acc) : Int := a.field.toInt

/-- The FP32 value of a float-kind element (Table 5.4). -/
def Acc.f32 (a : Acc) : Val := decode .fp32 (bf a.field 31 0)

/-- A float-kind element: bits 31:0 the FP32 code, bits 119:32 zero. The flags are not touched. -/
def Acc.setF32 (a : Acc) (v : Val) : Acc := { a with field := BitVec.ofNat 120 (encode .fp32 v) }

/-- One product into an exact-kind element (R148, R149). -/
def accExact (a : Acc) (p : Val) : Acc :=
  match p with
  | .nan => { a with nan := true }
  | .inf n => if n then { a with infN := true } else { a with infP := true }
  | .fin n m e => { a with field := a.field + BitVec.ofInt 120 (fixedAt (-48) n m e) }

/-- Floor of m × 2^e, with its sign, in units of 2^g. -/
def floorAt (g : Int) (neg : Bool) (m : Nat) (e : Int) : Int :=
  if e ≥ g then signed neg (m * 2 ^ (e - g).toNat) else (signed neg m) / ((2 ^ (g - e).toNat : Nat) : Int)

/-- One term into an anchored element; the flag says FLT_ANCHOR was raised (R154, R155). -/
def accAnchored (anchor : Int) (st : Acc × Bool) (p : Val) : Acc × Bool :=
  let (a, f) := st
  match p with
  | .nan => ({ a with nan := true }, f)
  | .inf n => (if n then { a with infN := true } else { a with infP := true }, f)
  | .fin n m e =>
    if m = 0 then (a, f)
    else if leadExp m e ≥ anchor + 103 then ({ a with nan := true }, true)
    else
      let v := a.int + floorAt anchor n m e
      if v < -(2 ^ 119 : Int) ∨ v ≥ (2 ^ 119 : Int) then ({ a with nan := true }, true)
      else ({ a with field := BitVec.ofInt 120 v }, f)

/-- Contribution of one BF16 MMA to an element: the tree sum of R150. -/
def bf16Sum (a b : List Val) : Val := treeSum r32 7 (List.zipWith (fun x y => r32 (vmul x y)) a b)

/-- The three parts of a finite FP32 operand: significand part and exponent (R151). -/
def fp32Parts (code : Nat) : List (Bool × Nat × Int) :=
  let ex : Nat := (code / 2 ^ 23) % 256
  let s : Nat := (if ex = 0 then 0 else 2 ^ 23) + code % 2 ^ 23
  let e : Int := (if ex = 0 then -126 else (ex : Int) - 127)
  let n : Bool := decide ((code / 2 ^ 31) % 2 = 1)
  [(n, s / 2 ^ 16, e - 7), (n, (s / 2 ^ 8) % 256, e - 15), (n, s % 256, e - 23)]

/-- The six cross products of a pair of operands (R151). -/
def fp32Terms (a b : Nat) : List (Bool × Nat × Int) :=
  match fp32Parts a, fp32Parts b with
  | [ah, am, al], [bh, bm, bl] =>
    [(ah, bh), (ah, bm), (am, bh), (ah, bl), (am, bm), (al, bh)].map (fun x =>
      (x.1.1 != x.2.1, x.1.2.1 * x.2.2.1, x.1.2.2 + x.2.2.2))
  | _, _ => []

/-- Contribution of one FP32 MMA to an element (R151): special operands under IEEE 754, otherwise the
sum of 384 terms in the 120-bit window, rounded once. -/
def fp32Sum (a b : List Nat) : Val :=
  let prods := List.zipWith (fun x y => vmul (decode .fp32 x) (decode .fp32 y)) a b
  let special := fun (c : Nat) => match decode .fp32 c with | .fin _ _ _ => false | _ => true
  if a.any special || b.any special then
    let nan := prods.any isNan
    let pos := prods.any (fun p => p = .inf false)
    let neg := prods.any (fun p => p = .inf true)
    if nan || (pos && neg) then .nan else .inf neg
  else
    let ts := (List.zipWith fp32Terms a b).flatten
    let l := ts.foldl (fun (acc : Option Int) t =>
      if t.2.1 = 0 then acc else some (match acc with | none => leadExp t.2.1 t.2.2 | some x => max x (leadExp t.2.1 t.2.2))) none
    match l with
    | none => .fin false 0 0
    | some l =>
      let g := l - 109
      let sum := ts.foldl (fun (acc : Int) t => acc + floorAt g t.1 t.2.1 t.2.2) 0
      r32 (ofFixed false sum g)

/-! ### MMA -/

/-- Element (r, c) of a bank. -/
def Bank.at_ (b : Bank) (r c : Nat) : Acc := sget {} b.elems (128 * r + c)

/-- A bank with every element recomputed. -/
def Bank.map (b : Bank) (kind : BankKind) (f : Nat → Nat → Acc → Acc) : Bank :=
  { b with kind := kind, elems := stab {} 16384 (fun k => f (k / 128) (k % 128) (sget {} b.elems k)) }

/-- The bank zeroed: field and flags of every element (R147); the anchor stays (R153). -/
def Bank.zero (b : Bank) : Bank := { b with elems := [] }

/-- R163 in the kind that the format sets. -/
def mmaBank (f : Fmt) (src : Mem) (ta tb : Nat) (b : Bank) : Bank :=
  match f with
  | .bf16 =>
    let va := (List.range 128).map (fun r => rowVals f src (rowAddr ta r))
    let vb := (List.range 128).map (fun r => rowVals f src (rowAddr tb r))
    b.map .float (fun r c a => a.setF32 (vadd a.f32 (bf16Sum (va.getD r []) (vb.getD c []))))
  | .fp32 =>
    let va := (List.range 128).map (fun r => rowCodes f src (rowAddr ta r))
    let vb := (List.range 128).map (fun r => rowCodes f src (rowAddr tb r))
    b.map .float (fun r c a => a.setF32 (vadd a.f32 (fp32Sum (va.getD r []) (vb.getD c []))))
  | _ =>
    let va := (List.range 128).map (fun r => rowVals f src (rowAddr ta r))
    let vb := (List.range 128).map (fun r => rowVals f src (rowAddr tb r))
    b.map .exact (fun r c a =>
      (List.zipWith vmul (va.getD r []) (vb.getD c [])).foldl accExact a)

/-- Values of a block-scaled row: element j takes the scale byte of block ⌊j ÷ 32⌋ (R123). -/
def mxRow (f : Fmt) (src : Mem) (base scales : Nat) : List Val :=
  (List.range f.perRow).map (fun j =>
    mxVal f (mget src (scales + j / 32)).toNat (elemCode f (rowRd src base) j))

/-- MMAX: terms one at a time in increasing k after the bank's value; the flag is FLT_ANCHOR (R154, R155). -/
def mmaxBank (f : Fmt) (src : Mem) (ta tb ts : Nat) (b : Bank) : Bank × Bool :=
  let va := (List.range 128).map (fun r => mxRow f src (rowAddr ta r) (rowAddr ts r))
  let vb := (List.range 128).map (fun r => mxRow f src (rowAddr tb r) (rowAddr ts r + 128))
  let cell := fun (r c : Nat) (a : Acc) =>
    (List.zipWith vmul (va.getD r []) (vb.getD c [])).foldl (accAnchored b.anchor) (a, false)
  (b.map .anchored (fun r c a => (cell r c a).1),
   (List.range 16384).any (fun k => (cell (k / 128) (k % 128) (sget {} b.elems k)).2))

/-! ### DRAIN -/

/-- Value that an element drains as (R152). -/
def drainVal (b : Bank) (a : Acc) : Val :=
  if a.nan || (a.infP && a.infN) then .nan
  else if a.infP then .inf false
  else if a.infN then .inf true
  else match b.kind with
    | .float => a.f32
    | .exact => ofFixed false a.int (-48)
    | .anchored => ofFixed false a.int b.anchor

/-- The scaling of R124 and R152. -/
def drainScaled (b : Bank) (scale v : Val) : Val :=
  match v, scale with
  | .fin _ 0 _, .fin _ _ _ => if b.kind = .float then vmul v scale else .fin false 0 0
  | _, _ => vmul v scale

/-- Tile bytes of drained element (r, c) (Table 6.2). -/
def drainPut (f : Fmt) (td r c code : Nat) : List TWrite :=
  let base := if f.bits = 32 ∧ c ≥ 64 then rowAddr (td + 1) r else rowAddr td r
  rowWrites f base [(if f.bits = 32 then c % 64 else c, code)]

def drainOut (f : Fmt) (w : IWord) (td : Nat) (b : Bank) : List TWrite :=
  let sc := opnd w 1 1 = 1
  let scale := immF32 w
  (List.range 16384).flatMap (fun k =>
    let v := drainVal b (sget {} b.elems k)
    drainPut f td (k / 128) (k % 128) (encode f (if sc then drainScaled b scale v else v)))

/-! ### One instruction -/

/-- Whether a word of a matrix engine stream runs as its operation; otherwise it is a NOP (R117). -/
def meRuns (opc : Nat) (w : IWord) : Bool :=
  match Fmt.ofCode w.opf.toNat with
  | some f =>
    opc = 0x10 || opc = 0x11 || ((opc = 0x12 || opc = 0x13) && mmaFmt f)
      || ((opc = 0x14 || opc = 0x15) && mmaxFmt f) || ((opc = 0x18 || opc = 0x19) && drainFmt f)
  | none => opc = 0x10 || opc = 0x11

/-- Issue interval and latency (Tables 4.7 and 4.8). -/
def meTiming (opc : Nat) (w : IWord) : Nat × Nat :=
  if !meRuns opc w then (1, 1)
  else if opc = 0x10 then (4, 16)
  else if opc = 0x11 then (1, 4)
  else if opc = 0x18 || opc = 0x19 then (4, 96)
  else let n := mmaInterval ((Fmt.ofCode w.opf.toNat).getD .fp16); (n, n + 24)

/-- Tile ranges the instruction reads during its interval. -/
def meReads (opc : Nat) (w : IWord) (i : Nat) : List (Nat × Nat) :=
  if !meRuns opc w then []
  else if 0x12 ≤ opc ∧ opc ≤ 0x15 then
    let ix := opnd w 0 0 = 1
    let f := (Fmt.ofCode w.opf.toNat).getD .fp16
    let tile := fun v => (List.range 128).map (fun r => (rowAddr (tileNo v ix i) r, f.rowBytes))
    tile (opnd w 18 13) ++ tile (opnd w 12 7)
      ++ (if opc ≥ 0x14 then
            let n := f.perRow / 32
            (List.range 128).flatMap (fun r =>
              let a := rowAddr (tileNo (opnd w 6 1) ix i) r; [(a, n), (a + 128, n)]) else [])
  else []

/-- What an instruction of matrix engine m does, from the tile bytes it reads and its bank. -/
def meResult (m opc : Nat) (w : IWord) (i : Nat) (src : Mem) (b : Bank) : EngRes :=
  if !meRuns opc w then {}
  else
    let k := 2 * m + opnd w 19 19
    let ix := opnd w 0 0 = 1
    let f := (Fmt.ofCode w.opf.toNat).getD .fp16
    let ta := tileNo (opnd w 18 13) ix i
    let tb := tileNo (opnd w 12 7) ix i
    let ts := tileNo (opnd w 6 1) ix i
    match opc with
    | 0x10 => { bank := some (k, b.zero) }
    | 0x11 => { bank := some (k, { b with anchor := min 400 (max (-400) (sext 32 (immCode .int32 w))) }) }
    | 0x12 => { bank := some (k, mmaBank f src ta tb b) }
    | 0x13 => { bank := some (k, mmaBank f src ta tb b.zero) }
    | 0x14 => let (x, e) := mmaxBank f src ta tb ts b
              { bank := some (k, x), fault := if e then some fltAnchor else none }
    | 0x15 => let (x, e) := mmaxBank f src ta tb ts b.zero
              { bank := some (k, x), fault := if e then some fltAnchor else none }
    | 0x18 => { out := drainOut f w ta b, bank := some (k, b) }
    | 0x19 => { out := drainOut f w ta b, bank := some (k, b.zero) }
    | _ => {}

end Sys2Proof.Machine
end

