-- ==== Sys2Proof/Machine/Vector.lean ====
section
/-! DEFINITION. What the vector engine operations compute (Table 4.9, chapter 6): element-wise, compare,
select, transcendental, conversion, the pairwise-tree reductions, compress and expand, and their timing. -/

namespace Sys2Proof.Machine

/-- The full-tile operation code of a row form (R126); other codes are themselves. -/
def veBase (opc : Nat) : Nat := if 0xA0 ≤ opc ∧ opc ≤ 0xBF then opc - 0x80 else opc

def veIsRow (opc : Nat) : Bool := decide (0xA0 ≤ opc) && decide (opc ≤ 0xBF)

/-- FP32, BF16, FP16, INT32 and INT16. -/
def arithFmt : Fmt → Bool
  | .fp32 | .bf16 | .fp16 | .int32 | .int16 => true
  | _ => false

/-- Formats VCVT accepts as source and as target (R170). -/
def cvtFmt : Fmt → Bool
  | .zb8 | .e8m0 => false
  | _ => true

/-- Target format of VCVT, OPND[7:4]. -/
def cvtTarget (w : IWord) : Option Fmt := Fmt.ofCode (opnd w 7 4)

/-- Whether a word of a vector engine stream runs as its operation; otherwise it is a NOP (R117). -/
def veRuns (opc : Nat) (w : IWord) : Bool :=
  match Fmt.ofCode w.opf.toNat with
  | none => false
  | some f =>
    let b := veBase opc
    if 0x20 ≤ b ∧ b ≤ 0x27 then arithFmt f
    else if 0x28 ≤ b ∧ b ≤ 0x2C then f = .int32 || f = .int16 || f = .int8
    else if b = 0x2D ∨ b = 0x2E then true
    else if 0x30 ≤ b ∧ b ≤ 0x32 then arithFmt f || f = .int8
    else if 0x34 ≤ b ∧ b ≤ 0x36 then f = .fp32 || f = .bf16
    else if b = 0x37 then cvtFmt f && (match cvtTarget w with | some g => cvtFmt g | none => false)
    else if 0x38 ≤ b ∧ b ≤ 0x3D then arithFmt f
    else decide (0x40 ≤ opc ∧ opc ≤ 0x43)

/-- Issue interval and latency (Table 4.9, R176). -/
def veTiming (opc : Nat) (w : IWord) : Nat × Nat :=
  if !veRuns opc w then (1, 1)
  else
    let b := veBase opc
    if veIsRow opc then
      (1, if 0x38 ≤ b then 24 else if 0x34 ≤ b then 16 else 8)
    else if 0x40 ≤ b then (128, 160)
    else (32, if 0x3B ≤ b then 72 else if 0x38 ≤ b then 56 else if 0x34 ≤ b then 48 else 40)

/-! ### Element-wise -/

/-- Integer element operations on w-bit codes: results wrap modulo 2^w (R168). -/
def veInt (op w a b d : Nat) : Nat :=
  let m := 2 ^ w
  let sa := sext w a
  let sb := sext w b
  match op with
  | 0x20 => (a + b) % m
  | 0x21 => (a + (m - b % m)) % m
  | 0x22 => (a * b) % m
  | 0x23 => (a * b + d) % m
  | 0x24 => if sa < sb then b else a
  | 0x25 => if sb < sa then b else a
  | 0x26 => if sa < 0 then (m - a) % m else a
  | 0x27 => (m - a) % m
  | 0x28 => a &&& b
  | 0x29 => a ||| b
  | 0x2A => a ^^^ b
  | 0x2B => (a <<< (b % w)) % m
  | 0x2C => wrapInt w (sa / ((2 ^ (b % w) : Nat) : Int))
  | 0x30 => if a = b then 1 else 0
  | 0x31 => if sa < sb then 1 else 0
  | 0x32 => if sa ≤ sb then 1 else 0
  | _ => a

def vabs : Val → Val
  | .nan => .nan
  | .inf _ => .inf false
  | .fin _ m e => .fin false m e

def one : Val := .fin false 1 0
def vzero : Val := .fin false 0 0

/-- Floating-point element operations: the exact result, rounded once to the format (R168, R169). -/
def veFp (op : Nat) (f : Fmt) (a b d : Val) : Nat :=
  let truth := fun (t : Bool) => encode f (if t then one else vzero)
  match op with
  | 0x20 => encode f (vadd a b)
  | 0x21 => encode f (vadd a (vneg b))
  | 0x22 => encode f (vmul a b)
  | 0x23 => encode f (vadd (vmul a b) d)
  | 0x24 => encode f (vmaxv a b)
  | 0x25 => encode f (vminv a b)
  | 0x26 => encode f (vabs a)
  | 0x27 => encode f (vneg a)
  | 0x30 => truth (veq a b)
  | 0x31 => truth (vlt a b)
  | 0x32 => truth (vleq a b)
  | 0x34 => encode f (r32 (vexp2v a))
  | 0x35 => encode f (r32 (vrcp a))
  | 0x36 => encode f (r32 (vrsqv a))
  | _ => encode f a

/-- One element: codes of the first source, the second source and the destination. -/
def veElem (op : Nat) (f : Fmt) (a b d : Nat) : Nat :=
  match f.intWidth with
  | some w => veInt op w a b d
  | none => veFp op f (decode f a) (decode f b) (decode f d)

/-! ### Rows -/

/-- Elements of VSEL selected in a row: those of TB that are not 0; for ZB8, whole blocks (R491). -/
def selected (f : Fmt) (w : IWord) (src : Mem) (tb : Nat) (si : Bool) : List Nat :=
  if f = .zb8 then
    (List.range 15).filter (fun b =>
      if si then let (m, x) := immZb w; x % 256 != 0x80 && m % 256 != 0
      else (mget src (tb + 240 + b)).toNat != 0x80 && (List.range 16).any (fun n => mget src (tb + 16 * b + n) != 0))
  else
    let ic := immCode f w
    (List.range f.perRow).filter (fun j =>
      !isZero (decode f (if si then ic else elemCode f (rowRd src tb) j)))

/-- VSEL over one row: only the selected elements or blocks are written (R490, R491). -/
def selRow (f : Fmt) (w : IWord) (src : Mem) (ta tb td : Nat) (si : Bool) : List TWrite :=
  let sel := selected f w src tb si
  if f = .zb8 then
    sel.flatMap (fun b =>
      (List.range 16).map (fun n => ⟨td + 16 * b + n, 0xFF, mget src (ta + 16 * b + n)⟩)
        ++ [⟨td + 240 + b, 0xFF, mget src (ta + 240 + b)⟩])
      ++ (if sel.isEmpty then [] else [⟨td + 255, 0xFF, 0⟩])
  else rowWrites f td (sel.map (fun j => (j, elemCode f (rowRd src ta) j)))

/-- VCVT over one row of TA; td names the tile, r the row (R170). -/
def cvtRow (f g : Fmt) (p : Nat) (src : Mem) (ta td r : Nat) : List TWrite :=
  let n := min f.perRow (2 * g.perRow)
  let ks := (List.range n).filter (fun m => p * n + m < f.perRow)
  ks.flatMap (fun m =>
    rowWrites g (rowAddr (td + m / g.perRow) r)
      [(m % g.perRow, encode g (decode f (elemCode f (rowRd src (rowAddr ta r)) (p * n + m))))])

/-! ### Reductions (R172 to R176) -/

/-- Pairwise tree of R173 and R174: floats in FP32, integers exactly, converted once to the format. -/
def treeReduce (op : Nat) (f : Fmt) (vs : List Val) : Nat :=
  match op with
  | 0 => if f.intWidth.isSome then encode f (vs.foldl vadd vzero) else encode f (treeSum r32 7 vs)
  | 1 => encode f (match vs with | [] => vzero | v :: t => t.foldl vmaxv v)
  | _ => encode f (match vs with | [] => vzero | v :: t => t.foldl vminv v)

/-! ### Compress and expand (R182 to R187) -/

/-- Rows that the mask at row address b selects. -/
def maskRows (src : Mem) (b : Nat) : List Nat :=
  (List.range 128).filter (fun r => elemCode .int16 (rowRd src b) r != 0)

/-- Row address of packed position q from tile d. -/
def posAddr (d q : Nat) : Nat := rowAddr (d + q / 128) (q % 128)

def satCount (v : Nat) : Nat := min v 0xFFFFFFFF

/-- Counter writes of a compress: the row total, and the tile count unless both name one counter (R183). -/
def compressCounts (w : IWord) (total : Nat) (writeTotal : Bool) : List (Nat × Nat) :=
  let a := immf w 5 0
  let b := immf w 13 8
  (if writeTotal then [(a, satCount total)] else [])
    ++ (if a = b then [] else [(b, satCount (ceilDiv total 128))])

/-! ### One instruction -/

/-- Tile ranges the instruction reads. -/
def veReads (opc : Nat) (w : IWord) (i : Nat) (src : Mem) (cin : Nat) : List (Nat × Nat) :=
  if !veRuns opc w then []
  else
    let b := veBase opc
    let f := (Fmt.ofCode w.opf.toNat).getD .fp32
    let ix := opnd w 0 0 = 1
    let si := opnd w 1 1 = 1
    let ta := tileNo (opnd w 13 8) ix i
    let td := tileNo (opnd w 19 14) ix i
    let rows := if veIsRow opc then [i % 128] else List.range 128
    let tile := fun (t : Nat) => rows.map (fun r => (rowAddr t r, f.rowBytes))
    if 0x40 ≤ opc ∧ opc ≤ 0x43 then
      let mk := rowAddr (opnd w 7 2) (i % 128)
      let sel := maskRows src mk
      let rs := if opc ≤ 0x41 then sel.map (rowAddr ta)
        else (List.range sel.length).map (fun k => posAddr ta (cin + k))
      (mk, 256) :: rs.map (fun a => (a, f.rowBytes))
    else
      let two := !si && (decide (0x20 ≤ b ∧ b ≤ 0x25) || decide (0x28 ≤ b ∧ b ≤ 0x2C) || b == 0x2E
        || decide (0x30 ≤ b ∧ b ≤ 0x32))
      tile ta ++ (if two then tile (tileNo (opnd w 7 2) ix i) else []) ++ (if b = 0x23 then tile td else [])

/-- Tile ranges the instruction may read whatever its mask row holds: a COMPRESS every row of its source, an EXPAND
128 packed positions from its offset (R183, R185). -/
def veSpan (opc : Nat) (w : IWord) (i : Nat) (src : Mem) (cin : Nat) : List (Nat × Nat) :=
  let f := (Fmt.ofCode w.opf.toNat).getD .fp32
  let ta := tileNo (opnd w 13 8) (opnd w 0 0 = 1) i
  if veRuns opc w && decide (0x40 ≤ opc ∧ opc ≤ 0x43) then
    (rowAddr (opnd w 7 2) (i % 128), 256) :: (List.range 128).map (fun k =>
      (if opc ≤ 0x41 then rowAddr ta k else posAddr ta (cin + k), f.rowBytes))
  else veReads opc w i src cin

/-- What a vector engine instruction does, from the tile bytes it reads and its input counter. -/
def veResult (opc : Nat) (w : IWord) (i : Nat) (src : Mem) (cin : Nat) : EngRes :=
  if !veRuns opc w then {}
  else
    let b := veBase opc
    let f := (Fmt.ofCode w.opf.toNat).getD .fp32
    let ix := opnd w 0 0 = 1
    let si := opnd w 1 1 = 1
    let ta := tileNo (opnd w 13 8) ix i
    let tb := tileNo (opnd w 7 2) ix i
    let td := tileNo (opnd w 19 14) ix i
    let rows := if veIsRow opc then [i % 128] else List.range 128
    if b = 0x2D then { out := rows.flatMap (fun r => moveRow f src (rowAddr ta r) (rowAddr td r)) }
    else if b = 0x2E then
      { out := rows.flatMap (fun r => selRow f w src (rowAddr ta r) (rowAddr tb r) (rowAddr td r) si) }
    else if b = 0x37 then
      let g := (cvtTarget w).getD .fp32
      { out := rows.flatMap (fun r => cvtRow f g (opnd w 3 2) src ta td r) }
    else if 0x38 ≤ b ∧ b ≤ 0x3A then
      { out := rows.flatMap (fun r =>
          let v := treeReduce (b - 0x38) f (rowVals f src (rowAddr ta r))
          rowWrites f (rowAddr td r) ((List.range f.perRow).map (fun j => (j, v)))) }
    else if 0x3B ≤ b ∧ b ≤ 0x3D then
      let vs := rows.map (fun r => rowVals f src (rowAddr ta r))
      let cols := (List.range f.perRow).map (fun c => treeReduce (b - 0x3B) f (vs.map (fun x => x.getD c vzero)))
      { out := rows.flatMap (fun r =>
          rowWrites f (rowAddr td r) ((List.range f.perRow).map (fun j => (j, cols.getD j 0)))) }
    else if opc = 0x40 ∨ opc = 0x41 then
      let sel := maskRows src (rowAddr (opnd w 7 2) (i % 128))
      let p := if opc = 0x41 then cin else 0
      { out := (List.range sel.length).flatMap (fun k => moveRow f src (rowAddr ta (sel.getD k 0)) (posAddr td (p + k)))
        counts := compressCounts w (p + sel.length) (opc = 0x40 || !sel.isEmpty) }
    else if opc = 0x42 ∨ opc = 0x43 then
      let sel := maskRows src (rowAddr (opnd w 7 2) (i % 128))
      { out := (List.range sel.length).flatMap (fun k => moveRow f src (posAddr ta (cin + k)) (rowAddr td (sel.getD k 0)))
        counts := if opc = 0x43 ∧ !sel.isEmpty then [(immf w 5 0, satCount (cin + sel.length))] else [] }
    else
      let ic := immCode f w
      { out := rows.flatMap (fun r =>
          let ra := rowRd src (rowAddr ta r)
          let rb := rowRd src (rowAddr tb r)
          let rd := rowRd src (rowAddr td r)
          rowWrites f (rowAddr td r) ((List.range f.perRow).map (fun j =>
            (j, veElem b f (elemCode f ra j) (if si then ic else elemCode f rb j)
              (if b = 0x23 then elemCode f rd j else 0))))) }

/-- Whether the instruction reads counter SYC[IMM[5:0]] as its start or offset (R183, R185). -/
def veReadsCount (opc : Nat) : Bool := decide (0x41 ≤ opc ∧ opc ≤ 0x43)

end Sys2Proof.Machine
end

