-- ==== Sys2Proof/Machine/Reduce.lean ====
section
/-! DEFINITION. What the reduction unit operations compute (Table 4.10, R177 to R179) and their timing. -/

namespace Sys2Proof.Machine

/-- Whether a word of a reduction unit stream runs as its operation (R117). -/
def ruRuns (opc : Nat) (w : IWord) : Bool :=
  match Fmt.ofCode w.opf.toNat with
  | none => false
  | some f => arithFmt f && decide ((0x50 ≤ opc ∧ opc ≤ 0x52) ∨ (0x54 ≤ opc ∧ opc ≤ 0x56))

/-- N, the number of tiles: 0 acts as 1, 49 to 63 as 48 (R127). -/
def ruTiles (w : IWord) : Nat := let n := immf w 5 0; if n = 0 then 1 else min n 48

def ruTiming (opc : Nat) (w : IWord) : Nat × Nat :=
  if !ruRuns opc w then (1, 1) else let n := 64 * ruTiles w; (n, n + 32)

/-- Chain reduction in position order (R178): sums of floats rounded to FP32 at every addition and once
to the format; integers exact. -/
def chainReduce (op : Nat) (f : Fmt) (vs : List Val) : Nat :=
  match op with
  | 0 => if f.intWidth.isSome then encode f (vs.foldl vadd vzero) else encode f (chainSum r32 vs)
  | 1 => encode f (match vs with | [] => vzero | v :: t => t.foldl vmaxv v)
  | _ => encode f (match vs with | [] => vzero | v :: t => t.foldl vminv v)

/-- Segments of R179: the row positions of each, in order. prev is the number of the last row kept. -/
def segments (nums : List Nat) : List (List Nat) :=
  let r := (List.range nums.length).foldl (fun (a : Option Nat × List (List Nat)) q =>
    let n := nums.getD q 0
    if n = 0xFFFF then a
    else if a.1 = some n then
      match a.2 with
      | s :: t => (some n, (q :: s) :: t)
      | [] => (some n, [[q]])
    else (some n, [q] :: a.2)) (none, [])
  (r.2.map List.reverse).reverse

/-- Tile ranges the instruction reads. -/
def ruReads (opc : Nat) (w : IWord) (i : Nat) : List (Nat × Nat) :=
  if !ruRuns opc w then []
  else
    let ix := opnd w 0 0 = 1
    let ta := tileNo (opnd w 13 8) ix i
    let n := ruTiles w
    (List.range n).map (fun k => (rowAddr (ta + k) 0, 32768))
      ++ (if opc ≥ 0x54 then [(rowAddr (tileNo (opnd w 7 2) ix i) 0, 256 * n)] else [])

/-- What a reduction unit instruction does, from the tile bytes it reads. -/
def ruResult (opc : Nat) (w : IWord) (i : Nat) (src : Mem) : EngRes :=
  if !ruRuns opc w then {}
  else
    let f := (Fmt.ofCode w.opf.toNat).getD .fp32
    let ix := opnd w 0 0 = 1
    let ta := tileNo (opnd w 13 8) ix i
    let td := tileNo (opnd w 19 14) ix i
    let n := ruTiles w
    let row := fun (q : Nat) => rowVals f src (rowAddr (ta + q / 128) (q % 128))
    let repl := fun (r v : Nat) => rowWrites f (rowAddr td r) ((List.range f.perRow).map (fun j => (j, v)))
    if opc ≥ 0x54 then
      let tb := rowAddr (tileNo (opnd w 7 2) ix i) 0
      let nums := (List.range (128 * n)).map (fun q => elemCode .int16 (rowRd src (tb + 256 * (q / 128))) (q % 128))
      let segs := segments nums
      { out := (List.range (min 128 segs.length)).flatMap (fun k =>
          let vs := (segs.getD k []).map row
          rowWrites f (rowAddr td k) ((List.range f.perRow).map (fun c =>
            (c, chainReduce (opc - 0x54) f (vs.map (fun x => x.getD c vzero))))))
        counts := [(immf w 13 8, segs.length)] }
    else if opnd w 1 1 = 0 then
      { out := (List.range 128).flatMap (fun r =>
          repl r (chainReduce (opc - 0x50) f ((List.range n).flatMap (fun k => row (128 * k + r))))) }
    else
      let vs := (List.range (128 * n)).map row
      let cols := (List.range f.perRow).map (fun c => chainReduce (opc - 0x50) f (vs.map (fun x => x.getD c vzero)))
      { out := (List.range 128).flatMap (fun r =>
          rowWrites f (rowAddr td r) ((List.range f.perRow).map (fun j => (j, cols.getD j 0)))) }

end Sys2Proof.Machine
end

