-- ==== Sys2Proof/Machine/Frames.lean ====
section
/-! DEFINITION. Fabric frames (R335, Tables 12.6 to 12.8): their header fields, building and reading. -/

namespace Sys2Proof.Machine

/-- The fields of a frame header (Table 12.6). -/
structure Hdr where
  opc : Nat := 0
  vc : Nat := 0
  late : Bool := false
  res0 : Nat := 0
  tpart : Nat := 0
  seq : Nat := 0
  ack : Nat := 0
  cred1 : Nat := 0
  cred2 : Nat := 0
  cluster : Nat := 0
  group : Nat := 0
  len : Nat := 0
  addr : Nat := 0
  space : Nat := 0
  wfmt : Nat := 0
  ack0 : Nat := 0
  res2 : Nat := 0
  arg : Nat := 0
  wopen : Nat := 0
  deriving DecidableEq, Repr

def frameHdr (f : Frame) : Hdr :=
  { opc := bf f.w0 63 56, vc := bf f.w0 55 54, late := bit f.w0 53, res0 := bf f.w0 52 52, tpart := bf f.w0 51 48
    seq := bf f.w0 47 32, ack := bf f.w0 31 16, cred1 := bf f.w0 15 8, cred2 := bf f.w0 7 0
    cluster := bf f.w1 63 59, group := bf f.w1 58 55, len := bf f.w1 54 48, addr := bf f.w1 47 0
    space := bf f.w2 63 60, wfmt := bf f.w2 59 56, ack0 := bf f.w2 55 40, res2 := bf f.w2 39 32
    arg := bf f.w2 31 0, wopen := f.w3.toNat }

def Hdr.w0 (h : Hdr) : W64 :=
  BitVec.ofNat 64 (h.opc % 256 * 2 ^ 56 + h.vc % 4 * 2 ^ 54 + boolNat h.late * 2 ^ 53 + h.tpart % 16 * 2 ^ 48
    + h.seq % 65536 * 2 ^ 32 + h.ack % 65536 * 2 ^ 16 + min 255 h.cred1 * 2 ^ 8 + min 255 h.cred2)

def Hdr.w1 (h : Hdr) : W64 :=
  BitVec.ofNat 64 (h.cluster % 32 * 2 ^ 59 + h.group % 16 * 2 ^ 55 + h.len % 128 * 2 ^ 48 + h.addr % 2 ^ 48)

def Hdr.w2 (h : Hdr) : W64 :=
  BitVec.ofNat 64 (h.space % 16 * 2 ^ 60 + h.wfmt % 16 * 2 ^ 56 + h.ack0 % 65536 * 2 ^ 40 + h.arg % 2 ^ 32)

/-- CRC-32 over header and payload (R335). -/
def frameCrc (w0 w1 w2 w3 : W64) (payload : List Byte) : W32 := crc32 (bytesOf [w0, w1, w2, w3] ++ payload)

/-- A frame as the module sends it: reserved bits 0, CRC over header and payload. -/
def Hdr.frame (h : Hdr) (payload : List Byte) (mask : List Byte := []) : Frame :=
  let w3 := BitVec.ofNat 64 h.wopen
  { w0 := h.w0, w1 := h.w1, w2 := h.w2, w3 := w3, payload := payload, mask := mask
    crc := frameCrc h.w0 h.w1 h.w2 w3 payload, trail := 0 }

def frameCrcOk (f : Frame) : Bool := f.crc == frameCrc f.w0 f.w1 f.w2 f.w3 f.payload

/-- Rebuild a queued frame with the header fields that are fixed only when it is sent. -/
def frameStamp (f : Frame) (g : Hdr → Hdr) : Frame := (g (frameHdr f)).frame f.payload f.mask

def opcWrite : Nat := 0x01
def opcWgann : Nat := 0x02
def opcRfinal : Nat := 0x03
def opcRel : Nat := 0x04
def opcNak : Nat := 0x05
def opcCredit : Nat := 0x06
def opcHalt : Nat := 0x08

end Sys2Proof.Machine
end

