-- ==== Sys2Proof/Machine/Events.lean ====
section
/-! DEFINITION. Halting the module (R453 to R456), scan-out (R459, R460), and the records of the
synchronisation trace and the hazard audit in the proof slice (R87, R461). -/

namespace Sys2Proof.Machine

/-! ### Scan-out -/

/-- Bytes of the cluster area of a proof (Table 18.3), offsets from the cluster's 4 MiB. -/
def clusterProof (x : Cluster) : List (Nat × List Byte) :=
  let w32 := fun (v : Nat) => leBytes 4 v
  let streams := (List.range 7).map (fun e =>
    let st : Stream := sget {} x.streams e
    let lv := fun (k : Nat) => match st.loops.reverse[k]? with
      | some l => w32 l.count ++ w32 l.i ++ w32 l.first
      | none => List.replicate 12 0
    (0x380100 + 64 * e,
      w32 st.pc ++ w32 (match st.held with | some h => h.unmet | none => 0)
        ++ (List.range 4).flatMap lv))
  let queues := (List.range 7).flatMap (fun e =>
    let q := ((sget {} x.streams e : Stream).queue).take 64
    (List.zip (List.range q.length) q).map (fun w => (0x381000 + 1024 * e + 16 * w.1, bytesOf [w.2.lo, w.2.hi])))
  let banks := (List.range 8).map (fun k =>
    let b : Bank := sget {} x.banks k
    (0x380400 + 8 * k,
      [match b.kind with | .exact => (0 : Byte) | .float => 1 | .anchored => 2] ++ [0, 0, 0]
        ++ w32 (wrapInt 32 b.anchor)))
  let queue := x.mv.filter (fun o => !o.done && o.imp.isNone)
  let mvs := (List.range (min 32 queue.length)).map (fun k =>
    match queue[k]? with
    | some o => (0x383000 + 32 * k, leBytes 16 (packWord o.opc o.w) ++ w32 o.idx ++ w32 o.it ++ leBytes 8 o.issueNs)
    | none => (0x383000, []))
  let rs := x.mv.flatMap (·.ranges) ++ x.shares.flatMap (fun sh => sh.2.flatMap (·.ranges))
  let ranges := (List.range (min 32 rs.length)).map (fun k =>
    match rs[k]? with
    | some r => (0x383400 + 16 * k, w32 r.lo ++ w32 r.len ++ w32 (boolNat r.tile) ++ w32 (boolNat r.write))
    | none => (0x383400, []))
  let shares := (List.range 4).flatMap (fun n =>
    let ops : List ImpOp := sget [] x.shares n
    (List.range (min 8 ops.length)).map (fun k =>
      match ops[k]? with
      | some o => (0x384000 + 64 * (8 * n + k), (bytesOf ([o.d0, o.d1] ++ o.more)).take 64)
      | none => (0x384000, [])))
  let formes := x.formes.filterMap (fun e => e.2.map (fun (f : Forme) =>
    (0x390000 + 64 * e.1, bytesOf [f.w0, f.w1, f.w2, f.w3, f.w4, f.w5, f.w6, f.w7])))
  [(0x380000, (List.range 64).flatMap (fun n => w32 (sget 0 x.sycs n)))] ++ streams ++ queues ++ banks
    ++ [(0x380500, leBytes 8 x.cyc)] ++ mvs ++ ranges ++ shares ++ formes

/-- Bytes of one accumulator element in a proof (R459). -/
def accProof (a : Acc) : List Byte :=
  leBytes 16 (a.field.toNat + boolNat a.infP * 2 ^ 120 + boolNat a.infN * 2 ^ 121 + boolNat a.nan * 2 ^ 122)

/-- Write the layout of Table 18.2 into case-store memory at base. -/
def proofMem (s : State) (base : Nat) (m : Mem) : Mem :=
  let clearLen := 0x8100000
  let m := mzero m base clearLen
  let head := [0x52, 0x50, 0, 0, 0, 0, 0, 0] ++ leBytes 8 (s.reg rTrcHtime).toNat ++ leBytes 8 (s.reg rTrcHstat).toNat
    ++ leBytes 8 (s.reg rHostClmap).toNat ++ leBytes 2 (s.fld rTrcHstat 62 60) ++ leBytes 2 (s.fld rTrcHstat 47 32)
  let m := mput m base head
  let flags := (List.range 64).map (fun k =>
    BitVec.ofNat 8 ((List.range 8).foldl (fun a j => a + boolNat (s.flag (k / 32) (8 * (k % 32) + j)).val * 2 ^ j) 0))
  let m := mput m (base + 0x40) flags
  s.clusters.foldl (fun m e =>
    let b := base + 0x100000 + e.1 * 0x400000
    let x := e.2
    let m := x.tiles.foldl (fun m t => mset m (b + t.1) t.2) m
    let m := x.banks.foldl (fun m k =>
      k.2.elems.foldl (fun m a => mput m (b + 0x180000 + (16384 * k.1 + a.1) * 16) (accProof a.2)) m) m
    (clusterProof x).foldl (fun m p => mput m (b + p.1) p.2) m) m

/-- Start a scan-out of the slice that PROOF names now (R460): refused with ERR when any valid template grants it. -/
def State.scanStart (s : State) : State :=
  let slice := s.fld rTrcProof 4 0
  let s := s.setBit rTrcProof 61 false
  if (s.partOfSlice slice).isSome then s.setBit rTrcProof 60 true
  else ((s.setBit rTrcProof 60 false).setBit rTrcProof 62 true).withHalt { s.halt with slice := slice }

/-! ### Halt -/

/-- A HALT frame for every selected link that is up, ahead of what has not started yet, and on MIR (R456). from: the
link the causing frame came in by, 48 for MIR. -/
def State.sendHalts (s : State) (from_ : Option Nat) (hid cause hops : Nat) : State :=
  if hops > 4 then s
  else
    let f : Frame := ({ opc := opcHalt, vc := 2, arg := hid * 2 ^ 16 + cause * 2 ^ 8 + hops, wopen := s.now % 2 ^ 64 } : Hdr).frame []
    let ls := (List.range 48).filter (fun l =>
      s.fbit rTrcHalt l && some l != from_ && s.fld (rLst l) 63 62 == 2)
    let s := ls.foldl (fun s l => s.modLink l (fun x => { x with outQ := f :: x.outQ })) s
    if s.fbit rTrcHalt 60 && from_ != some 48 then
      s.withMirror { s.mirror with halts := s.mirror.halts ++ [f] }
    else s

/-- Latch a halt (R453): a cause that arrives while halted only counts in IGN. hops is the HOPS of the
causing frame; the frames this module sends carry one more, an originator's 0 (R456). -/
def State.haltNow (s : State) (cause : Nat) (from_ : Option Nat) (hid : Option Nat) (origCause hops : Nat) : State :=
  if s.halted then s.incFld rTrcHstat 15 0
  else
    let own := s.halt.own + 1
    let id := match hid with
      | some h => h
      | none => bf (s.keepStored 1) 7 0 * 256 + own % 256
    let s := s.withHalt { s.halt with own := if hid.isSome then s.halt.own else own, haltedAt := s.now }
    let s := s.setFld rTrcHstat 63 63 1
    let s := s.setFld rTrcHstat 62 60 cause
    let s := s.setFld rTrcHstat 59 57 hops
    let s := s.setFld rTrcHstat 56 51 (from_.getD 0)
    let s := s.setFld rTrcHstat 47 32 id
    let s := s.setReg rTrcHtime s.nowWord
    let s := s.sendHalts from_ id origCause (if hid.isSome then hops + 1 else 0)
    if s.fbit rTrcHalt 61 then s.scanStart else s

/-- A halt that this module originates. -/
def State.haltOwn (s : State) (cause : Nat) : State := s.haltNow cause none none cause 0

/-! ### Trace and audit records -/

/-- Longest time between two turns of the share of records, 3 % of a crossbar's turns of 64 cc, in ns (R131, R463). -/
def recordTurn : Nat := 1088

/-- Whether a trace record of C-die d exceeds the share of R463: never when the die has written none for as long as the
share's turns lie apart, and a free choice otherwise. DEDUCED (log 105). -/
def State.overShare (s : State) (d : Nat) : Bool × State :=
  match sget none s.halt.recAt d with
  | some t => if s.now < t + recordTurn then s.choose else (false, s)
  | none => (false, s)

/-- Write a 16-byte record of cluster c into a buffer of the proof slice (R87, R461): base and size registers at
kBuf, LOST and WR_IDX at kStat; tooMany: it exceeds its share. Whether it was written, not dropped. -/
def State.traceRecord (s : State) (c kBuf kStat maxSize : Nat) (w0 w1 : W64) (tooMany : Bool) : Bool × State :=
  let base := bf (s.reg kBuf) 33 12 * 4096
  let n := 2 ^ min maxSize (s.fld kBuf 3 0) * 256
  let ix := s.fld kStat 31 0
  let a := base + 16 * ix
  if ix ≥ n ∨ a / 2 ^ 28 ≠ s.fld rTrcProof 4 0 ∨ tooMany then (false, s.incFld kStat 63 32)
  else
    let s := s.writeBytes (putsAt .case a (bytesOf [w0, w1])) false
    let s := s.withHalt { s.halt with recAt := sset none s.halt.recAt (c / 16) (some s.now) }
    (true, s.setFld kStat 31 0 (ix + 1))

/-- Audit record of one read (Table 3.6); R87 drops none for the share of R463. -/
def State.auditRecord (s : State) (c reader writer rIdx wIdx early time : Nat) : State :=
  (s.traceRecord c rTrcAuditBuf rTrcAuditStat 8 (BitVec.ofNat 64 time)
    (BitVec.ofNat 64 (c * 2 ^ 59 + reader * 2 ^ 56 + writer * 2 ^ 53 + rIdx % 2 ^ 14 * 2 ^ 34
      + wIdx % 2 ^ 14 * 2 ^ 20 + min early 0xFFFF)) false).2

/-- Trace record of one wait (Table 18.5), with the halt of R462 where the record was written. -/
def State.waitRecord (s : State) (c eng kind target whom : Nat) (str : Bool) (began ns cyc : Nat) : State :=
  let (tooMany, s) := s.overShare (c / 16)
  let (kept, s) := s.traceRecord c rTrcTbuf rTrcTstat 12 (BitVec.ofNat 64 began)
    (BitVec.ofNat 64 (c * 2 ^ 59 + eng * 2 ^ 56 + kind % 8 * 2 ^ 53 + target % 512 * 2 ^ 44 + whom % 64 * 2 ^ 38
      + boolNat str * 2 ^ 37 + min ns 131071 * 2 ^ 20 + cyc % 2 ^ 20)) tooMany
  let trig := s.fld rTrcTctl 15 0
  if kept ∧ trig ≠ 0 ∧ ns > trig * 1000 then s.haltOwn 5 else s

end Sys2Proof.Machine
end

