-- ==== Sys2Proof/Machine/Flags.lean ====
section
/-! DEFINITION. Sync counters and die flags: changes, visibility (Table 3.8), wait conditions (Table 3.7,
R112, R113), grants (R91) and signals (R93, R114). -/

namespace Sys2Proof.Machine

/-! ### Sync counters -/

/-- Add 1 to a counter, saturating, seen by waits 2 cc later (R89, R94). A saturated counter does not change. -/
def Cluster.sycAdd (x : Cluster) (n eng cyc : Nat) : Cluster :=
  { x with
    sycs := sset 0 x.sycs n (satTo 32 (sget 0 x.sycs n + 1))
    sycFresh := if sget 0 x.sycs n < 2 ^ 32 - 1 then x.sycFresh ++ [(n, cyc + 2)] else x.sycFresh
    sycBy := sset 0 x.sycBy n (eng + 1) }

/-- Write a count into a counter (R179, R183, R185); an earlier increment is lost (R187). Waits see the count at
once. DESIGN CHOICE (log 89). -/
def Cluster.sycSet (x : Cluster) (n v eng : Nat) : Cluster :=
  { x with
    sycs := sset 0 x.sycs n (satTo 32 v)
    sycFresh := x.sycFresh.filter (fun e => e.1 != n)
    sycBy := sset 0 x.sycBy n (eng + 1) }

/-- A counter as the cluster's waits see it now. -/
def Cluster.sycSeen (x : Cluster) (n : Nat) : Nat :=
  sget 0 x.sycs n - (x.sycFresh.filter (fun e => e.1 == n && decide (x.cyc < e.2))).length

/-- Forget increments that every wait sees. -/
def Cluster.sycDrop (x : Cluster) : Cluster :=
  { x with sycFresh := x.sycFresh.filter (fun e => decide (x.cyc < e.2)) }

/-! ### Die flags -/

/-- Delay in cc until a cluster of die d sees a change on board b: 12, or 40 across (Table 3.8). -/
def flagDelay (d b : Nat) : Nat := if d = b then 12 else 40

/-- Whether cluster c sees a change made on board die, counted in its own cycles (R7, R94). -/
def State.sees (s : State) (c die : Nat) (h : FlagChange) : Bool :=
  decide (h.cycs.getD c 0 + flagDelay (c / 16) die ≤ (s.cluster c).cyc)

/-- A flag as cluster c sees it: the value before the first change it does not see yet (R94, R280). -/
def State.flagSeen (s : State) (c die n : Nat) : Bool :=
  match (s.flag die n).changes.find? (fun h => !s.sees c die h) with
  | some h => h.old
  | none => (s.flag die n).val

/-- Change a flag on its board, at an instant given by the cycle counts of the clusters (R90, R280). A change that every
cluster sees is forgotten. -/
def State.setFlagAt (s : State) (die n : Nat) (v : Bool) (who : Nat) (cycs : List Nat) : State :=
  let f := s.flag die n
  if f.val = v then s.withFlags (sset {} s.flags (flagKey die n) { f with who := who })
  else
    let live := f.changes.filter (fun h => (List.range 32).any (fun c => !s.sees c die h))
    s.withFlags (sset {} s.flags (flagKey die n) { val := v, who := who, changes := live ++ [⟨f.val, cycs⟩] })

/-- Change a flag on its board now. -/
def State.setFlag (s : State) (die n : Nat) (v : Bool) (who : Nat) : State :=
  s.setFlagAt die n v who ((List.range 32).map (fun c => (s.cluster c).cyc))

/-- Cycle counts of the clusters when cluster c was, or will be, at cycle t, its own count standing at base now. -/
def State.cycsAt (s : State) (c base t : Nat) : List Nat :=
  (List.range 32).map (fun k => if k = c then t else (s.cluster k).cyc + t - base)

/-- Whether the flag is granted to the cluster's partition (R91). -/
def State.flagGranted (s : State) (c die n : Nat) : Bool :=
  match s.partOf c with
  | some p => (s.tmpl p).hasFlag die n
  | none => false

/-! ### Wait conditions -/

/-- Entries of the MV transfer queue: every MV operation but IMP, from issue until completion (R128). -/
def Cluster.mvQueue (x : Cluster) : Nat := (x.mv.filter (fun o => o.opc != 0x64 && !o.done)).length

def Cluster.share (x : Cluster) (n : Nat) : List ImpOp := sget [] x.shares n

/-- Die and number of a flag target field. -/
def flagTarget (t : BitVec 9) : Nat × Nat := (bf t 8 8, bf t 7 0)

def isFlagKind (k : BitVec 3) : Bool := k == 2 || k == 3 || k == 4

/-- Whether one condition holds as the engine sees it (Table 3.7, Table 4.2). A condition on an ungranted
flag counts as met (R91). -/
def State.condHolds (s : State) (c : Nat) (k : BitVec 3) (t : BitVec 9) (w : IWord) (i : Nat) : Bool :=
  let x := s.cluster c
  let (d, n) := flagTarget t
  match k.toNat with
  | 1 => decide ((x.sycSeen (bf t 5 0) : Int) ≥ w.base.toInt + (w.stride.toNat * i : Nat))
  | 2 | 3 => !s.flagGranted c d n || s.flagSeen c d n
  | 4 => !s.flagGranted c d n || !s.flagSeen c d n
  | 5 => decide (x.mvQueue ≤ bf t 4 0)
  | 6 => decide ((x.share (bf t 4 3)).length ≤ bf t 2 0)
  | _ => true

/-- Whether a word names a flag that is not granted, in a wait or in its signal (R91). A word that runs as NOP, END or
LOOP raises no fault for it (R117, R119). DEDUCED (log 88). -/
def State.flagFault (s : State) (c : Nat) (w : IWord) : Bool :=
  let bad := fun (t : BitVec 9) => let (d, n) := flagTarget t; !s.flagGranted c d n
  (isFlagKind w.w0K && bad w.w0T) || (isFlagKind w.w1K && bad w.w1T) || (w.sigK == 2 && bad w.sigT)

/-- Whether an FLG_ACQ condition of the word acts as one: a granted flag and a read cache in use (R277). -/
def State.acquires (s : State) (c : Nat) (w : IWord) : Bool :=
  let q := fun (k : BitVec 3) (t : BitVec 9) => k == 2 && (let (d, n) := flagTarget t; s.flagGranted c d n)
  decide ((s.cluster c).rcSize > 0) && (q w.w0K w.w0T || q w.w1K w.w1T)

/-- Invalidate the read cache; fetches in flight are not kept (R276). -/
def Cluster.cacheDrop (x : Cluster) : Cluster :=
  { x with cache := [], mv := x.mv.map (fun o => { o with fills := [] }) }

/-! ### Signals -/

/-- The signal of an instruction that completed in cycle cyc, while the cluster's count stands at base (R93, R114); one on
an ungranted flag is discarded (R91). -/
def State.signal (s : State) (c eng : Nat) (w : IWord) (cyc : Nat) (base : Nat := (s.cluster c).cyc) : State :=
  match w.sigK.toNat with
  | 1 => s.modCluster c (fun x => x.sycAdd (bf w.sigT 5 0) eng cyc)
  | 2 =>
    let (d, n) := flagTarget w.sigT
    if s.flagGranted c d n then s.setFlagAt d n true c (s.cycsAt c base cyc) else s
  | _ => s

/-! ### Host errors (R13, R15, R391) -/

/-- A byte of the event ring of function f, or its HEAD, TAIL or LOST, takes the free value at choice k of n. -/
def State.spoilRing (s : State) (f n k : Nat) : State :=
  let x := fun (j : Nat) => (Config.freeWord n (8 * k + j)).toNat
  match x 3 % 4 with
  | 0 => s.setFld (rEhead f) 15 0 (x 4)
  | 1 => s.setFld (rEstat f) 15 0 (x 4)
  | 2 => s.setFld (rEstat f) 63 32 (x 4)
  | _ =>
    let base := s.reg (rEbase f)
    s.withHostMem (mset s.hostMem (bf base 63 12 * 4096 + x 4 % (32 * ringSize base)) (BitVec.ofNat 8 (x 1)))

/-- One of the values that a host error of partition p may change, at choice k of free number n: a byte of its
memory, of a tile or of instruction memory of its clusters, a sync counter or an accumulator element, a flag, a
word of its request entries or galley, a galley pointer, or its event ring. Nothing else changes. -/
def State.spoil (s : State) (p n k : Nat) : State :=
  let t := s.tmpl p
  let x := fun (j : Nat) => (Config.freeWord n (8 * k + j)).toNat
  let b : Byte := BitVec.ofNat 8 (x 1)
  let c := x 2 % 32
  let own := fun (f : Cluster → Cluster) => if t.hasCluster c then s.modCluster c f else s
  match x 0 % 11 with
  | 0 => match s.xl p (x 3 % 3) c (x 4) with
    | some (sp, a) => s.withMem sp (mset (s.memOf sp) a b)
    | none => s
  | 1 => own (fun y => { y with tiles := mset y.tiles (x 4 % (48 * 32768)) b })
  | 2 => own (fun y => { y with imem := mset y.imem (x 4 % 2 ^ 18) b })
  | 3 => own (fun y => { y with sycs := sset 0 y.sycs (x 3 % 64) (x 4 % 2 ^ 32) })
  | 4 => own (fun y =>
      let k := sget {} y.banks (x 3 % 8)
      let a : Acc := { field := BitVec.ofNat 120 (x 5 * 2 ^ 64 + x 6), infP := x 7 % 2 = 1, infN := x 7 / 2 % 2 = 1
                       nan := x 7 / 4 % 2 = 1 }
      { y with banks := sset {} y.banks (x 3 % 8) { k with elems := sset {} k.elems (x 4 % 16384) a } })
  | 5 => if t.hasFlag (x 3 % 2) (x 4 % 256) then s.setFlag (x 3 % 2) (x 4 % 256) (x 5 % 2 = 1) 63 else s
  | 6 =>
    if t.rqCount = 0 then s
    else
      let v := Config.freeWord n (8 * k + 5)
      s.modReq (t.rqBase + x 3 % t.rqCount) (fun r => match x 4 % 8 with
        | 0 => { r with w0 := v } | 1 => { r with w1 := v } | 2 => { r with w2 := v } | 3 => { r with w3 := v }
        | 4 => { r with w4 := v } | 5 => { r with w5 := v } | 6 => { r with w6 := v } | _ => { r with w7 := v })
  | 7 => s.setReg (rGalley p (x 3 % t.depth) + 8 * (x 4 % 8)) (Config.freeWord n (8 * k + 5))
  | 8 => s.setFld (rGtail (p + 1)) 9 0 (x 4)
  | 9 => s.setFld (rGhead (p + 1)) 9 0 (x 4)
  | _ => s.spoilRing (p + 1) n k

/-- The result of a host error of partition p (Table 14.8): a free number of values that the partition itself could
write take free values. It hangs nothing and reaches no other partition (R13, R391). -/
def State.unpredictable (s : State) (p : Nat) : State :=
  let n := s.free
  (List.range (Config.freeWord n 0).toNat).foldl (fun s k => s.spoil p n (k + 1)) (s.withFree (n + 1))

/-- The result of a host error in the event ring of function f. The physical function has no partition: its error
reaches its event ring alone. -/
def State.ringSpoiled (s : State) (f : Nat) : State :=
  if f = 0 then
    let n := s.free
    (List.range (Config.freeWord n 0).toNat).foldl (fun s k => s.spoilRing 0 n (k + 1)) (s.withFree (n + 1))
  else s.unpredictable (f - 1)

end Sys2Proof.Machine
end

