-- ==== Sys2Proof/Machine/Issue.lean ====
section
/-! DEFINITION. Issue and completion on ME0 to ME3, VE and RU: results landing at static completion (R81),
reads before it (R83, R121), counter forwarding (R184), waits and acquire (R92, R277), the tracker's hold
(R84), hardware loops (R96 to R101) and the end of a stream (R76). -/

namespace Sys2Proof.Machine

/-! ### Tile writes that take effect -/

def overlaps (lo len lo' len' : Nat) : Bool := decide (lo < lo' + len') && decide (lo' < lo + len)

def inRanges (rs : List (Nat × Nat)) (a : Nat) : Bool :=
  rs.any (fun r => decide (r.1 ≤ a) && decide (a < r.1 + r.2))

def applyTile (m : Mem) (ws : List TWrite) : Mem := ws.foldl (fun m w => mmask m w.addr w.mask w.val) m

/-- Distinct aligned 32-bit words among addresses that lie in the ranges. -/
def wordsHit (rs : List (Nat × Nat)) (ws : List TWrite) : List Nat :=
  ws.foldl (fun acc w => if inRanges rs w.addr && !acc.contains (w.addr / 4) then acc ++ [w.addr / 4] else acc) []

/-- Answer each word of a read that meets a write with its old or its new value (R83, R121, R274), but for words that
have been read: the source, the next free choice, the words hit, and those that keep their old value. -/
def oldOrNew (rs : List (Nat × Nat)) (ws : List TWrite) (src : Mem) (free : Nat) (kept : List Nat := []) :
    Mem × Nat × List Nat × List Nat :=
  let ks := (wordsHit rs ws).filter (fun k => !kept.contains k)
  let new := (List.range ks.length).filter (fun j => Config.freeBool (free + j))
  let sel := new.map (fun j => ks.getD j 0)
  (applyTile src (ws.filter (fun w => sel.contains (w.addr / 4))), free + ks.length, ks,
      ks.filter (fun k => !sel.contains k))

/-- What an instruction of engine e does. -/
def engResult (e opc : Nat) (w : IWord) (i : Nat) (src : Mem) (bank : Bank) (cin : Nat) : EngRes :=
  if e < 4 then meResult e opc w i src bank
  else if e = engVe then veResult opc w i src cin
  else ruResult opc w i src

/-- Tile bytes an instruction of engine e reads. -/
def engReads (e opc : Nat) (w : IWord) (i : Nat) (src : Mem) (cin : Nat) : List (Nat × Nat) :=
  if e < 4 then meReads opc w i else if e = engVe then veReads opc w i src cin else ruReads opc w i

/-- Tile bytes an instruction of engine e may read, whatever its mask row holds. -/
def engSpan (e opc : Nat) (w : IWord) (i : Nat) (src : Mem) (cin : Nat) : List (Nat × Nat) :=
  if e = engVe then veSpan opc w i src cin else engReads e opc w i src cin

/-- Count that an instruction in flight will write into a counter. -/
def Flight.countOf (f : Flight) (n : Nat) : Option Nat := ((f.counts.filter (fun k => k.1 == n)).getLast?).map (·.2)

/-- An instruction with what it does under what it has read, acc the instructions in flight before it: words new
from a producer, the bank that the one before it leaves, and a count forwarded to it (R83, R122, R184). -/
def Flight.run (acc : List Flight) (f : Flight) : Flight :=
  let from_ := fun (e t : Nat) => acc.find? (fun g => g.eng == e && g.issueCc == t)
  let src := f.news.foldl (fun m k => match from_ k.2.1 k.2.2 with
    | some g => applyTile m (g.out.filter (fun w => w.addr / 4 == k.1))
    | none => m) f.src
  let bin := match f.bankPrev.bind (from_ f.eng) with
    | some g => g.bankOut
    | none => f.bankIn
  let cin := ((f.cinFrom.bind (from_ f.eng)).bind (fun g => g.countOf (immf f.w 5 0))).getD f.cin
  let r := engResult f.eng f.opc f.w f.it src ((bin.map (·.2)).getD {}) cin
  { f with
    cin := cin
    reads := engReads f.eng f.opc f.w f.it src cin, bankIn := bin, bankOut := r.bank, out := r.out
    counts := r.counts, fault := if f.fault = some fltBound then f.fault else r.fault }

/-- The instructions in flight, in issue order, recomputed from what they have read. -/
def recompute (fs : List Flight) : List Flight := fs.foldl (fun acc f => acc ++ [f.run acc]) []

/-- Whether a word lies in some ranges of bytes. -/
def wordIn (rs : List (Nat × Nat)) (k : Nat) : Bool := rs.any (fun r => overlaps r.1 r.2 (4 * k) 4)

/-- Latest of the writes to words that the instruction reads, which R86 records: engine code, index and cycle. -/
def Flight.early (f : Flight) : Option (Nat × Nat × Nat) :=
  (f.met.filter (fun m => m.2.2.2.any (wordIn f.reads))).foldl (fun a m => match a with
    | some x => if m.2.2.1 < x.2.2 then a else some (m.1, m.2.1, m.2.2.1)
    | none => some (m.1, m.2.1, m.2.2.1)) none

/-- Tile writes take effect at cycle t. A read whose interval holds t meets them (R121); the interval includes
its last instant, issue + issue interval. DEDUCED (log 84). mv names the MV or imposition instruction that wrote
them, for the audit (R86); own the engine instruction, by engine and cycle of issue. -/
def State.tileWrite (s : State) (c : Nat) (ws : List TWrite) (t : Nat) (mv : Option Nat)
    (own : Option (Nat × Nat) := none) : State :=
  let x := s.cluster c
  let (fl, free, any_) := x.flight.foldl (fun (a : List Flight × Nat × Bool) f =>
    let mine := f.news.filter (fun k => own == some k.2)
    let f := { f with
      news := f.news.filter (fun k => own != some k.2)
      src := applyTile f.src (ws.filter (fun w => mine.any (fun k => k.1 == w.addr / 4))) }
    if f.issueCc ≤ t ∧ t ≤ f.readEnd then
      let (src, fr, hit, old) := oldOrNew f.span ws f.src a.2.1 f.kept
      let met := match mv with
        | some idx => f.met ++ [(engMv, idx, t, wordsHit f.span ws)]
        | none => f.met
      (a.1 ++ [{ f with src := src, met := met, kept := f.kept ++ old }], fr, a.2.2 || !hit.isEmpty)
    else (a.1 ++ [f], a.2.1, a.2.2 || !mine.isEmpty)) ([], s.free, false)
  (s.setCluster c { x with
    tiles := applyTile x.tiles ws
    flight := if any_ then recompute fl else x.flight }).withFree free

/-! ### Static completion -/

/-- The bank as an instruction leaves it, unless one issued later has left it already (R122). -/
def Cluster.landBank (x : Cluster) (f : Flight) : Cluster :=
  match f.bankOut with
  | some (k, b) =>
    if f.issueCc < sget 0 x.bankAt k then x
    else { x with banks := sset {} x.banks k b, bankAt := sset 0 x.bankAt k (f.issueCc + 1) }
  | none => x

/-- The instruction's results are written, its counts and signal act, its fault posts (R81, R93, R133), while the
cluster's count stands at base. Where it signals a counter that it writes a count into, the count comes first. DESIGN
CHOICE (log 114). -/
def State.land (s : State) (c base : Nat) (f : Flight) : State :=
  let s := s.modCluster c (fun x => { x with
    flight := x.flight.filter (fun g => !(g.eng == f.eng && g.issueCc == f.issueCc && g.idx == f.idx
        && g.due == f.due)) })
  let s := s.tileWrite c f.out f.due none (some (f.eng, f.issueCc))
  let s := s.modCluster c (fun x => x.landBank f)
  let s := f.counts.foldl (fun s n => s.modCluster c (fun x => x.sycSet n.1 n.2 f.eng)) s
  let s := s.signal c f.eng f.w f.due base
  let s := match f.early with
    | some (we, wi, t) =>
      match s.runOf c with
      | some (p, _) =>
        if s.fbit rTrcAudit p then s.auditRecord c f.eng we f.idx wi (t - f.issueCc) f.issueNs else s
      | none => s
    | none => s
  match f.fault with
  | some k => s.postFault c f.eng f.idx f.issueNs k
  | none => s

/-- The due instruction that completes first; between two of one cycle a free choice decides (R189), for all the words
that both write. DESIGN CHOICE (log 22). -/
def firstDue (fs : List Flight) (cyc free : Nat) : Option Flight :=
  let ready := fs.filter (fun f => decide (f.due ≤ cyc))
  match pickBy (fun a b => a.due < b.due) ready with
  | none => none
  | some f =>
    let ties := ready.filter (fun g => g.due == f.due)
    if ties.length ≥ 2 ∧ Config.freeBool free then ties.getLast? else some f

/-- Cycle in which the oldest MV instruction signals, when it has completed and that cycle has come (R93). -/
def Cluster.mvDue (x : Cluster) : Option Nat :=
  match x.mv with
  | o :: _ => if o.done && decide (o.due ≤ x.cyc) then some o.due else none
  | [] => none

/-- The oldest MV instruction signals and leaves; the next signals no sooner than it. -/
def State.mvSignal (s : State) (c base : Nat) : State :=
  match (s.cluster c).mv with
  | o :: o' :: t =>
    (s.modCluster c (fun x => { x with mv := { o' with due := max o'.due o.due } :: t })).signal c engMv o.w o.due base
  | o :: [] => (s.modCluster c (fun x => { x with mv := [] })).signal c engMv o.w o.due base
  | [] => s

/-- Land every instruction of the cluster that is due, in the order of completion, with the signals of MV
instructions among them. -/
def State.settleN (s : State) (c base : Nat) : Nat → State
  | 0 => s
  | n + 1 =>
    let x := s.cluster c
    match firstDue x.flight x.cyc s.free, x.mvDue with
    | none, none => s
    | none, some _ => (s.mvSignal c base).settleN c base n
    | some f, m =>
      if m.any (fun t => decide (t < f.due)) then (s.mvSignal c base).settleN c base n
      else ((s.withFree (s.free + 1)).land c base f).settleN c base n

/-- What is due on a cluster lands; its count has stood at base since the last tick. -/
def State.settleFrom (s : State) (c base : Nat) : State :=
  let x := s.cluster c
  if x.flight.isEmpty && x.mvDue.isNone then s else s.settleN c base (x.flight.length + x.mv.length)

def State.settle (s : State) (c : Nat) : State := s.settleFrom c (s.cluster c).cyc

/-! ### Streams -/

def State.stream (s : State) (c e : Nat) : Stream := sget {} (s.cluster c).streams e

def State.setStream (s : State) (c e : Nat) (st : Stream) : State :=
  s.modCluster c (fun x => { x with streams := sset {} x.streams e st })

/-- i of the innermost open loop, 0 outside every loop (R100). -/
def Stream.iter (st : Stream) : Nat :=
  match st.loops with
  | [] => 0
  | l :: _ => l.i

/-- First index that an engine's instruction queue holds: the next instruction, or the start of the outermost open
loop whose body repeats from the queue (R101). -/
def Stream.base (st : Stream) : Nat :=
  match st.loops.reverse.find? (fun l => decide (l.len ≤ 64)) with
  | some l => l.first
  | none => st.pc

/-- Fetch fills a stream's instruction queue: 64 words from its first index on, none beyond LAST (R105, R106). Words
already in the queue stay as fetched. The queue fills at once. DESIGN CHOICE (log 85). -/
def Cluster.fetch (x : Cluster) (st : Stream) : Stream :=
  let n := if st.live then min 64 (st.last + 1 - st.base) else 0
  { st with queue := (List.range n).map (fun k =>
      match st.queue.find? (fun q => q.idx == st.base + k) with
      | some q => q
      | none => ⟨st.base + k, mword x.imem (16 * (st.base + k)), mword x.imem (16 * (st.base + k) + 8)⟩) }

/-- A stream moves on, and fetch follows it. -/
def State.advance (s : State) (c e : Nat) (st : Stream) : State := s.setStream c e ((s.cluster c).fetch st)

/-- Where the stream goes on from index p: back to a loop's body while iterations remain, out of every
loop that ends there (R96, R101). Answers the index, the open loops, and the refetch cost in cc, charged on each
return to the start of a longer body. DESIGN CHOICE (log 93). -/
def nextIndex (p : Nat) : List LoopLevel → Nat × List LoopLevel × Nat
  | [] => (p, [], 0)
  | l :: t =>
    if p < l.first + l.len then (p, l :: t, 0)
    else if l.i + 1 < l.count then
      (l.first, { l with i := l.i + 1 } :: t, if l.len > 64 then 4 else 0)
    else nextIndex p t

/-- Move a stream past its instruction; an index beyond LAST acts as END (R76). -/
def Stream.goOn (st : Stream) (p : Nat) (loops : List LoopLevel) (next : Nat) : Stream :=
  let (q, ls, cost) := nextIndex p loops
  { st with pc := q, loops := ls, nextCc := next + cost, held := none, acq := none, live := decide (q ≤ st.last) }

/-! ### Waits -/

/-- What becomes of an attempt to issue. -/
inductive Gate where
  /-- Not now: nothing issues. -/
  | hold (s : State)
  /-- The instruction issues in this cycle. -/
  | go (s : State)

/-- KIND, TARGET and WHOM of a trace record (Table 18.5). -/
def State.waitWhom (s : State) (c : Nat) (k : BitVec 3) (t : BitVec 9) : Nat :=
  let (d, n) := flagTarget t
  match k.toNat with
  | 1 => let v := sget 0 (s.cluster c).sycBy (bf t 5 0); if v = 0 then 63 else v - 1
  | 2 | 3 | 4 => (s.flag d n).who
  | _ => 63

/-- A cycle of cluster c counts for event ev, once whatever number of engines it concerns (R465). -/
def State.countCc (s : State) (c ev cyc : Nat) : State :=
  match s.runOf c with
  | some (p, _) =>
    if (s.cluster c).counted.contains (ev, cyc) then s
    else
      (s.modCluster c (fun x => { x with
        counted := (x.counted.filter (fun e => decide (cyc < e.2 + 2))) ++ [(ev, cyc)] })).perf ev p (some c) 1
  | none => s

/-- The wait of stream e is over, if one was held: its record (R461), with the condition met last, and the cycles of this
ns that it still held (event 3). -/
def State.endWait (s : State) (c e : Nat) (w : IWord) (base : Nat) : State :=
  let st := s.stream c e
  match st.held with
  | none => s
  | some h =>
    let x := s.cluster c
    let s := s.setStream c e { st with held := none }
    let s := (List.range (x.cyc - base)).foldl (fun s k => if h.cyc ≤ base + k then s.countCc c 3 (base + k) else s) s
    match s.runOf c with
    | none => s
    | some (p, _) =>
      if s.fbit rTrcTctl 63 && s.fbit rTrcTctl (32 + p) && decide (x.cyc - h.cyc ≥ s.fld rTrcTctl 31 16) then
        let (k, t) := if h.unmet = 1 then (w.w0K, w.w0T) else (w.w1K, w.w1T)
        s.waitRecord c e k.toNat t.toNat (s.waitWhom c k t) (x.slowed != h.slowed) h.began (s.now - h.began) x.cyc
      else s

/-- The state with a cluster's cycle count at n. -/
def State.atCyc (s : State) (c n : Nat) : State := s.modCluster c (fun x => { x with cyc := n })

/-- Whether stream e of cluster c may issue word w in its present cycle, base being its count at the last tick: its clock
runs, its interval and the 4 ns after an earlier step (R67) have passed, both conditions hold, and the 8 cc of an acquire
have passed (R81, R92, R277). A wait ends when its conditions hold. -/
def State.gateAt (s : State) (c e base : Nat) (w : IWord) : Gate :=
  let s := s.settleFrom c base
  let x := s.cluster c
  let st := s.stream c e
  if !(s.clockRuns c && st.live && x.run.isSome && decide (st.nextCc ≤ x.cyc) && decide (x.freeAt ≤ s.now)) then .hold s
  else match st.acq with
  | some t => if t ≤ x.cyc then .go s else .hold s
  | none =>
    let i := st.iter
    let h0 := s.condHolds c w.w0K w.w0T w i
    let h1 := s.condHolds c w.w1K w.w1T w i
    if h0 && h1 then
      let t := s.endWait c e w base
      if s.acquires c w then
        let t := t.setStream c e { t.stream c e with acq := some (x.cyc + 8) }
        let t := t.modCluster c Cluster.cacheDrop
        .hold (t.incFld (rRcache c) 63 32)
      else .go t
    else
      let unmet := boolNat (!h0) + 2 * boolNat (!h1)
      let h : Held := match st.held with
        | some h => { h with unmet := unmet }
        | none => ⟨s.now, x.cyc, x.slowed, unmet⟩
      .hold (s.setStream c e { st with held := some h })

/-- Whether stream e may issue word w in this ns: in the cluster's present cycle, or in the next, which starts
within the ns too. The state to issue in stands at that cycle. -/
def State.gate (s : State) (c e : Nat) (w : IWord) : Gate :=
  let base := (s.cluster c).cyc
  match s.gateAt c e base w with
  | .go s => .go s
  | .hold s =>
    if !(s.clockRuns c && (s.stream c e).live) then .hold s
    else match (s.atCyc c (base + 1)).gateAt c e base w with
      | .go s => .go s
      | .hold s => .hold (s.atCyc c base)

/-! ### The tracker (R84) -/

/-- Ranges of the operations in flight: those of MV instructions and of imposition operations. -/
def Cluster.tracked (x : Cluster) : List TRange :=
  (x.mv.filter (fun o => !o.done)).flatMap (·.ranges) ++ x.shares.flatMap (fun sh => sh.2.flatMap (·.ranges))

/-- Whether an access to the range meets a tracked one, at least one of the two a write. -/
def Cluster.tracks (x : Cluster) (tile write : Bool) (lo len : Nat) : Bool :=
  x.tracked.any (fun r => r.tile == tile && (write || r.write) && overlaps lo len r.lo r.len)

/-! ### Issue on ME, VE and RU -/

/-- Whether a word runs as an operation on its engine; END and LOOP are common (Table 4.6). -/
def engRuns (e opc : Nat) (w : IWord) : Bool :=
  if e < 4 then meRuns opc w else if e = engVe then veRuns opc w else ruRuns opc w

def engTiming (e opc : Nat) (w : IWord) : Nat × Nat :=
  if e < 4 then meTiming opc w else if e = engVe then veTiming opc w else ruTiming opc w

/-- Counter value that a compress or expand reads, with the VE's own counts forwarded (R184), and the issue cycle of the
instruction in flight that it comes from. -/
def Cluster.countIn (x : Cluster) (n : Nat) : Nat × Option Nat :=
  match (x.flight.filter (fun f => f.eng == engVe && (f.countOf n).isSome)).getLast? with
  | some f => ((f.countOf n).getD 0, some f.issueCc)
  | none => (sget 0 x.sycs n, none)

/-- Words of a read that take their value after the write of a producer in flight, each of those before it too, and words
that do not: a word stands as some number of its producers, in the order of their completion, left it (R83). -/
def newsOf (span : List (Nat × Nat)) (pend : List Flight) (free : Nat) : List (Nat × Nat × Nat) × List Nat × Nat :=
  pend.foldl (fun (a : List (Nat × Nat × Nat) × List Nat × Nat) f =>
    let ks := (wordsHit span f.out).filter (fun k => !a.2.1.contains k)
    let new := ((List.range ks.length).filter (fun j => Config.freeBool (a.2.2 + j))).map (fun j => ks.getD j 0)
    (a.1 ++ new.map (fun k => (k, f.eng, f.issueCc)), a.2.1 ++ ks.filter (fun k => !new.contains k), a.2.2 + ks.length))
    ([], [], free)

/-- The instruction as it flies from its issue in this cycle: its bank after those before it (R122), and its
result. Where it reads in its issue cycle alone, each word that a producer in flight is still to write is old or
new (R83); over a longer interval it meets the writes that take effect within the interval (R121). -/
def State.flightOf (s : State) (c e opc : Nat) (w : IWord) : Flight × Nat :=
  let x := s.cluster c
  let st := s.stream c e
  let i := st.iter
  let (ii, lat) := engTiming e opc w
  let (cin, cinFrom) := if e = engVe ∧ veReadsCount opc then x.countIn (immf w 5 0) else (0, none)
  let reads := engReads e opc w i x.tiles cin
  let span := engSpan e opc w i x.tiles cin
  let pend := sortBy (fun a b => decide (a.due ≤ b.due)) x.flight
  let met := (pend.map (fun f => (f.eng, f.idx, f.due, wordsHit span f.out))).filter (fun m => !m.2.2.2.isEmpty)
  let (news, kept, free) := if ii > 1 then ([], [], s.free) else newsOf span pend s.free
  let k := 2 * e + opnd w 19 19
  let (bin, prev) : Option (Nat × Bank) × Option Nat :=
    if e < 4 ∧ meRuns opc w then
      match x.flight.reverse.find? (fun g => g.eng == e && (g.bankOut.map (·.1)) == some k
          && decide (sget 0 x.bankAt k ≤ g.issueCc)) with
      | some g => (g.bankOut, some g.issueCc)
      | none => (some (k, sget {} x.banks k), none)
    else (none, none)
  (Flight.run x.flight
    { eng := e, opc := opc, w := w, idx := st.pc, it := i, issueNs := s.now, issueCc := x.cyc
      readEnd := x.cyc + ii, due := x.cyc + lat, reads := reads, span := span, src := x.tiles, news := news
      bankIn := bin, bankPrev := prev, bankOut := none, out := [], counts := [], cin := cin, cinFrom := cinFrom
      met := met, kept := kept
      fault := if engRuns e opc w && s.flagFault c w then some fltBound else none }, free)

/-- Whether the tracker holds the instruction (R84). -/
def Cluster.holdsFlight (x : Cluster) (f : Flight) : Bool :=
  if x.mv.isEmpty then false
  else f.reads.any (fun r => x.tracks true false r.1 r.2) || f.out.any (fun w => x.tracks true true w.addr 1)

/-- The present cycle counts as one in which an ME (event 1), or the VE or RU (event 2), issued. -/
def State.countIssue (s : State) (c e : Nat) : State :=
  if e < 4 then s.countCc c 1 (s.cluster c).cyc else if e < 6 then s.countCc c 2 (s.cluster c).cyc else s

/-- Trip count that LOOP latches and whether the source exceeds BOUND (R97). A counter is read as the waits of this
cycle see it. DESIGN CHOICE (log 91). -/
def State.loopCount (s : State) (c : Nat) (w : IWord) : Nat × Bool :=
  let v := if opnd w 7 7 = 1 then (s.cluster c).sycSeen (opnd w 6 1) else immf w 15 0
  let b := immf w 31 16
  (min v b, decide (v > b))

/-- Where LOOP and END leave their stream; every other word goes on to the next index. A LOOP of count 0 would open
no level, so it sets no NEST (R99). DEDUCED (log 92). -/
def State.control (s : State) (c e opc : Nat) (w : IWord) (interval : Nat) : State :=
  let st := s.stream c e
  let x := s.cluster c
  let next := x.cyc + interval
  if opc = opcEnd then s.advance c e { st with live := false, held := none, acq := none, loops := [] }
  else if opc = opcLoop then
    let (n, clamp) := s.loopCount c w
    let nest := decide (st.loops.length ≥ 4) && n != 0
    let body := if opnd w 19 8 = 0 then 4096 else opnd w 19 8
    let s := match x.run with
      | some (p, k) => s.modSlot p k (fun r => { r with clamp := r.clamp || clamp, nest := r.nest || nest })
      | none => s
    if nest || n = 0 then s.advance c e (st.goOn (st.pc + 1 + body) st.loops next)
    else s.advance c e
      (st.goOn (st.pc + 1) ({ first := st.pc + 1, len := body, count := n, i := 0 } :: st.loops) next)
  else s.advance c e (st.goOn (st.pc + 1) st.loops next)

/-- An instruction of ME, VE or RU that its gate lets issue does so, unless the tracker holds it. -/
def State.issueFlight (s : State) (c e opc : Nat) (w : IWord) : State :=
  let (f, free) := s.flightOf c e opc w
  if (s.cluster c).holdsFlight f then s
  else
    let s := s.withFree free
    let s := s.modCluster c (fun x => { x with flight := x.flight ++ [f] })
    let s := s.countIssue c e
    s.control c e opc w (engTiming e opc w).1

/-- One issue attempt on ME, VE or RU (e from 0 to 5). -/
def State.issueEng (s : State) (c e opc : Nat) (w : IWord) : State :=
  match s.gate c e w with
  | .hold s => s
  | .go t => (t.issueFlight c e opc w).atCyc c (s.cluster c).cyc

end Sys2Proof.Machine
end

