-- ==== Sys2Proof/Machine/Formes.lean ====
section
/-! DEFINITION. Formes (chapter 7): the descriptor's fields (Table 7.1), the checks of FDEF (Table 7.3),
the views (R195 to R197), the blocks of the mover (R201, R202) and the location of an element. -/

namespace Sys2Proof.Machine

/-! ### Descriptor fields -/

def Forme.space (f : Forme) : Nat := bf f.w0 63 60
def Forme.cluster (f : Forme) : Nat := bf f.w0 59 55
def Forme.base (f : Forme) : Nat := bf f.w0 47 0
def Forme.fmtCode (f : Forme) : Nat := bf f.w1 63 60
def Forme.view (f : Forme) : Nat := bf f.w1 59 58
def Forme.padFill (f : Forme) : Bool := bit f.w1 57
def Forme.ndim (f : Forme) : Nat := bf f.w1 56 54
def Forme.fill (f : Forme) : Nat := bf f.w1 31 0
def Forme.fmt (f : Forme) : Fmt := (Fmt.ofCode f.fmtCode).getD .fp32

/-- Size of dimension n; 1 from NDIM upward (R194). -/
def Forme.size (f : Forme) (n : Nat) : Nat :=
  if n ≥ f.ndim then 1
  else match n with
    | 0 => bf f.w2 31 0 | 1 => bf f.w2 63 32 | 2 => bf f.w3 31 0 | 3 => bf f.w3 63 32
    | 4 => bf f.w4 31 0 | _ => bf f.w4 63 32

/-- Stride of dimension n from 1 to 5, in elements. -/
def Forme.stride (f : Forme) (n : Nat) : Nat :=
  match n with
  | 1 => bf f.w5 31 0 | 2 => bf f.w5 63 32 | 3 => bf f.w6 31 0 | 4 => bf f.w6 63 32 | 5 => bf f.w7 31 0 | _ => 0

/-- es × n in bytes, as a numerator over 1,920 (es is bits ÷ 8, or 256 ÷ 240 for ZB8; R194). -/
def esNum (f : Fmt) (n : Nat) : Nat := if f = .zb8 then n * 2048 else n * f.bits * 240

/-- es × n in bytes, whole when the checks of FDEF hold. -/
def esBytes (f : Fmt) (n : Nat) : Nat := esNum f n / 1920

/-- Bytes of one row, rb = ⌈SIZE0 × es⌉ (R194). -/
def Forme.rowBytes (f : Forme) : Nat := ceilDiv (esNum f.fmt (f.size 0)) 1920

def Forme.n0 (f : Forme) : Nat := ceilDiv (f.size 0) f.fmt.perRow
def Forme.n1 (f : Forme) : Nat := ceilDiv (f.size 1) 128

/-- Number of blocks (R201). -/
def Forme.blocks (f : Forme) : Nat := f.n0 * f.n1 * f.size 2 * f.size 3 * f.size 4 * f.size 5

/-- Σ (SIZEn − 1) × STRIDEn over n from lo to 5. -/
def Forme.spanFrom (f : Forme) (lo : Nat) : Nat :=
  ((List.range 6).filter (fun n => decide (lo ≤ n)
      && decide (1 ≤ n))).foldl (fun a n => a + (f.size n - 1) * f.stride n) 0

/-- One byte past the extent of a forme (R198). -/
def Forme.extentEnd (f : Forme) : Nat :=
  match f.view with
  | 1 => f.base + 32768 * f.blocks
  | 2 => f.base + esBytes f.fmt ((ceilDiv (f.size 1) 16 - 1) * f.stride 1 + f.spanFrom 2) + 16 * f.rowBytes
  | _ => f.base + esBytes f.fmt (f.spanFrom 1) + f.rowBytes

def accessWidth (space : Nat) : Nat := if space = 2 then 32 else 64

/-- Whether [lo, hi) lies in one valid region of the allocation list for this space (Table 14.3). -/
def Template.inRegion (t : Template) (space lo hi : Nat) : Bool :=
  (List.range 16).any (fun j =>
    let w := wordAt t.alloc j
    let b := bf w 47 24 * 65536
    bit w 61 && bf w 63 62 == space && decide (b ≤ lo) && decide (hi ≤ b + bf w 23 0 * 65536))

/-- The fault that FDEF's checks raise, in the order of Table 7.3. -/
def State.formeFault (s : State) (t : Template) (f : Forme) : Option Nat :=
  let dims := (List.range 6).filter (fun n => decide (n < f.ndim))
  let strided := dims.filter (fun n => decide (1 ≤ n))
  let width := accessWidth f.space
  if f.space > 2 ∨ f.fmtCode = 15 ∨ f.fmtCode = 14 ∨ f.view = 3 then some fltAlign
  else if f.ndim = 0 ∨ f.ndim = 7 ∨ dims.any (fun n => f.size n == 0) then some fltAlign
  else if f.view = 2 ∧ (f.space ≠ 0 ∨ f.rowBytes % 4 ≠ 0) then some fltAlign
  else if f.fmt = .zb8 ∧ (f.size 0 % 240 ≠ 0 ∨ strided.any (fun n => f.stride n % 240 != 0)) then some fltAlign
  else if f.base % width ≠ 0 ∨
      (f.view ≠ 1 ∧ strided.any (fun n => esNum f.fmt (f.stride n) % (1920 * width) != 0)) then some fltAlign
  else if t.full then
    let inside := if f.space = 2 then decide (f.extentEnd ≤ s.storeTop f.cluster)
      else t.inRegion f.space f.base f.extentEnd
    if inside then none else some fltBound
  else none

/-! ### Where bytes and elements lie -/

/-- Partition address of byte j of row (i1, …, i5), or in the tile-major view of the tile row that holds
element i0 of it. -/
def Forme.byteAt (f : Forme) (i0 : Nat) (ix : List Nat) (j : Nat) : Nat :=
  let i := fun (n : Nat) => ix.getD (n - 1) 0
  let e := f.fmt.perRow
  match f.view with
  | 1 =>
    let b := i0 / e + f.n0 * (i 1 / 128 + f.n1 * (i 2 + f.size 2 * (i 3 + f.size 3 * (i 4 + f.size 4 * i 5))))
    f.base + 32768 * b + 256 * (i 1 % 128) + j
  | 2 =>
    let off := (i 1 / 16) * f.stride 1 + i 2 * f.stride 2 + i 3 * f.stride 3 + i 4 * f.stride 4 + i 5 * f.stride 5
    let jj := (i0 / e) * f.fmt.rowBytes + j
    f.base + esBytes f.fmt off + 64 * (jj / 4) + 4 * (i 1 % 16) + jj % 4
  | _ =>
    let off := i 1 * f.stride 1 + i 2 * f.stride 2 + i 3 * f.stride 3 + i 4 * f.stride 4 + i 5 * f.stride 5
    f.base + esBytes f.fmt off + (i0 / e) * f.fmt.rowBytes + j

/-- Bytes within its tile-sized row that element e (below E) touches; with the exponent byte in ZB8. -/
def elemBytes (f : Fmt) (e : Nat) : List Nat :=
  if f = .zb8 then [e, 240 + e / 16]
  else (List.range (ceilDiv ((e * f.bits) % 8 + f.bits) 8)).map (fun k => e * f.bits / 8 + k)

/-- Physical place of a partition address of a forme; a full-module partition is not checked again
(R199), a smaller one translates and checks every page (R200). An access through a handle whose region is gone is a host
error (State.staleForme). An unchecked address beyond its memory wraps.
DESIGN CHOICE (log 86). -/
def State.formeXl (s : State) (p : Nat) (f : Forme) (a : Nat) : Option (Space × Nat) :=
  if (s.tmpl p).full then
    match f.space with
    | 0 => some (.stack, a % (8 * stackBytes))
    | 1 => some (.case, a % caseBytes)
    | _ => some (.store f.cluster, a % storeBytes)
  else s.xl p f.space f.cluster a

/-- Whether an access through a forme is the host error of R199: in the full-module partition, the handle's extent no
longer lies in a region of the allocation list. -/
def State.staleForme (s : State) (p : Nat) (f : Forme) : Bool :=
  (s.tmpl p).full && s.formeFault (s.tmpl p) f == some fltBound

/-- Whether a physical place may serve a line access: a stack channel must be in memory mode (R218). -/
def State.lineOk (s : State) (l : Space × Nat) : Bool :=
  match l.1 with
  | .stack => (s.chan (chanOfPa l.2)).state == .memory
  | _ => true

/-- Whether a DRAM calibration of a channel runs: accesses to the channel wait (R419, R423). -/
def State.calibrating (s : State) (k : Nat) : Bool := s.fw.queue.any (fun q => q.kind == 1 && q.target == k && q.running)

/-- Whether no place lies in a channel whose memory-mode accesses wait, for a refresh or a calibration (R239, R419). -/
def State.calm (s : State) (ls : List (Space × Nat)) : Bool :=
  ls.all (fun l => match l.1 with
    | .stack => (s.chan (chanOfPa l.2)).refreshing.isNone && !s.calibrating (chanOfPa l.2)
    | _ => true)

/-- Memory and first byte of a page of the copy map (R369). -/
def pageBase (k : Nat) : Space × Nat :=
  if k < 2 ^ 20 then (.stack, k * 2 ^ 21)
  else if k < 2 ^ 21 then (.case, (k - 2 ^ 20) * 2 ^ 21)
  else (.store ((k - 2 ^ 21) / 4), (k - 2 ^ 21) % 4 * 2 ^ 21)

/-- Places that something waiting at the host port or the mirror port touches; a page lies in one channel. -/
def HostAcc.places : HostAcc → List (Space × Nat)
  | .read _ _ ls => ls
  | .write _ _ _ ls => ls
  | .bell .. => []
  | .command .. => []
  | .page k _ _ => [pageBase k]

/-- Places of masked writes. -/
def placesOf (ws : List PWrite) : List (Space × Nat) := ws.map (fun w => (w.sp, w.addr))

/-- No two elements of a forme share a bit: tile-major, or every stride at least what the dimensions before it
cover. In the die-sliced view 16 rows lie interleaved, and STRIDE1 separates the groups of 16 (R197). -/
def Forme.distinct (f : Forme) : Bool :=
  let sliced := f.view == 2
  f.view == 1 || ((List.range 5).foldl (fun (a : Nat × Bool) k =>
    let n := k + 1
    let m := if sliced && n == 1 then ceilDiv (f.size 1) 16 else f.size n
    if m ≤ 1 then a
    else (a.1 + (m - 1) * f.stride n, a.2 && decide (a.1 ≤ f.stride n)))
    (if sliced then 16 * f.size 0 else f.size 0, true)).2

/-- Physical places of addresses, or the fault that stops the transfer (R134). -/
def State.places (s : State) (p : Nat) (f : Forme) (as : List Nat) : Except Nat (List (Space × Nat)) :=
  let ls := as.map (s.formeXl p f)
  if ls.any (·.isNone) then .error fltXlate
  else
    let ls := ls.filterMap id
    if ls.all s.lineOk then .ok ls else .error fltChmode

/-! ### Blocks (R201, R202) -/

/-- One byte of a tile row that a block transfer concerns: tile row and byte, mask of the bits that belong
to the forme, and its partition address. -/
structure BlockByte where
  row : Nat
  byte : Nat
  mask : Byte
  addr : Nat
  deriving DecidableEq, Repr

/-- Indices (b0, b1, i2 to i5) of a block. -/
def Forme.blockIndex (f : Forme) (b : Nat) : Nat × Nat × List Nat :=
  let b1 := b / f.n0
  let i2 := b1 / f.n1
  let i3 := i2 / f.size 2
  let i4 := i3 / f.size 3
  let i5 := i4 / f.size 4
  (b % f.n0, b1 % f.n1, [i2 % f.size 2, i3 % f.size 3, i4 % f.size 4, i5])

/-- Elements of a tile row of block b that lie in the forme: none beyond the block count. -/
def Forme.validIn (f : Forme) (b r : Nat) : Nat :=
  if b ≥ f.blocks then 0
  else
    let (b0, b1, _) := f.blockIndex b
    if b1 * 128 + r ≥ f.size 1 then 0 else min f.fmt.perRow (f.size 0 - b0 * f.fmt.perRow)

/-- Mask of byte j of a row whose first v elements are valid. -/
def validMask (f : Fmt) (v j : Nat) : Byte :=
  if f = .zb8 then (if v > 0 then 0xFF else 0)
  else
    let n := v * f.bits
    if n ≥ 8 * j + 8 then 0xFF else if n ≤ 8 * j then 0 else BitVec.ofNat 8 (2 ^ (n - 8 * j) - 1)

/-- The valid bytes of block b, row by row. -/
def Forme.blockBytes (f : Forme) (b : Nat) : List BlockByte :=
  let (b0, b1, hi) := f.blockIndex b
  (List.range 128).flatMap (fun r =>
    let v := f.validIn b r
    if v = 0 then []
    else (List.range f.fmt.rowBytes).filterMap (fun j =>
      let m := validMask f.fmt v j
      if m = 0 then none
      else some ⟨r, j, m, f.byteAt (b0 * f.fmt.perRow) ((b1 * 128 + r) :: hi) j⟩))

/-- Bits of byte j of a tile row that a block transfer carries; it writes the others as 0: byte 255 of a ZB8 group (R142),
and bits 15:12 of an A12 container (R139). -/
def carriedBits (f : Fmt) (j : Nat) : Byte :=
  if f = .zb8 ∧ j = 255 then 0 else if f = .a12 ∧ j % 2 = 1 then 0x0F else 0xFF

/-- FILL of the padding positions of a tile row whose first v elements are valid. -/
def fillRow (f : Forme) (base v : Nat) : List TWrite :=
  if f.fmt = .zb8 then
    if v > 0 then []
    else
      (List.range 240).map (fun j => ⟨base + j, 0xFF, BitVec.ofNat 8 f.fill⟩)
        ++ (List.range 15).map (fun j => ⟨base + 240 + j, 0xFF, BitVec.ofNat 8 (f.fill / 256)⟩)
        ++ [⟨base + 255, 0xFF, 0⟩]
  else
    rowWrites f.fmt base (((List.range f.fmt.perRow).filter (fun e => decide (v ≤ e))).map (fun e =>
      (e, f.fill % 2 ^ immBits f.fmt)))

def Forme.ofWords (ws : List W64) : Forme :=
  { w0 := wordAt ws 0, w1 := wordAt ws 1, w2 := wordAt ws 2, w3 := wordAt ws 3
    w4 := wordAt ws 4, w5 := wordAt ws 5, w6 := wordAt ws 6, w7 := wordAt ws 7 }

/-- The forme a handle names, when it is valid (R190). -/
def Cluster.forme (x : Cluster) (fh : Nat) : Option Forme := sget none x.formes fh

end Sys2Proof.Machine
end

