-- ==== Sys2Proof/Machine/Mover.lean ====
section
/-! DEFINITION. The mover: issue of the MV operations (Table 4.11), their checks and faults (Table 4.14), the
read cache (R275, R276), completion and signals in issue order (R82, R93), landing (R271) and write groups
(R282 to R284). -/

namespace Sys2Proof.Machine

/-! ### The read cache -/

/-- Lines the read cache holds at most. -/
def Cluster.cacheLines (x : Cluster) : Nat := x.rcSize * 2 ^ 12

def Cluster.cached (x : Cluster) (sp : Space) (line : Nat) : Option CacheLine :=
  x.cache.find? (fun l => l.sp = sp && l.line == line)

/-- Use a line: it becomes the most recently used. -/
def Cluster.cacheUse (x : Cluster) (sp : Space) (line : Nat) : Cluster :=
  match x.cached sp line with
  | some l => { x with cache := l :: x.cache.filter (fun k => !(k.sp = sp && k.line == line)) }
  | none => x

/-- Fill a line; the least recently used line leaves a full cache. -/
def Cluster.cacheFill (x : Cluster) (l : CacheLine) : Cluster :=
  { x with cache := (l :: x.cache.filter (fun k => !(k.sp = l.sp && k.line == l.line))).take x.cacheLines }

/-- The cluster's own STORE or RWRITE updates the cached copy (R275). -/
def Cluster.cacheWrite (x : Cluster) (ws : List PWrite) : Cluster :=
  if x.cache.isEmpty then x
  else { x with cache := x.cache.map (fun l =>
    { l with bytes := ws.foldl (fun bs w =>
        if w.sp = l.sp ∧ w.addr / 64 = l.line then
          let o := w.addr % 64
          bs.set o ((bs.getD o 0 &&& ~~~ w.mask) ||| (w.val &&& w.mask))
        else bs) l.bytes }) }

/-- Memories whose lines the cache holds (R275). -/
def cacheable : Space → Bool
  | .store _ => false
  | _ => true

/-- Distinct cacheable lines among places. -/
def linesOf (ls : List (Space × Nat)) : List (Space × Nat) :=
  ls.foldl (fun acc l => let k := (l.1, l.2 / 64); if cacheable l.1 && !acc.contains k then acc ++ [k] else acc) []

/-! ### Landing -/

/-- Key of a write group at its target (R282, R345): source 0 this module, link + 1 a partner. -/
def groupKey (src c g : Nat) : Nat := (src * 32 + c) * 16 + g

/-- An RWRITE of the group has landed. -/
def State.countGroup (s : State) (k : Nat) : State :=
  let g := s.group k
  s.setGroup k { g with count := g.count + 1 }

/-- Complete a write of the step in slot n: what is attached to the cluster's own C-die lands at once, the
rest lands later (R271). A LOAD of the cluster itself that waited for the write's signal may come before its
landing. DEDUCED (log 90). -/
def State.completeWrites (s : State) (c p n : Nat) (ws : List PWrite) (group : Option Nat) : State :=
  let d := c / 16
  let near := ws.filter (fun w => dieOfSpace w.sp w.addr == d)
  let far := ws.filter (fun w => dieOfSpace w.sp w.addr != d)
  let s := s.stepWrite p n near
  let s := s.modCluster c (fun x => x.cacheWrite ws)
  let s := s.perf 6 p (some c) (stackLines (ws.map (fun w => (w.sp, w.addr))))
  if far.isEmpty then (match group with | some k => s.countGroup k | none => s)
  else s.withLanding (s.landing ++ [{ part := p, slot := n, cluster := c, writes := far, group := group }])

/-! ### Preparing an operation -/

/-- What issuing an MV word amounts to. -/
inductive MvPlan where
  /-- It executes as NOP (R117). -/
  | nop
  /-- It does not issue yet. -/
  | wait
  /-- It issues with this operation; fs are the faults it raises. -/
  | op (o : MvOp) (fs : List Nat)

/-- Cluster-store range that a forme's block or extent spans, for the tracker. -/
def storeRange (c : Nat) (ls : List (Space × Nat)) (write : Bool) : List TRange :=
  let as := ls.filterMap (fun l => if l.1 = .store c then some l.2 else none)
  match as with
  | [] => []
  | a :: t =>
    let lo := t.foldl min a
    let hi := t.foldl max a
    [⟨false, lo, hi + 1 - lo, write⟩]

/-- LOAD (R201, R202, R275). -/
def State.planLoad (s : State) (c p i : Nat) (w : IWord) (o : MvOp) : MvPlan :=
  let x := s.cluster c
  match x.forme (opnd w 13 4) with
  | none => .nop
  | some f =>
    if f.space = 2 ∧ f.cluster ≠ c then .nop
    else
      let td := tileNo (opnd w 19 14) (opnd w 0 0 = 1) i
      let b := w.imm.toNat + opnd w 3 1 * i
      let bytes := f.blockBytes b
      let tr : TRange := ⟨true, rowAddr td 0, 32768, true⟩
      match s.places p f (bytes.map (·.addr)) with
      | .error e => .op { o with ranges := [tr] } [e]
      | .ok ls =>
        let loads := List.zipWith (fun (bb : BlockByte) (l : Space × Nat) =>
          let ta := rowAddr td bb.row + bb.byte
          let bits := carriedBits f.fmt bb.byte
          match (if cacheable l.1 then x.cached l.1 (l.2 / 64) else none) with
          | some k => ({ ta := ta, mask := bb.mask, src := none, old := k.bytes.getD (l.2 % 64) 0, bits := bits } : LoadByte)
          | none => { ta := ta, mask := bb.mask, src := some l, old := mget (s.memOf l.1) l.2, bits := bits }) bytes ls
        let fills := if f.padFill then
            (List.range 128).flatMap (fun r => (fillRow f (rowAddr td r) (f.validIn b r)).map (fun t =>
              ({ ta := t.addr, mask := t.mask, src := none, old := t.val } : LoadByte)))
          else []
        let (hit, miss) := if x.rcSize = 0 then ([], []) else (linesOf ls).partition (fun l => (x.cached l.1 l.2).isSome)
        let poison := hit.any (fun l => (x.cached l.1 l.2).any (·.poison))
        .op { o with loads := loads ++ fills, fills := miss, hits := hit, poison := poison, ranges := tr :: storeRange c ls false } []

/-- What a transfer writes of a tile byte. -/
def tileByte (m : Mem) (t : Nat × Byte) : Byte := mget m t.1 &&& t.2

/-- STORE, RWRITE and RFINAL: the valid bytes of the block, from the tile to memory (R202). -/
def State.planWrite (s : State) (c p td b : Nat) (f : Forme) (o : MvOp) : MvPlan :=
  let bytes := f.blockBytes b
  let tr : TRange := ⟨true, rowAddr td 0, 32768, false⟩
  match s.places p f (bytes.map (·.addr)) with
  | .error e => .op { o with ranges := [tr] } [e]
  | .ok ls =>
    let ts := bytes.map (fun bb => (rowAddr td bb.row + bb.byte, carriedBits f.fmt bb.byte))
    let ws := (List.zip bytes (List.zip ls ts)).map (fun (q : BlockByte × (Space × Nat) × Nat × Byte) =>
      (⟨q.2.1.1, q.2.1.2, q.1.mask, tileByte (s.cluster c).tiles q.2.2⟩ : PWrite))
    .op { o with writes := ws, tsrc := ts, ranges := tr :: storeRange c ls true } []

/-- FDEF (R190, R198): the checks on the descriptor that the handle takes. -/
def State.planFdef (s : State) (c p : Nat) (w : IWord) (o : MvOp) : MvPlan × Option Forme :=
  let a := w.imm.toNat % storeBytes
  if w.imm.toNat % 64 ≠ 0 then (.op o [fltAlign], none)
  else
    let f := Forme.ofWords (wordsOf (s.readRun (.store c) a 64).1)
    let o := { o with ranges := [⟨false, a, 64, false⟩] }
    match s.formeFault (s.tmpl p) f with
    | some e => (.op o [e], none)
    | none => (.op o [], some f)

/-- The route of a write group, when its group goes to the partner (R332). -/
def State.remote (s : State) (p g : Nat) : Option W64 :=
  let r := s.reg (rRoute p g)
  if bit r 63 && bit r 62 then some r else none

/-! ### Frames of remote writes (R335, R338, R346, R347) -/

/-- A payload: its first address, its bytes, and their bits that belong to elements (Frame.mask). -/
abbrev Payload := Nat × List Byte × List Byte

/-- Consecutive 64-byte lines, up to 64 of them a frame. -/
def mergeLines : List Payload → List Payload
  | [] => []
  | (a, bs, ms) :: t =>
    match mergeLines t with
    | (a', bs', ms') :: t' =>
      if a' = a + bs.length ∧ bs.length + bs'.length ≤ 4096 then (a, bs ++ bs', ms ++ ms') :: t'
      else (a, bs, ms) :: (a', bs', ms') :: t'
    | [] => [(a, bs, ms)]

/-- One run of bytes in frames of up to 4,096 bytes, which are written whole (R347). -/
def cutRun (a : Nat) (bs : List Byte) : List Payload :=
  let ps := chunks 4096 (bs.length / 4096 + 1) bs
  (List.range ps.length).map (fun k => (a + 4096 * k, ps.getD k [], []))

/-- A byte that a remote write sends: its address, the bits that belong to valid elements, and its value. -/
abbrev OutByte := Nat × Byte × Byte

/-- The valid bytes of a block in forme order, read from a tile (R202). -/
def Forme.outBytes (f : Forme) (b td : Nat) (tile : Nat → Byte) : List OutByte :=
  (f.blockBytes b).map (fun bb =>
    (bb.addr, bb.mask, tile (rowAddr td bb.row + bb.byte) &&& carriedBits f.fmt bb.byte))

/-- Bytes by 64-byte unit, in their order. The payload is whole units (R335): bits of a unit that no valid element covers
are free, and the target writes none of them (R202). DESIGN CHOICE (log 31). -/
def outLines (out : List OutByte) (free : Nat) : List Payload :=
  (out.map (fun b => b.1 / 64)).eraseDups.map (fun l =>
    let at_ := fun (j : Nat) => out.filter (fun b => b.1 == 64 * l + j)
    (64 * l,
     (List.range 64).map (fun j => (at_ j).foldl (fun v b => (v &&& ~~~ b.2.1) ||| (b.2.2 &&& b.2.1))
      (Config.freeByte free (64 * l + j))),
     (List.range 64).map (fun j => (at_ j).foldl (fun m b => m ||| b.2.1) 0)))

/-- Runs of bytes at consecutive addresses: first address and bytes. -/
def outRuns : List OutByte → List (Nat × List Byte)
  | [] => []
  | (a, _, v) :: t =>
    match outRuns t with
    | (a', bs) :: t' => if a' = a + 1 then (a, v :: bs) :: t' else (a, [v]) :: (a', bs) :: t'
    | [] => [(a, [v])]

/-- Source and target formats of a CONV code (Table 12.10). -/
def convOf : Nat → Option (Fmt × Fmt)
  | 1 => some (.bf16, .a12) | 2 => some (.fp32, .a12) | 3 => some (.fp16, .a12)
  | 4 => some (.bf16, .zb8) | 5 => some (.fp32, .zb8) | _ => none

/-- 240 values as one 256-byte ZB8 group (R142, R146). -/
def zbGroup (vs : List Val) : List Byte :=
  let blocks := (List.range 15).map (fun b => (List.range 16).map (fun n => vs.getD (16 * b + n) vzero))
  let xs := blocks.map zbExp
  ((List.range 15).flatMap (fun b => (blocks.getD b []).map (fun v => BitVec.ofNat 8 (zbMant (xs.getD b 0) v))))
    ++ xs.map (BitVec.ofNat 8) ++ [0]

/-- Values as ZB8 groups of 240, the last one filled with +0 (R347). -/
def zbGroups (vs : List Val) : List Byte :=
  (chunks 240 (vs.length / 240 + 1) vs).flatMap (fun g => zbGroup (g ++ List.replicate (240 - g.length) vzero))

/-- The elements of a format that bytes hold. -/
def valsOf (f : Fmt) (bs : List Byte) : List Val :=
  (List.range (bs.length / (f.bits / 8))).map (elemVal f (fun i => bs.getD i 0))

/-- A run of bytes converted element by element, from its own address on (log 52). -/
def convRun (sf tf : Fmt) (r : Nat × List Byte) : List OutByte :=
  let bs := (valsOf sf r.2).flatMap (fun v => leBytes (tf.bits / 8) (encode tf v))
  List.zipWith (fun i v => (r.1 + i, 0xFF, v)) (List.range bs.length) bs

/-- WFMT and the payload runs of a block: address and bytes of each frame (R346, R347). gen: the partner's
generation. A block converted to ZB8 goes as one run from its first element on. -/
def blockFrames (f : Forme) (b gen conv td : Nat) (tile : Nat → Byte) (free : Nat) : Nat × List Payload :=
  let out := f.outBytes b td tile
  match (if gen = 1 ∨ gen = 2 then convOf conv else none) with
  | some (sf, .zb8) =>
    (12, match out with
      | [] => []
      | (a, _) :: _ => cutRun a (zbGroups (valsOf sf (out.map (fun b => b.2.2)))))
  | some (sf, tf) => (11, mergeLines (outLines ((outRuns out).flatMap (convRun sf tf)) free))
  | none => (0, mergeLines (outLines out free))

/-- Plan of a remote RWRITE or RFINAL: what it sends from where; the sender checks nothing more (R333). -/
def State.planRemote (s : State) (c : Nat) (q : RemoteW) (o : MvOp) : MvOp :=
  let m := (s.cluster c).tiles
  { o with
    link := some (bf q.route 61 56)
    remote := some q
    sent := (q.forme.blockBytes q.block).map (fun bb => (rowAddr q.td bb.row + bb.byte,
        mget m (rowAddr q.td bb.row + bb.byte)))
    ranges := [⟨true, rowAddr q.td 0, 32768, false⟩] }

/-- The frames of a remote operation as send staging accepts it: tile words that changed since issue are old or new
(R121). A write with no valid element is one frame without payload. -/
def State.remoteFrames (s : State) (c : Nat) (o : MvOp) : List Frame × State :=
  match o.remote with
  | none => (o.frames, s)
  | some q =>
    let m := (s.cluster c).tiles
    let diff := (o.sent.filterMap (fun x => if mget m x.1 ≠ x.2 then some (x.1 / 4) else none)).eraseDups
    let new := ((List.range diff.length).filter (fun j => Config.freeBool (s.free + j))).map (fun j => diff.getD j 0)
    let tile := fun (a : Nat) => if new.contains (a / 4) then mget m a else (o.sent.lookup a).getD (mget m a)
    let n := s.free + diff.length
    let (wf, runs) := blockFrames q.forme q.block (s.fld (rLst (bf q.route 61 56)) 61 60) (bf q.route 51 48) q.td tile n
    let hdr := fun (r : Payload) =>
      ({ opc := q.opc, vc := if q.opc = opcWrite then 1 else 2, tpart := bf q.route 55 52, cluster := c, group := q.group
         len := r.2.1.length / 64, addr := r.1, space := q.forme.space, wfmt := wf, arg := q.arg } : Hdr)
    ((if runs.isEmpty then [(q.forme.base, [], [])] else runs).map (fun r => (hdr r).frame r.2.1 r.2.2),
        s.withFree (n + 1))

/-- RWRITE, WGANN and RFINAL (R282, R332, R338). -/
def State.planGroup (s : State) (c p opc : Nat) (w : IWord) (o : MvOp) : MvPlan :=
  let x := s.cluster c
  let g := opnd w 3 0
  let td := opnd w 19 14 % 48
  let arg := immf w 8 0
  match x.forme (opnd w 13 4) with
  | none => .nop
  | some f =>
    if opc = 0x69 ∧ x.openGroups.contains g then .wait
    else
      let o := { o with group := some g }
      let o := if opc = 0x69 then { o with announce := some (immf w 15 0) }
        else if opc = 0x6A then { o with finalFlag := some (bf w.imm 8 8, immf w 7 0, s.flagGranted c (bf w.imm 8 8) (immf w 7 0)) }
        else o
      match s.remote p g with
      | some r =>
        if !(s.tmpl p).hasLink (bf r 61 56) then .op { o with group := none, announce := none, finalFlag := none } [fltXlate]
        else if opc = 0x69 then
          .op { o with
            link := some (bf r 61 56)
            frames := [({ opc := opcWgann, vc := 2, tpart := bf r 55 52, cluster := c, group := g, arg := immf w 15 0 } : Hdr).frame []] } []
        else if opc = 0x68 then .op (s.planRemote c ⟨td, w.imm.toNat, f, r, g, opcWrite, 0⟩ o) []
        else .op (s.planRemote c ⟨td, 0, f, r, g, opcRfinal, arg⟩ o) []
      | none =>
        if opc = 0x69 then .op o []
        else
          let bound := if opc = 0x6A ∧ !s.flagGranted c (bf w.imm 8 8) (immf w 7 0) then [fltBound] else []
          match s.planWrite c p td (if opc = 0x68 then w.imm.toNat else 0) f o with
          | .op o' [] => .op o' bound
          | .op o' fs => .op { o' with group := none, finalFlag := none } (fs ++ bound)
          | q => q

/-- NBCMD (Table 4.14, R219). -/
def State.planNbcmd (s : State) (c p : Nat) (w : IWord) (o : MvOp) : MvPlan × Option NbList :=
  let k := 16 * opnd w 19 17 + opnd w 16 13
  let len := if opnd w 12 0 = 0 then 8192 else opnd w 12 0
  let a := w.imm.toNat % storeBytes
  if w.imm.toNat % 64 ≠ 0 then (.op o [fltAlign], none)
  else if !(s.tmpl p).chans.contains k then (.op o [fltBound], none)
  else if (s.chan k).state ≠ .processor then (.op o [fltChmode], none)
  else
    let n := 64 * len
    let rs : List TRange := if a + n ≤ storeBytes then [⟨false, a, n, false⟩]
      else [⟨false, a, storeBytes - a, false⟩, ⟨false, 0, a + n - storeBytes, false⟩]
    (.op { o with list := some k, ranges := rs } [],
     some { cluster := c, seq := o.seq, part := p, addr := a, len := len
            turn := if (s.chan k).lists.isEmpty then some (16 * s.now) else none })

/-! ### The imposition instruction (R191, R203, R205, R211) -/

def descSrc (d : W64) : Nat := bf d 63 54
def descDst (d : W64) : Nat := bf d 53 44
def descIdx (d : W64) : Nat := bf d 43 34
def descSsc (d : W64) : Nat := bf d 33 24
def descDsc (d : W64) : Nat := bf d 23 14
def descSscEn (d : W64) : Bool := bit d 13
def descDscEn (d : W64) : Bool := bit d 12
/-- Source dimension that destination dimension n walks (PERM). -/
def descPerm (d1 : W64) (n : Nat) : Nat := bf d1 (3 * n + 2) (3 * n)

def isPerm (d1 : W64) : Bool := (List.range 6).all (fun v => (List.range 6).any (fun n => descPerm d1 n == v))

def impCopy : Nat := 0
def impTranspose : Nat := 1
def impPermute : Nat := 2
def impConvert : Nat := 3
def impDieslice : Nat := 4
def impGather : Nat := 5
def impScatter : Nat := 6
def impScatterAdd : Nat := 7

/-- Whether the descriptor meets a condition of Table 7.6. The row on PERM is asked of PERMUTE, which alone reads it.
DESIGN CHOICE (log 116). -/
def impNop (c code : Nat) (d0 d1 : W64) (src dst ix ssc dsc : Option Forme) : Bool :=
  let usesIdx := code ≥ impGather
  let useS := code = impConvert ∧ descSscEn d0
  let useD := code = impConvert ∧ descDscEn d0
  let used := [src, dst] ++ (if usesIdx then [ix] else []) ++ (if useS then [ssc] else []) ++ (if useD then [dsc] else [])
  let fs := used.filterMap id
  if used.any (·.isNone) then true
  else match src, dst with
  | some a, some b =>
    let sliced := fun (f : Forme) => f.view == 2
    let mx := fun (f : Forme) => mmaxFmt f.fmt
    fs.any (fun f => f.space == 2 && f.cluster / 16 != c / 16)
      || (if code = impDieslice then (sliced a == sliced b) || ((fs.filter sliced).length != 1) else fs.any sliced)
      || (code != impConvert && a.fmtCode != b.fmtCode)
      || (code == impPermute && !isPerm d1)
      || (code == impConvert && ((descSscEn d0 && (!mx a || ((ssc.map (·.fmt)) != some .e8m0)))
            || (descDscEn d0 && (!mx b || ((dsc.map (·.fmt)) != some .e8m0)))))
      || (usesIdx && ((ix.map (fun f => f.fmt != .int32 || f.ndim != 1)).getD true || decide (a.ndim > 2)
          || decide (b.ndim > 2)))
      || (code == impScatterAdd && (a.fmt == .zb8 || a.fmt == .e8m0 || b.fmt == .zb8 || b.fmt == .e8m0))
  | _, _ => true

/-- R211: the same place, format, view, sizes and strides. -/
def sameForme (a b : Forme) : Bool :=
  a.space == b.space && a.cluster == b.cluster && a.base == b.base && a.fmtCode == b.fmtCode && a.view == b.view
    && a.ndim == b.ndim && (List.range 6).all (fun n => a.size n == b.size n)
    && (List.range 6).all (fun n => n == 0 || decide (n ≥ a.ndim) || a.stride n == b.stride n)

def impIdentity (code : Nat) (d0 d1 : W64) (a b : Forme) : Bool :=
  let kind := code == impCopy || (code == impPermute && (List.range 6).all (fun n => descPerm d1 n == n))
    || (code == impConvert && !descSscEn d0 && !descDscEn d0)
  kind && sameForme a b

/-- Whether R211 raises FLT_OVERLAP. -/
def impOverlap (code : Nat) (d0 d1 : W64) (a b : Forme) : Bool :=
  decide (code ≤ impDieslice) && a.space == b.space && (a.space != 2 || a.cluster == b.cluster)
    && decide (a.base < b.extentEnd) && decide (b.base < a.extentEnd) && !impIdentity code d0 d1 a b

/-- Own cluster-store ranges of the formes an operation reads and writes. -/
def impRanges (c : Nat) (reads writes : List Forme) : List TRange :=
  let r := fun (wr : Bool) (f : Forme) =>
    if f.space = 2 ∧ f.cluster = c then [(⟨false, f.base, f.extentEnd - f.base, wr⟩ : TRange)] else []
  reads.flatMap (r false) ++ writes.flatMap (r true)

/-- IMP: the operation captured into its share (R191), which it occupies until it completes whatever it does
(R128). One whose descriptor address fails FLT_ALIGN runs nothing (Table 4.14). -/
def State.planImp (s : State) (c p n code : Nat) (w : IWord) (o : MvOp) : MvPlan × Option ImpOp :=
  let x := s.cluster c
  let mis := w.imm.toNat % 64 ≠ 0
  if code ≥ 8 then (.nop, none)
  else
    let ws := wordsOf (s.readRun (.store c) (w.imm.toNat % storeBytes) 64).1
    let d0 := wordAt ws 0
    let d1 := wordAt ws 1
    let src := x.forme (descSrc d0)
    let dst := x.forme (descDst d0)
    let ix := x.forme (descIdx d0)
    let ssc := x.forme (descSsc d0)
    let dsc := x.forme (descDsc d0)
    let nop := decide mis || impNop c code d0 d1 src dst ix ssc dsc
    let a := src.getD {}
    let b := dst.getD {}
    let ovl := !nop && impOverlap code d0 d1 a b
    let rds := [a] ++ (if code ≥ impGather then [ix.getD {}] else []) ++ (if code = impConvert
        ∧ descSscEn d0 then [ssc.getD {}] else [])
    let wrs := [b] ++ (if code = impConvert ∧ descDscEn d0 then [dsc.getD {}] else [])
    let ranges := if nop || ovl then [] else impRanges c rds wrs
    (.op { o with imp := some (opnd w 19 18) } [],
     some { seq := o.seq, idx := o.idx, code := code, nop := nop
            fault := if mis then some fltAlign else if ovl then some fltOverlap else none
            part := p, d0 := d0, d1 := d1, more := ws.drop 2, src := a, dst := b, ix := ix.getD {}, ssc := ssc.getD {}, dsc := dsc.getD {}
            ranges := ranges, pos := 0, total := none, slot := n })

/-! ### Issue -/

/-- Whether the tracker holds an MV operation: a conflict of what it reads and writes with an earlier one (R84), or
too few free ranges for those it needs (R85). -/
def Cluster.holdsMv (x : Cluster) (touched need : List TRange) : Bool :=
  touched.any (fun r => x.tracks r.tile r.write r.lo r.len) || decide (x.tracked.length + need.length > 32)

/-- Apply the signals of completed MV instructions, oldest first, up to the first that has not completed (R93). -/
def State.mvSignalsN (s : State) (c : Nat) : Nat → State
  | 0 => s
  | n + 1 => if (s.cluster c).mvDue.isSome then (s.mvSignal c (s.cluster c).cyc).mvSignalsN c n else s

def State.mvSignals (s : State) (c : Nat) : State := s.mvSignalsN c (s.cluster c).mv.length

/-- Put an operation into the MV stream's list and go on. The record of a fault that issue finds posts now. DESIGN
CHOICE (log 24). -/
def State.mvPush (s : State) (c opc : Nat) (w : IWord) (o : MvOp) (fault : Option Nat) : State :=
  let s := s.modCluster c (fun x => { x with mv := x.mv ++ [o], mvSeq := x.mvSeq + 1 })
  let s := match fault with
    | some f => s.postFault c engMv o.idx o.issueNs f
    | none => s
  s.control c engMv opc w 1

/-- Whether an MV operation code is listed (Table 4.11). -/
def mvListed (opc : Nat) : Bool :=
  [0x60, 0x61, 0x62, 0x64, 0x66, 0x68, 0x69, 0x6A, 0x6C].contains opc

/-- The plan of a word of the MV stream with its operation code, and what its issue leaves besides the
operation: a forme for FDEF, a list for NBCMD, an operation for IMP. -/
def State.planMv (s : State) (c p n opc : Nat) (w : IWord) (o : MvOp) (i : Nat) :
    MvPlan × Option Forme × Option NbList × Option ImpOp :=
  match opc with
  | 0x60 => (s.planLoad c p i w o, none, none, none)
  | 0x61 =>
    match (s.cluster c).forme (opnd w 13 4) with
    | none => (.nop, none, none, none)
    | some f =>
      if f.space = 2 ∧ f.cluster ≠ c then (.nop, none, none, none)
      else (s.planWrite c p (tileNo (opnd w 19 14) (opnd w 0 0 = 1) i) (w.imm.toNat + opnd w 3 1 * i) f o, none, none,
          none)
  | 0x62 => let (q, f) := s.planFdef c p w o; (q, f, none, none)
  | 0x64 => let (q, m) := s.planImp c p n (opnd w 17 14) w o; (q, none, none, m)
  | 0x66 => let (q, l) := s.planNbcmd c p w o; (q, none, l, none)
  | 0x68 | 0x69 | 0x6A => (s.planGroup c p opc w o, none, none, none)
  | 0x6C =>
    let d := bf w.opnd 8 8
    let n := opnd w 7 0
    if s.flagGranted c d n then (.op { o with clearFlag := some (d, n) } [], none, none, none)
    else (.op o [fltBound], none, none, none)
  | _ => (.nop, none, none, none)

/-- Effects of issue beside the queued operation: FDEF sets its handle (R191); a LOAD uses the cached lines it hits
(R275); NBCMD's list is accepted by
its channel (R234); IMP enters its share; an RFINAL opens its group until its release is reported (R283). -/
def State.mvIssueSide (s : State) (c opc : Nat) (w : IWord) (o : MvOp) (f : Option Forme) (l : Option NbList)
    (m : Option ImpOp) : State :=
  let s := if opc = 0x62 then s.modCluster c (fun x => { x with formes := sset none x.formes (opnd w 19 10) f }) else s
  let s := if (opc = 0x62 ∨ opc = 0x64) ∧ w.imm.toNat % 64 = 0 then
      let (_, bad, s) := s.readRun (.store c) (w.imm.toNat % storeBytes) 64
      s.stepPoison (s.runOf c) bad
    else s
  let s := o.hits.foldl (fun s k => s.modCluster c (fun x => x.cacheUse k.1 k.2)) s
  let s := match l, o.list with
    | some l, some k => s.modChan k (fun ch => { ch with lists := ch.lists ++ [l] })
    | _, _ => s
  let s := match m, o.imp with
    | some m, some n => s.modCluster c (fun x => { x with shares := sset [] x.shares n (sget [] x.shares n ++ [m]) })
    | _, _ => s
  match o.finalFlag, o.group with
  | some _, some g => s.modCluster c (fun x => { x with openGroups := linsert g x.openGroups })
  | _, _ => s

/-- Whether a mover operation accesses memory through a stale handle (R199). -/
def State.mvStale (s : State) (c p opc : Nat) (w : IWord) (o : MvOp) : Bool :=
  [0x60, 0x61, 0x68, 0x6A].contains opc && o.remote.isNone
    && ((s.cluster c).forme (opnd w 13 4)).any (s.staleForme p)

/-- Whether an operation finds its transfer queue or share full: the host error of R107. -/
def State.mvFull (s : State) (c opc : Nat) (w : IWord) : Bool :=
  let x := s.cluster c
  if opc = 0x64 then decide ((x.share (opnd w 19 18)).length ≥ 8) else decide (x.mvQueue ≥ 32)

/-- An MV instruction that its gate lets issue does so, unless a full tracker, the tracker's ranges or staging
hold it. One that finds its queue full takes or loses its place by a free choice, and the partition's own data is
unpredictable (R107, R391); one that loses it completes as a NOP. One that goes through a stale handle makes it
unpredictable too (R199). -/
def State.issueTransfer (s : State) (c opc : Nat) (w : IWord) : State :=
  let x := s.cluster c
  let st := s.stream c engMv
  let (p, n) := x.run.getD (0, 0)
  let o : MvOp := { seq := x.mvSeq, opc := opc, w := w, idx := st.pc, it := st.iter, issueNs := s.now }
  let (plan, f, l, m) := s.planMv c p n opc w o st.iter
  let idle := { o with done := true, due := x.cyc + 1 }
  let read : List TRange := if (opc = 0x62 ∨ opc = 0x64) ∧ w.imm.toNat % 64 = 0 then
    [⟨false, w.imm.toNat % storeBytes, 64, false⟩] else []
  match plan with
  | .nop => if x.tracked.length ≥ 32 then s else s.mvPush c opc w idle none
  | .wait => s
  | .op o fs =>
    let need := o.ranges ++ (m.map (·.ranges)).getD []
    if x.tracked.length ≥ 32 || x.holdsMv (read ++ need) need then s
    else
      let full := s.mvFull c opc w
      let (lost, s) := if full then (s.unpredictable p).choose else (false, s)
      let s := if s.mvStale c p opc w o then s.unpredictable p else s
      if lost then s.mvPush c opc w idle none
      else
        let fault := firstFault (fs ++ (if s.flagFault c w then [fltBound] else []))
        let s := s.mvIssueSide c opc w o f l m
        let o := if o.imp.isSome then { o with fault := fault } else o
        s.mvPush c opc w o (if o.imp.isSome then none else fault)

/-- One issue attempt of the MV stream. -/
def State.issueMv (s : State) (c opc : Nat) (w : IWord) : State :=
  match s.gate c engMv w with
  | .hold s => s
  | .go t => (t.issueTransfer c opc w).atCyc c (s.cluster c).cyc

/-! ### Completion (R82, R93) -/

/-- Value of each byte a LOAD moves: the word at issue or at completion where they differ (R274); and what it fetched. -/
def State.loadBytes (s : State) (ls : List LoadByte) : List TWrite × List ((Space × Nat) × Byte) × Bool × State :=
  let srcs := ls.filterMap (·.src)
  let (bs, bad, s) := s.readBytes srcs
  let diff := (ls.filterMap (fun l => match l.src with
    | some q => if mget (s.memOf q.1) q.2 ≠ l.old then some (q.1, q.2 / 4) else none
    | none => none)).eraseDups
  let oldW := ((List.range diff.length).filter (fun j => Config.freeBool (s.free + j))).map (fun j => diff.getD j (.stack, 0))
  let got := List.zipWith (fun (l : LoadByte) b => match l.src with
    | some q => (q, if oldW.contains (q.1, q.2 / 4) then l.old else b)
    | none => ((Space.stack, 0), b)) (ls.filter (·.src.isSome)) bs
  let ws := (ls.foldl (fun (a : List TWrite × List ((Space × Nat) × Byte)) l =>
    match l.src, a.2 with
    | some _, h :: t => (⟨l.ta, l.mask, h.2 &&& l.bits⟩ :: a.1, t)
    | _, rest => (⟨l.ta, l.mask, l.old &&& l.bits⟩ :: a.1, rest)) ([], got)).1.reverse
  (ws, got, bad, s.withFree (s.free + diff.length))

/-- What a read of a place delivers, with none of its effects. -/
def State.peek (s : State) (sp : Space) (a : Nat) : Byte :=
  if !s.suspect sp a then mget (s.memOf sp) a
  else
    let u := s.checkUnit sp (unitBase sp a)
    if u.bad || u.poisoned then 0xFF else mget (s.memOf sp) a ^^^ (u.raw.lookup (a - unitBase sp a)).getD 0

/-- A line of the read cache as a LOAD has fetched it: what the LOAD moved of it, and the rest as it stands (R275,
R399). -/
def State.fetched (s : State) (l : Space × Nat) (got : List ((Space × Nat) × Byte)) : CacheLine :=
  let mine := got.filter (fun g => g.1.1 = l.1 ∧ g.1.2 / 64 = l.2)
  { sp := l.1, line := l.2, poison := (s.errOf l.1 (64 * l.2)).poison
    bytes := (List.range 64).map (fun j => match mine.find? (fun g => g.1.2 == 64 * l.2 + j) with
      | some g => g.2
      | none => s.peek l.1 (64 * l.2 + j)) }

/-- Writes of a STORE, RWRITE or RFINAL at completion: tile words that changed since issue are old or new (R121). -/
def State.storeBytesNow (s : State) (c : Nat) (o : MvOp) : List PWrite × State :=
  let m := (s.cluster c).tiles
  let diff := ((List.zip o.writes o.tsrc).filterMap (fun q =>
    if tileByte m q.2 ≠ q.1.val then some (q.2.1 / 4) else none)).eraseDups
  let new := ((List.range diff.length).filter (fun j => Config.freeBool (s.free + j))).map (fun j => diff.getD j 0)
  ((List.zip o.writes o.tsrc).map (fun q =>
    if new.contains (q.2.1 / 4) then { q.1 with val := tileByte m q.2 } else q.1),
   s.withFree (s.free + diff.length))

/-- Mark the operation with this sequence number complete and let signals act. -/
def State.mvDone (s : State) (c seq : Nat) : State :=
  (s.modCluster c (fun x => { x with
    mv := x.mv.map (fun o => if o.seq = seq then { o with done := true, due := x.cyc, ranges := [], loads := [], writes := [], tsrc := [], sent := [] } else o) })).mvSignals c

/-- Accept an RFINAL into its target's hold (R282); none while an earlier one of the group is held. -/
def State.acceptFinal (s : State) (k : Nat) (h : HeldFinal) : Option State :=
  let g := s.group k
  if g.held.isSome then none else some (s.setGroup k { g with held := some h })

/-- Complete one MV operation that the mover itself finishes. -/
def State.mvFinish (s : State) (c p n : Nat) (o : MvOp) : State :=
  let key := groupKey 0 c (o.group.getD 0)
  match o.opc with
  | 0x60 =>
    let (ws, got, bad, s) := s.loadBytes o.loads
    let s := s.tileWrite c ws (s.cluster c).cyc (some o.idx)
    let s := o.fills.foldl (fun s l => s.modCluster c (fun x => x.cacheFill (s.fetched l got))) s
    let srcs := o.loads.filterMap (·.src)
    let s := (linesOf srcs).foldl (fun s l => s.modCluster c (fun x => x.cacheUse l.1 l.2)) s
    let s := s.perf 6 p (some c) (stackLines srcs)
    let s := (s.perf 4 p (some c) o.hits.length).perf 5 p (some c) o.fills.length
    (s.stepPoison (some (p, n)) (bad || o.poison)).mvDone c o.seq
  | 0x61 =>
    let (ws, s) := s.storeBytesNow c o
    (s.completeWrites c p n ws none).mvDone c o.seq
  | 0x68 =>
    if o.group.isNone then s.mvDone c o.seq
    else
      let (ws, s) := s.storeBytesNow c o
      (s.completeWrites c p n ws (some key)).mvDone c o.seq
  | 0x69 =>
    match o.announce with
    | some k => (s.setGroup key { s.group key with announced := some k }).mvDone c o.seq
    | none => s.mvDone c o.seq
  | 0x6A =>
    match o.finalFlag with
    | some (d, fl, gr) =>
      let (ws, s) := s.storeBytesNow c o
      match s.acceptFinal key { writes := ws, die := d, flag := fl, granted := gr, part := p, slot := some n, since := s.now } with
      | some s => s.mvDone c o.seq
      | none => s
    | none => s.mvDone c o.seq
  | 0x6C =>
    match o.clearFlag with
    | some (d, fl) => (s.setFlag d fl false c).mvDone c o.seq
    | none => s.mvDone c o.seq
  | _ => s.mvDone c o.seq

/-- Places in memory that an MV operation reads or writes when it completes. -/
def MvOp.places (o : MvOp) : List (Space × Nat) := o.loads.filterMap (·.src) ++ placesOf o.writes

/-- MV_COMPLETION: operation k of the cluster completes, unless a list, an imposition engine or the send
staging completes it, or a channel under refresh makes its accesses wait (R239). -/
def State.mvComplete (s : State) (c k : Nat) : State :=
  let s := s.settle c
  match (s.cluster c).mv[k]?, (s.cluster c).run with
  | some o, some (p, n) =>
    if o.done || o.list.isSome || o.imp.isSome || o.link.isSome || !s.clockRuns c || !s.calm o.places then s
    else s.mvFinish c p n o
  | _, _ => s

/-! ### Write groups -/

/-- Whether a held RFINAL may be released: arrived whole, announced and counted (R282). -/
def WGroup.ready (g : WGroup) : Bool :=
  match g.announced, g.held with
  | some n, some h => h.whole && decide (g.count ≥ n)
  | _, _ => false

/-- Places of the block that a write group holds. -/
def WGroup.places (g : WGroup) : List (Space × Nat) := placesOf ((g.held.map (·.writes)).getD [])

/-- Release a held RFINAL: its block, its flag, the count to 0, and the report to the issuer (R282, R283). Nothing is
written in a channel that has left memory mode since the RFINAL was accepted (R218). DESIGN CHOICE (log 95). -/
def State.releaseFinal (s : State) (k : Nat) (src : Option Nat) (c g : Nat) : State :=
  let gr := s.group k
  match gr.ready && s.calm gr.places, gr.held with
  | true, some h =>
    let ws := h.writes.filter (fun w => s.lineOk (w.sp, w.addr))
    let s := s.countLines none (placesOf ws)
    let s := match h.slot with
      | some n => s.stepWrite h.part n ws
      | none => s.writeBytes ws
    let s := if h.granted then s.setFlag h.die h.flag true 33 else s
    let s := s.setGroup k { count := 0, announced := none, held := none }
    match src with
    | none => s.modCluster c (fun x => { x with openGroups := x.openGroups.filter (· != g) })
    | some _ => s
  | _, _ => s

end Sys2Proof.Machine
end

