-- ==== Sys2Proof/Machine/Imposition.lean ====
section
/-! DEFINITION. The imposition engines: the turns of the rotation (R131), the correspondence of elements
(Table 7.5, R206, R492), gather and scatter (R207 to R209), the checks before any data moves (R134) and
completion (R205, R210). An operation moves in units in destination index order: up to 32 elements of one row, or for
GATHER, SCATTER and SCATTERADD a part of the row of one index element. What a turn writes lands at its end, in whole
lines where the operation covers them (R129). -/

namespace Sys2Proof.Machine

/-! ### Elements of formes -/

/-- Index (i0, …, i5) as i0 and the rest. -/
abbrev EIdx := Nat × List Nat

def Forme.has (f : Forme) (q : EIdx) : Bool :=
  decide (q.1 < f.size 0) && (List.range 5).all (fun n => decide (q.2.getD n 0 < f.size (n + 1)))

/-- Partition addresses of the bytes an element occupies, exponent byte included in ZB8. -/
def Forme.elemAddrs (f : Forme) (q : EIdx) : List Nat :=
  (elemBytes f.fmt (q.1 % f.fmt.perRow)).map (f.byteAt q.1 q.2)

/-- Code of an element from its bytes, and its exponent byte in ZB8. -/
def elemOf (f : Fmt) (i0 : Nat) (bs : List Byte) : Nat × Nat :=
  if f = .zb8 then ((bs.getD 0 0).toNat, (bs.getD 1 0).toNat)
  else
    let c := (leNat bs >>> ((i0 % f.perRow * f.bits) % 8)) % 2 ^ f.bits
    (if f = .a12 then c % 4096 else c, 0)

/-- Value of a code with its exponent byte. -/
def valOf (f : Fmt) (c : Nat × Nat) : Val := if f = .zb8 then zbVal c.2 c.1 else decode f c.1

/-- Read elements of a forme in order: codes, whether any byte was poisoned, and the state after. The operation was
checked when it began (R134), and a channel that starts to switch serves it to its end (R226). -/
def State.readElems (s : State) (p : Nat) (f : Forme) (qs : List EIdx) : List (Nat × Nat) × Bool × State :=
  let as := qs.map f.elemAddrs
  let ls := as.flatten.map (s.formeXl p f)
  if ls.any (·.isNone) then (qs.map (fun _ => (0, 0)), false, s)
  else
    let (bs, bad, s) := s.readBytes (ls.filterMap id)
    let r := (List.zip qs as).foldl (fun (a : List (Nat × Nat) × List Byte) q =>
      (elemOf f.fmt q.1.1 (a.2.take q.2.length) :: a.1, a.2.drop q.2.length)) ([], bs)
    (r.1.reverse, bad, s)

/-- Masked bytes that writing a code as an element touches: partition address, mask and value. -/
def Forme.elemWrite (f : Forme) (q : EIdx) (code : Nat) : List (Nat × Byte × Byte) :=
  (elemPut f.fmt (q.1 % f.fmt.perRow) code).map (fun b => (f.byteAt q.1 q.2 b.1, b.2.1, b.2.2))

/-- The exponent byte of a ZB8 element's block, and byte 255 of its group written as 0 (R142). -/
def Forme.expWrite (f : Forme) (q : EIdx) (x : Nat) : List (Nat × Byte × Byte) :=
  [(f.byteAt q.1 q.2 (240 + q.1 % 240 / 16), 0xFF, BitVec.ofNat 8 x), (f.byteAt q.1 q.2 255, 0xFF, 0)]

/-- What a padding position of a destination receives: FILL, or nothing under KEEP (R204). -/
def Forme.padWrite (f : Forme) (q : EIdx) : List (Nat × Byte × Byte) :=
  if f.padFill then
    f.elemWrite q (f.fill % 2 ^ immBits f.fmt) ++ (if f.fmt = .zb8 then f.expWrite q (f.fill / 256 % 256) else [])
  else []

/-- Masked bytes at partition addresses of a forme as writes of their places. -/
def State.formePuts (s : State) (p : Nat) (f : Forme) (ws : List (Nat × Byte × Byte)) : List PWrite :=
  ws.filterMap (fun w => (s.formeXl p f w.1).map (fun l => (⟨l.1, l.2, w.2.1, w.2.2⟩ : PWrite)))

/-- Bit fields of one byte that follow one another, as one write of it. -/
def joinPuts : List PWrite → List PWrite
  | [] => []
  | w :: t => match joinPuts t with
    | v :: r =>
      if v.sp = w.sp ∧ v.addr = w.addr then ⟨w.sp, w.addr, w.mask ||| v.mask,
          (w.val &&& ~~~ v.mask) ||| (v.val &&& v.mask)⟩ :: r
      else w :: v :: r
    | [] => [w]

/-! ### Units -/

/-- Elements of a row that one unit covers at most: a scaled block, and two of ZB8. -/
def unitLen : Nat := 32

/-- Units of an operation that walks destination elements. -/
def unitCount (f : Forme) : Nat :=
  ceilDiv (f.size 0) unitLen * f.size 1 * f.size 2 * f.size 3 * f.size 4 * f.size 5

/-- Row and first element of unit u, in destination index order. -/
def unitAt (f : Forme) (u : Nat) : Nat × List Nat :=
  let k := ceilDiv (f.size 0) unitLen
  let r := u / k
  let r2 := r / f.size 1
  let r3 := r2 / f.size 2
  let r4 := r3 / f.size 3
  ((u % k) * unitLen, [r % f.size 1, r2 % f.size 2, r3 % f.size 3, r4 % f.size 4, r4 / f.size 4])

/-- Source index of a destination element (Table 7.5). -/
def srcIndex (code : Nat) (d1 : W64) (q : EIdx) : EIdx :=
  let i := fun (n : Nat) => if n = 0 then q.1 else q.2.getD (n - 1) 0
  if code = impTranspose then (i 1, i 0 :: q.2.drop 1)
  else if code = impPermute then
    let j := fun (n : Nat) => match (List.range 6).find? (fun d => descPerm d1 d == n) with | some d => i d | none => 0
    (j 0, [j 1, j 2, j 3, j 4, j 5])
  else q

/-- Destination elements of a unit, each with its source element when it has one. -/
def unitElems (o : ImpOp) (u : Nat) : List (EIdx × Option EIdx) :=
  let (lo, ix) := unitAt o.dst u
  (List.range (min unitLen (o.dst.size 0 - lo))).map (fun k =>
    let q : EIdx := (lo + k, ix)
    let j := srcIndex o.code o.d1 q
    (q, if o.src.has j then some j else none))

/-- Whether elements go code by code, blocks whole in ZB8, or by value. -/
def movesCodes (o : ImpOp) : Bool :=
  o.code != impConvert
    && !(o.dst.fmt == .zb8 && (o.code == impTranspose || (o.code == impPermute && descPerm o.d1 0 != 0)))

/-- Element of a scale forme that scales an element (R206). -/
def scaleIdx (q : EIdx) : EIdx := (q.1 / 32, q.2)

def scaledSrc (o : ImpOp) : Bool := o.code == impConvert && descSscEn o.d0
def scaledDst (o : ImpOp) : Bool := o.code == impConvert && descDscEn o.d0

/-- Values of the source elements of a unit; a block-scaled source takes its scale (R206). -/
def State.unitVals (s : State) (o : ImpOp) (js : List EIdx) : List Val × Bool × State :=
  let (cs, bad, s) := s.readElems o.part o.src js
  if scaledSrc o then
    let inside := js.filter (fun j => o.ssc.has (scaleIdx j))
    let (sc, bad2, s) := s.readElems o.part o.ssc (inside.map scaleIdx)
    let tab := List.zip inside sc
    let scale := fun (j : EIdx) => match tab.find? (fun t => t.1 == j) with
      | some t => t.2.1
      | none => if o.ssc.padFill then o.ssc.fill % 256 else 127
    (List.zipWith (fun (j : EIdx) (c : Nat × Nat) => mxVal o.src.fmt (scale j) c.1) js cs, bad || bad2, s)
  else (cs.map (valOf o.src.fmt), bad, s)

/-- Bits of a padding write that no valid data targets (R213), at positions the valid elements of the operation
take. -/
def clearOf (taken : List (Nat × Byte × Byte)) (ws : List (Nat × Byte × Byte)) : List (Nat × Byte × Byte) :=
  ws.map (fun w => (w.1, taken.foldl (fun m v => if v.1 = w.1 then m &&& ~~~ v.2.1 else m) w.2.1, w.2.2))

/-- Masked bytes that valid data of an element takes, its block's exponent with it in ZB8. -/
def validWrite (f : Forme) (q : EIdx) : List (Nat × Byte × Byte) :=
  f.elemWrite q 0 ++ (if f.fmt = .zb8 then f.expWrite q 0 else [])

/-- Masked bytes of the elements of every unit that receive data, where two elements of the destination may share
a position; nothing to look for elsewhere. -/
def takenElems (o : ImpOp) : List (Nat × Byte × Byte) :=
  if o.dst.distinct || !o.dst.padFill then []
  else (List.range (unitCount o.dst)).flatMap (fun u =>
    (unitElems o u).flatMap (fun e => if e.2.isSome then validWrite o.dst e.1 else []))

/-- Writes of one shared-exponent block of the destination: its elements with values, in i0 order. -/
def blockWrites (o : ImpOp) (taken : List (Nat × Byte × Byte)) (qs : List (EIdx × Option Val)) :
    List (Nat × Byte × Byte) × List (EIdx × Nat) :=
  let vs := qs.filterMap (·.2)
  let fill := o.dst.padFill
  if scaledDst o then
    let sc := if vs.isEmpty then 0 else mxScale o.dst.fmt vs
    (qs.flatMap (fun q => match q.2 with
      | some v => o.dst.elemWrite q.1 (mxElem o.dst.fmt sc v)
      | none => if fill then clearOf taken (o.dst.elemWrite q.1 (o.dst.fill % 2 ^ immBits o.dst.fmt)) else []),
     match qs with | q :: _ => [(scaleIdx q.1, sc)] | [] => [])
  else
    let x := if vs.isEmpty then o.dst.fill / 256 % 256 else zbExp vs
    let body := qs.flatMap (fun q => match q.2 with
      | some v => o.dst.elemWrite q.1 (zbMant x v)
      | none => if fill then clearOf taken (o.dst.elemWrite q.1 (o.dst.fill % 256)) else [])
    (body ++ (match qs with
      | q :: _ => if !vs.isEmpty then o.dst.expWrite q.1 x
        else if fill then clearOf taken (o.dst.expWrite q.1 x) else []
      | [] => []), [])

/-- Group a unit's elements by block of n along i0. -/
def byBlock (n : Nat) (qs : List (EIdx × Option Val)) : List (List (EIdx × Option Val)) :=
  chunks n (qs.length / n + 1) qs

/-- Move unit u of COPY, TRANSPOSE, PERMUTE, CONVERT or DIESLICE: what it writes, and the state once it has been read. -/
def State.moveUnit (s : State) (o : ImpOp) (u : Nat) : List PWrite × State :=
  let es := unitElems o u
  let js := es.filterMap (·.2)
  let f := o.dst
  let taken := takenElems o
  if movesCodes o then
    let (cs, bad, s) := s.readElems o.part o.src js
    let r := es.foldl (fun (a : List (Nat × Byte × Byte) × List (Nat × Nat)) e =>
      match e.2, a.2 with
      | some _, c :: t =>
        (a.1 ++ f.elemWrite e.1 c.1 ++ (if f.fmt = .zb8 then f.expWrite e.1 c.2 else []), t)
      | _, rest =>
        (a.1 ++ clearOf taken (f.padWrite e.1), rest)) ([], cs)
    (s.formePuts o.part f r.1, s.stepPoison (some (o.part, o.slot)) bad)
  else
    let (vs, bad, s) := s.unitVals o js
    let r := es.foldl (fun (a : List (EIdx × Option Val) × List Val) e =>
      match e.2, a.2 with
      | some _, v :: t => (a.1 ++ [(e.1, some v)], t)
      | _, rest => (a.1 ++ [(e.1, none)], rest)) ([], vs)
    (if scaledDst o || f.fmt = .zb8 then
      (byBlock (if scaledDst o then 32 else 16) r.1).flatMap (fun b =>
        let (ws, sc) := blockWrites o taken b
        s.formePuts o.part f ws
          ++ (sc.filter (fun q => o.dsc.has q.1)).flatMap (fun q => s.formePuts o.part o.dsc (o.dsc.elemWrite q.1 q.2)))
    else
      s.formePuts o.part f (r.1.flatMap (fun q => match q.2 with
        | some v => f.elemWrite q.1 (encode f.fmt v)
        | none => clearOf taken (f.padWrite q.1))),
     s.stepPoison (some (o.part, o.slot)) bad)

/-! ### Gather and scatter (R207 to R210) -/

/-- Destination and source rows of index element k with value v; none when the row is skipped, or when a GATHER's
destination has no row k. The flag is FLT_BOUND. -/
def gatherRows (o : ImpOp) (k : Nat) (v : Int) : Option (Nat × Nat) × Bool :=
  let lim := if o.code = impGather then o.src.size 1 else o.dst.size 1
  if v = -1 then (none, false)
  else if v < -1 ∨ v ≥ (lim : Int) then (none, true)
  else if o.code = impGather then (if k < o.dst.size 1 then some (k, v.toNat) else none, false)
  else (some (v.toNat, k), false)

/-- Formats in which SCATTERADD rounds every addition (R209). -/
def roundsEach (f : Fmt) : Bool := f == .fp32 || f == .bf16

/-- Pieces of a row, each one unit long at most. -/
def rowPieces (o : ImpOp) : Nat := ceilDiv (o.dst.size 0) unitLen

/-- Units that one row takes: its source is read whole before its destination is written (R208); SCATTERADD reads
the destination's contents between the two. -/
def rowUnits (o : ImpOp) : Nat := (if o.code = impScatterAdd then 3 else 2) * rowPieces o

/-- Piece j of destination row dr, each element with its source in row sr when it has one (R207). -/
def pieceElems (o : ImpOp) (dr sr j : Nat) : List (EIdx × Option EIdx) :=
  ((List.range (min unitLen (o.dst.size 0 - j * unitLen))).map (fun i => j * unitLen + i)).map (fun i =>
    ((i, [dr, 0, 0, 0, 0]), if o.src.has (i, [sr, 0, 0, 0, 0]) then some (i, [sr, 0, 0, 0, 0]) else none))

/-- The value of index element k, and whether it was poisoned. -/
def State.indexAt (s : State) (o : ImpOp) (k : Nat) : Int × Bool × State :=
  let (ic, bad, s) := s.readElems o.part o.ix [(k, [0, 0, 0, 0, 0])]
  (sext 32 (ic.headD (0, 0)).1, bad, s)

/-- Rows that some index element names as destination, with their sources. -/
def State.rowsNamed (s : State) (o : ImpOp) : List (Nat × Nat) :=
  (List.range (o.ix.size 0)).filterMap (fun k => (gatherRows o k (s.indexAt o k).1).1)

/-- Masked bytes of the elements that receive data, as takenElems. -/
def State.takenRows (s : State) (o : ImpOp) : List (Nat × Byte × Byte) :=
  if o.dst.distinct || !o.dst.padFill then []
  else (s.rowsNamed o).flatMap (fun r => (List.range (rowPieces o)).flatMap (fun j =>
    (pieceElems o r.1 r.2 j).flatMap (fun e => if e.2.isSome then validWrite o.dst e.1 else [])))

/-- Begin the row of index element k: it is skipped, or its rows are captured. The flag is FLT_BOUND. -/
def State.beginRow (s : State) (o : ImpOp) (k : Nat) : ImpOp × Bool × State :=
  let (v, bad, s) := s.indexAt o k
  let (r, b) := gatherRows o k v
  ({ o with row := r, codes := [], prior := [], pos := if r.isNone then (k + 1) * rowUnits o else o.pos }, b,
   s.stepPoison (some (o.part, o.slot)) bad)

/-- Codes read for the elements of a piece that have a source, laid beside the piece's elements. -/
def placeCodes : List (EIdx × Option EIdx) → List (Nat × Nat) → List (Option (Nat × Nat))
  | (_, some _) :: es, c :: cs => some c :: placeCodes es cs
  | _ :: es, cs => none :: placeCodes es cs
  | [], _ => []

/-- Read piece j of the source row. -/
def State.readPiece (s : State) (o : ImpOp) (dr sr j : Nat) : ImpOp × State :=
  let es := pieceElems o dr sr j
  let (cs, bad, s) := s.readElems o.part o.src (es.filterMap (·.2))
  ({ o with codes := o.codes ++ placeCodes es cs }, s.stepPoison (some (o.part, o.slot)) bad)

/-- SCATTERADD: read the elements of piece j of the destination row that receive a sum. -/
def State.readPrior (s : State) (o : ImpOp) (dr sr j : Nat) : ImpOp × State :=
  let es := pieceElems o dr sr j
  let (ds, bad, s) := s.readElems o.part o.dst ((es.filter (·.2.isSome)).map (·.1))
  ({ o with prior := o.prior ++ (placeCodes es ds).map (·.getD (0, 0)) }, s.stepPoison (some (o.part, o.slot)) bad)

/-- What piece j of the destination row receives, from what has been read. -/
def State.writePiece (s : State) (o : ImpOp) (dr sr j : Nat) : ImpOp × List PWrite :=
  let f := o.dst
  let taken := s.takenRows o
  let qs := (pieceElems o dr sr j).map (·.1)
  let both := List.zip qs (o.codes.drop (j * unitLen))
  if o.code = impScatterAdd then
    let key := dr * 2 ^ 32 + j
    let acc := sget [] o.accs key
    let start := if acc.isEmpty || roundsEach f.fmt then (o.prior.drop (j * unitLen)).map (valOf f.fmt) else acc
    let sums := List.zipWith (fun (a : Val) (e : EIdx × Option (Nat × Nat)) => match e.2 with
      | some c => vadd a (valOf f.fmt c)
      | none => a) start both
    let ws := (List.zip both sums).flatMap (fun e => match e.1.2 with
      | some _ => f.elemWrite e.1.1 (encode f.fmt e.2)
      | none => clearOf taken (f.padWrite e.1.1))
    ({ o with accs := if roundsEach f.fmt then o.accs else sset [] o.accs key sums }, s.formePuts o.part f ws)
  else
    (o, s.formePuts o.part f (both.flatMap (fun e => match e.2 with
      | some c => f.elemWrite e.1 c.1 ++ (if f.fmt = .zb8 then f.expWrite e.1 c.2 else [])
      | none => clearOf taken (f.padWrite e.1))))

/-- One unit of GATHER, SCATTER or SCATTERADD: the operation after, FLT_BOUND, what it writes and the state once it has
been read. -/
def State.gatherUnit (s : State) (o : ImpOp) : ImpOp × Bool × List PWrite × State :=
  let j := o.pos % rowUnits o
  let (o, b, s) := if j = 0 then s.beginRow o (o.pos / rowUnits o) else (o, false, s)
  match o.row with
  | none => (o, b, [], s)
  | some (dr, sr) =>
    let n := rowPieces o
    if j < n then
      let (o, s) := s.readPiece o dr sr j
      ({ o with pos := o.pos + 1 }, b, [], s)
    else if o.code = impScatterAdd ∧ j < 2 * n then
      let (o, s) := s.readPrior o dr sr (j - n)
      ({ o with pos := o.pos + 1 }, b, [], s)
    else
      let (o, ws) := s.writePiece o dr sr (j % n)
      ({ o with pos := o.pos + 1 }, b, ws, s)

/-! ### Checks before any data moves (R134) -/

/-- Bytes of formes that some elements of a destination touch with their sources: as destination, those that receive
data or fill. -/
def pairBytes (o : ImpOp) (es : List (EIdx × Option EIdx)) : List (Forme × List Nat) :=
  [(o.src, (es.filterMap (·.2)).flatMap o.src.elemAddrs),
   (o.dst, (es.filter (fun e => o.dst.padFill || e.2.isSome)).flatMap (fun e => o.dst.elemAddrs e.1))]

/-- Bytes that unit u of an operation touches; in GATHER, SCATTER and SCATTERADD the index element u and its row. -/
def State.unitTouched (s : State) (o : ImpOp) (u : Nat) : List (Forme × List Nat) :=
  if o.code ≥ impGather then
    (o.ix, o.ix.elemAddrs (u, [0, 0, 0, 0, 0]))
      :: (match (gatherRows o u (s.indexAt o u).1).1 with
        | some r => (List.range (rowPieces o)).flatMap (fun j => pairBytes o (pieceElems o r.1 r.2 j))
        | none => [])
  else
    let es := unitElems o u
    let js := es.filterMap (·.2)
    pairBytes o es
      ++ (if scaledSrc o then [(o.ssc, ((js.map scaleIdx).filter o.ssc.has).flatMap o.ssc.elemAddrs)] else [])
      ++ (if scaledDst o then [(o.dsc, ((es.map (fun e => scaleIdx e.1)).filter o.dsc.has).flatMap o.dsc.elemAddrs)] else [])

/-- Bytes of formes that an operation touches. -/
def State.impTouched (s : State) (o : ImpOp) : List (Forme × List Nat) :=
  (List.range (if o.code ≥ impGather then o.ix.size 0 else unitCount o.dst)).flatMap (s.unitTouched o)

/-- Physical places of touched bytes. -/
def State.touchedPlaces (s : State) (o : ImpOp) (ts : List (Forme × List Nat)) : List (Space × Nat) :=
  ts.flatMap (fun t => t.2.filterMap (s.formeXl o.part t.1))

/-- FLT_BOUND, when an index element of GATHER, SCATTER or SCATTERADD lies outside the rows it indexes (R207). -/
def State.boundFault (s : State) (o : ImpOp) : List Nat :=
  if o.code ≥ impGather ∧ (List.range (o.ix.size 0)).any (fun k => (gatherRows o k (s.indexAt o k).1).2) then [fltBound]
  else []

/-- The fault that stops the operation before it moves anything: the first in the order of Table 4.14 of all it
raises (R135). FLT_BOUND alone does not stop it. -/
def State.impFault (s : State) (o : ImpOp) : Option Nat :=
  let fs := o.fault.toList
    ++ (s.impTouched o).filterMap (fun t => match s.places o.part t.1 t.2 with | .error e => some e | .ok _ => none)
  if fs.isEmpty then none else firstFault (fs ++ s.boundFault o)

/-! ### Turns and completion -/

/-- A turn's 16 KiB, in 1,920ths of a byte (esNum). -/
def turnBudget : Nat := 16384 * 1920

/-- Scale codes of a scale forme that elements take. -/
def scaleCount (g : Forme) (qs : List EIdx) : Nat := ((qs.map scaleIdx).filter g.has).eraseDups.length

/-- Bytes that unit u reads, scale codes included, in 1,920ths. -/
def readCost (o : ImpOp) (u : Nat) : Nat :=
  let js := (unitElems o u).filterMap (·.2)
  esNum o.src.fmt js.length + (if scaledSrc o then 1920 * scaleCount o.ssc js else 0)

/-- Bytes that unit u writes, scale codes included, in 1,920ths. -/
def writeCost (o : ImpOp) (u : Nat) : Nat :=
  let es := unitElems o u
  esNum o.dst.fmt (es.filter (fun e => o.dst.padFill || e.2.isSome)).length
    + (if scaledDst o then 1920 * scaleCount o.dsc (es.map (·.1)) else 0)

/-- Lines of elements of a forme that the elements before them do not touch. -/
def newLines (f : Forme) (qs before : List EIdx) : Nat :=
  let ls := fun (qs : List EIdx) => (qs.flatMap (fun q => (f.elemAddrs q).map (· / 64))).eraseDups
  let old := ls before
  ((ls qs).filter (fun l => !old.contains l)).length

/-- Lines that piece j of a row is the first to touch, at the source or at the destination. -/
def pieceLines (o : ImpOp) (atSrc : Bool) (dr sr j : Nat) : Nat :=
  let qs := fun (j : Nat) =>
    let es := pieceElems o dr sr j
    if atSrc then es.filterMap (·.2) else (es.filter (fun e => o.dst.padFill || e.2.isSome)).map (·.1)
  newLines (if atSrc then o.src else o.dst) (qs j) (if j = 0 then [] else qs (j - 1))

/-- Rows of the unit under way or about to begin. -/
def State.rowAt (s : State) (o : ImpOp) : Option (Nat × Nat) :=
  if o.pos % rowUnits o = 0 then
    let k := o.pos / rowUnits o
    (gatherRows o k (s.indexAt o k).1).1
  else o.row

/-- What the next unit adds to the bytes B of Table 4.13, in 1,920ths: bytes written, in a CONVERT the larger of bytes
read and written, and 64 for each line touched at the source and destination of a row, twice in SCATTERADD. -/
def State.unitCost (s : State) (o : ImpOp) : Nat :=
  if o.code ≥ impGather then
    match s.rowAt o with
    | none => 0
    | some (dr, sr) =>
      let j := o.pos % rowUnits o
      let n := rowPieces o
      let twice := if o.code = impScatterAdd then 2 else 1
      1920 * 64 * (if j < n then twice * pieceLines o true dr sr j else pieceLines o false dr sr (j % n))
  else if o.byRead then readCost o o.pos
  else writeCost o o.pos

/-- Whether a CONVERT reads more bytes than it writes. -/
def readsMore (o : ImpOp) : Bool :=
  o.code == impConvert
    && decide ((List.range (unitCount o.dst)).foldl (fun a u => a + writeCost o u) 0
      < (List.range (unitCount o.dst)).foldl (fun a u => a + readCost o u) 0)

/-- Whether the next unit of an operation meets a channel under refresh, and waits (R239). -/
def State.unitWaits (s : State) (o : ImpOp) : Bool :=
  !s.calm (s.touchedPlaces o (s.unitTouched o (if o.code ≥ impGather then o.pos / rowUnits o else o.pos)))

/-- Units whose stack lines performance event 6 counts as the operation moves from one position to another: a gathered
row counts with its first unit. -/
def movedUnits (o o' : ImpOp) : List Nat :=
  if o.code ≥ impGather then
    (List.range (ceilDiv o'.pos (rowUnits o))).filter (fun k => decide (o.pos ≤ k * rowUnits o))
  else (List.range (o'.pos - o.pos)).map (o.pos + ·)

/-- Count the stack lines that a turn of cluster c has read and written, forme by forme (performance event 6). -/
def State.countTurn (s : State) (c : Nat) (o o' : ImpOp) : State :=
  let ts := (movedUnits o o').flatMap (s.unitTouched o)
  [o.src, o.dst, o.ix, o.ssc, o.dsc].eraseDups.foldl (fun s f =>
    s.countLines (some c) (s.touchedPlaces o (ts.filter (fun t => t.1 = f)))) s

/-- End a turn: what it has written lands, and what it has not spent of its 16 KiB on a unit it could not finish is
spent on that unit. -/
def State.endTurn (s : State) (o : ImpOp) (ws : List PWrite) (left : Nat) : ImpOp × State :=
  ({ o with credit := left }, s.stepWrite o.part o.slot (joinPuts ws))

/-- Move up to n units of an operation of cluster c that has started, as far as what is left of the turn goes; ws is what
it has written so far. The row of an index element is read after those before it have been written (R208). A turn may end
between a SCATTERADD's read of its destination and its write, which another share's SCATTERADD may then come between
(R210). -/
def State.moveUnits (s : State) (c : Nat) (o : ImpOp) (ws : List PWrite) (left : Nat) : Nat → ImpOp × State
  | 0 => s.endTurn o ws 0
  | n + 1 =>
    if o.pos ≥ o.total.getD 0 || s.unitWaits o then s.endTurn o ws 0
    else if o.code ≥ impGather then
      let (ws, s) := if o.pos % rowUnits o = 0 then ([], s.stepWrite o.part o.slot (joinPuts ws)) else (ws, s)
      let cost := s.unitCost o
      if left < cost then s.endTurn o ws left
      else
        let (o', b, w, s) := s.gatherUnit o
        let o' := { o' with fault := if b then firstFault (o'.fault.toList ++ [fltBound]) else o'.fault }
        if o.code = impScatterAdd ∧ 2 * rowPieces o ≤ o'.pos % rowUnits o then
          let (stop, s) := s.choose
          if stop then s.endTurn o' (ws ++ w) (left - cost) else s.moveUnits c o' (ws ++ w) (left - cost) n
        else s.moveUnits c o' (ws ++ w) (left - cost) n
    else
      let cost := s.unitCost o
      if left < cost then s.endTurn o ws left
      else
        let (w, s) := s.moveUnit o o.pos
        s.moveUnits c { o with pos := o.pos + 1 } (ws ++ w) (left - cost) n

/-- Start the operation at the head of a share: its checks, and how many units it has. An identity copy,
a NOP and a faulting operation move nothing. -/
def State.impStart (s : State) (o : ImpOp) : ImpOp :=
  if o.total.isSome then o
  else if o.nop then { o with total := some 0 }
  else match s.impFault o with
    | some e => { o with total := some 0, fault := some e }
    | none =>
      if o.code ≤ impDieslice ∧ impIdentity o.code o.d0 o.d1 o.src o.dst then { o with total := some 0 }
      else
        { o with total := some (if o.code ≥ impGather then o.ix.size 0 * rowUnits o else unitCount o.dst)
                 byRead := readsMore o }

/-- Formes that an operation uses. -/
def usedFormes (o : ImpOp) : List Forme :=
  [o.src, o.dst] ++ (if o.code ≥ impGather then [o.ix] else []) ++ (if scaledSrc o then [o.ssc] else [])
    ++ (if scaledDst o then [o.dsc] else [])

/-- An operation begins that a host error concerns: a forme whose region is gone (R199), or two pages of the partition on
one physical page (R212). Its results are unpredictable (R391). -/
def State.impHostError (s : State) (o o' : ImpOp) : State :=
  if o.total.isNone && o'.total != some 0 && ((s.tmpl o.part).twice || (usedFormes o).any (s.staleForme o.part)) then
    s.unpredictable o.part
  else s

/-- One turn of an operation of cluster c: up to 16 KiB of it, and the stack lines it counts. -/
def State.turnOf (s : State) (c : Nat) (o : ImpOp) : ImpOp × State :=
  let o1 := s.impStart o
  let s := s.impHostError o o1
  let (o2, s) := s.moveUnits c o1 [] (turnBudget + o1.credit) (o1.total.getD 0 - o1.pos)
  (o2, s.countTurn c o1 o2)

/-- One turn of cluster c's share of engine x. -/
def State.impWork (s : State) (c x : Nat) : State :=
  match (s.cluster c).share x with
  | o :: t =>
    let (o, s) := s.turnOf c o
    s.modCluster c (fun y => { y with shares := sset [] y.shares x (o :: t) })
  | [] => s

/-- Least length of a turn in cycles of its C-die's clock (R131). -/
def turnCc : Nat := 64

/-- IMPOSITION_TURN: the next turn of the rotation, passed on within the partition when idle; no turn begins before
the 64 cc of the one before it have passed (R131). -/
def State.impTurn (s : State) (d x : Nat) : State :=
  let key := 4 * d + x
  let due := sget 0 s.turns (8 + key)
  let cyc := (s.dieClk d).cyc
  if !s.clockRuns (16 * d) || decide (cyc < due) then s
  else
    let k := sget 0 s.turns key % 16
    let s := s.withTurns (sset 0 (sset 0 s.turns key ((k + 1) % 16)) (8 + key) (cyc + turnCc))
    let c0 := 16 * d + k
    let p := s.partOf c0
    let order := (List.range 16).map (fun j => 16 * d + (k + j) % 16)
    match order.find? (fun c => !((s.cluster c).share x).isEmpty && (c == c0 || (p.isSome && s.partOf c == p))) with
    | some c => s.impWork c x
    | none => s

/-- IMPOSITION_COMPLETE: the operation at the head of a share has moved everything; its entry frees, its
fault posts, and its MV instruction completes. -/
def State.impComplete (s : State) (c x : Nat) : State :=
  match (s.cluster c).share x with
  | o :: t =>
    let o := s.impStart o
    if !s.clockRuns c || decide (o.pos < o.total.getD 0) then s
    else
      let s := s.modCluster c (fun y => { y with shares := sset [] y.shares x t })
      let mo := (s.cluster c).mv.find? (fun m => m.seq == o.seq)
      let s := match firstFault (o.fault.toList ++ ((mo.bind (·.fault)).toList)), mo with
        | some f, some m => if o.nop && o.fault.isNone then s else s.postFault c engMv m.idx m.issueNs f
        | _, _ => s
      s.mvDone c o.seq
  | [] => s

end Sys2Proof.Machine
end

