-- ==== Sys2Proof/Machine/Program.lean ====
section
/-! DEFINITION. The engine commands: one issue attempt of an engine's next instruction for each operation
code (Tables 4.6 to 4.13), the fetch of the next word of a stream (R106), and the events of static
completion (R81), MV completion (R82) and imposition completion and turns. -/

namespace Sys2Proof.Machine

/-- One issue attempt on an engine by its code, 6 for MV. -/
def State.issueAny (s : State) (c e opc : Nat) (w : IWord) : State :=
  if e = engMv then s.issueMv c opc w else s.issueEng c e opc w

/-- Operation code and fields of the word at an index of cluster instruction memory (Table 4.1). -/
def Cluster.wordAtIdx (x : Cluster) (k : Nat) : Nat × IWord :=
  unpackWord (mword x.imem (16 * k)) (mword x.imem (16 * k + 8))

/-- The IMP word with its operation field set (Table 4.13). -/
def impWord (code : Nat) (w : IWord) : IWord :=
  { w with opnd := BitVec.ofNat 20 (opnd w 19 18 * 2 ^ 18 + code * 2 ^ 14 + opnd w 13 0) }

/-! ### Common (Table 4.6) -/

/-- NOP (R119). -/
def execNop (c : ClusterId) (e : EngId) (w : IWord) (s : State) : Host.Outcome State Fault Refusal :=
  .next (s.issueAny c.val e.val opcNop w)

/-- END: the stream ends (R76). -/
def execEndStream (c : ClusterId) (e : EngId) (w : IWord) (s : State) : Host.Outcome State Fault Refusal :=
  .next (s.issueAny c.val e.val opcEnd w)

/-- LOOP (R96 to R101). -/
def execLoop (c : ClusterId) (e : EngId) (w : IWord) (s : State) : Host.Outcome State Fault Refusal :=
  .next (s.issueAny c.val e.val opcLoop w)

/-! ### Matrix engines (Table 4.8) -/

/-- ZACC (R147). -/
def execZacc (c : ClusterId) (m : MeId) (w : IWord) (s : State) : Host.Outcome State Fault Refusal :=
  .next (s.issueEng c.val m.val 0x10 w)

/-- ANCHOR (R153). -/
def execAnchor (c : ClusterId) (m : MeId) (w : IWord) (s : State) : Host.Outcome State Fault Refusal :=
  .next (s.issueEng c.val m.val 0x11 w)

/-- MMA (R147 to R152, R155). -/
def execMma (c : ClusterId) (m : MeId) (w : IWord) (s : State) : Host.Outcome State Fault Refusal :=
  .next (s.issueEng c.val m.val 0x12 w)

/-- MMAZ: the bank is zeroed first. -/
def execMmaz (c : ClusterId) (m : MeId) (w : IWord) (s : State) : Host.Outcome State Fault Refusal :=
  .next (s.issueEng c.val m.val 0x13 w)

/-- MMAX (R153). -/
def execMmax (c : ClusterId) (m : MeId) (w : IWord) (s : State) : Host.Outcome State Fault Refusal :=
  .next (s.issueEng c.val m.val 0x14 w)

/-- MMAXZ: the bank is zeroed first. -/
def execMmaxz (c : ClusterId) (m : MeId) (w : IWord) (s : State) : Host.Outcome State Fault Refusal :=
  .next (s.issueEng c.val m.val 0x15 w)

/-- DRAIN (R158 to R161). -/
def execDrain (c : ClusterId) (m : MeId) (w : IWord) (s : State) : Host.Outcome State Fault Refusal :=
  .next (s.issueEng c.val m.val 0x18 w)

/-- DRAINZ: the bank is zeroed after it is read. -/
def execDrainz (c : ClusterId) (m : MeId) (w : IWord) (s : State) : Host.Outcome State Fault Refusal :=
  .next (s.issueEng c.val m.val 0x19 w)

/-! ### Vector engine (Table 4.9) -/

/-- VADD (R168). -/
def execVadd (c : ClusterId) (w : IWord) (s : State) : Host.Outcome State Fault Refusal :=
  .next (s.issueEng c.val engVe 0x20 w)

/-- VSUB (R168). -/
def execVsub (c : ClusterId) (w : IWord) (s : State) : Host.Outcome State Fault Refusal :=
  .next (s.issueEng c.val engVe 0x21 w)

/-- VMUL (R168). -/
def execVmul (c : ClusterId) (w : IWord) (s : State) : Host.Outcome State Fault Refusal :=
  .next (s.issueEng c.val engVe 0x22 w)

/-- VFMA (R168). -/
def execVfma (c : ClusterId) (w : IWord) (s : State) : Host.Outcome State Fault Refusal :=
  .next (s.issueEng c.val engVe 0x23 w)

/-- VMAX (R168). -/
def execVmax (c : ClusterId) (w : IWord) (s : State) : Host.Outcome State Fault Refusal :=
  .next (s.issueEng c.val engVe 0x24 w)

/-- VMIN (R168). -/
def execVmin (c : ClusterId) (w : IWord) (s : State) : Host.Outcome State Fault Refusal :=
  .next (s.issueEng c.val engVe 0x25 w)

/-- VABS (R168). -/
def execVabs (c : ClusterId) (w : IWord) (s : State) : Host.Outcome State Fault Refusal :=
  .next (s.issueEng c.val engVe 0x26 w)

/-- VNEG (R168). -/
def execVneg (c : ClusterId) (w : IWord) (s : State) : Host.Outcome State Fault Refusal :=
  .next (s.issueEng c.val engVe 0x27 w)

/-- VAND (R168). -/
def execVand (c : ClusterId) (w : IWord) (s : State) : Host.Outcome State Fault Refusal :=
  .next (s.issueEng c.val engVe 0x28 w)

/-- VOR (R168). -/
def execVor (c : ClusterId) (w : IWord) (s : State) : Host.Outcome State Fault Refusal :=
  .next (s.issueEng c.val engVe 0x29 w)

/-- VXOR (R168). -/
def execVxor (c : ClusterId) (w : IWord) (s : State) : Host.Outcome State Fault Refusal :=
  .next (s.issueEng c.val engVe 0x2A w)

/-- VSHL (R168). -/
def execVshl (c : ClusterId) (w : IWord) (s : State) : Host.Outcome State Fault Refusal :=
  .next (s.issueEng c.val engVe 0x2B w)

/-- VSHR (R168). -/
def execVshr (c : ClusterId) (w : IWord) (s : State) : Host.Outcome State Fault Refusal :=
  .next (s.issueEng c.val engVe 0x2C w)

/-- VMOV. -/
def execVmov (c : ClusterId) (w : IWord) (s : State) : Host.Outcome State Fault Refusal :=
  .next (s.issueEng c.val engVe 0x2D w)

/-- VSEL. -/
def execVsel (c : ClusterId) (w : IWord) (s : State) : Host.Outcome State Fault Refusal :=
  .next (s.issueEng c.val engVe 0x2E w)

/-- VCMPEQ. -/
def execVcmpeq (c : ClusterId) (w : IWord) (s : State) : Host.Outcome State Fault Refusal :=
  .next (s.issueEng c.val engVe 0x30 w)

/-- VCMPLT. -/
def execVcmplt (c : ClusterId) (w : IWord) (s : State) : Host.Outcome State Fault Refusal :=
  .next (s.issueEng c.val engVe 0x31 w)

/-- VCMPLE. -/
def execVcmple (c : ClusterId) (w : IWord) (s : State) : Host.Outcome State Fault Refusal :=
  .next (s.issueEng c.val engVe 0x32 w)

/-- VEXP2 (R169). -/
def execVexp2 (c : ClusterId) (w : IWord) (s : State) : Host.Outcome State Fault Refusal :=
  .next (s.issueEng c.val engVe 0x34 w)

/-- VRCP (R169). -/
def execVrcp (c : ClusterId) (w : IWord) (s : State) : Host.Outcome State Fault Refusal :=
  .next (s.issueEng c.val engVe 0x35 w)

/-- VRSQ (R169). -/
def execVrsq (c : ClusterId) (w : IWord) (s : State) : Host.Outcome State Fault Refusal :=
  .next (s.issueEng c.val engVe 0x36 w)

/-- VCVT (R170). -/
def execVcvt (c : ClusterId) (w : IWord) (s : State) : Host.Outcome State Fault Refusal :=
  .next (s.issueEng c.val engVe 0x37 w)

/-- VREDR.SUM (R172). -/
def execVredrSum (c : ClusterId) (w : IWord) (s : State) : Host.Outcome State Fault Refusal :=
  .next (s.issueEng c.val engVe 0x38 w)

/-- VREDR.MAX. -/
def execVredrMax (c : ClusterId) (w : IWord) (s : State) : Host.Outcome State Fault Refusal :=
  .next (s.issueEng c.val engVe 0x39 w)

/-- VREDR.MIN. -/
def execVredrMin (c : ClusterId) (w : IWord) (s : State) : Host.Outcome State Fault Refusal :=
  .next (s.issueEng c.val engVe 0x3A w)

/-- VREDC.SUM. -/
def execVredcSum (c : ClusterId) (w : IWord) (s : State) : Host.Outcome State Fault Refusal :=
  .next (s.issueEng c.val engVe 0x3B w)

/-- VREDC.MAX. -/
def execVredcMax (c : ClusterId) (w : IWord) (s : State) : Host.Outcome State Fault Refusal :=
  .next (s.issueEng c.val engVe 0x3C w)

/-- VREDC.MIN. -/
def execVredcMin (c : ClusterId) (w : IWord) (s : State) : Host.Outcome State Fault Refusal :=
  .next (s.issueEng c.val engVe 0x3D w)

/-- A row form, OPC + 0x80 (R126). -/
def execRowForm (c : ClusterId) (opc : BitVec 8) (w : IWord) (s : State) : Host.Outcome State Fault Refusal :=
  .next (s.issueEng c.val engVe (opc.toNat + 0x80) w)

/-- COMPRESS (R182, R183). -/
def execCompress (c : ClusterId) (w : IWord) (s : State) : Host.Outcome State Fault Refusal :=
  .next (s.issueEng c.val engVe 0x40 w)

/-- COMPRESS.APPEND (R183, R184). -/
def execCompressAppend (c : ClusterId) (w : IWord) (s : State) : Host.Outcome State Fault Refusal :=
  .next (s.issueEng c.val engVe 0x41 w)

/-- EXPAND (R185). -/
def execExpand (c : ClusterId) (w : IWord) (s : State) : Host.Outcome State Fault Refusal :=
  .next (s.issueEng c.val engVe 0x42 w)

/-- EXPAND.APPEND (R185). -/
def execExpandAppend (c : ClusterId) (w : IWord) (s : State) : Host.Outcome State Fault Refusal :=
  .next (s.issueEng c.val engVe 0x43 w)

/-! ### Reduction unit (Table 4.10) -/

/-- RSUM (R178). -/
def execRsum (c : ClusterId) (w : IWord) (s : State) : Host.Outcome State Fault Refusal :=
  .next (s.issueEng c.val engRu 0x50 w)

/-- RMAX (R178). -/
def execRmax (c : ClusterId) (w : IWord) (s : State) : Host.Outcome State Fault Refusal :=
  .next (s.issueEng c.val engRu 0x51 w)

/-- RMIN (R178). -/
def execRmin (c : ClusterId) (w : IWord) (s : State) : Host.Outcome State Fault Refusal :=
  .next (s.issueEng c.val engRu 0x52 w)

/-- RSSUM (R179). -/
def execRssum (c : ClusterId) (w : IWord) (s : State) : Host.Outcome State Fault Refusal :=
  .next (s.issueEng c.val engRu 0x54 w)

/-- RSMAX (R179). -/
def execRsmax (c : ClusterId) (w : IWord) (s : State) : Host.Outcome State Fault Refusal :=
  .next (s.issueEng c.val engRu 0x55 w)

/-- RSMIN (R179). -/
def execRsmin (c : ClusterId) (w : IWord) (s : State) : Host.Outcome State Fault Refusal :=
  .next (s.issueEng c.val engRu 0x56 w)

/-! ### Mover (Table 4.11) -/

/-- LOAD (R202). -/
def execLoad (c : ClusterId) (w : IWord) (s : State) : Host.Outcome State Fault Refusal :=
  .next (s.issueMv c.val 0x60 w)

/-- STORE (R202). -/
def execStore (c : ClusterId) (w : IWord) (s : State) : Host.Outcome State Fault Refusal :=
  .next (s.issueMv c.val 0x61 w)

/-- FDEF (R190, R198). -/
def execFdef (c : ClusterId) (w : IWord) (s : State) : Host.Outcome State Fault Refusal :=
  .next (s.issueMv c.val 0x62 w)

/-- NBCMD (R233). -/
def execNbcmd (c : ClusterId) (w : IWord) (s : State) : Host.Outcome State Fault Refusal :=
  .next (s.issueMv c.val 0x66 w)

/-- RWRITE (R282). -/
def execRwrite (c : ClusterId) (w : IWord) (s : State) : Host.Outcome State Fault Refusal :=
  .next (s.issueMv c.val 0x68 w)

/-- WGANN (R282). -/
def execWgann (c : ClusterId) (w : IWord) (s : State) : Host.Outcome State Fault Refusal :=
  .next (s.issueMv c.val 0x69 w)

/-- RFINAL (R282). -/
def execRfinal (c : ClusterId) (w : IWord) (s : State) : Host.Outcome State Fault Refusal :=
  .next (s.issueMv c.val 0x6A w)

/-- FLGCLR (R90). -/
def execFlgclr (c : ClusterId) (w : IWord) (s : State) : Host.Outcome State Fault Refusal :=
  .next (s.issueMv c.val 0x6C w)

/-! ### Imposition operations (Table 4.13) -/

/-- IMP COPY (R206). -/
def execCopy (c : ClusterId) (w : IWord) (s : State) : Host.Outcome State Fault Refusal :=
  .next (s.issueMv c.val 0x64 (impWord impCopy w))

/-- IMP TRANSPOSE (R206). -/
def execTranspose (c : ClusterId) (w : IWord) (s : State) : Host.Outcome State Fault Refusal :=
  .next (s.issueMv c.val 0x64 (impWord impTranspose w))

/-- IMP PERMUTE (R206). -/
def execPermute (c : ClusterId) (w : IWord) (s : State) : Host.Outcome State Fault Refusal :=
  .next (s.issueMv c.val 0x64 (impWord impPermute w))

/-- IMP CONVERT (R206). -/
def execConvert (c : ClusterId) (w : IWord) (s : State) : Host.Outcome State Fault Refusal :=
  .next (s.issueMv c.val 0x64 (impWord impConvert w))

/-- IMP DIESLICE (R206). -/
def execDieslice (c : ClusterId) (w : IWord) (s : State) : Host.Outcome State Fault Refusal :=
  .next (s.issueMv c.val 0x64 (impWord impDieslice w))

/-- IMP GATHER (R207). -/
def execGather (c : ClusterId) (w : IWord) (s : State) : Host.Outcome State Fault Refusal :=
  .next (s.issueMv c.val 0x64 (impWord impGather w))

/-- IMP SCATTER (R208). -/
def execScatter (c : ClusterId) (w : IWord) (s : State) : Host.Outcome State Fault Refusal :=
  .next (s.issueMv c.val 0x64 (impWord impScatter w))

/-- IMP SCATTERADD (R209). -/
def execScatterAdd (c : ClusterId) (w : IWord) (s : State) : Host.Outcome State Fault Refusal :=
  .next (s.issueMv c.val 0x64 (impWord impScatterAdd w))

/-! ### Events of the engines -/

/-- The word at the head of a stream, from its instruction queue (Table 4.1, R106). -/
def State.headWord (s : State) (c e : Nat) : Nat × IWord :=
  let st := s.stream c e
  match st.queue.find? (fun q => q.idx == st.pc) with
  | some q => unpackWord q.lo q.hi
  | none => (s.cluster c).wordAtIdx st.pc

/-- The next instruction of a stream issues; an uncorrectable word acts as END, and the step carries POISON (Table
15.1, R79). -/
def State.issueNext (s : State) (c e : Nat) : State :=
  if s.imemBad c (s.stream c e).pc then
    let t := s.issueAny c e opcEnd {}
    if (s.stream c e).live && !(t.stream c e).live then t.stepPoison (s.runOf c) true else t
  else
    let (opc, w) := s.headWord c e
    s.issueAny c e opc w

/-- INSTRUCTION_ISSUE: the next instruction of a stream, fetched from instruction memory (R81, R106). -/
def execInstructionIssue (c : ClusterId) (e : EngId) (s : State) : Host.Outcome State Fault Refusal :=
  .next (s.issueNext c.val e.val)

/-- STATIC_COMPLETION: when an instruction of the engine is due, it and all that are due land in order (R81). -/
def State.staticCompletion (s : State) (c e : Nat) : State :=
  let x := s.cluster c
  if x.flight.any (fun f => f.eng == e && decide (f.due ≤ x.cyc)) || (e == engMv && x.mvDue.isSome) then s.settle c else s

def execStaticCompletion (c : ClusterId) (e : EngId) (s : State) : Host.Outcome State Fault Refusal :=
  .next (s.staticCompletion c.val e.val)

/-- MV_COMPLETION (R82, R93). -/
def execMvCompletion (c : ClusterId) (k : Nat) (s : State) : Host.Outcome State Fault Refusal :=
  .next (s.mvComplete c.val k)

/-- IMPOSITION_TURN (R131). -/
def execImpositionTurn (d : DieId) (x : ImpId) (s : State) : Host.Outcome State Fault Refusal :=
  .next (s.impTurn d.val x.val)

/-- IMPOSITION_COMPLETE (R205, R210). -/
def execImpositionComplete (c : ClusterId) (x : ImpId) (s : State) : Host.Outcome State Fault Refusal :=
  .next (s.impComplete c.val x.val)

end Sys2Proof.Machine
end

