-- ==== Sys2Proof/Machine/NearBank.lean ====
section
/-! DEFINITION. Near-bank processing (chapter 8): the command word (Table 8.8), limits (R493), start rules
(R233, R238), what each operation computes (Table 8.9, R229, R236, R243 to R245), loads and stores under
the per-die code (R247, R248), and the life of a list (R232 to R234, R237). A command's effect acts when it
starts, PUTC's when it ends. -/

namespace Sys2Proof.Machine

/-! ### Commands -/

/-- The fields of a near-bank command (Table 8.8); LEN 0 acts as 1. -/
structure NbCmd where
  op : Nat := 2
  bank : Nat := 0
  alld : Bool := false
  die : Nat := 0
  row : Nat := 0
  col : Nat := 0
  len : Nat := 1
  va : Nat := 0
  vb : Nat := 0
  slot : Nat := 0
  imm : Nat := 0
  deriving DecidableEq, Repr

/-- The operation a code stands for: any code Table 8.9 does not list acts as NOP (R235). -/
def nbOp (c : Nat) : Nat :=
  if [0x01, 0x02, 0x04, 0x05, 0x06, 0x07, 0x08, 0x10, 0x11, 0x12, 0x13, 0x14, 0x15, 0x16, 0x17, 0x18, 0x19,
      0x1A, 0x1B, 0x20, 0x28, 0x29, 0x2A, 0x2B, 0x2C].contains c then c else 0

def nbParse (lo hi : W64) : NbCmd :=
  { op := nbOp (bf hi 63 56), bank := bf hi 55 51, alld := bit hi 50, die := bf hi 49 46, row := bf hi 45 32
    col := bf hi 31 27, len := max 1 (bf hi 26 16), va := bf hi 15 12, vb := bf hi 11 8, slot := bf hi 7 0
    imm := lo.toNat }

/-- The next command of a list; END after its last line (R233). -/
def NbList.cmd (l : NbList) : NbCmd :=
  if l.line ≥ l.len then {}
  else
    let bs := (l.bytes.drop (64 * l.line + 16 * l.q)).take 16
    nbParse (BitVec.ofNat 64 (leNat (bs.take 8))) (BitVec.ofNat 64 (leNat (bs.drop 8)))

/-- Index of a command in a status record: 4 × line + q (Table 14.7). -/
def NbList.index (l : NbList) : Nat := 4 * l.line + l.q

def immIs (c : NbCmd) (i : Nat) : Bool := c.imm.testBit i

/-- Lines of list data of LDQ and STI (R232). -/
def NbCmd.dataLines (c : NbCmd) : Nat := if c.op = 0x06 ∨ c.op = 0x07 then ceilDiv (32 * c.len) 64 else 0

/-- Place of the command after this one. -/
def NbList.after (l : NbList) (c : NbCmd) : Nat × Nat :=
  if c.op = 0x06 ∨ c.op = 0x07 then (l.line + 1 + c.dataLines, 0)
  else if l.q = 3 then (l.line + 1, 0) else (l.line, l.q + 1)

/-- Commands that act on the NBUs of BANK (R233). -/
def NbCmd.namesBank (c : NbCmd) : Bool :=
  (decide (0x04 ≤ c.op) && decide (c.op ≤ 0x28)) || c.op == 0x2B

/-- Commands that wait for earlier ones on their slot (R233), and commands that name a slot. -/
def NbCmd.waitsSlot (c : NbCmd) : Bool := c.op == 0x28 || c.op == 0x29 || c.op == 0x2A || c.op == 0x2C

def NbCmd.namesSlot (c : NbCmd) : Bool := c.waitsSlot || c.op == 0x2B

def NbCmd.usesBus (c : NbCmd) : Bool := c.op == 0x06 || c.op == 0x07 || c.op == 0x28 || c.op == 0x2B

def NbCmd.isBurst (c : NbCmd) : Bool :=
  c.op == 0x04 || c.op == 0x05 || c.op == 0x07 || (decide (0x10 ≤ c.op) && decide (c.op ≤ 0x17)) || c.op == 0x20

/-- The one data die a command acts on, where it does not act on all. -/
def NbCmd.oneDie (c : NbCmd) : Option Nat :=
  if c.op = 0x07 ∨ (c.op ≠ 0x20 ∧ !c.alld) then some c.die else none

/-- Data dies a command acts on; in ATT those that hold an entry (R236). -/
def NbCmd.dies (c : NbCmd) : List Nat :=
  match c.oneDie with
  | some d => [d]
  | none => List.range (if c.op = 0x20 then min 16 c.len else 16)

/-- Entries that ATT processes on die d (R236). -/
def NbCmd.entries (c : NbCmd) (d : Nat) : Nat := if c.len ≤ d then 0 else ceilDiv (c.len - d) 16

/-- First die byte of a streamed access, and its length on die 0 (R231, R236). -/
def NbCmd.off (c : NbCmd) : Nat := 1024 * c.row + 32 * c.col

def NbCmd.span (c : NbCmd) : Nat := if c.op = 0x20 then 64 * c.vb * ceilDiv c.len 16 else 32 * c.len

/-- Die bytes a streamed access takes on die d. -/
def NbCmd.spanOn (c : NbCmd) (d : Nat) : Nat := if c.op = 0x20 then 64 * c.vb * c.entries d else c.span

/-- Rows a streamed access enters, counted on die 0. -/
def NbCmd.rows (c : NbCmd) : Nat := (c.off + c.span - 1) / 1024 + 1 - c.row

def NbCmd.lastRow (c : NbCmd) : Nat := min 9215 (c.row + c.rows - 1)

def bankDieBytes : Nat := 9216 * 1024

/-- Bytes PUTC writes (R245). -/
def NbCmd.putLen (c : NbCmd) : Nat :=
  (if immIs c 33 then 8 else 0) + 16 * c.vb * (if immIs c 32 then 4 else 2)

/-- Whether the command keeps to Table 8.11, to row 9,215, to its list and to the cluster store (R237,
R493). top: bytes of the issuing cluster's store. -/
def NbCmd.inLimits (c : NbCmd) (l : NbList) (top : Nat) : Bool :=
  let vbOk := decide (1 ≤ c.vb) && decide (c.vb ≤ 8)
  let fields :=
    if [0x04, 0x05, 0x06, 0x10, 0x12, 0x13, 0x14, 0x15, 0x16, 0x2B].contains c.op then decide (c.va + c.len ≤ 8)
    else if c.op = 0x11 then decide (c.len ≤ 8)
    else if c.op = 0x17 then decide (c.len ≤ if immIs c 0 then 16 else 8)
    else if c.op = 0x1B ∨ c.op = 0x20 then vbOk && decide (c.va + c.vb ≤ 8)
    else if c.op = 0x19 ∨ c.op = 0x1A ∨ c.op = 0x28 ∨ c.op = 0x2C then vbOk
    else true
  let slots := !c.namesSlot || decide (c.slot < 64)
  let stream := !c.isBurst || decide (c.off + c.span ≤ bankDieBytes)
  let data := decide (l.line + 1 + c.dataLines ≤ l.len) || c.dataLines == 0
  let put := c.op != 0x2C || decide (c.imm % 2 ^ 23 + c.putLen ≤ top)
  fields && slots && stream && data && put

/-! ### Timing (Table 8.9) and the power rules (Table 8.10) -/

/-- Whether the first row is open. -/
def Chan.rowOpen (ch : Chan) (c : NbCmd) : Bool := sget 0 ch.openRow c.bank == c.row + 1

/-- Length of a burst in ns: 16 ns for each row it opens, and its transfer. -/
def NbCmd.burstNs (c : NbCmd) (opened : Bool) : Nat :=
  if c.op = 0x20 then ceilDiv c.len 16 * (4 * c.vb + 4) + 16 * c.rows
  else 2 * c.len + 16 * (c.rows - boolNat opened)

/-- Lengths of a command's first phase and of what follows its bus transfer, in sixteenths of a ns. -/
def NbCmd.time (c : NbCmd) (opened : Bool) : Nat × Nat :=
  if c.op = 0x07 then (32 * c.len, 16 * c.burstNs false)
  else if c.isBurst then (16 * c.burstNs opened, 0)
  else match c.op with
    | 0x06 | 0x2B => (32 * c.len, 0)
    | 0x08 | 0x18 | 0x2A => (64, 0)
    | 0x19 => (320, 0)
    | 0x1A | 0x1B => (256, 0)
    | 0x28 => (c.dies.length * (64 * c.vb + if immIs c 0 then 0 else 8), 320)
    | 0x29 => (640, 0)
    | 0x2C => (1920, 0)
    | _ => (0, 0)

/-- Instants at which a burst begun at t0 activates rows, each with the number of dies from die 0 on that enter the
row. Rows after the first follow one row's worth of data and one activate after another. -/
def NbCmd.activates (c : NbCmd) (opened : Bool) (t0 : Nat) : List (Nat × Nat) :=
  let perRow := if c.op = 0x20 then (4 * c.vb + 4) * 1024 / (64 * c.vb + if c.vb = 0 then 1 else 0) else 64
  let inFirst := perRow * (1024 - 32 * c.col) / 1024
  (List.range c.rows).filterMap (fun r =>
    let n := ((List.range 16).filter (fun d => decide (1024 * (c.row + r) < c.off + c.spanOn d))).length
    if r = 0 then (if opened then none else some (t0, n))
    else some (t0 + inFirst + perRow * (r - 1) + 16 * (r - boolNat opened), n))

/-- When the burst of a command started at t begins: STI's follows its bus transfer. -/
def NbCmd.burstAt (c : NbCmd) (t : Nat) : Nat := if c.op = 0x07 then t + 2 * c.len else t

/-- Computing banks allowed at once. -/
def State.bankLimit (s : State) (k : Nat) (l : NbList) : Nat :=
  if s.fbit rThmStat (10 + k / 16) then 2 else if k % 16 < l.fullCh then 4 else 2

/-- Activates of a burst on data die d. -/
def Burst.on (b : Burst) (d : Nat) : List Nat :=
  match b.die with
  | some e => if e = d then b.activates.map (·.1) else []
  | none => (b.activates.filter (fun x => decide (d < x.2))).map (·.1)

/-- Whether Table 8.10 lets a burst start now: only its first activate is checked (R238). -/
def State.powerAllows (s : State) (k : Nat) (l : NbList) (c : NbCmd) : Bool :=
  let ch := s.chan k
  let t := s.now
  let recent := ch.bursts.filter (fun b => match b.stop with | none => true | some e => decide (t < e + 100))
  let banks := (c.bank :: recent.map (·.bank)).eraseDups
  let mine := ch.bursts.filter (fun b => b.bank == c.bank)
  let gap := mine.all (fun b => match b.stop with | none => false | some e => decide (e + 8 ≤ t))
  let a := c.burstAt t
  let spacing := mine.all (fun b => b.activates.all (fun x => decide (x.1 + 48 ≤ a) || decide (a + 48 ≤ x.1)))
  let window := c.dies.all (fun d =>
    let xs := a :: ch.bursts.flatMap (fun b => b.on d)
    xs.all (fun x => decide ((xs.filter (fun y => decide (x ≤ y) && decide (y < x + 64))).length ≤ 4)
      || !(decide (x ≤ a) && decide (a < x + 64))))
  let acts := ch.rowOpen c || (spacing && window)
  decide (banks.length ≤ s.bankLimit k l) && gap && acts

/-! ### NBU loads and stores -/

def State.nbu (s : State) (k bank d : Nat) : Nbu := sget {} (s.chan k).nbus (16 * bank + d)
def State.setNbu (s : State) (k bank d : Nat) (x : Nbu) : State :=
  s.modChan k (fun ch => { ch with nbus := sset {} ch.nbus (16 * bank + d) x })

/-- What the per-die code finds in the 8-byte die word at die byte j (R247): 0 good, 1 corrected, 2 uncorrectable, 3
beyond the code, so that nothing fixes its value; whether an address mismatches; and which of the two lines that the
word spans are poisoned: their four bytes hold no data, and the code keeps those of the other line. -/
def State.dieWord (s : State) (k bank d j : Nat) : Nat × Bool × List Bool :=
  let pa := paOfRow k bank (j / 1024) (64 * ((j % 1024) / 8 * 2))
  let e := s.errOf .stack pa
  let o := s.errOf .stack (pa + 64)
  let f := flipsOf e d
  let g := flipsOf o d
  let n := flipCount f + flipCount g
  (if dieReport f g then 2 else if n = 0 then 0 else if n = 1 then 1 else 3, f.2.2 || g.2.2, [e.poison, o.poison])

/-- Log what the per-die code finds in the die words of a line: single errors corrected, others reported (R247,
R401). -/
def State.noteDies (s : State) (k a : Nat) (single failing : List Nat) : State :=
  let e := s.errOf .stack a
  let o := s.errOf .stack (if (a / 64) % 2 = 0 then a + 64 else a - 64)
  let s := single.foldl (fun s d => ((s.incFld (siteReg (0, k)) 47 32).errLog (0, k) 2 d (locOf .stack a)).noteRowError
    k d (bankOfPa a) (rowOfPa a)) s
  failing.foldl (fun s d =>
    let kind := if (flipsOf e d).2.2 || (flipsOf o d).2.2 then 4 else 3
    (((s.incFld (siteReg (0, k)) 31 16).errLog (0,
        k) kind d (locOf .stack a)).pfev 4 0).qualifyRow k d (bankOfPa a) (rowOfPa a)) s

/-- What an NBU load finds besides its bytes: UE arises, or a place was poisoned or uncorrectable (R247, R399). -/
structure NbFound where
  ue : Bool := false
  poison : Bool := false

/-- Count and log what a load found in the die word at die byte j: a poisoned line once for each die that loads from it
(R401). DESIGN CHOICE (log 112). -/
def State.noteWord (s : State) (k bank d j : Nat) (f : Nat × Bool × List Bool) : State :=
  let r := siteReg (0, k)
  let loc := fun (i : Nat) => locOf .stack (paOfRow k bank (j / 1024) (64 * ((j % 1024) / 8 * 2 + i)))
  let s := [0, 1].foldl (fun (s : State) i =>
    if f.2.2.getD i false then (s.incFld r 15 0).errLog (0, k) 5 d (loc i) else s) s
  if f.1 = 1 then ((s.incFld r 47 32).errLog (0, k) 2 d (loc 0)).noteRowError k d bank (j / 1024)
  else if f.1 = 2 then
    (((s.incFld r 31 16).errLog (0, k) (if f.2.1 then 4 else 3) d (loc 0)).pfev 4 0).qualifyRow k d bank (j / 1024)
  else s

/-- Load n bytes of one die's slice: bytes as they reach the NBU, and what was found (R247, R410). -/
def State.nbLoad (s : State) (k bank d off n : Nat) : List Byte × NbFound × State :=
  let nan := fun (i : Nat) => if i % 2 = 0 then (0xC0 : Byte) else 0x7F
  if s.sliceRetired k d bank then ((List.range n).map nan, { ue := true }, s)
  else
    let raw := fun (i : Nat) => mget s.stackMem (paOfDie k bank d (off + i))
    if s.integ.errs.isEmpty then ((List.range n).map raw, {}, s)
    else
      let first := off / 8
      let found := (List.range (ceilDiv (off % 8 + n) 8)).map (fun q => s.dieWord k bank d (8 * (first + q)))
      let at_ := fun (i : Nat) => found.getD ((off + i) / 8 - first) (0, false, [])
      let bytes := (List.range n).map (fun i =>
        let f := at_ i
        if f.1 = 2 then nan i
        else if f.1 = 3 || f.2.2.getD ((off + i) / 4 % 2) false then Config.freeByte s.free (off + i)
        else raw i)
      let ue := found.any (fun f => f.1 == 2)
      let s := s.withFree (s.free + 1)
      let s := (List.range found.length).foldl (fun s q =>
        s.noteWord k bank d (8 * (first + q)) (found.getD q (0, false, []))) s
      (bytes, { ue := ue, poison := ue || found.any (fun f => f.2.2.contains true) },
        if ue then s.setBit (rChst (k / 16) (k % 16)) 60 true else s)

/-- BF16 codes of loaded bytes. -/
def codes16 (bs : List Byte) : List Nat := (chunks 2 (bs.length / 2 + 1) bs).map leNat

/-- Load BF16 elements on each die. -/
def State.nbLoadAll (s : State) (k bank : Nat) (dies : List Nat) (off n : Nat) : List (Nat × List Nat) × NbFound × State :=
  dies.foldl (fun (a : List (Nat × List Nat) × NbFound × State) d =>
    let (bs, f, s) := a.2.2.nbLoad k bank d off n
    (a.1 ++ [(d, codes16 bs)], { ue := a.2.1.ue || f.ue, poison := a.2.1.poison || f.poison }, s)) ([], {}, s)

/-- Segment of a die byte of a bank (R248). -/
def segOf (bank j : Nat) : Nat := (bank * 9216 + j / 1024) * 8 + (j % 1024) / 128

/-- Mark the segments of 32-byte units for a store: those refused write nothing (R248). -/
def State.markUnits (s : State) (k bank off n : Nat) : List Nat × Bool × State :=
  (List.range n).foldl (fun (a : List Nat × Bool × State) u =>
    let ch := a.2.2.chan k
    let g := segOf bank (off + 32 * u)
    if ch.dirty.contains g then (a.1 ++ [u], a.2.1, a.2.2)
    else if ch.dirty.length < ch.wlimit then
      (a.1 ++ [u], a.2.1, a.2.2.setChan k { ch with dirty := linsert g ch.dirty })
    else (a.1, true, a.2.2)) ([], false, s)

/-- Write bytes as near-bank stores of a list's step: per-die words freshly encoded, poison cleared only by
a whole line (R400), digest terms and copy map as for any write of the step. -/
def State.nbPut (s : State) (l : NbList) (ws : List PWrite) : State :=
  let lines := (ws.map (fun w => w.addr / 64)).eraseDups
  let hit := lines.filter (fun n => s.errOf .stack (64 * n) != {})
  let keep := hit.filter (fun n => (s.errOf .stack (64 * n)).poison && !coversUnit ws .stack (64 * n) 64)
  let ws := if keep.isEmpty then ws else ws.filter (fun w => !keep.contains (w.addr / 64))
  let s := (hit.filter (fun n => !keep.contains n)).foldl (fun s n =>
    let e := s.errOf .stack (64 * n)
    let dies := (ws.filter (fun w => w.addr / 64 == n)).map (fun w => w.addr % 64 / 4)
    s.setErr .stack (64 * n) (if e.poison then {} else { e with flips := e.flips.filter (fun f => !dies.contains f.1) })) s
  let s := s.withStackMem (ws.foldl (fun m w => mset m w.addr w.val) s.stackMem)
  let s := match s.runOf l.cluster with
    | some (p, n) => s.digestWrites p n ws
    | none => s
  if s.mirror.copied.isEmpty then s
  else s.markPages (ws.foldl (fun a w => linsert (pageKey .stack w.addr) a) [])

/-- Store LEN units on each die: bytes by die. -/
def State.nbStore (s : State) (k : Nat) (l : NbList) (bank off n : Nat) (dies : List Nat) (bytes : Nat → List Byte) :
    Bool × State :=
  let dies := dies.filter (fun d => !s.sliceRetired k d bank)
  if dies.isEmpty then (false, s)
  else
    let (units, refused, s) := s.markUnits k bank off n
    let ws := dies.flatMap (fun d =>
      let bs := bytes d
      units.flatMap (fun u => (List.range 32).map (fun i =>
        (⟨.stack, paOfDie k bank d (off + 32 * u + i), 0xFF, bs.getD (32 * u + i) 0⟩ : PWrite))))
    let s := s.nbPut l ws
    (refused, if refused then s.setBit (rChst (k / 16) (k % 16)) 61 true else s)

/-! ### Arithmetic (R229) -/

def f32v (w : W32) : Val := decode .fp32 w.toNat
def to32 (v : Val) : W32 := BitVec.ofNat 32 (encode .fp32 v)
def b16v (c : Nat) : Val := decode .bf16 c
def to16 (v : Val) : BitVec 16 := BitVec.ofNat 16 (encode .bf16 v)

/-- exp2 in FP32, correctly rounded (R169). -/
def exp2r (v : Val) : Val := r32 (vexp2v v)

/-- a − b, rounded once. -/
def subr (a b : Val) : Val := r32 (vadd a (vneg b))
def mulr (a b : Val) : Val := r32 (vmul a b)
def addr (a b : Val) : Val := r32 (vadd a b)

def Nbu.vAt (x : Nbu) (e : Nat) : Val := b16v (sget 0 x.v e).toNat
def Nbu.accAt (x : Nbu) (e : Nat) : Val := f32v (sget 0 x.acc e)

/-- Set V elements from e0 on. -/
def Nbu.setV (x : Nbu) (e0 : Nat) (cs : List (BitVec 16)) : Nbu :=
  { x with v := (List.range cs.length).foldl (fun m i => sset 0 m (e0 + i) (cs.getD i 0)) x.v }

/-- Map the first n ACC elements. -/
def Nbu.mapAcc (x : Nbu) (n : Nat) (f : Nat → Val → Val) : Nbu :=
  { x with acc := (List.range n).foldl (fun m e => sset 0 m e (to32 (f e (x.accAt e)))) x.acc }

/-- Sum of V times bank elements in the order of R229. -/
def Nbu.dot (x : Nbu) (e0 : Nat) (cs : List Nat) : Val :=
  laneSum ((List.range cs.length).map (fun i => r32 (vmul (x.vAt (e0 + i)) (b16v (cs.getD i 0)))))

def negInf : Val := .inf true

def isNegInf (v : Val) : Bool := v == negInf

/-- One softmax step on score q: the scaling of what stands, and p; value none leaves the value term out
(OSM), which scales only. n elements of ACC. -/
def Nbu.softmax (x : Nbu) (q : Val) (n : Nat) (value : Option (List Nat)) : Nbu :=
  let mn := vmaxv (f32v x.maxr) q
  let a := exp2r (subr (f32v x.maxr) mn)
  let p := exp2r (subr q mn)
  let x := { x with sumr := to32 (addr (mulr (f32v x.sumr) a) p) }
  let x := match value with
    | some vs => x.mapAcc n (fun e v => addr (mulr v a) (mulr p (b16v (vs.getD e 0))))
    | none => { x.mapAcc n (fun _ v => mulr v a) with pr := to32 p }
  { x with maxr := to32 mn }

/-- ATT on one die: its entries in order (R236). -/
def Nbu.att (x : Nbu) (c : NbCmd) (cs : List Nat) (entries : Nat) : Nbu :=
  let n := 16 * c.vb
  (List.range entries).foldl (fun x i =>
    let key := (cs.drop (2 * n * i)).take n
    let value := (cs.drop (2 * n * i + n)).take n
    let q := mulr (f32v (BitVec.ofNat 32 c.imm)) (x.dot (16 * c.va) key)
    if isNegInf q then x else x.softmax q n (some value)) x

/-- OSM (R236). -/
def Nbu.osm (x : Nbu) (c : NbCmd) : Nbu :=
  if isNegInf (f32v x.dotr) then { x with pr := 0 } else x.softmax (f32v x.dotr) (16 * c.vb) none

/-- Elements a slot's fold or store takes. -/
def MergeSlot.at_ (m : MergeSlot) (e : Nat) : Val := f32v (sget 0 m.vec e)

def MergeSlot.mapVec (m : MergeSlot) (n : Nat) (f : Nat → Val → Val) : MergeSlot :=
  { m with vec := (List.range n).foldl (fun a e => sset 0 a e (to32 (f e (m.at_ e)))) m.vec }

/-- Fold one die's contribution (R243). -/
def MergeSlot.fold (m : MergeSlot) (x : Nbu) (n : Nat) (plain : Bool) : MergeSlot :=
  if plain then m.mapVec n (fun e v => addr v (x.accAt e))
  else if isNegInf (f32v x.maxr) then m
  else
    let mn := vmaxv (f32v m.max) (f32v x.maxr)
    let a := exp2r (subr (f32v m.max) mn)
    let b := exp2r (subr (f32v x.maxr) mn)
    let m := { m with sum := to32 (addr (mulr (f32v m.sum) a) (mulr (f32v x.sumr) b)) }
    let m := m.mapVec n (fun e v => addr (mulr v a) (mulr (x.accAt e) b))
    { m with max := to32 mn }

/-- FIN (R244). -/
def MergeSlot.finish (m : MergeSlot) : MergeSlot :=
  if isZero (f32v m.sum) then { m with vec := [] }
  else m.mapVec 128 (fun _ v => r32 (vdiv v (f32v m.sum)))

def State.mslot (s : State) (k n : Nat) : MergeSlot := sget {} (s.chan k).slots n
def State.setMslot (s : State) (k n : Nat) (m : MergeSlot) : State :=
  s.modChan k (fun ch => { ch with slots := sset {} ch.slots n m })

/-! ### What each operation does -/

/-- Map the NBU of each selected die. -/
def State.mapNbus (s : State) (k : Nat) (c : NbCmd) (f : Nbu → Nbu) : State :=
  c.dies.foldl (fun s d => s.setNbu k c.bank d (f (s.nbu k c.bank d))) s

/-- Statuses an effect adds, whether a place it read was poisoned or uncorrectable, and the bytes a PUTC will write. -/
structure NbEff where
  ue : Bool := false
  poison : Bool := false
  wb : Bool := false
  puts : List PWrite := []

/-- Operations that stream bank data through the NBUs. -/
def State.nbStream (s : State) (k : Nat) (c : NbCmd) (f : Nbu → List Nat → Nbu) : NbEff × State :=
  let (xs, found, s) := s.nbLoadAll k c.bank c.dies c.off (32 * c.len)
  ({ ue := found.ue, poison := found.poison }, xs.foldl (fun s x => s.setNbu k c.bank x.1 (f (s.nbu k c.bank x.1) x.2)) s)

/-- V[e] ← f V[e] bank[e]. -/
def vOp (c : NbCmd) (f : Val → Val → Val) (x : Nbu) (cs : List Nat) : Nbu :=
  x.setV (16 * c.va) ((List.range cs.length).map (fun i => to16 (f (x.vAt (16 * c.va + i)) (b16v (cs.getD i 0)))))

/-- List data of LDQ and STI: the lines that follow the command's own. -/
def NbList.dataBytes (l : NbList) (c : NbCmd) : List Byte := (l.bytes.drop (64 * (l.line + 1))).take (32 * c.len)

/-- PUTC's bytes (R245). -/
def MergeSlot.putBytes (m : MergeSlot) (c : NbCmd) : List Byte :=
  (if immIs c 33 then leBytes 4 m.max.toNat ++ leBytes 4 m.sum.toNat else [])
    ++ (List.range (16 * c.vb)).flatMap (fun e =>
      if immIs c 32 then leBytes 4 (sget 0 m.vec e).toNat else leBytes 2 (encode .bf16 (m.at_ e)))

/-- ATT over the dies that hold an entry (R236). -/
def State.nbAtt (s : State) (k : Nat) (c : NbCmd) : NbEff × State :=
  c.dies.foldl (fun (a : NbEff × State) d =>
    let n := c.entries d
    let (bs, f, s) := a.2.nbLoad k c.bank d c.off (64 * c.vb * n)
    ({ ue := a.1.ue || f.ue, poison := a.1.poison || f.poison },
        s.setNbu k c.bank d ((s.nbu k c.bank d).att c (codes16 bs) n))) ({}, s)

/-- The action of Table 8.9. -/
def State.nbEffect (s : State) (k : Nat) (l : NbList) (c : NbCmd) : NbEff × State :=
  let imm := f32v (BitVec.ofNat 32 c.imm)
  match c.op with
  | 0x04 => s.nbStream k c (fun x cs => x.setV (16 * c.va) (cs.map (BitVec.ofNat 16)))
  | 0x05 =>
    let (wb, s') := s.nbStore k l c.bank c.off c.len c.dies (fun d =>
      (List.range (16 * c.len)).flatMap (fun i => leBytes 2 (sget 0 (s.nbu k c.bank d).v (16 * c.va + i)).toNat))
    ({ wb := wb }, s')
  | 0x06 => ({}, s.mapNbus k c (fun x => x.setV (16 * c.va) ((codes16 (l.dataBytes c)).map (BitVec.ofNat 16))))
  | 0x07 =>
    let (wb, s) := s.nbStore k l c.bank c.off c.len [c.die] (fun _ => l.dataBytes c)
    ({ wb := wb }, s)
  | 0x08 => ({}, s.mapNbus k c (fun x => { v := x.v }))
  | 0x10 => s.nbStream k c (fun x cs => { x with dotr := to32 (mulr imm (x.dot (16 * c.va) cs)) })
  | 0x11 => s.nbStream k c (fun x cs =>
      x.mapAcc (16 * c.len) (fun e v => addr v (mulr (f32v x.pr) (b16v (cs.getD e 0)))))
  | 0x12 => s.nbStream k c (fun x cs =>
      x.mapAcc (16 * c.len) (fun e v => addr v (mulr (x.vAt (16 * c.va + e)) (b16v (cs.getD e 0)))))
  | 0x13 => s.nbStream k c (vOp c vadd)
  | 0x14 => s.nbStream k c (vOp c vmul)
  | 0x15 => s.nbStream k c (vOp c vmaxv)
  | 0x16 => s.nbStream k c (vOp c (fun a b => if vlt b a then one else vzero))
  | 0x17 =>
    let (wb, s') := s.nbStore k l c.bank c.off c.len c.dies (fun d =>
      let x := s.nbu k c.bank d
      if immIs c 0 then (List.range (8 * c.len)).flatMap (fun e => leBytes 4 (sget 0 x.acc e).toNat)
      else (List.range (16 * c.len)).flatMap (fun e => leBytes 2 (encode .bf16 (x.accAt e))))
    ({ wb := wb }, s')
  | 0x18 => ({}, s.mapNbus k c (fun x => { x with pr := to32 (exp2r (f32v x.dotr)) }))
  | 0x19 => ({}, s.mapNbus k c (fun x => x.osm c))
  | 0x1A => ({}, s.mapNbus k c (fun x => x.mapAcc (16 * c.vb) (fun _ v => mulr v imm)))
  | 0x1B => ({}, s.mapNbus k c (fun x =>
      if immIs c 0 then x.mapAcc (16 * c.vb) (fun e _ => x.vAt (16 * c.va + e))
      else x.setV (16 * c.va) ((List.range (16 * c.vb)).map (fun e => to16 (x.accAt e)))))
  | 0x20 => s.nbAtt k c
  | 0x28 => ({}, s.setMslot k c.slot (c.dies.foldl (fun m d => m.fold (s.nbu k c.bank d) (16 * c.vb) (immIs c 0)) (s.mslot k c.slot)))
  | 0x29 => ({}, s.setMslot k c.slot (s.mslot k c.slot).finish)
  | 0x2A => ({}, s.setMslot k c.slot {})
  | 0x2B => ({}, s.mapNbus k c (fun x =>
      x.setV (16 * c.va) ((List.range (16 * c.len)).map (fun e => to16 ((s.mslot k c.slot).at_ e)))))
  | 0x2C => ({ puts := putsAt (.store l.cluster) (c.imm % 2 ^ 23) ((s.mslot k c.slot).putBytes c) }, s)
  | _ => ({}, s)

/-! ### Starting and ending commands -/

/-- Replace the list at the head of a channel. -/
def State.setHead (s : State) (k : Nat) (l : NbList) : State :=
  s.modChan k (fun ch => { ch with lists := l :: ch.lists.tail })

/-- Whether R233, without the power rules, lets the command start. -/
def NbList.mayStart (l : NbList) (c : NbCmd) : Bool :=
  (!c.namesBank || l.running.all (fun r => r.bank != some c.bank))
    && (!c.waitsSlot || l.running.all (fun r => r.slot != some c.slot))
    && (!c.usesBus || l.running.all (fun r => !r.onBus))
    && (c.op != 0x2C || l.running.all (fun r => !r.isPutc))
    && (!(c.op == 0x01 || c.op == 0x02) || l.running.isEmpty)

/-- Drop bursts that no rule of Table 8.10 can still meet. -/
def Chan.prune (ch : Chan) (t : Nat) : Chan :=
  { ch with bursts := ch.bursts.filter (fun b =>
      (match b.stop with | none => true | some e => decide (t < e + 100))
          || b.activates.any (fun a => decide (t < a.1 + 64))) }

/-- Start the command: its effect, its statuses, its time. -/
def State.nbGo (s : State) (k : Nat) (l : NbList) (c : NbCmd) : State :=
  let ch := s.chan k
  let ok := c.inLimits l (s.storeTop l.cluster)
  let opened := ch.rowOpen c
  let (t0, t1) := c.time opened
  let (e, s) := if ok then s.nbEffect k l c else ({}, s)
  let s := s.stepPoison (s.runOf l.cluster) e.poison
  let s := match l.powHeld with
    | some h => s.perf 8 l.part none (s.now - h)
    | none => s
  let any_ := !ok || e.ue || e.wb
  let (ln, q) := l.after c
  let run : NbRun :=
    { bank := if c.namesBank then some c.bank else none, slot := if c.namesSlot then some c.slot else none
      onBus := c.usesBus, next := t1, row := if c.op = 0x07 then c.row + 1 else 0
      lastRow := if c.op = 0x07 then c.lastRow + 1 else 0, due := 16 * s.now + t0, isPutc := c.op == 0x2C, puts := e.puts
      burst := if c.isBurst then some s.now else none }
  let l' : NbList := { l with
    line := ln, q := q, powHeld := none
    ended := l.ended || c.op == 0x02
    running := if t0 + t1 = 0 then l.running else l.running ++ [run]
    addrSt := l.addrSt || !ok, ueSt := l.ueSt || e.ue, wbSt := l.wbSt || e.wb
    first := if any_ && !(l.addrSt || l.ueSt || l.wbSt) then l.index else l.first }
  let s := s.setHead k l'
  if c.isBurst then
    s.modChan k (fun ch =>
      let ch := ch.prune s.now
      { ch with
        openRow := if c.op = 0x07 then ch.openRow else sset 0 ch.openRow c.bank (c.lastRow + 1)
        bursts := ch.bursts ++ [{ bank := c.bank, start := s.now, stop := none
                                  activates := c.activates opened (c.burstAt s.now), die := c.oneDie }] })
  else s

/-- States in which an accepted list runs: a switch lets those accepted before it run to completion (R219, R226). -/
def ChState.runs : ChState → Bool
  | .processor | .toMemory | .recoding => true
  | _ => false

/-- The next command of the list running on channel k starts, when it is operation op and R233, R238 and
R239 let it. -/
def State.nbStart (s : State) (k op : Nat) : State :=
  let ch := s.chan k
  match ch.lists with
  | l :: _ =>
    let c := l.cmd
    if s.frozen || !ch.state.runs || ch.refreshing.isSome || !l.arrived || l.ended || c.op != op
      || !l.mayStart c then s
    else if c.isBurst && !s.powerAllows k l c then
      (if l.powHeld.isSome then s else s.setHead k { l with powHeld := some s.now })
    else s.nbGo k l c
  | [] => s

/-- What follows a bus transfer begins when it ends: SEND's fold, or STI's burst, which need not open a row that is
open (R235). -/
def Chan.offBus (ch : Chan) (r : NbRun) : Chan × NbRun :=
  let bank := r.bank.getD 0
  let gain := if r.row ≠ 0 ∧ sget 0 ch.openRow bank = r.row then 256 else 0
  (if r.row = 0 then ch else { ch with openRow := sset 0 ch.openRow bank r.lastRow },
   { r with onBus := false, due := r.due + r.next - gain, next := 0 })

/-- NB_COMMAND_DONE: running command j of channel k ends, or its bus transfer, once its time has passed. -/
def State.nbCommandDone (s : State) (k j : Nat) : State :=
  let ch := s.chan k
  match ch.lists with
  | l :: _ =>
    match l.running[j]? with
    | some r =>
      if s.frozen || decide (16 * s.now < r.due) then s
      else if r.onBus && decide (0 < r.next) then
        let (ch, r) := ch.offBus r
        (s.setChan k ch).setHead k { l with running := setAt l.running j r }
      else
        let s := s.setHead k { l with running := dropAt l.running j }
        let s := match r.burst with
          | some t =>
            let s := s.modChan k (fun ch => { ch with
              bursts := ch.bursts.map (fun (b : Burst) => if b.stop.isNone
                  && some b.bank == r.bank then { b with stop := some s.now } else b) })
            s.perf 7 l.part none (s.now - t)
          | none => s
        match s.runOf l.cluster with
        | some (p, n) => s.stepWrite p n r.puts
        | none => s.writeBytes r.puts
    | none => s
  | [] => s

/-! ### The life of a list -/

/-- NB_LIST_ARRIVED: the list at the head has been copied from the issuing cluster's store, and its execution begins
(R233). FULL_CH holds for the list as it stands here, and a refresh does not hold up the copy.
DESIGN CHOICE (log 117). -/
def State.nbListArrived (s : State) (k : Nat) : State :=
  let ch := s.chan k
  match ch.lists with
  | l :: _ =>
    match l.turn with
    | some t =>
      if s.frozen || l.arrived || !ch.state.runs || decide (16 * s.now < t + 5 * l.len) then s
      else
        let (bs, bad, s) := s.readBytes ((List.range (64 * l.len)).map (fun i => (.store l.cluster,
            (l.addr + i) % storeBytes)))
        let fc := min 16 (max 8 (s.fld (rStk (k / 16)) 4 0))
        (s.stepPoison (s.runOf l.cluster) bad).setHead k { l with arrived := true, bytes := bs, fullCh := fc }
    | none => s
  | [] => s

/-- NBSTAT record (Table 14.7). -/
def State.postNbstat (s : State) (k : Nat) (l : NbList) : State :=
  let st := match s.runOf l.cluster with
    | some (p, n) => s.stepNo p n
    | none => 0
  s.post l.part 3 ((k / 16) * 2 ^ 53 + (k % 16) * 2 ^ 49 + boolNat l.addrSt * 2 ^ 48 + boolNat l.ueSt * 2 ^ 47
    + boolNat l.wbSt * 2 ^ 46 + l.first % 2 ^ 15 * 2 ^ 31 + l.cluster * 2 ^ 26) 0 st

/-- NB_LIST_COMPLETE: the list whose END has completed leaves the channel, its status posts, the read cache
of its cluster is invalidated, its NBCMD completes, and the next list's turn begins (R233, R234, R237, R276). -/
def State.nbListComplete (s : State) (k : Nat) : State :=
  match (s.chan k).lists with
  | l :: t =>
    if s.frozen || !l.ended || !l.running.isEmpty then s
    else
      let t := match t with
        | h :: r => { h with turn := some (16 * s.now) } :: r
        | [] => []
      let s := s.modChan k (fun ch => { ch with lists := t })
      let s := if l.addrSt || l.ueSt || l.wbSt then s.postNbstat k l else s
      (s.modCluster l.cluster Cluster.cacheDrop).mvDone l.cluster l.seq
  | [] => s

/-! ### Refresh (R239, R240) -/

/-- A running command at a refresh that begins at t and lasts d ns: what it has in progress, or is about to begin
after its bus transfer, is put off (R239). -/
def Chan.putOff (ch : Chan) (t d : Nat) (r : NbRun) : Chan × NbRun :=
  let (ch, r) := if r.onBus && decide (0 < r.next) && decide (r.due ≤ 16 * t) then ch.offBus r else (ch, r)
  (ch, if r.due > 16 * t then { r with due := r.due + 16 * d } else r)

/-- Put off by d ns everything a channel has in progress. -/
def Chan.delay (ch : Chan) (t d : Nat) : Chan :=
  match ch.lists with
  | l :: rest =>
    let (ch, rs) := l.running.foldl (fun (a : Chan × List NbRun) r =>
      let (c, r) := a.1.putOff t d r; (c, a.2 ++ [r])) (ch, [])
    { ch with
      lists := { l with running := rs } :: rest
      bursts := ch.bursts.map (fun b => { b with activates := b.activates.map (fun a => if a.1 > t then (a.1 + d, a.2) else a) })
      switch := ch.switch.map (fun w => (w.1, w.2.map (fun e => if e > t then e + d else e))) }
  | [] =>
    { ch with switch := ch.switch.map (fun w => (w.1, w.2.map (fun e => if e > t then e + d else e))) }

/-- Rows that are open when a refresh begun at t is over: those of bursts it suspended, which open theirs again
within their time (R235, R239). -/
def Chan.rowsKept (ch : Chan) (t : Nat) : SMap Nat :=
  ch.openRow.filter (fun e => ch.lists.any (fun l => l.running.any (fun r =>
    r.burst.isSome && !r.onBus && r.bank == some e.1 && decide (r.due > 16 * t))))

/-- A refresh of channel k begins: its work is suspended for 350 ns, and its rows close. -/
def State.refreshStart (s : State) (k : Nat) : State :=
  let ch := s.chan k
  let busy := ch.lists.any (fun l => l.running.any (fun r => decide (r.due + r.next > 16 * s.now)))
  let s := match ch.lists with
    | l :: _ => if busy && !s.frozen then s.perf 9 l.part none 350 else s
    | [] => s
  s.modChan k (fun ch =>
    let ch := if s.frozen then ch else ch.delay s.now 350
    { ch with refreshing := some s.now, openRow := ch.rowsKept s.now })

/-- The single step of fabric time refreshes every channel (R240). -/
def State.refreshAll (s : State) : State := (List.range 128).foldl (fun s k => s.refreshStart k) s

/-- REFRESH, at T mod 3,900 = 240 × m + 20 × n. -/
def State.refreshCal (s : State) (k extra : Nat) : State :=
  if (s.chan k).refreshing.isNone && s.power.alive && !s.tripped
      && s.now % 3900 == (240 * (k % 16) + 20 * (k / 16) + extra) % 3900 then s.refreshStart k
  else s

def State.refreshDone (s : State) (k : Nat) : State :=
  match (s.chan k).refreshing with
  | some t => if t + 350 ≤ s.now then s.modChan k (fun ch => { ch with refreshing := none }) else s
  | none => s

/-! ### Mode switch work (R226, R227, R249) -/

/-- Dies of which one line holds the only flip of their die words. -/
def singleFlips (mine other : ErrPat) : List Nat :=
  (List.range 18).filter (fun d => flipCount (flipsOf mine d) == 1 && flipCount (flipsOf other d) == 0
    && !dieReport (flipsOf mine d) (flipsOf other d))

/-- Recode the two lines of a row that share die words: what the per-die code finds is counted and logged, and the check
dies are written afresh; with a lost data die, both lines become poisoned (R249, R398). -/
def State.recodePair (s : State) (k bank row i : Nat) : State :=
  let pa := paOfRow k bank row (64 * i)
  let e := s.errOf .stack pa
  let o := s.errOf .stack (pa + 64)
  let retired := (List.range 16).any (fun d => s.sliceRetired k d bank)
  if e = {} && o = {} && !retired then s
  else
    let failing := (List.range 18).filter (fun d => dieReport (flipsOf e d) (flipsOf o d))
    let s := (s.noteDies k pa (singleFlips e o) failing).noteDies k (pa + 64) (singleFlips o e) []
    [(pa, e), (pa + 64, o)].foldl (fun (s : State) x =>
      if x.2.poison then s
      else if failing.any (· < 16) then s.setErr .stack x.1 { poison := true }
      else if retired then
        (((s.setErr .stack x.1 { poison := true }).incFld (siteReg (0, k)) 31 16).errLog (0,
            k) 3 0 (locOf .stack x.1)).pfev 4 0
      else s.setErr .stack x.1 { flips := x.2.flips.filter (fun f => decide (f.1 < 16)) }) s

/-- Recode the marked segments of a channel. -/
def State.recode (s : State) (k : Nat) : State :=
  if s.integ.errs.isEmpty && s.integ.retired.isEmpty then s
  else (s.chan k).dirty.foldl (fun s g =>
    (List.range 16).foldl (fun s i => s.recodePair k (g / 8 / 9216) (g / 8 % 9216) (32 * (g % 8) + 2 * i)) s) s

/-- Length of a recode in ns, its last fraction counted whole: 20.48 ns a segment. -/
def recodeNs (segs : Nat) : Nat := ceilDiv (2048 * segs) 100

/-- Whether some place lies in channel k. -/
def inChan (k : Nat) (ls : List (Space × Nat)) : Bool :=
  ls.any (fun l => match l.1 with | .stack => chanOfPa l.2 == k | _ => false)

/-- Whether a line access of channel k that was accepted has not completed: one of the mover, of an imposition
operation that has begun, of a write that has not landed, of the host, or of a partner (R226). -/
def State.lineBusy (s : State) (k : Nat) : Bool :=
  (List.range 32).any (fun c =>
    (s.cluster c).mv.any (fun o => !o.done && inChan k o.places)
      || (s.cluster c).shares.any (fun e => match e.2 with
        | o :: _ => o.total.any (fun n => decide (o.pos < n)) && inChan k (s.touchedPlaces o (s.impTouched o))
        | [] => false))
    || s.landing.any (fun w => inChan k (placesOf w.writes))
    || s.host.waits.any (fun a => inChan k a.places)
    || s.links.any (fun e => e.2.rxQ.any (fun w => inChan k (placesOf w.writes)))

/-- The work of a mode switch begins on a channel in state from_ once what it accepted earlier has run out. -/
def State.switchWork (s : State) (k : Nat) (from_ : ChState) : State :=
  let ch := s.chan k
  match ch.switch with
  | some (wl, none) =>
    if s.frozen || ch.state != from_ || !ch.lists.isEmpty || ch.refreshing.isSome || s.lineBusy k then s
    else
      match from_ with
      | .toProcessor =>
        s.setChan k { ch with nbus := [], slots := [], wlimit := wl, openRow := [], switch := some (wl, some (s.now + 500)) }
      | .toMemory =>
        let s := s.recode k
        let s := s.modChan k (fun ch => { ch with dirty := [], wlimit := 0, openRow := [], switch := some (wl, some (s.now + 500 + recodeNs ch.dirty.length)) })
        s.retireWaiting k
      | .recoding =>
        let s := s.recode k
        s.modChan k (fun ch => { ch with dirty := [], wlimit := wl, openRow := [], switch := some (wl, some (s.now + 500 + recodeNs ch.dirty.length)) })
      | _ => s
  | _ => s

end Sys2Proof.Machine
end

