-- ==== Sys2Proof/Machine/NearBankRows.lean ====
section
/-! DEFINITION. The near-bank commands and channel events: a list command's row starts the next command of
the list running on channel m of stack n when it is that operation; then the ends of commands and lists,
refresh, and the work of mode switches. -/

namespace Sys2Proof.Machine

/-- Channel key of channel m of stack n. -/
def chanKey (n : StackId) (m : ChanId) : Nat := 16 * n.val + m.val

/-- NOP (Table 8.9). -/
def execNbNop (n : StackId) (m : ChanId) (s : State) : Host.Outcome State Fault Refusal :=
  .next (s.nbStart (chanKey n m) 0x00)

/-- FENCE (R233) (Table 8.9). -/
def execFence (n : StackId) (m : ChanId) (s : State) : Host.Outcome State Fault Refusal :=
  .next (s.nbStart (chanKey n m) 0x01)

/-- END (R233) (Table 8.9). -/
def execNbEnd (n : StackId) (m : ChanId) (s : State) : Host.Outcome State Fault Refusal :=
  .next (s.nbStart (chanKey n m) 0x02)

/-- LDV (Table 8.9). -/
def execLdv (n : StackId) (m : ChanId) (s : State) : Host.Outcome State Fault Refusal :=
  .next (s.nbStart (chanKey n m) 0x04)

/-- STV (Table 8.9). -/
def execStv (n : StackId) (m : ChanId) (s : State) : Host.Outcome State Fault Refusal :=
  .next (s.nbStart (chanKey n m) 0x05)

/-- LDQ (R232) (Table 8.9). -/
def execLdq (n : StackId) (m : ChanId) (s : State) : Host.Outcome State Fault Refusal :=
  .next (s.nbStart (chanKey n m) 0x06)

/-- STI (R232) (Table 8.9). -/
def execSti (n : StackId) (m : ChanId) (s : State) : Host.Outcome State Fault Refusal :=
  .next (s.nbStart (chanKey n m) 0x07)

/-- ZST (Table 8.9). -/
def execZst (n : StackId) (m : ChanId) (s : State) : Host.Outcome State Fault Refusal :=
  .next (s.nbStart (chanKey n m) 0x08)

/-- DOT (Table 8.9). -/
def execDot (n : StackId) (m : ChanId) (s : State) : Host.Outcome State Fault Refusal :=
  .next (s.nbStart (chanKey n m) 0x10)

/-- AXPY (Table 8.9). -/
def execAxpy (n : StackId) (m : ChanId) (s : State) : Host.Outcome State Fault Refusal :=
  .next (s.nbStart (chanKey n m) 0x11)

/-- VMAC (Table 8.9). -/
def execVmac (n : StackId) (m : ChanId) (s : State) : Host.Outcome State Fault Refusal :=
  .next (s.nbStart (chanKey n m) 0x12)

/-- VADD (Table 8.9). -/
def execNbVadd (n : StackId) (m : ChanId) (s : State) : Host.Outcome State Fault Refusal :=
  .next (s.nbStart (chanKey n m) 0x13)

/-- VMUL (Table 8.9). -/
def execNbVmul (n : StackId) (m : ChanId) (s : State) : Host.Outcome State Fault Refusal :=
  .next (s.nbStart (chanKey n m) 0x14)

/-- VMAX (Table 8.9). -/
def execNbVmax (n : StackId) (m : ChanId) (s : State) : Host.Outcome State Fault Refusal :=
  .next (s.nbStart (chanKey n m) 0x15)

/-- VCMP (Table 8.9). -/
def execVcmp (n : StackId) (m : ChanId) (s : State) : Host.Outcome State Fault Refusal :=
  .next (s.nbStart (chanKey n m) 0x16)

/-- STA (Table 8.9). -/
def execSta (n : StackId) (m : ChanId) (s : State) : Host.Outcome State Fault Refusal :=
  .next (s.nbStart (chanKey n m) 0x17)

/-- EXP2 (Table 8.9). -/
def execExp2 (n : StackId) (m : ChanId) (s : State) : Host.Outcome State Fault Refusal :=
  .next (s.nbStart (chanKey n m) 0x18)

/-- OSM (R236) (Table 8.9). -/
def execOsm (n : StackId) (m : ChanId) (s : State) : Host.Outcome State Fault Refusal :=
  .next (s.nbStart (chanKey n m) 0x19)

/-- SCALE (Table 8.9). -/
def execScale (n : StackId) (m : ChanId) (s : State) : Host.Outcome State Fault Refusal :=
  .next (s.nbStart (chanKey n m) 0x1A)

/-- CVT (Table 8.9). -/
def execCvt (n : StackId) (m : ChanId) (s : State) : Host.Outcome State Fault Refusal :=
  .next (s.nbStart (chanKey n m) 0x1B)

/-- ATT (R236) (Table 8.9). -/
def execAtt (n : StackId) (m : ChanId) (s : State) : Host.Outcome State Fault Refusal :=
  .next (s.nbStart (chanKey n m) 0x20)

/-- SEND (R243) (Table 8.9). -/
def execSend (n : StackId) (m : ChanId) (s : State) : Host.Outcome State Fault Refusal :=
  .next (s.nbStart (chanKey n m) 0x28)

/-- FIN (R244) (Table 8.9). -/
def execFin (n : StackId) (m : ChanId) (s : State) : Host.Outcome State Fault Refusal :=
  .next (s.nbStart (chanKey n m) 0x29)

/-- SZERO (R242) (Table 8.9). -/
def execSzero (n : StackId) (m : ChanId) (s : State) : Host.Outcome State Fault Refusal :=
  .next (s.nbStart (chanKey n m) 0x2A)

/-- BCAST (Table 8.9). -/
def execBcast (n : StackId) (m : ChanId) (s : State) : Host.Outcome State Fault Refusal :=
  .next (s.nbStart (chanKey n m) 0x2B)

/-- PUTC (R245) (Table 8.9). -/
def execPutc (n : StackId) (m : ChanId) (s : State) : Host.Outcome State Fault Refusal :=
  .next (s.nbStart (chanKey n m) 0x2C)

/-- NB_COMMAND_DONE (R233). -/
def execNbCommandDone (n : StackId) (m : ChanId) (k : Nat) (s : State) : Host.Outcome State Fault Refusal :=
  .next (s.nbCommandDone (chanKey n m) k)

/-- NB_LIST_ARRIVED (R233). -/
def execNbListArrived (n : StackId) (m : ChanId) (s : State) : Host.Outcome State Fault Refusal :=
  .next (s.nbListArrived (chanKey n m))

/-- NB_LIST_COMPLETE (R237). -/
def execNbListComplete (n : StackId) (m : ChanId) (s : State) : Host.Outcome State Fault Refusal :=
  .next (s.nbListComplete (chanKey n m))

/-- REFRESH (R239). -/
def execRefresh (n : StackId) (m : ChanId) (s : State) : Host.Outcome State Fault Refusal :=
  .next (s.refreshCal (chanKey n m) 0)

/-- REFRESH_END (R239). -/
def execRefreshEnd (n : StackId) (m : ChanId) (s : State) : Host.Outcome State Fault Refusal :=
  .next (s.refreshDone (chanKey n m))

/-- THROTTLE_REFRESH: the second refresh of a stack under DRAM throttle (Table 17.6). -/
def execThrottleRefresh (n : StackId) (m : ChanId) (s : State) : Host.Outcome State Fault Refusal :=
  .next (if s.fbit rThmStat (10 + n.val) then s.refreshCal (chanKey n m) 1950 else s)

/-- MODESW_TO_MEMORY: the work of ACT 1 (Table 8.6). -/
def execModeswToMemory (n : StackId) (m : ChanId) (s : State) : Host.Outcome State Fault Refusal :=
  .next (s.switchWork (chanKey n m) .toMemory)

/-- MODESW_TO_PROCESSOR: the work of ACT 2 (Table 8.6). -/
def execModeswToProcessor (n : StackId) (m : ChanId) (s : State) : Host.Outcome State Fault Refusal :=
  .next (s.switchWork (chanKey n m) .toProcessor)

/-- RECODE_IN_PLACE: the work of ACT 3 (Table 8.6). -/
def execRecodeInPlace (n : StackId) (m : ChanId) (s : State) : Host.Outcome State Fault Refusal :=
  .next (s.switchWork (chanKey n m) .recoding)

end Sys2Proof.Machine
end

