-- ==== Sys2Proof/Machine/Time.lean ====
section
/-! DEFINITION. The time unit (R33 to R43, R60 to R62, R469): the tick of fabric time and cluster clocks,
the single load, slewing, holdover, loss of a source and lock. -/

namespace Sys2Proof.Machine

def stFallback : Nat := 7
def stHoldover : Nat := 6
def stLocked : Nat := 5
def stCompBad : Nat := 4

/-- TT_SRC.SRC; 3 is treated as 0 (Table 2.1). -/
def State.timeSrc (s : State) : Nat := let v := s.fld rTtSrc 1 0; if v = 3 then 0 else v

/-- Link that time is taken from now, if any. -/
def State.timeLink (s : State) : Option Nat :=
  if s.time.altInUse then some (s.fld rTtSrc 31 26)
  else if s.timeSrc = 2 then some (s.fld rTtSrc 23 18) else none

def State.locked (s : State) : Bool := s.fbit rTtStatus stLocked

/-- HOLD_NS: holdover uncertainty and the correction still to slew (Table 2.6). -/
def State.holdNs (s : State) : Nat := s.time.hold / 10 ^ 9 + s.time.err.natAbs

/-- LEAD_NS = LEAD_BASE + HOLD_NS; a base below 40 acts as 40 (R61, Table 2.7). -/
def State.leadNs (s : State) : Nat := max 40 (s.fld rTtHold 15 0) + s.holdNs

/-- Hop count that this module's idle sets carry: its distance from a module of SRC 0 or 1 (R336). -/
def State.hops (s : State) : Nat :=
  match s.timeLink with
  | some l => min 7 ((s.link l).pHops + 1)
  | none => 0

/-! ### The tick -/

/-- Cycles of a clock that end in d ns, and the ps then left of its cycle: the cycle in progress keeps the length
it started with, and each that starts takes 500 ps, or as long as stretched (R57, R436). -/
def cyclesIn (left stretch d : Nat) : Nat × Nat :=
  let per := 500 + stretch
  let t := 1000 * d - left
  if 1000 * d < left then (0, left - 1000 * d)
  else (boolNat (left ≠ 0) + t / per, if t % per = 0 then 0 else per - t % per)

/-- d ns of a cluster's clock. -/
def Cluster.tick (x : Cluster) (d : Nat) : Cluster :=
  { x with cyc := x.cyc + (cyclesIn x.left x.stretch d).1, left := (cyclesIn x.left x.stretch d).2 }

/-- d ns of a C-die's clock. -/
def DieClk.tick (x : DieClk) (d : Nat) : DieClk :=
  { x with cyc := x.cyc + (cyclesIn x.left x.stretch d).1, left := (cyclesIn x.left x.stretch d).2 }

/-- Whether a wait holds some engine of the cluster. -/
def Cluster.waiting (x : Cluster) : Bool := x.streams.any (fun e => e.2.live && e.2.held.isSome)

/-- The cycles that a cluster's clock delivered from base on count as held by a wait, but for those counted already
(event 3). -/
def State.countHeld (s : State) (c base n : Nat) : State :=
  let x := s.cluster c
  if x.waiting then (List.range n).foldl (fun s k => s.countCc c 3 (base + k)) s else s

/-- The cycles that d ns of fabric time deliver to every cluster whose clock runs (R57, R464), and to the clocks
of the C-dies. -/
def State.tickClusters (s : State) (d : Nat) : State :=
  let s := [0, 1].foldl (fun s k => if s.clockRuns (16 * k) then s.setDieClk k ((s.dieClk k).tick d) else s) s
  (List.range 32).foldl (fun s c =>
    let x := s.cluster c
    if s.clockRuns c then
      let s := s.setCluster c { x.tick d with slowed := if x.stretch > 0 then x.slowed + 1 else x.slowed }
      let s := s.countHeld c x.cyc (cyclesIn x.left x.stretch d).1
      match (if x.stretch > 0 then s.partOf c else none) with
      | some p => s.perf 11 p (some c) (cyclesIn x.left x.stretch d).1
      | none => s
    else if x.waiting then s.setCluster c { x with slowed := x.slowed + 1 } else s) s

/-- How far fabric time moves in a tick: 1 ns, or 0 or 2 where it slews by at most 100 ppm towards its source
(R36). Whether it slews in a tick that may is free; it never jumps over a multiple of 10 ns, the unit of every
programmed instant. DESIGN CHOICE (log 81). -/
def State.slewStep (s : State) : Nat × State :=
  if s.time.err = 0 ∨ s.time.slewTick < 10000 then (1, s)
  else
    let (b, s) := s.choose
    if !b then (1, s)
    else if s.time.err < 0 then (0, s)
    else if (s.time.ns + 1) % 10 = 0 then (1, s) else (2, s)

/-- Fabric time moves by d ns (R33, R36); in holdover its uncertainty grows with it (R60). -/
def State.tickTime (s : State) (d : Nat) : State :=
  let t := s.time
  let rate := if s.fbit rTtStatus stCompBad then 20000 else s.fld rTtHold 47 32
  s.withTime { t with
    ns := t.ns + d
    err := t.err + 1 - d
    slewTick := if d = 1 then t.slewTick + 1 else 0
    hold := if s.fbit rTtStatus stHoldover then t.hold + rate * d else t.hold }

/-! ### The single load (R35) and following a source -/

/-- Whether fabric time may still be loaded. -/
def State.mayLoad (s : State) : Bool :=
  !s.fbit rTtStatus 0 && decide (s.fld rHostBoot 63 61 ≥ 4) && !s.time.slotSeen

/-- The only step fabric time takes; it ends a holdover, and every channel refreshes (R35, R240). -/
def State.loadTime (s : State) (v : Nat) : State :=
  (((s.withTime { s.time with ns := v, err := 0, hold := 0 }).setBit rTtStatus 0 true).setBit rTtStatus stHoldover
    false).refreshAll

/-- Note the error found against the source, and whether it agrees within ±10 ns (R36, R469). LOCKED means that
it does (R37), and a correction that begins now slews its first ns no sooner than 10 µs from now (R36). -/
def State.noteError (s : State) (e : Int) : State :=
  let t := s.time
  let s := s.withTime { t with
    err := e
    slewTick := if t.err = 0 then 0 else t.slewTick
    agreeAt := if e.natAbs ≤ 10 then (match t.agreeAt with | some t => some t | none => some s.now) else none }
  if e.natAbs ≤ 10 then s else s.setBit rTtStatus stLocked false

/-- Whether a source corrects fabric time by slewing: after the load, or when no load can come any more (R35, R36). -/
def State.slews (s : State) : Bool := s.fbit rTtStatus 0 || s.time.slotSeen

/-- EPOCH_PULSE (R35): used with SRC 1 only. The command stands for the FREF rising edge nearest to the FEPOCH edge, which
is the epoch instant (R482).
DEDUCED (log 118). -/
def State.epochPulse (s : State) : State :=
  if s.timeSrc ≠ 1 ∨ !s.power.alive then s
  else if s.mayLoad then
    let s := s.loadTime ((s.reg rTtEpoch).toNat / 10 ^ 9 * 10 ^ 9)
    s.withTime { s.time with lastPulse := some s.now, agreeAt := none }
  else
    let r : Nat := s.now % 10 ^ 9
    let e : Int := if r ≤ 5 * 10 ^ 8 then -(r : Int) else (10 ^ 9 - r : Nat)
    let s := s.withTime { s.time with lastPulse := some s.now, agreeAt := none }
    if s.time.altInUse || !s.slews then s else s.noteError e

/-- On the loss of a source, time moves to ALT_LINK if that link is locked; otherwise holdover (R38). -/
def State.loseSource (s : State) : State :=
  let alt := s.fld rTtSrc 31 26
  let s := s.setBit rTtStatus stLocked false
  if !s.time.altInUse && s.fld (rLst alt) 63 62 == 2 && s.fbit (rLst alt) 55 && s.timeLink != some alt then
    s.withTime { s.time with altInUse := true, agreeAt := none }
  else
    (s.withTime { s.time with altInUse := false, agreeAt := none }).setBit rTtStatus stHoldover true

/-- REF_LOST (R38). -/
def State.refLost (s : State) : State :=
  if s.timeSrc ≠ 1 ∨ s.time.altInUse then s else (s.setBit rTtStatus 3 true).loseSource

/-- Whether a link is lost as a source of time: it is down, or its idle sets carried no time for 10 µs (R38). -/
def State.timeGone (s : State) (l : Nat) : Bool := s.fld (rLst l) 63 62 != 2 || decide ((s.link l).pAt + 10000 ≤ s.now)

/-- The link is lost as a source of time, when time is taken from it (R38, case 18 of Table 12.12). -/
def State.loseLink (s : State) (l : Nat) : State :=
  if s.timeLink = some l then (s.setBit rTtStatus 2 true).loseSource else s

/-- LINK_LOST (R38): the link is down or has carried no time. -/
def State.linkLost (s : State) (l : Nat) : State := if s.timeGone l then s.loseLink l else s

/-- Time from an idle ordered set of the source link, or of LINK while the load is still to come (R34, R35, R469). -/
def State.takeTime (s : State) (l time : Nat) (lock : Bool) : State :=
  let t := time + s.fld (rLst l) 31 0
  if !lock then s
  else if s.mayLoad && s.timeSrc == 2 && s.fld rTtSrc 23 18 == l then
    let s := s.loadTime t
    s.withTime { s.time with agreeAt := if s.time.altInUse then none else some s.now }
  else if s.timeLink ≠ some l ∨ !s.slews then s
  else s.noteError ((t : Int) - (s.now : Int))

/-- FALLBACK (R62). -/
def State.enterFallback (s : State) : State :=
  if s.fbit rTtStatus stFallback ∨ s.holdNs ≤ s.fld rTtHold 31 16 then s
  else ((s.setBit rTtStatus stFallback true).setBit rTtStatus 1 true).pfev 1 0

/-- Whether the source now allows LOCKED to become 1: the sets of a link have agreed for 10 µs, up to the latest, or a
pulse has agreed, once there has been the load (R469). -/
def State.mayLock (s : State) : Bool :=
  match s.timeLink with
  | some l => s.slews && !s.timeGone l
      && (match s.time.agreeAt with | some t => decide (t + 10000 ≤ (s.link l).pAt) | none => false)
  | none => s.timeSrc == 0 || (s.slews && s.time.agreeAt.isSome)

/-- LOCKED becomes 1; the uncertainty of holdover ends, and what error remains is slewed away (R63). -/
def State.setLocked (s : State) : State :=
  if s.locked || !s.mayLock || !s.power.alive then s
  else
    ((s.withTime { s.time with hold := 0 }).setBit rTtStatus stLocked true).setBit rTtStatus stHoldover false

/-- TT_SRC_WRITE (R41): at once, without stepping time. Holdover begins with the loss of a source alone (R38); a
module of SRC 0 is the time root, its uncertainty is 0 (Table 2.1), and it is locked at once (R469). -/
def State.ttSrcWrite (s : State) (v : W64) : State :=
  let old := (s.timeSrc, s.timeLink)
  let s := s.setReg rTtSrc (writeWord fTtSrc (s.reg rTtSrc) .w64 v)
  let s := s.withTime { s.time with altInUse := false }
  let s := if s.fld rHostBoot 63 61 = 5 then s.withBoot { s.boot with limitAt := s.boot.elapsed } else s
  let s := if s.timeSrc = 0 then
      (s.withTime { s.time with err := 0, hold := 0 }).setBit rTtStatus stHoldover false else s
  let s := if (s.timeSrc, s.timeLink) = old then s
    else (s.withTime { s.time with agreeAt := none }).setBit rTtStatus stLocked false
  if s.timeSrc = 0 then s.setLocked else s

/-- EPOCH_PULSE. -/
def execEpochPulse (s : State) : Host.Outcome State Fault Refusal := .next s.epochPulse

/-- TT_SRC_WRITE. -/
def execTtSrcWrite (v : W64) (s : State) : Host.Outcome State Fault Refusal := .next (s.ttSrcWrite v)

/-- REF_LOST. -/
def execRefLost (s : State) : Host.Outcome State Fault Refusal := .next s.refLost

/-- LINK_LOST. -/
def execLinkLost (l : LinkId) (s : State) : Host.Outcome State Fault Refusal := .next (s.linkLost l.val)

/-- FALLBACK. -/
def execFallback (s : State) : Host.Outcome State Fault Refusal := .next s.enterFallback

end Sys2Proof.Machine
end

