-- ==== Sys2Proof/Machine/Timetable.lean ====
section
/-! DEFINITION. Timetables (R44 to R55): slot and window entries, the commit check (Table 2.10) and bank
swap, the frame boundary with what takes effect at it (R22, R49, R63, R351, R439), and the start of a step
on a cluster (R74 to R78, R278). -/

namespace Sys2Proof.Machine

/-! ### Entries -/

/-- A slot entry (Table 2.11), times in ns. -/
structure SlotEntry where
  valid : Bool
  kernel : Nat
  len : Nat
  start : Nat
  cnt : Nat
  base : Nat
  clusters : Nat
  bkgd : Bool
  maint : Bool
  swap : Bool
  modesw : Bool
  mswIdx : Nat
  dutyLen : Nat
  wcet : Nat
  deriving DecidableEq, Repr

def slotEntryOf (w0 w1 w2 : W64) : SlotEntry :=
  { valid := bit w0 63, kernel := bf w0 55 48, len := 10 * bf w0 47 24, start := 10 * bf w0 23 0
    cnt := bf w1 45 39, base := bf w1 38 32, clusters := bf w1 31 0
    bkgd := bit w2 63, maint := bit w2 62, swap := bit w2 61, modesw := bit w2 60
    mswIdx := bf w2 55 48, dutyLen := 10 * bf w2 47 24, wcet := 10 * bf w2 23 0 }

/-- An exchange window entry (Table 2.12), times in ns from the slot start. -/
structure WinEntry where
  valid : Bool
  recv : Bool
  lateAcc : Bool
  link : Nat
  len : Nat
  off : Nat
  fdie : Nat
  flag : Nat
  bytes : Nat
  deriving DecidableEq, Repr

def winEntryOf (w0 w1 : W64) : WinEntry :=
  { valid := bit w0 63, recv := bit w0 62, lateAcc := bit w0 61, link := bf w0 53 48
    len := 10 * bf w0 47 24, off := 10 * bf w0 23 0, fdie := bf w1 48 48, flag := bf w1 47 40, bytes := bf w1 31 0 }

def bankOff (active : Bool) : Nat := if active then activeBank else 0

/-- Slot entry n of partition p in the active or the standby bank. -/
def State.slotEntry (s : State) (p n : Nat) (active : Bool) : SlotEntry :=
  slotEntryOf (s.reg (rSlot p n 0 + bankOff active)) (s.reg (rSlot p n 1 + bankOff active))
    (s.reg (rSlot p n 2 + bankOff active))

def State.winEntry (s : State) (p x : Nat) (active : Bool) : WinEntry :=
  winEntryOf (s.reg (rExw p x 0 + bankOff active)) (s.reg (rExw p x 1 + bankOff active))

/-- Numbers of a slot's windows; entry numbers end at 95. -/
def SlotEntry.winIds (e : SlotEntry) : List Nat := ((List.range e.cnt).map (e.base + ·)).filter (· < 96)

/-- Valid windows of a slot. -/
def State.slotWins (s : State) (p : Nat) (e : SlotEntry) (active : Bool) : List WinEntry :=
  (e.winIds.map (fun x => s.winEntry p x active)).filter (·.valid)

def State.validSlots (s : State) (p : Nat) (active : Bool) : List SlotEntry :=
  ((List.range 64).map (fun n => s.slotEntry p n active)).filter (·.valid)

/-- TT_TIGHT (R55): slots of the active bank whose margin is below the leading. The bit of an entry that is not
VALID reads 0. DESIGN CHOICE (log 82). -/
def State.tight (s : State) (p : Nat) : W64 :=
  BitVec.ofNat 64 ((List.range 64).foldl (fun a n =>
    let e := s.slotEntry p n true
    if e.valid && decide (e.len < e.wcet + e.dutyLen + s.leadNs) then a + 2 ^ n else a) 0)

/-! ### Commit (R49 to R51) -/

/-- The first failure of Table 2.10, by rising code; 0 when the standby bank passes. -/
def State.commitCode (s : State) (p : Nat) : Nat :=
  let fl := s.fld (rTtFrame p) 48 32
  let es := s.validSlots p false
  let t := s.tmpl p
  if fl < 20 ∨ fl > 100000 ∨ s.fld (rTtFrame p) 16 0 ≥ fl then 1
  else if es.any (fun e => decide (e.start + e.len > fl * 1000)) then 2
  else if es.any (fun e => (List.range 32).any (fun c => e.clusters.testBit c && !t.hasCluster c)) then 3
  else if es.any (fun e => (s.slotWins p e false).any (fun w => !t.hasLink w.link)) then 4
  else if es.any (fun e => (s.slotWins p e false).any (fun w => decide (w.off + w.len > e.len))) then 5
  else if es.any (fun e => decide (e.base + e.cnt > 96)) then 6
  else 0

/-- Exchange the two banks of a timetable. -/
def swapBanks (m : SMap W64) (p : Nat) : SMap W64 :=
  let lo := rTtFrame p + 0x200
  let ks := (m.map (fun e => e.1 % 2 ^ 48)).filter (fun k => decide (lo ≤ k) && decide (k < lo + 0xE00))
  ks.eraseDups.foldl (fun m k =>
    let a := regGet m k
    let b := regGet m (k + activeBank)
    regPut (regPut m k b) (k + activeBank) a) m

/-- TT_COMMIT: the commit waits for the next frame boundary. -/
def State.ttCommit (s : State) (p : Nat) : State := s.setBit (rTtFrame p) 61 true

/-- A pending commit at its boundary. -/
def State.takeCommit (s : State) (p : Nat) : State :=
  if !s.fbit (rTtFrame p) 61 then s
  else
    let code := s.commitCode p
    let s := s.setBit (rTtFrame p) 61 false
    if code = 0 then
      let s := (s.setBit (rTtFrame p) 60 false).setFld (rTtFrame p) 59 56 0
      let s := s.withRegs (swapBanks s.regs p)
      s.modPart p (fun q => { q with actLen := s.fld (rTtFrame p) 48 32, actPhase := s.fld (rTtFrame p) 16 0 })
    else (s.setBit (rTtFrame p) 60 true).setFld (rTtFrame p) 59 56 code

/-! ### Runs of slots -/

/-- Numbers under which a run of slot n may stand. -/
def slotKeys (n : Nat) : List Nat := [n, n + 64, n + 128]

/-- Runs of a partition's slots, by key. -/
def State.runs (s : State) (p : Nat) : List (Nat × SlotRun) :=
  (s.part p).slots.filterMap (fun e => e.2.map (fun r => (e.1, r)))

/-- Step or mode switch not complete; a run of KERNEL 0xFF has no step (R46). -/
def SlotRun.working (r : SlotRun) : Bool := (r.phase == .step && r.kernel != 0xFF) || r.phase == .modesw

def SlotRun.entry (r : SlotRun) : SlotEntry := slotEntryOf 0 r.w1 r.w2

/-- Whether no window of a run bears on traffic any more: each is closed, and 10 µs and g past its close (R65, R348). -/
def SlotRun.winsOver (r : SlotRun) (t g : Nat) : Bool :=
  r.wins.all (fun w =>
    let e := winEntryOf w.2.w0 w.2.w1
    (e.recv || w.2.closed) && decide (r.start + e.off + e.len + max 10000 g ≤ t))

/-- The number under which the next run of slot n of partition p will stand: one that is free, or that of a finished run
whose windows are over, or of the finished run that started first; none while all are at work. -/
def State.slotKeyFor (s : State) (p n : Nat) : Option Nat :=
  let idle := fun (k : Nat) => match s.slot p k with | some r => !r.working | none => true
  let past := fun (k : Nat) => match s.slot p k with | some r => r.winsOver s.now (10 + 2 * s.holdNs) | none => true
  let start : Nat → Nat := fun k => match s.slot p k with | some r => r.start | none => 0
  let ks := (slotKeys n).filter idle
  (ks.find? past).orElse (fun _ => pickBy (fun (a b : Nat) => decide (start a < start b)) ks)

/-- The run of slot n of partition p that satisfies a test, the earlier start first. -/
def State.findRun (s : State) (p n : Nat) (ok : SlotRun → Bool) : Option (Nat × SlotRun) :=
  pickBy (fun a b => decide (a.2.start < b.2.start)) ((s.runs p).filter (fun e => (slotKeys n).contains e.1 && ok e.2))

/-- Whether T is a frame start under a length and phase in µs (R44). -/
def isFrameStart (t len phase : Nat) : Bool := decide (len ≥ 20) && t % 1000 == 0 && t / 1000 % len == phase

/-- Starts of the frames of a partition that bear on t to t + 100 ms: the frame in force, and by its length and
phase the latest start up to t and the next. -/
def Part.frameStarts (q : Part) (t : Nat) : List Nat :=
  let us := t / 1000
  let ago := (us + q.actLen - q.actPhase) % q.actLen
  q.frame.toList ++ (if q.actLen < 20 then [] else
    (if ago ≤ us then [(us - ago) * 1000] else []) ++ [(us + q.actLen - ago) * 1000])

/-- Whether a slot of a partition owns cluster c at some instant of t to t + d: a slot that runs, or one
of the frame in force or of the next (R22, R420). -/
def State.slotOwns (s : State) (c t d : Nat) : Bool :=
  (List.range 16).any (fun p =>
    (s.runs p).any (fun e => (e.2.working && (e.2.clusters ++ e.2.waiting).contains c)
      || (e.2.entry.clusters.testBit c && decide (e.2.start ≤ t + d) && decide (t < e.2.start + e.2.len)))
    || (s.fbit (rTtFrame p) 63 && (s.validSlots p true).any (fun e =>
          e.clusters.testBit c && ((s.part p).frameStarts t).any (fun b =>
            decide (b + e.start ≤ t + d) && decide (t < b + e.start + e.len)))))

/-! ### The frame boundary -/

/-- FALLBACK clears when HOLD_NS is at most 10 ns and the partners on links with scheduled windows report
lock (R63). The links are those of every valid slot of an active bank, its timetable enabled or not. DESIGN
CHOICE (log 83). -/
def State.clearFallback (s : State) : State :=
  if !s.fbit rTtStatus stFallback ∨ s.holdNs > 10 then s
  else
    let links := (List.range 16).flatMap (fun p =>
      (s.validSlots p true).flatMap (fun e => (s.slotWins p e true).map (·.link)))
    if links.all (fun l => s.fbit (rLst l) 55) then s.setBit rTtStatus stFallback false else s

/-- Physical cluster within a C-die of logical cluster j (R20). -/
def physOf (out j : Nat) : Nat := if j < out then j else j + 1

def State.clmapOut (s : State) (d : Nat) : Nat := s.fld rHostClmap (if d = 0 then 12 else 28) (if d = 0 then 8 else 24)

def State.setClmapOut (s : State) (d v : Nat) : State :=
  s.setFld rHostClmap (if d = 0 then 12 else 28) (if d = 0 then 8 else 24) v

def clmapPendBit (d : Nat) : Nat := if d = 0 then 15 else 31

/-- Logical clusters of die d whose physical cluster a change of OUT changes. -/
def movedBy (d old new : Nat) : List Nat :=
  ((List.range 16).filter (fun j => physOf old j != physOf new j)).map (16 * d + ·)

/-- Out-of-service physical cluster of the mapping that waits on a C-die; HOST_CLMAP shows whether one does. -/
def State.pendingOut (s : State) (d : Nat) : Option Nat := sget none s.integ.pendOut d

/-- Whether the cluster out of service on a die has failed (R23, R422). -/
def State.outFailed (s : State) (d : Nat) : Bool := s.integ.failedClusters.contains (d, s.clmapOut d)

/-- Whether the next move of a CC update on a die waits for its boundary (R22, R420): a cluster granted to no partition
moves at once. -/
def State.moveWaits (s : State) (d : Nat) : Bool :=
  match s.fw.switching, s.fw.walk.find? (fun c => c / 16 == d) with
  | some (3, _), some c => !s.outFailed d && (s.partOf c).isSome
  | _, _ => false

/-- PEND of a C-die shows whether a new mapping waits (Table 1.10). -/
def State.showPend (s : State) (d : Nat) : State :=
  s.setBit rHostClmap (clmapPendBit d) ((s.pendingOut d).isSome || s.moveWaits d)

/-- A mapping begins or ends to wait for its frame boundary (R22, Table 1.10). -/
def State.setPendingOut (s : State) (d : Nat) (x : Option Nat) : State :=
  (s.withInteg { s.integ with pendOut := sset none s.integ.pendOut d x }).showPend d

/-- A pending cluster mapping takes effect when no slot owns an affected cluster (R22). -/
def State.takeClmap (s : State) : State :=
  [0, 1].foldl (fun s d =>
    match s.pendingOut d with
    | some f =>
      if (movedBy d (s.clmapOut d) f).any (fun c => s.slotOwns c s.now 0) then s
      else (s.setClmapOut d f).setPendingOut d none
    | none => s) s

/-- Demotion ends on the partition's links that were asked to be restored; the frame's count of its timing
violations restarts on every link (R351). -/
def State.frameLinks (s : State) (p : Nat) : State :=
  (List.range 48).foldl (fun s l =>
    let x := s.link l
    let own := (s.tmpl p).hasLink l
    let s := if own && x.restoreAsked then s.setBit (rLst l) 59 false else s
    s.setLink l { x with restoreAsked := x.restoreAsked && !own, dviol := sset 0 x.dviol p 0 }) s

/-- Whether a partition without a frame length in force has its boundary now: a frame start under the length and phase
it has programmed (R44, R471), or, where Table 2.10 refuses those, a whole µs.
DESIGN CHOICE (log 18). -/
def State.firstBoundary (s : State) (p : Nat) : Bool :=
  let fl := s.fld (rTtFrame p) 48 32
  let ph := s.fld (rTtFrame p) 16 0
  s.fbit (rTtFrame p) 61
    && (if 20 ≤ fl ∧ fl ≤ 100000 ∧ ph < fl then isFrameStart s.now fl ph else s.now % 1000 == 0)

/-- FRAME_BOUNDARY of partition p: at a frame start, or, while no frame length is in force, at the first boundary with
a commit pending. No frame starts before READY (R471). -/
def State.frameBoundary (s : State) (p : Nat) : State :=
  let q := s.part p
  let starts := isFrameStart s.now q.actLen q.actPhase
  let first := q.actLen == 0 && s.firstBoundary p
  if !s.ready || !(starts || first) || q.frame == some s.now then s
  else
    let s := s.clearFallback
    let s := s.takeCommit p
    let s := if (s.reg (rScu p + 8)) != 0 then s.setFld (rScu p) 62 60 (s.fld rClkGrade 63 61) else s
    let s := s.frameLinks p
    let q := s.part p
    (s.setPart p { q with
      frame := if s.fbit (rTtFrame p) 63 && isFrameStart s.now q.actLen q.actPhase then some s.now else none }).takeClmap

/-! ### Starting a step on a cluster -/

/-- Forget the error patterns of the units of a run of bytes. -/
def State.clearErrs (s : State) (sp : Space) (a n : Nat) : State :=
  if s.integ.errs.isEmpty then s
  else
    let lo := errKey sp a
    let u := unitBytes sp
    s.withInteg { s.integ with errs := s.integ.errs.filter (fun e => decide (e.1 < lo) || decide (lo + ceilDiv n u ≤ e.1)) }

/-- A new read cache SIZE takes effect; the bytes that move into or out of the cache read as 0 (R278). -/
def State.resizeCache (s : State) (c : Nat) : State :=
  let old := (s.cluster c).rcSize
  let new := min 8 (s.fld (rRcache c) 3 0)
  if old = new then s
  else
    let lo := storeBytes - max old new * 2 ^ 18
    let n := (max old new - min old new) * 2 ^ 18
    (s.modCluster c (fun x => { x with rcSize := new, store := mzero x.store lo n })).clearErrs (.store c) lo n

/-- A kernel image as its header gives it (Table 3.3): entries of the seven streams, those present, LAST. -/
structure Image3 where
  entries : List Nat
  streamEn : Nat
  last : Nat

/-- The header of kernel k, when R74 accepts it. -/
def Cluster.imageOf (x : Cluster) (k : Nat) : Option Image3 :=
  let d := mword x.imem (8 * k)
  let a := 16 * bf d 13 0
  let w0 := mword x.imem a
  let w1 := mword x.imem (a + 8)
  let w2 := mword x.imem (a + 16)
  let w3 := mword x.imem (a + 24)
  if !bit d 63 || bf w0 63 48 != 0x544B || bf w0 47 40 != 3 || bf w0 39 32 != 3 then none
  else some
    { entries := [bf w1 13 0, bf w1 27 14, bf w1 41 28, bf w1 55 42, bf w2 13 0, bf w2 27 14, bf w2 41 28]
      streamEn := bf w0 6 0, last := bf w3 13 0 }

/-- Whether the directory word of image k, or a word of the header it names, is uncorrectable: no stream starts, and the
step's completion record has POISON (R79, Table 15.1). -/
def State.imageUnread (s : State) (c k : Nat) : Bool :=
  let a := 16 * bf (mword (s.cluster c).imem (8 * k)) 13 0
  s.imemWordBad c (8 * k) || [0, 8, 16, 24].any (fun j => s.imemWordBad c (a + j))

/-- The streams of an image as they start on a cluster: their queues fill, and they may issue from this cycle on. -/
def Image3.streams (m : Image3) (x : Cluster) : SMap Stream :=
  stab {} 7 (fun e =>
    let pc := m.entries.getD e 0
    if m.streamEn.testBit e then
      x.fetch { live := decide (pc ≤ m.last), pc := pc, last := m.last, nextCc := x.cyc }
    else {})

/-- What every slot start does on an owned cluster: counters, parameters, the read cache (R75, R276, R278). -/
def State.slotCluster (s : State) (c : Nat) (params : List Nat) : State :=
  let s := s.resizeCache c
  s.modCluster c (fun x => { x.cacheDrop with
    sycs := stab 0 64 (fun n => if n < 56 then 0 else params.getD (n - 56) 0)
    sycFresh := []
    sycBy := [] })

/-- The step of run key starts on cluster c: its header is checked and its streams start (R74, R75). They issue no
sooner than 4 ns after the last step that ran on the cluster (R67). -/
def State.startCluster (s : State) (p key c : Nat) : State :=
  match s.slot p key with
  | none => s
  | some r =>
    let s := s.slotCluster c r.params
    if s.imageUnread c r.kernel then
      (s.modCluster c (fun x => { x with run := some (p, key), streams := [] })).modSlot p key
        (fun r => { r with poison := true })
    else match (s.cluster c).imageOf r.kernel with
    | some m => s.modCluster c (fun x => { x with run := some (p, key), streams := m.streams x })
    | none =>
      let s := s.modCluster c (fun x => { x with run := some (p, key), streams := [] })
      (s.modSlot p key (fun r => { r with imageBad := true })).logError coreCc c

/-- Windows of a slot as it finds them. -/
def State.winRuns (s : State) (p : Nat) (e : SlotEntry) : SMap WinRun :=
  (List.range 96).filterMap (fun x =>
    if e.winIds.contains x && (s.winEntry p x true).valid then
      some (x, { w0 := s.reg (rExw p x 0 + activeBank), w1 := s.reg (rExw p x 1 + activeBank) }) else none)

/-- FRAME_BOUNDARY. -/
def execFrameBoundary (p : PartId) (s : State) : Host.Outcome State Fault Refusal := .next (s.frameBoundary p.val)

/-- TT_COMMIT. -/
def execTtCommit (p : PartId) (s : State) : Host.Outcome State Fault Refusal := .next (s.ttCommit p.val)

end Sys2Proof.Machine
end

