-- ==== Sys2Proof/Machine/Fabric.lean ====
section
/-! DEFINITION. Fabric links (chapter 12): what a link puts on the wire and when (R334, R337, R338, R340 to
R344), exchange windows (R53 to R66), the violation log, demotion and quarantine (R349 to R352). -/

namespace Sys2Proof.Machine

/-! ### State of a link -/

def lkDown : Nat := 0
def lkTraining : Nat := 1
def lkUp : Nat := 2
def lkQuarantined : Nat := 3

/-- FAB_LST.STATE. -/
def State.lkState (s : State) (l : Nat) : Nat := s.fld (rLst l) 63 62

def State.linkUp (s : State) (l : Nat) : Bool := s.lkState l == lkUp

def State.owd (s : State) (l : Nat) : Nat := s.fld (rLst l) 31 0

/-- G of R54 on a link, in ns. -/
def State.guard (s : State) (l : Nat) : Nat := 10 + s.holdNs + (s.link l).pHold

/-- Whether scheduled traffic of the link travels unscheduled (R62, R351). -/
def State.unscheduled (s : State) (l : Nat) : Bool := s.fbit rTtStatus stFallback || s.fbit (rLst l) 59

/-- Speed ratio k of the rate a link trained to (Table 12.1). -/
def State.speedRatio (s : State) (l : Nat) : Nat :=
  match s.fld (rLst l) 61 60 with
  | 3 => 1
  | 2 => 2
  | _ => 4

/-- Whether the link sends frames: it is up, no lane is being steered onto the spare (R327, R329), and its lanes are not
being trimmed (R419). -/
def State.sends (s : State) (l : Nat) : Bool :=
  s.linkUp l && (s.link l).sparing.isNone && !s.fw.queue.any (fun q => q.kind == 2 && q.target == l && q.running)

/-- Shared hamper cells no queue holds (R342). -/
def State.sharedFree (s : State) : Nat :=
  7680 - s.links.foldl (fun a e => a + e.2.extra1 + e.2.extra2 + e.2.extraS) 0

/-- FAB_HCFG.CEIL within the bounds of Table 12.4. -/
def State.cellCeil (s : State) : Nat := min 7680 (max 16 (s.fld rHcfg 47 32))

/-- Send cells that frames of a link take up: waiting unscheduled frames, and unacknowledged frames (R327, R341). -/
def Link.held (x : Link) : Nat := x.inCells + x.unacked.length + x.unacked0.length

/-- Whether the send queue of a link has a cell for one more frame: its 32, and the shared ones it was given (Table
12.9, R343). -/
def Link.sendCell (x : Link) : Bool := decide (x.held < 32 + x.extraS)

/-! ### Windows of running slots -/

/-- A window of a slot that has started. -/
structure WinAt where
  p : Nat
  key : Nat
  x : Nat
  run : WinRun
  e : WinEntry
  /-- Fabric time of the opening. -/
  opening : Nat

def WinAt.close (w : WinAt) : Nat := w.opening + w.e.len

/-- Windows of a partition's runs. -/
def State.winsOf (s : State) (p : Nat) : List WinAt :=
  (s.runs p).flatMap (fun r => r.2.wins.map (fun w =>
    let e := winEntryOf w.2.w0 w.2.w1
    { p := p, key := r.1, x := w.1, run := w.2, e := e, opening := r.2.start + e.off }))

/-- Windows of one direction of a link. -/
def State.winsOn (s : State) (l : Nat) (recv : Bool) : List WinAt :=
  (List.range 16).flatMap (fun p => (s.winsOf p).filter (fun w => w.e.link == l && w.e.recv == recv))

/-- Windows of slots still to start in the frame in force and in the next one. -/
def State.winsAhead (s : State) (l : Nat) (recv : Bool) : List WinAt :=
  (List.range 16).flatMap (fun p =>
    match (s.part p).frame with
    | none => []
    | some f =>
      if !s.fbit (rTtFrame p) 63 then []
      else (s.validSlots p true).flatMap (fun e =>
        ([f, f + (s.part p).actLen * 1000].map (· + e.start)).flatMap (fun b =>
          if b ≤ s.now ∧ (s.runs p).any (fun r => r.2.start == b) then []
          else (s.slotWins p e true).filterMap (fun w =>
            if w.link == l && w.recv == recv then
              some { p := p, key := 0, x := 0, run := {}, e := w, opening := b + w.off } else none))))

def State.modWin (s : State) (p key x : Nat) (f : WinRun → WinRun) : State :=
  s.modSlot p key (fun r => { r with wins := r.wins.map (fun w => if w.1 = x then (w.1, f w.2) else w) })

/-- Whether the last 45 ns before some send window's transmission run (R337). -/
def State.quietBefore (s : State) (l : Nat) : Bool :=
  ((s.winsOn l false).filter (fun w => !w.run.opened) ++ s.winsAhead l false).any (fun w =>
    let t := w.opening - s.owd l
    decide (t ≤ s.now + 45) && decide (s.now < t))

/-! ### Sending -/

/-- Whether a frame takes a sequence number (R340). -/
def Hdr.numbered (h : Hdr) : Bool := h.opc != opcCredit && h.opc != opcHalt

/-- Payload of a frame leaves its cluster's staging (R334). -/
def State.unstage (s : State) (f : Frame) : State :=
  let h := frameHdr f
  if f.payload.isEmpty then s
  else s.modCluster h.cluster (fun x => { x with staged := x.staged - f.payload.length })

/-- Whether VC0 frames of the queue belong to a window: the frame names its opening. -/
def winFrames (q : List Frame) (w : WinAt) : List Frame := q.filter (fun f => f.w3.toNat == w.opening % 2 ^ 64)

/-- Whether a cluster's remote writes may leave: those of a mirrored partition only from a SOLO or PRIMARY
module (R358), and from none that is out of sync (R364). -/
def State.mayTransmit (s : State) (c : Nat) : Bool :=
  match s.partOf c with
  | some p => !s.mirrored p || ((s.role == roleSolo || s.role == rolePrimary) && !s.fbit rMirStat (32 + p))
  | none => true

/-- When a payload sent now has left, in units of 1/94 ns: the wire carries 94 bytes ÷ k in a ns (R324). -/
def State.txEnd (s : State) (l n : Nat) : Nat := max (s.link l).txFree (94 * s.now) + n * s.speedRatio l

/-- Whether the wire is free of the last payload within this ns. -/
def State.txIdle (s : State) (l : Nat) : Bool := decide ((s.link l).txFree < 94 * (s.now + 1))

/-- The first VC0 frame that an open window lets start now, by the window and its place in the queue: frames of a
window keep their order, and each must arrive by the window close (R337, R338). -/
def State.vc0Wait (s : State) (l : Nat) : Option (Nat × Frame) :=
  if !s.sends l || s.halted then none
  else
    let q := (s.link l).winQ
    ((s.winsOn l false).filter (fun w => w.run.opened && !w.run.closed)).findSome? (fun w =>
      match (List.range q.length).find? (fun k =>
        match q[k]? with
        | some f => f.w3.toNat == w.opening % 2 ^ 64
        | none => false) with
      | some k => match q[k]? with
        | some f =>
          if s.mayTransmit (frameHdr f).cluster && decide (s.txEnd l f.payload.length + 94 * s.owd l ≤ 94 * w.close) then some (k, f)
          else none
        | none => none
      | none => none)

def State.vc0Next (s : State) (l : Nat) : Option (Nat × Frame) := if (s.link l).sendCell then s.vc0Wait l else none

/-- Frames that a cluster's remote writes put on a link. -/
def carriesData (h : Hdr) : Bool := h.opc == opcWrite || h.opc == opcWgann || h.opc == opcRfinal

/-- The first unscheduled frame that may start now: it holds a send cell, and its virtual channel a credit (R344). -/
def State.unschedNext (s : State) (l : Nat) : Option (Nat × Frame) :=
  let x := s.link l
  match (List.range x.inCells).find? (fun k =>
    match x.sendQ[k]? with
    | some f =>
      let h := frameHdr f
      (!carriesData h || s.mayTransmit h.cluster) && (if h.vc = 1 then decide (x.txCred1 > 0) else decide (x.txCred2 > 0))
    | none => false) with
  | some k => (x.sendQ[k]?).map (fun f => (k, f))
  | none => none

/-! ### Hamper cells (R342, R343) -/

/-- Frames at the head of a link's queue move from staging into its free send cells. -/
def State.takeIn (s : State) (l : Nat) : State :=
  let x := s.link l
  let k := min (x.sendQ.length - x.inCells) (32 + x.extraS - x.held)
  if k = 0 then s
  else (((x.sendQ.drop x.inCells).take k).foldl State.unstage s).modLink l (fun x => { x with inCells := x.inCells + k })

/-- Whether a credited queue needs a shared cell and may have one: key 3 × link, plus 0 for receive VC1, 1 for receive
VC2, 2 for send. -/
def State.needsCell (s : State) (k : Nat) : Bool :=
  let x := s.link (k / 3)
  match k % 3 with
  | 0 => x.back1 && decide (16 + x.extra1 < s.cellCeil)
  | 1 => x.back2 && decide (16 + x.extra2 < s.cellCeil)
  | _ => !x.sendCell && decide (32 + x.extraS < s.cellCeil)
    && (decide (x.inCells < x.sendQ.length) || (s.vc0Wait (k / 3)).isSome)

/-- Queues that need a cell, in the order of the round robin from its start. -/
def State.needing (s : State) : List Nat :=
  (s.links.flatMap (fun e => [3 * e.1, 3 * e.1 + 1, 3 * e.1 + 2])).filter s.needsCell

/-- One shared cell goes to the next queue in turn; a receive queue's is one more credit to the partner. -/
def State.grant (s : State) : Option State :=
  if s.sharedFree = 0 then none
  else
    let ks := s.needing
    match (ks.find? (fun k => decide (s.hamper ≤ k))).orElse (fun _ => ks.head?) with
    | none => none
    | some k => some ((s.modLink (k / 3) (fun x => match k % 3 with
        | 0 => { x with extra1 := x.extra1 + 1, ret1 := x.ret1 + 1, back1 := false }
        | 1 => { x with extra2 := x.extra2 + 1, ret2 := x.ret2 + 1, back2 := false }
        | _ => { x with extraS := x.extraS + 1 })).withHamper ((k + 1) % 144))

/-- Waiting frames take send cells, and needing queues shared ones, as far as there are any. -/
def State.shareCells (s : State) : Nat → State
  | 0 => s
  | n + 1 =>
    let s := s.links.foldl (fun s e => s.takeIn e.1) s
    match s.grant with
    | some t => t.shareCells n
    | none => s

/-- Frames that wait anywhere for a cell. -/
def State.cellDemand (s : State) : Nat := s.links.foldl (fun a e => a + e.2.sendQ.length + 3) 1

/-- A receive queue's cell frees: back to the shared pool when another queue needs one, else to the partner as one
credit (R343). -/
def State.rxFreed (s : State) (l vc : Nat) : State :=
  let others := !(s.needing.filter (fun k => k != 3 * l + vc - 1)).isEmpty
  s.modLink l (fun x =>
    if vc = 1 then (if others && decide (x.extra1 > 0) then { x with extra1 := x.extra1 - 1 } else { x with ret1 := x.ret1 + 1 })
    else if vc = 2 then (if others && decide (x.extra2 > 0) then { x with extra2 := x.extra2 - 1 } else { x with ret2 := x.ret2 + 1 })
    else x)

/-- Send cells of a link free: shared ones go back, one for each other queue that needs one (R343). -/
def State.txFreed (s : State) (l n : Nat) : State :=
  let m := (s.needing.filter (fun k => k != 3 * l + 2)).length
  s.modLink l (fun x => { x with extraS := x.extraS - min n m })

/-! ### Frames leave -/

/-- A frame as it leaves: number, acknowledgements, returned credits, and the time of sending where no
window's opening stands (R340, R344, Table 12.6). -/
def State.stampFrame (s : State) (l : Nat) (f : Frame) (seq : Nat) : Frame :=
  let x := s.link l
  frameStamp f (fun h => { h with
    seq := seq
    ack := (x.rxNext + 65535) % 65536
    ack0 := x.seen0
    cred1 := min 255 x.ret1
    cred2 := min 255 x.ret2
    wopen := if h.vc = 0 ∨ h.late then h.wopen else s.now % 2 ^ 64 })

/-- A frame on the wire: the credits it returns are the partner's, and the wire is taken for its payload. -/
def State.putWire (s : State) (l : Nat) (g : Frame) : State :=
  let e := s.txEnd l g.payload.length
  s.modLink l (fun x => { x with
    wire := x.wire ++ [g]
    txFree := e
    ret1 := x.ret1 - min 255 x.ret1
    ret2 := x.ret2 - min 255 x.ret2
    rxCred1 := x.rxCred1 + min 255 x.ret1
    rxCred2 := x.rxCred2 + min 255 x.ret2 })

/-- Send a frame that takes no cell and no credit; a frame sent again keeps its number. -/
def State.sendOut (s : State) (l : Nat) (f : Frame) : State :=
  let h := frameHdr f
  s.putWire l (s.stampFrame l f (if h.numbered then h.seq else 0))

/-- Key of the error pattern of the hamper cell that a link's next frame comes from, or that its next received frame
lies in. -/
def hamperKey (l : Nat) (send : Bool) : Nat := 2 ^ 57 + 2 * l + boolNat send

/-- Whether the next frame of a link is uncorrectable in its hamper cell; the frame that uses the cell after it finds no
error (Table 15.1, R395). -/
def State.cellLost (s : State) (l : Nat) (send : Bool) : Bool × State :=
  let k := hamperKey l send
  let e : ErrPat := sget {} s.integ.errs k
  if e = {} then (false, s)
  else ((checkWord e 0).bad, s.withInteg { s.integ with errs := sdel s.integ.errs k })

/-- Send a numbered frame, which an uncorrectable cell discards until it is sent again (R341): it stays
unacknowledged, and outside VC0 it uses a credit. -/
def State.sendFrame (s : State) (l : Nat) (f : Frame) : State :=
  let h := frameHdr f
  let x := s.link l
  let g := s.stampFrame l f (if h.vc = 0 then x.txNext0 else x.txNext)
  let (lost, s) := s.cellLost l true
  let s := (if lost then s else s.putWire l g).modLink l (fun x =>
    let x := if x.unacked.isEmpty && x.unacked0.isEmpty then { x with ackAt := s.now } else x
    if h.vc = 0 then { x with txNext0 := (x.txNext0 + 1) % 65536, unacked0 := x.unacked0 ++ [g] }
    else
      { x with
        txNext := (x.txNext + 1) % 65536
        unacked := x.unacked ++ [g]
        txCred1 := if h.vc = 1 then x.txCred1 - 1 else x.txCred1
        txCred2 := if h.vc = 2 then x.txCred2 - 1 else x.txCred2 })
  match (if carriesData h then s.partOf h.cluster else none) with
  | some p =>
    let s := if h.late then s.incFld (rTtLate p) 63 32 else s
    if g.payload.isEmpty then s else s.perf 10 p (some h.cluster) g.payload.length
  | none => s

/-- Send the first control frame or frame sent again. -/
def State.popOut (s : State) (l : Nat) : State :=
  match (s.link l).outQ with
  | f :: t => (s.modLink l (fun x => { x with outQ := t })).sendOut l f
  | [] => s

/-- Whether a HALT frame waits, which goes ahead of every other (R456). -/
def Link.haltFirst (x : Link) : Bool := match x.outQ with
  | f :: _ => (frameHdr f).opc == opcHalt
  | [] => false

/-- Send what may leave now, HALT first and then VC0, at most n frames; nothing else unscheduled starts in the last 45
ns before a window's transmission (R337, R456). -/
def State.pumpN (s : State) (l : Nat) : Nat → State
  | 0 => s
  | n + 1 =>
    if !s.sends l || !s.txIdle l then s
    else if (s.link l).haltFirst then (s.popOut l).pumpN l n
    else match s.vc0Next l with
    | some (k, f) => (((s.unstage f).modLink l (fun x => { x with winQ := dropAt x.winQ k })).sendFrame l f).pumpN l n
    | none =>
      if s.quietBefore l then s
      else if !(s.link l).outQ.isEmpty then (s.popOut l).pumpN l n
      else match s.unschedNext l with
        | some (k, f) =>
          ((s.modLink l (fun x => { x with sendQ := dropAt x.sendQ k, inCells := x.inCells - 1 })).sendFrame l f).pumpN l n
        | none => s

/-- Cells are shared out, and the link sends what may leave now. -/
def State.pump (s : State) (l : Nat) : State :=
  let s := s.shareCells s.cellDemand
  let x := s.link l
  s.pumpN l (x.winQ.length + x.outQ.length + x.sendQ.length)

/-- A link that may have something to do: frames that wait to leave or to land. -/
def Link.waits (x : Link) : Bool := !(x.outQ.isEmpty && x.sendQ.isEmpty && x.winQ.isEmpty)

/-- Every link sends what may leave now. -/
def State.pumpAll (s : State) : State := ((s.links.filter (fun e => e.2.waits)).map (·.1)).foldl State.pump s

/-- Queue a control frame of the module's own (Table 12.7). -/
def State.queueFrame (s : State) (l : Nat) (h : Hdr) : State :=
  s.modLink l (fun x => { x with sendQ := x.sendQ ++ [{ h with vc := 2 }.frame []] })

/-- Queue a NAK that concerns a received frame (R350). -/
def State.nak (s : State) (l : Nat) (h : Hdr) (code seq : Nat) : State :=
  s.queueFrame l { opc := opcNak, tpart := h.tpart, cluster := h.cluster, group := h.group, arg := seq * 65536 + code }

def nakGap : Nat := 1
def nakCredit : Nat := 2
def nakOpcode : Nat := 3
def nakHeader : Nat := 4
def nakXlate : Nat := 5
def nakChmode : Nat := 6
def nakFlag : Nat := 7
def nakWgdup : Nat := 8
def nakWgtmo : Nat := 9
def nakWindow : Nat := 10

/-! ### Send staging (R334, R338) -/

def frameBytes (fs : List Frame) : Nat := fs.foldl (fun a f => a + f.payload.length) 0

/-- Send windows of the run of cluster c on a link, in entry order. -/
def State.sendWins (s : State) (c l : Nat) : List WinAt :=
  match s.runOf c with
  | some (p, key) => (s.winsOf p).filter (fun w => w.key == key && !w.e.recv && w.e.link == l)
  | none => []

/-- Whether n more bytes keep to a window's BYTES. -/
def WinAt.room (w : WinAt) (n : Nat) : Bool := !w.run.full && decide (w.run.bytes + n ≤ w.e.bytes)

/-- The window in which a WRITE of n bytes travels: the first still open or to come with room, else the last closed
one with room; those before it have no more room for what follows (R65, R338). -/
def pickWin (ws : List WinAt) (n : Nat) : Option WinAt :=
  ((ws.filter (fun w => !w.run.closed && w.room n)).head?).orElse
    (fun _ => (ws.filter (fun w => w.run.closed && w.room n)).getLast?)

def setWopen (f : Frame) (vc : Nat) (late : Bool) (t : Nat) : Frame :=
  frameStamp f (fun h => { h with vc := vc, late := late, wopen := t % 2 ^ 64 })

/-- Scheduled data of a link that is not up is discarded and counted (R327). -/
def State.dropFrames (s : State) (l : Nat) (fs : List Frame) : State :=
  (fs.foldl (fun s f => s.unstage f) s).incFld (rLerr l) 23 8 fs.length

/-- Queue one frame of a remote write: a WRITE in the window of its slot while BYTES last, then on VC1; after the window,
as late data (R65, R338). A link that is down drops a window's data (R327), and a shadow keeps it (R367). -/
def State.queueRemote (s : State) (c l : Nat) (f : Frame) : State :=
  let toSend := fun (s : State) (g : Frame) =>
    if s.mayTransmit c then s.modLink l (fun x => { x with sendQ := x.sendQ ++ [g] }) else s.unstage g
  let n := f.payload.length
  if (frameHdr f).opc ≠ opcWrite then toSend s f
  else
    let ws := s.sendWins c l
    let pick := pickWin ws n
    let passed := (ws.takeWhile (fun w => pick.map (fun q => (q.key, q.x)) != some (w.key,
        w.x))).filter (fun w => !w.run.closed)
    let s := passed.foldl (fun s w => s.modWin w.p w.key w.x (fun r => { r with full := true })) s
    match pick with
    | none => toSend s f
    | some w =>
      let s := s.modWin w.p w.key w.x (fun r => { r with bytes := r.bytes + n })
      let kept := s.mirrored w.p && s.role == roleShadow
      if (w.run.opened || w.run.closed) && !s.linkUp l && !kept then s.dropFrames l [f]
      else if w.run.closed && !kept then toSend s (setWopen f 1 true w.opening)
      else if w.run.opened && w.run.unsched && !kept then toSend s f
      else if (s.role = roleFenced ∨ s.role = roleJoining) ∧ !s.mayTransmit c then s.unstage f
      else s.modLink l (fun x => { x with winQ := x.winQ ++ [setWopen f 0 false w.opening] })

/-- SEND_STAGING_ACCEPT: the oldest remote operation of the cluster enters its staging when it fits, and
completes (R334). -/
def State.stagingAccept (s : State) (c : Nat) : State :=
  let s := s.settle c
  match (s.cluster c).mv.find? (fun o => o.link.isSome && !o.done) with
  | none => s
  | some o =>
    let (fs, t) := s.remoteFrames c o
    let n := frameBytes fs
    if !s.clockRuns c || decide ((s.cluster c).staged + n > 65536) then s
    else
      let l := o.link.getD 0
      let t := t.modCluster c (fun x => { x with staged := x.staged + n })
      let t := fs.foldl (fun s f => s.queueRemote c l f) t
      (t.mvDone c o.seq).pump l

/-! ### Windows (R53, R62, R65, R327, R337) -/

/-- The run of slot n of partition p that has window x in the given state. -/
def State.winRunOf (s : State) (p n x : Nat) (ok : WinRun → Bool) : Option WinAt :=
  pickBy (fun a b => decide (a.opening < b.opening))
    ((s.winsOf p).filter (fun w => (slotKeys n).contains w.key && w.x == x && !w.e.recv && ok w.run))

/-- Queued frames of a window leave its queue. -/
def State.takeWin (s : State) (w : WinAt) : List Frame × State :=
  let fs := winFrames (s.link w.e.link).winQ w
  (fs, s.modLink w.e.link (fun x => { x with winQ := x.winQ.filter (fun f => f.w3.toNat != w.opening % 2 ^ 64) }))

/-- Frames of open windows of a link that is not up are discarded (R327); a shadow keeps them (R367). -/
def State.dropOpen (s : State) (l : Nat) : State :=
  ((s.winsOn l false).filter (fun w => w.run.opened && !w.run.closed
      && !(s.mirrored w.p && s.role == roleShadow))).foldl (fun s w =>
    let (fs, s) := s.takeWin w
    s.dropFrames l fs) s

/-- SEND_WINDOW_OPEN: transmission starts OWD before the opening (R337); data that travels unscheduled goes out from
the opening on (R62), but not while the module is halted (R454). A shadow keeps what it has (R367). -/
def State.windowOpen (s : State) (p n x : Nat) : State :=
  match s.winRunOf p n x (fun r => !r.opened) with
  | none => s
  | some w =>
    let l := w.e.link
    let un := s.unscheduled l
    if s.now + (if un then 0 else s.owd l) < w.opening || (un && s.halted) then s
    else
      let s := s.modWin w.p w.key w.x (fun r => { r with opened := true, unsched := un })
      if s.mirrored p && s.role == roleShadow then s
      else if !s.linkUp l then
        let (fs, s) := s.takeWin w
        s.dropFrames l fs
      else if un then
        let (fs, s) := s.takeWin w
        (s.modLink l (fun y => { y with
          sendQ := y.sendQ ++ fs.map (fun f => frameStamp f (fun h => { h with vc := 1 })) })).pump l
      else s.pump l

/-- WINDOW_CLOSE: at the window close + G, what has not been sent goes out as late data (R65). A shadow
keeps it for a promotion (R367). -/
def State.windowClose (s : State) (p n x : Nat) : State :=
  match s.winRunOf p n x (fun r => !r.closed) with
  | none => s
  | some w =>
    let l := w.e.link
    if s.now < w.close + s.guard l then s
    else
      let s := s.modWin w.p w.key w.x (fun r => { r with closed := true })
      if s.mirrored p && s.role == roleShadow then s
      else
        let (fs, s) := s.takeWin w
        if !s.linkUp l then s.dropFrames l fs
        else (s.modLink l (fun y => { y with
          sendQ := y.sendQ ++ fs.map (fun f => frameStamp f (fun h => { h with vc := 1, late := true })) })).pump l

/-! ### Violations (R349, R351, R352) -/

def actDiscard : Nat := 0
def actNak : Nat := 1
def actDemote : Nat := 2
def actQuarantine : Nat := 3
def actIgnore : Nat := 4
def actHold : Nat := 5

/-- One violation: its log entry and counts, and what the counts bring about. Timing violations count within a frame
of the partition the frame names (R351). -/
def State.violation (s : State) (l case_ action : Nat) (h : Hdr) (detail : Nat) : State :=
  let x := s.link l
  let viol := satTo 16 (x.viol + 1)
  let timing := 8 ≤ case_ ∧ case_ ≤ 11
  let inFrame := sget 0 x.dviol h.tpart + 1
  let dviol := if timing then sset 0 x.dviol h.tpart inFrame else x.dviol
  let demotes := timing && decide (inFrame ≥ s.fld rQthr 7 0) && !s.fbit (rLst l) 59
  let quarantines := decide (viol ≥ s.fld rQthr 31 16) && s.linkUp l
  let action := if quarantines then actQuarantine else if demotes then actDemote else action
  let ix := s.fld rPflctl 9 0
  let s := s.setReg (rPfl ix) s.nowWord
  let s := s.setReg (rPfl ix + 8) (BitVec.ofNat 64 (l * 2 ^ 58 + case_ * 2 ^ 53 + action * 2 ^ 50 + h.vc % 4 * 2 ^ 48
    + h.seq % 65536 * 2 ^ 32 + h.opc % 256 * 2 ^ 24 + min detail 0xFFFFFF))
  let s := s.setFld rPflctl 9 0 (ix + 1)
  let s := s.incFld rPflctl 63 32
  let s := s.setLink l { x with viol := viol, dviol := dviol }
  let s := s.setFld (rLerr l) 7 0 (min viol 255)
  let s := if s.fld rPflctl 63 32 % 64 = 0 then s.pfev 2 0 else s
  let s := if demotes then (s.setBit (rLst l) 59 true).pfev 2 0 else s
  if quarantines then ((s.setFld (rLst l) 63 62 lkQuarantined).dropOpen l).pfev 2 0 else s

/-- ADDR bits 23:0, the detail of the cases that have no other. -/
def Hdr.detail (h : Hdr) : Nat := h.addr % 2 ^ 24

/-- A violation answered with a NAK. -/
def State.violationNak (s : State) (l case_ code : Nat) (h : Hdr) (detail : Nat) (seq : Nat) : State :=
  (s.violation l case_ actNak h detail).nak l h code seq

end Sys2Proof.Machine
end

