-- ==== Sys2Proof/Machine/FabricRows.lean ====
section
/-! DEFINITION. What a fabric link receives (R339 to R350), training and sparing (R326 to R330), idle
ordered sets (R336), and the rows of the links, of landing and of write groups. -/

namespace Sys2Proof.Machine

/-! ### Acknowledgements and credits (R340, R341, R344, case 7) -/

def frameSeq (f : Frame) : Nat := (frameHdr f).seq

/-- Frames of a queue still unacknowledged after ACK; none where ACK lies beyond what was sent: in the half of all numbers
that follows the last one sent. DESIGN CHOICE (log 119). -/
def ackQueue (q : List Frame) (txNext ack : Nat) : Option (List Frame) :=
  let last := txNext + 65535
  let d := (last + 65536 - ack) % 65536
  if d ≥ 32768 then none else some (q.filter (fun f => decide ((last + 65536 - frameSeq f) % 65536 < d)))

/-- Take a header's ACK, ACK0 and returned credits; true when some of them go beyond what was sent. A header that
returns no credit while received frames of that channel wait shows a backlog (R343). DESIGN CHOICE (log 51). -/
def State.takeAcks (s : State) (l : Nat) (h : Hdr) : Bool × State :=
  let x := s.link l
  let apenaso := s.fld (rLst l) 61 60 == 1
  let q1 := ackQueue x.unacked x.txNext h.ack
  let q0 := if apenaso then some x.unacked0 else ackQueue x.unacked0 x.txNext0 h.ack0
  let u1 := q1.getD x.unacked
  let u0 := q0.getD x.unacked0
  let c1 := x.txCred1 + h.cred1
  let c2 := x.txCred2 + h.cred2
  let gone := x.unacked.length + x.unacked0.length - (u1.length + u0.length)
  let bad := q1.isNone || q0.isNone || decide (c1 > 7680) || decide (c2 > 7680)
  (bad, (s.setLink l { x with
    unacked := u1
    unacked0 := u0
    txCred1 := min 7680 c1
    txCred2 := min 7680 c2
    back1 := h.cred1 == 0 && x.rxQ.any (fun c => c.vc == 1)
    back2 := h.cred2 == 0 && x.rxQ.any (fun c => c.vc == 2)
    ackAt := if gone > 0 then s.now else x.ackAt
    resends := if gone > 0 then 0 else x.resends }).txFreed l gone)

/-- A HALT frame, which goes ahead of every other (R456). -/
def isHalt (f : Frame) : Bool := (frameHdr f).opc == opcHalt

/-- Send unacknowledged frames of the unscheduled stream again, with their own numbers, before anything new but HALT
(R341, R456). -/
def State.replay (s : State) (l : Nat) (fs : List Frame) : State :=
  s.modLink l (fun x => { x with
    outQ := x.outQ.filter isHalt ++ fs ++ x.outQ.filter (fun f => !(frameHdr f).numbered && !isHalt f) })

/-- Send unacknowledged VC0 frames once more, on VC1 marked LATE; they keep their cells (R341). -/
def State.resendLate (s : State) (l : Nat) (fs : List Frame) : State :=
  s.modLink l (fun x => { x with
    unacked0 := x.unacked0.filter (fun f => !fs.contains f)
    sendQ := fs.map (fun f => frameStamp f (fun h => { h with vc := 1, late := true })) ++ x.sendQ
    inCells := x.inCells + fs.length })

/-! ### Landing of received data -/

/-- What a received A12 or ZB8 payload is converted into (Table 12.10). -/
def rxTarget (wfmt code : Nat) : Fmt :=
  if code = 1 then .fp32 else if code = 2 ∧ wfmt = 11 then .fp16 else .bf16

/-- Address, bytes and mask of a payload after conversion (R346, R347). -/
def State.rxPayload (s : State) (l : Nat) (h : Hdr) (f : Frame) : Payload :=
  let t := rxTarget h.wfmt (s.fld (rLctl l) 57 54)
  let rd := fun (bs : List Byte) (i : Nat) => bs.getD i 0
  let n := f.payload.length
  if h.wfmt = 11 then
    let vs := (List.range (n / 2)).map (fun i => elemVal .a12 (rd f.payload) i)
    (h.addr * t.bits / 16, vs.flatMap (fun v => leBytes (t.bits / 8) (encode t v)),
     if f.mask.isEmpty then [] else (List.range (n / 2)).flatMap (fun i =>
      List.replicate (t.bits / 8) (if f.mask.getD (2 * i) 0xFF = 0 then 0 else 0xFF)))
  else if h.wfmt = 12 then
    let vs := (chunks 256 (n / 256 + 1) f.payload).flatMap (fun g =>
      (List.range 240).map (fun e => zbVal (rd g (240 + e / 16)).toNat (rd g e).toNat))
    (h.addr * t.bits * 240 / 2048, (vs.flatMap (fun v => leBytes (t.bits / 8) (encode t v))).take (n * t.bits * 240 / 2048), [])
  else (h.addr, f.payload, f.mask)

/-- Physical places of a received run under the target partition, or the NAK code that answers it
(R333, cases 12 and 13). -/
def State.rxPlaces (s : State) (l : Nat) (h : Hdr) (a n : Nat) : Except Nat (List (Space × Nat)) :=
  let t := s.tmpl h.tpart
  if !s.validPart h.tpart || !t.hasLink l then .error nakXlate
  else if t.full && !t.inRegion h.space a (a + n) then .error nakXlate
  else
    let ls := (List.range n).map (fun i => s.xl h.tpart h.space 0 (a + i))
    if ls.any (·.isNone) then .error nakXlate
    else
      let ls := ls.filterMap id
      if ls.all s.lineOk then .ok ls else .error nakChmode

/-- The answer to a violation by a NAK, unless an earlier row has answered the frame (R350). -/
def State.answerNak (s : State) (done : Bool) (l case_ code : Nat) (h : Hdr) (detail : Nat) : State :=
  if done then s else s.violationNak l case_ code h detail h.seq

/-- The answer to a violation without a NAK, unless an earlier row has answered the frame. -/
def State.answer (s : State) (done : Bool) (l case_ action : Nat) (h : Hdr) (detail : Nat) : State :=
  if done then s else s.violation l case_ action h detail

/-- Cases 12 and 13. -/
def State.rxRefuse (s : State) (done : Bool) (l : Nat) (h : Hdr) (code : Nat) : State :=
  s.answerNak done l (if code = nakXlate then 12 else 13) code h h.detail

/-- Bytes as writes of their places, each of the bits that its mask has; where no mask stands, whole. -/
def putsOn (ls : List (Space × Nat)) (bs ms : List Byte) : List PWrite :=
  ((List.zip (List.zip ls bs) (List.range bs.length)).map (fun q =>
    (⟨q.1.1.1, q.1.1.2, ms.getD q.2 0xFF, q.1.2⟩ : PWrite))).filter (fun w => w.mask != 0)

/-- Bytes landed in a receive window; its flag is set once BYTES have (R53), but never while the link is not up (R327). -/
def State.landBytes (s : State) (l : Nat) (w : WinAt) (started : Bool) (n : Nat) : State :=
  if started then
    let s := s.modWin w.p w.key w.x (fun r => { r with bytes := r.bytes + n })
    if w.run.bytes < w.e.bytes ∧ w.e.bytes ≤ w.run.bytes + n ∧ s.linkUp l then s.setFlag w.e.fdie w.e.flag true 32 else s
  else
    s.modLink l (fun x =>
      let old := (x.early.lookup w.opening).getD 0
      { x with early := (x.early.filter (fun e => e.1 != w.opening)) ++ [(w.opening, old + n)] })

/-- The receive window a frame matches, and whether its slot has started (R339). -/
def State.rxWindow (s : State) (l wopen : Nat) : Option (WinAt × Bool) :=
  match (s.winsOn l true).find? (fun w => w.opening % 2 ^ 64 == wopen) with
  | some w => some (w, true)
  | none =>
    match (s.winsAhead l true).find? (fun w => w.opening % 2 ^ 64 == wopen) with
    | some w => some ({ w with run := { bytes := ((s.link l).early.lookup w.opening).getD 0 } }, false)
    | none => none

/-- Bytes of a window that have arrived and wait to land. -/
def Link.waiting (x : Link) (wopen : Nat) : Nat :=
  (x.rxQ.filter (fun c => c.opening == some wopen)).foldl (fun a c => a + c.bytes) 0

/-- The receive window that unscheduled data of a window counts in (R62, R351): VC1 frames that are not LATE name no
opening, so it is the earliest window of the target partition on the link that has opened and lacks bytes.
DESIGN CHOICE (log 54). -/
def State.rxOpenWindow (s : State) (l p : Nat) : Option WinAt :=
  pickBy (fun a b => decide (a.opening < b.opening)) ((s.winsOn l true).filter (fun w =>
    w.p == p && decide (w.opening ≤ s.now)
      && decide (w.run.bytes + (s.link l).waiting (w.opening % 2 ^ 64) < w.e.bytes)))

/-- Received data lands, of channels too that have begun to leave memory mode since it was accepted (R226); a WRITE counts
in its window, and in its group, in which it may be the last frame of an RWRITE: no header field says so.
DESIGN CHOICE (log 52). -/
def State.landCell (s : State) (l : Nat) (c : RxCell) : State :=
  let s := (s.writeBytes c.writes).countLines none (placesOf c.writes)
  let (last, s) := s.choose
  let s := match c.group with
    | some g => if last then s.countGroup g else s
    | none => s
  let s := match c.opening.bind (s.rxWindow l) with
    | some (w, started) => s.landBytes l w started c.bytes
    | none => s
  s.rxFreed l c.vc

/-- Received frames land in their order, as far as no channel under refresh holds them (R239). -/
def State.rxDrainN (s : State) (l : Nat) : Nat → State
  | 0 => s
  | n + 1 =>
    match (s.link l).rxQ with
    | [] => s
    | c :: t =>
      if s.calm (placesOf c.writes) then ((s.modLink l (fun x => { x with rxQ := t })).landCell l c).rxDrainN l n else s

def State.rxDrain (s : State) (l : Nat) : State := s.rxDrainN l (s.link l).rxQ.length

/-- A WRITE whose data may land enters its queue. With VC0's 32 cells taken, a VC0 frame is lost (Table 12.9).
DESIGN CHOICE (log 51). -/
def State.rxLand (s : State) (done : Bool) (l : Nat) (h : Hdr) (f : Frame) (opening : Option Nat) : State :=
  let (a, bs, ms) := s.rxPayload l h f
  match s.rxPlaces l h a bs.length with
  | .error code => (s.rxRefuse done l h code).rxFreed l h.vc
  | .ok ls =>
    if h.vc = 0 ∧ ((s.link l).rxQ.filter (fun c => c.vc == 0)).length ≥ 32 then s
    else
      let c : RxCell := { vc := h.vc, writes := putsOn ls bs ms, group := some (groupKey (l + 1) h.cluster h.group)
                          opening := opening, bytes := f.payload.length }
      (s.modLink l (fun x => { x with rxQ := x.rxQ ++ [c] })).rxDrain l

/-- Late data (R66). -/
def State.rxLate (s : State) (done : Bool) (l : Nat) (h : Hdr) (f : Frame) (w : Option (WinAt × Bool)) : State :=
  match w with
  | some (w, _) =>
    if w.e.lateAcc then s.rxLand done l h f (some h.wopen) else (s.incFld (rTtLate h.tpart) 31 0).rxFreed l h.vc
  | none => (s.incFld (rTtLate h.tpart) 31 0).rxFreed l h.vc

/-- A WRITE in sequence: its window (cases 8 to 11), then its data. -/
def State.rxWrite (s : State) (done : Bool) (l : Nat) (h : Hdr) (f : Frame) : State :=
  let w := s.rxWindow l h.wopen
  if h.late then s.rxLate done l h f w
  else if h.vc = 0 then
    match w with
    | none => s.answerNak done l 10 nakWindow h h.detail
    | some (w, started) =>
      let g := s.guard l
      let n := w.run.bytes + (s.link l).waiting h.wopen + f.payload.length
      if s.now + g < w.opening then s.answerNak done l 8 nakWindow h (w.opening - s.now)
      else if s.now > w.close + g then
        (s.answer done l 9 actDiscard h (s.now - w.close)).rxLate true l h f (some (w, started))
      else if n > w.e.bytes then s.answer done l 11 actDiscard h n
      else s.rxLand done l h f (some h.wopen)
  else
    s.rxLand done l h f (if s.unscheduled l || (s.link l).pFallback then
      (s.rxOpenWindow l h.tpart).map (fun w => w.opening % 2 ^ 64) else none)

/-- A WGANN in sequence (case 15). The RFINAL of case 16, held before its WGANN, lets it in. DESIGN CHOICE
(log 55). -/
def State.rxWgann (s : State) (done : Bool) (l : Nat) (h : Hdr) : State :=
  let k := groupKey (l + 1) h.cluster h.group
  let g := s.group k
  if g.held.isSome && g.announced.isSome then s.answerNak done l 15 nakWgdup h h.detail
  else s.setGroup k { g with announced := some (h.arg % 65536) }

/-- An RFINAL in sequence (cases 12 to 14 and 16). A frame is the last of its block by a free choice: no header field
says so; a further frame of a held block joins it. The block of case 14 is written as it can land; the hold goes on
without it for the group's count and its report. DESIGN CHOICE (log 52, log 55). -/
def State.rxRfinal (s : State) (done : Bool) (l : Nat) (h : Hdr) (f : Frame) : State :=
  let (a, bs, ms) := s.rxPayload l h f
  match s.rxPlaces l h a bs.length with
  | .error code => s.rxRefuse done l h code
  | .ok ls =>
    let k := groupKey (l + 1) h.cluster h.group
    let die := h.arg / 256 % 2
    let fl := h.arg % 256
    let ok := (s.tmpl h.tpart).hasFlag die fl
    let cell : RxCell := { vc := 3, writes := putsOn ls bs ms, group := none, opening := none, bytes := 0 }
    let s := if ok then s
      else ((s.modLink l (fun x => { x with rxQ := x.rxQ ++ [cell] })).rxDrain l).answerNak done l 14 nakFlag h h.detail
    let done := done || !ok
    let ws := if ok then putsOn ls bs ms else []
    let (last, s) := s.choose
    let g := s.group k
    match g.held with
    | some q => s.setGroup k { g with held := some { q with writes := q.writes ++ ws, whole := q.whole || last } }
    | none =>
      let met := match g.announced with | some n => decide (g.count ≥ n) | none => false
      let s := s.setGroup k { g with
        held := some { writes := ws, die := die, flag := fl, granted := ok, part := h.tpart, slot := none
                       since := s.now, seq := h.seq, whole := last, timed := !done && !met } }
      if met then s else s.answer done l 16 actHold h g.count

/-- A REL: the report of R283 for a group of a cluster of this module (case 19). -/
def State.rxRel (s : State) (done : Bool) (l : Nat) (h : Hdr) : State :=
  let c := h.arg % 32
  let g := h.arg / 32 % 16
  if (s.cluster c).openGroups.contains g then
    s.modCluster c (fun x => { x with openGroups := x.openGroups.filter (· != g) })
  else s.answer done l 19 actIgnore h h.detail

/-- NAK GAP: resend the unscheduled stream from a sequence; a missing VC0 frame goes once on VC1, LATE, but never to an
Apenaso partner (R341, R348). The NAK does not say which stream it means, nor how many VC0 frames after the named one
are missing. DESIGN CHOICE (log 53). -/
def State.rxGap (s : State) (l seq : Nat) : State :=
  let x := s.link l
  let from_ := fun (q : List Frame) => q.filter (fun f => decide ((frameSeq f + 65536 - seq) % 65536 < 32768))
  let is1 := x.unacked.any (fun f => frameSeq f == seq)
  let is0 := x.unacked0.any (fun f => frameSeq f == seq)
  let (b, s) := s.choose
  if is1 && (!is0 || b) then s.replay l (from_ x.unacked)
  else if is0 && s.fld (rLst l) 61 60 != 1 then
    let n := (Config.freeWord s.free 0).toNat
    (s.withFree (s.free + 1)).resendLate l ((from_ x.unacked0).take (n + 1))
  else s

/-- A NAK in sequence (R341, R350, case 17). -/
def State.rxNak (s : State) (done : Bool) (l : Nat) (h : Hdr) : State :=
  let code := h.arg % 256
  let seq := h.arg / 65536 % 65536
  let x := s.link l
  let sent := fun (n : Nat) => decide ((n + 131071 - seq) % 65536 < 32768)
  if code = 0 ∨ code > 10 ∨ !(sent x.txNext || sent x.txNext0) then s.answer done l 17 actIgnore h h.detail
  else if code = nakGap then s.rxGap l seq
  else if code = nakXlate ∨ code = nakChmode ∨ code = nakFlag ∨ code = nakWgtmo then
    match s.partOf h.cluster with
    | some p => s.post p 4 (l * 2 ^ 50 + code * 2 ^ 42 + h.cluster * 2 ^ 37 + h.group * 2 ^ 33 + seq * 65536) 0 0
    | none => s
  else s

/-! ### Reception (R350) -/

def knownOpc (o : Nat) : Bool := [1, 2, 3, 4, 5, 6, 8].contains o

/-- Header faults of case 3. -/
def badHeader (h : Hdr) (f : Frame) : Bool :=
  decide (h.len > 64) || decide (h.space > 1) || h.res0 != 0 || h.res2 != 0 || f.payload.length != h.len * 64

/-- Place of a SEQ against the one expected: 0 the expected one, 1 already received, 2 a gap, which the half of all
numbers after the expected one shows. DESIGN CHOICE (log 119). -/
def seqPlace (seq expected : Nat) : Nat :=
  let d := (seq + 65536 - expected) % 65536
  if d = 0 then 0 else if d < 32768 then 2 else 1

/-- A numbered frame is taken in sequence: the number advances, and it uses its credit for a cell (R340, R344). -/
def State.rxAdvance (s : State) (l : Nat) (h : Hdr) : State :=
  s.modLink l (fun x =>
    if h.vc = 0 then { x with rxNext0 := (h.seq + 1) % 65536, seen0 := h.seq }
    else if h.vc = 1 then { x with rxNext := (h.seq + 1) % 65536, rxCred1 := x.rxCred1 - 1 }
    else { x with rxNext := (h.seq + 1) % 65536, rxCred2 := x.rxCred2 - 1 })

/-- The frame's own effect, once cases 1 to 7 are past; done tells that case 7 has answered it. The cell of a frame
other than a WRITE frees at once, an RFINAL's when the hold of R282 accepts it. -/
def State.rxBody (s : State) (done : Bool) (l : Nat) (h : Hdr) (f : Frame) : State :=
  if h.opc = opcWrite then s.rxWrite done l h f
  else
    let s := if h.numbered then s.rxFreed l h.vc else s
    if h.opc = opcWgann then s.rxWgann done l h
    else if h.opc = opcRfinal then s.rxRfinal done l h f
    else if h.opc = opcRel then s.rxRel done l h
    else if h.opc = opcNak then s.rxNak done l h
    else s

/-- A frame of unknown OPC or malformed header that is in sequence takes its number and its credit, so that the stream
goes on behind it; one that has no number takes nothing. DESIGN CHOICE (log 120). -/
def State.rxSkip (s : State) (l : Nat) (h : Hdr) : State :=
  let x := s.link l
  if h.numbered && seqPlace h.seq (if h.vc = 0 then x.rxNext0 else x.rxNext) = 0 then (s.rxAdvance l h).rxFreed l h.vc else s

/-- Cases 1 to 7 in order, then the frame itself. After a gap the scheduled stream goes on behind the frame that showed
it (log 53). -/
def State.rxChecked (s : State) (l : Nat) (h : Hdr) (f : Frame) : State :=
  let x := s.link l
  if !frameCrcOk f ∨ h.vc = 3 then s.violation l 1 actDiscard h h.detail
  else if !knownOpc h.opc then (s.violationNak l 2 nakOpcode h h.detail h.seq).rxSkip l h
  else if badHeader h f then (s.violationNak l 3 nakHeader h h.detail h.seq).rxSkip l h
  else
    let expected := if h.vc = 0 then x.rxNext0 else x.rxNext
    let place := if h.numbered then seqPlace h.seq expected else 0
    if place = 1 then s.violation l 4 actDiscard h h.detail
    else if place = 2 then
      let s := s.violationNak l 5 nakGap h h.detail expected
      if h.vc = 0 then s.modLink l (fun x => { x with rxNext0 := (h.seq + 1) % 65536 }) else s
    else if h.numbered ∧ ((h.vc = 1 ∧ x.rxCred1 = 0) ∨ (h.vc = 2 ∧ x.rxCred2 = 0)) then
      s.violationNak l 6 nakCredit h h.detail h.seq
    else
      let s := if h.numbered then s.rxAdvance l h else s
      let (bad, s) := s.takeAcks l h
      let s := if bad then s.violation l 7 actIgnore h (h.cred1 * 256 + h.cred2) else s
      s.rxBody bad l h f

/-- What goes back at once: what may be sent, or, for a numbered frame, a CREDIT frame that carries the
acknowledgement. -/
def State.rxAnswer (s : State) (l : Nat) (numbered : Bool) : State :=
  let n := (s.link l).wire.length
  let s := s.pump l
  if numbered && (s.link l).wire.length == n && !(s.link l).outQ.any (fun f => (frameHdr f).opc == opcCredit) then
    (s.modLink l (fun x => { x with outQ := x.outQ ++ [({ opc := opcCredit, vc := 2 } : Hdr).frame []] })).pump l
  else s

/-- The code words that a link's FEC has mended or given up on since are counted; how many there were is a free number
(Table 12.4). -/
def State.fecCount (s : State) (l : Nat) : State :=
  let n := s.free
  ((s.withFree (n + 1)).incFld (rLerr l) 63 40 (Config.freeWord n 0).toNat).incFld (rLerr l) 39 24 (Config.freeWord n 1).toNat

/-- A frame received on a link by the row of its opcode. One that is uncorrectable in its hamper cell is discarded, and
the gap mechanism recovers it (Table 15.1). A quarantined link discards it unlogged (R352). -/
def State.rxFrame (s : State) (l : Nat) (mine : Nat → Bool) (f : Frame) : State :=
  let h := frameHdr f
  let (lost, s) := if mine h.opc && s.linkUp l && h.numbered then s.cellLost l false else (false, s)
  if !mine h.opc ∨ !s.linkUp l ∨ lost then s
  else (((s.fecCount l).rxDrain l).rxChecked l h f).rxAnswer l h.numbered

/-- Received frames of every link land as they may. -/
def State.rxDrainAll (s : State) : State :=
  ((s.links.filter (fun e => !e.2.rxQ.isEmpty)).map (·.1)).foldl State.rxDrain s

/-! ### Training and lanes (R326 to R330) -/

/-- Training of a link begins at step 1: it is not up, and open windows' data is discarded (R327). -/
def State.trainStart (s : State) (l : Nat) : State :=
  let s := s.setFld (rLst l) 63 62 lkTraining
  let s := s.setBit (rLst l) 55 false
  (s.modLink l (fun x => { x with tryGen := 3, resends := 0, badSets := 0, sparing := none })).dropOpen l

/-- Highest generation FAB_LCTL.MAXGEN allows; 0 acts as 3. -/
def State.maxGen (s : State) (l : Nat) : Nat := let v := s.fld (rLctl l) 59 58; if v = 0 then 3 else v

/-- RETRAIN written 1: the link trains; with ENABLE 0 its waiting unscheduled frames are discarded, and a quarantine
ends all the same (R326, R327, R352). -/
def State.retrain (s : State) (l : Nat) : State :=
  if s.fbit (rLctl l) 63 then s.trainStart l
  else
    let x := s.link l
    let s := (x.sendQ.drop x.inCells).foldl (fun (s : State) f => s.unstage f) s
    let s := s.modLink l (fun x => { x with sendQ := [], outQ := [], inCells := 0, unacked := [], unacked0 := [] })
    let s := s.txFreed l x.held
    if s.lkState l = lkQuarantined then s.setFld (rLst l) 63 62 lkDown else s

/-- ENABLE goes from 0 to 1; a quarantine ends by RETRAIN alone (R352). -/
def State.linkEnable (s : State) (l : Nat) : State :=
  if s.fbit (rLctl l) 63 then s
  else
    let s := s.setBit (rLctl l) 63 true
    if s.lkState l = lkQuarantined then s else s.trainStart l

/-- The link goes down (R327). -/
def State.linkDown (s : State) (l : Nat) : State :=
  let s := (s.setFld (rLst l) 63 62 lkDown).setBit (rLst l) 55 false
  (s.modLink l (fun x => { x with downAt := s.now, tryGen := 3, sparing := none })).dropOpen l

/-- ENABLE goes from 1 to 0: the link no longer runs (Table 12.4); quarantine ends only by RETRAIN (R352). -/
def State.linkDisable (s : State) (l : Nat) : State :=
  let s := s.setBit (rLctl l) 63 false
  if s.lkState l = lkQuarantined then s else s.linkDown l

/-- Unacknowledged frames of the unscheduled stream go out again, first, in their cells, on a link that has trained
anew. -/
def State.requeue (s : State) (l : Nat) : State :=
  let n := (s.link l).unacked0.length
  (s.modLink l (fun x => { x with
    sendQ := x.unacked ++ x.sendQ, inCells := x.unacked.length + x.inCells, outQ := x.outQ.filter isHalt
    unacked := [], unacked0 := [] })).txFreed l n

/-- The link comes up at a generation (step 4 of Table 12.2). spare: whether sparing can serve it, where training
told. -/
def State.linkComesUp (s : State) (l gen rtt : Nat) (spare : Option Bool) : State :=
  let s := s.requeue l
  let s := s.setFld (rLst l) 63 62 lkUp
  let s := s.setFld (rLst l) 61 60 gen
  let s := s.setFld (rLst l) 31 0 ((rtt + 1) / 2)
  let s := s.setFld (rLerr l) 7 0 0
  (s.modLink l (fun x => { x with
    rxNext := 0, rxNext0 := 0, seen0 := 65535, txNext := 0, txNext0 := 0
    txCred1 := 16, txCred2 := 16, rxCred1 := 16, rxCred2 := 16, ret1 := 0, ret2 := 0, extra1 := 0, extra2 := 0
    back1 := false, back2 := false
    resends := 0, viol := 0, dviol := [], qStart := s.now, lanesDown := [], spareWired := spare, tryGen := 3 })).pump l

/-- LINK_TRAINED: a training attempt ends (R326). -/
def State.linkTrained (s : State) (l : Nat) (t : Training) : State :=
  if s.lkState l ≠ lkTraining then s
  else
    let gen := min (s.maxGen l) (s.link l).tryGen
    if t.up then s.linkComesUp l (max 1 (min gen t.gen.toNat)) t.roundTrip (some t.spareWired)
    else if gen ≤ 1 then s.linkDown l
    else s.modLink l (fun x => { x with tryGen := gen - 1 })

/-- TRAIN_RETRY: a down link tries again every 100 ms. -/
def State.trainRetry (s : State) (l : Nat) : State :=
  if s.fbit (rLctl l) 63 && s.lkState l == lkDown
      && decide ((s.link l).downAt + 100000000 ≤ s.now) then s.trainStart l else s

/-- Links of the sparing group of link l (R328). -/
def spareGroup (l : Nat) : List Nat := (List.range 4).map (4 * (l / 4) + ·)

/-- Whether the group's spare lane can take a lane of link l now, where k says so for a link whose first training has
not yet told what cable and partner allow (R328, R329). -/
def State.spareFree (s : State) (l : Nat) (k : Nat → Bool) : Bool :=
  (spareGroup l).all (fun j =>
    s.lkState j != lkDown && s.fbit (rLctl j) 60 && !s.fbit (rLst j) 58 && (s.link j).sparing.isNone
      && (match (s.link j).spareWired with
          | some b => b && s.fld (rLst j) 61 60 == 3
          | none => s.maxGen j == 3 && (!s.linkUp j || s.fld (rLst j) 61 60 == 3) && k j))

/-- Retirement entry of a lane (Table 15.5). -/
def laneEntry (l lane : Nat) : RetWord :=
  BitVec.ofNat 64 (3 * 2 ^ 60 + l / 8 * 2 ^ 57 + l % 8 * 2 ^ 53 + lane / 2 * 2 ^ 56 + lane % 2 * 2 ^ 48)

/-- LANE_FAIL: within 50 µs, in which the link sends no frame, the spare takes the lane over; or the link and the
module fail (R329, R330). What cable and partner allow before the first training has told is a free choice. DESIGN
CHOICE (log 99). -/
def State.laneFail (s : State) (l lane : Nat) : State :=
  if s.lkState l = lkDown then s
  else
    let n := s.free
    let s := s.withFree (n + 1)
    if s.spareFree l (fun j => (Config.freeWord n (j % 4)).getLsbD 0) then
      let d := (Config.freeWord n 4).toNat % 50001
      s.modLink l (fun x => { x with sparing := some (lane, s.now + d) })
    else
      let s := if s.lkState l = lkQuarantined then s else s.linkDown l
      (s.modLink l (fun x => { x with lanesDown := linsert lane x.lanesDown })).moduleFail

/-- The failed lane's traffic is on the spare: SPARED, SPLANE, the retirement entry, and the link sends again. -/
def State.spareDone (s : State) (l : Nat) : State :=
  match (s.link l).sparing with
  | none => s
  | some (lane, t) =>
    if s.now < t then s
    else
      let s := s.modLink l (fun x => { x with sparing := none })
      let s := s.setBit (rLst l) 58 true
      let s := s.setFld (rLst l) 57 56 lane
      let w := laneEntry l lane
      (((s.withInteg { s.integ with retired := s.integ.retired ++ [w] }).recordRetirement w 0).pfev 4 0).pump l

/-- Lanes whose steering ends now, on every link. -/
def State.spareDoneAll (s : State) : State :=
  ((s.links.filter (fun e => e.2.sparing.isSome)).map (·.1)).foldl State.spareDone s

/-- LANES_LOST: a partner or cable fault; the link trains again (R326, R330). -/
def State.lanesLost (s : State) (l : Nat) : State := if s.linkUp l then s.trainStart l else s

/-! ### The mirror port (R353, R355) -/

/-- MIR trains with a partner whose pair identity word is this module's own, in one or two groups of four lanes. -/
def State.mirTrained (s : State) (t : Training) : State :=
  if s.power.input && s.fld rMirStat 60 59 == 0 && t.up && s.keepWord 0 != 0 && t.pair == s.keepWord 0 then
    s.setFld rMirStat 60 59 t.lanes.val
  else s

/-- A group of MIR's lanes fails: of eight lanes four are left, of four none. -/
def State.mirGroupFail (s : State) : State := s.setFld rMirStat 60 59 (s.fld rMirStat 60 59 - 1)

/-! ### Timers of a link -/

/-- ACK_TIMEOUT: 10 µs without progress, on either stream (R341). VC0 frames are never sent again to an Apenaso partner
(R348). -/
def State.ackTimeout (s : State) (l : Nat) : State :=
  let x := s.link l
  let old := if s.fld (rLst l) 61 60 = 1 then [] else x.unacked0
  if !s.linkUp l || (x.unacked.isEmpty && old.isEmpty) || decide (s.now < x.ackAt + 10000) then s
  else if x.resends ≥ 16 then s.trainStart l
  else (((s.setLink l { x with resends := x.resends + 1, ackAt := s.now }).replay l x.unacked).resendLate l old).pump l

/-- VC0_RELEASE: on a link trained to Apenaso, 10 µs after their window closes (R348). -/
def State.vc0Release (s : State) (l : Nat) : State :=
  if s.fld (rLst l) 61 60 ≠ 1 then s
  else
    let ws := s.winsOn l false
    let keep := fun (f : Frame) => ws.any (fun w => f.w3.toNat == w.opening % 2 ^ 64 && decide (s.now < w.close + 10000))
    let x := s.link l
    ((s.setLink l { x with unacked0 := x.unacked0.filter keep }).txFreed l (x.unacked0.length - (x.unacked0.filter keep).length)).pump l

/-- QWIN_EXPIRY: intervals run back to back from the instant the link comes up (R352). -/
def State.qwinExpiry (s : State) (l : Nat) : State :=
  let d := s.fld rQthr 47 32 * 1000
  let x := s.link l
  if !s.linkUp l || decide (s.now < x.qStart + d) then s
  else (s.setLink l { x with viol := 0, qStart := x.qStart + d }).setFld (rLerr l) 7 0 0

/-- WGTMO: a held RFINAL that case 16 answered is discarded after 1 ms (R350). -/
def State.wgtmo (s : State) (l c g : Nat) : State :=
  let k := groupKey (l + 1) c g
  match (s.group k).held with
  | some q =>
    if !q.timed || decide (s.now < q.since + 1000000) then s
    else
      let s := s.setGroup k {}
      (s.nak l { tpart := q.part, cluster := c, group := g } nakWgtmo q.seq).pump l
  | none => s

/-! ### Idle ordered sets (R336, case 18) -/

def State.idleSet (s : State) (l time hold hops : Nat) (lock fallback : Bool) : State :=
  if !s.linkUp l then s
  else
    let t := time + s.owd l
    let e := ((t : Int) - (s.now : Int)).natAbs
    if hops > 3 ∨ (lock ∧ s.locked ∧ e > 1000 + s.leadNs) then
      let s := s.violation l 18 actIgnore {} e
      let n := (s.link l).badSets + 1
      let s := s.modLink l (fun x => { x with badSets := n })
      if n ≥ 3 then s.loseLink l else s
    else
      let s := s.modLink l (fun x => { x with pHold := hold, pHops := hops, pFallback := fallback, pAt := s.now, badSets := 0 })
      (s.setBit (rLst l) 55 lock).takeTime l time lock

/-- IDLE_SET_SEND. -/
def State.idleSend (s : State) (l : Nat) : State :=
  if s.lkState l ≠ lkUp ∧ s.lkState l ≠ lkQuarantined then s
  else s.modLink l (fun x => { x with
    idles := x.idles ++ [(s.now, min s.holdNs (2 ^ 24 - 1), s.hops, s.locked, s.fbit rTtStatus stFallback)] })

/-! ### Landing and release within the module (R273, R282, R345) -/

/-- WRITE_LANDED; a channel under refresh makes it wait (R239). -/
def State.writeLanded (s : State) (k : Nat) : State :=
  match s.landing[k]? with
  | none => s
  | some w =>
    if !s.calm (placesOf w.writes) then s
    else
    let s := (s.withLanding (dropAt s.landing k)).stepWrite w.part w.slot w.writes
    match w.group with
    | some g => s.countGroup g
    | none => s

/-- RFINAL_RELEASE; a release of a partner's group is reported with REL. -/
def State.rfinalRelease (s : State) (src : Option Nat) (c g : Nat) : State :=
  let k := groupKey (match src with | some l => l + 1 | none => 0) c g
  if !(s.group k).ready || !s.calm (s.group k).places then s
  else
    let s := s.releaseFinal k src c g
    match src with
    | some l => (s.queueFrame l { opc := opcRel, cluster := c, group := g, arg := g * 32 + c }).pump l
    | none => s

/-! ### The rows -/

/-- SEND_STAGING_ACCEPT. -/
def execSendStagingAccept (c : ClusterId) (s : State) : Host.Outcome State Fault Refusal := .next (s.stagingAccept c.val)

/-- SEND_WINDOW_OPEN. -/
def execSendWindowOpen (p : PartId) (n : SlotId) (x : WinId) (s : State) : Host.Outcome State Fault Refusal :=
  .next (s.windowOpen p.val n.val x.val)

/-- WINDOW_CLOSE. -/
def execWindowClose (p : PartId) (n : SlotId) (x : WinId) (s : State) : Host.Outcome State Fault Refusal :=
  .next (s.windowClose p.val n.val x.val)

/-- WRITE_LANDED. -/
def execWriteLanded (k : Nat) (s : State) : Host.Outcome State Fault Refusal := .next (s.writeLanded k)

/-- RFINAL_RELEASE. -/
def execRfinalRelease (src : Option LinkId) (c : ClusterId) (g : GroupId) (s : State) :
    Host.Outcome State Fault Refusal :=
  .next (s.rfinalRelease (src.map (·.val)) c.val g.val)

/-- IDLE_ORDERED_SET. -/
def execIdleOrderedSet (l : LinkId) (time : Nat) (hold : BitVec 24) (hops : BitVec 3) (locked fallback : Bool)
    (s : State) : Host.Outcome State Fault Refusal :=
  .next (s.idleSet l.val time hold.toNat hops.toNat locked fallback)

/-- IDLE_SET_SEND. -/
def execIdleSetSend (l : LinkId) (s : State) : Host.Outcome State Fault Refusal := .next (s.idleSend l.val)

/-- LINK_ENABLE. -/
def execLinkEnable (l : LinkId) (s : State) : Host.Outcome State Fault Refusal := .next (s.linkEnable l.val)

/-- RETRAIN. -/
def execRetrain (l : LinkId) (s : State) : Host.Outcome State Fault Refusal := .next (s.retrain l.val)

/-- RESTORE: demotion ends at the next frame boundary (R351). -/
def execRestore (l : LinkId) (s : State) : Host.Outcome State Fault Refusal :=
  .next (s.modLink l.val (fun x => { x with restoreAsked := true }))

/-- LINK_TRAINED, of a fabric link or of MIR. -/
def execLinkTrained (l : Option LinkId) (t : Training) (s : State) : Host.Outcome State Fault Refusal :=
  .next (match l with
    | some l => s.linkTrained l.val t
    | none => s.mirTrained t)

/-- TRAIN_RETRY. -/
def execTrainRetry (l : LinkId) (s : State) : Host.Outcome State Fault Refusal := .next (s.trainRetry l.val)

/-- LANES_LOST. -/
def execLanesLost (l : Option LinkId) (s : State) : Host.Outcome State Fault Refusal :=
  .next (match l with
    | some l => s.lanesLost l.val
    | none => s.setFld rMirStat 60 59 0)

/-- LANE_FAIL. -/
def execLaneFail (l : Option LinkId) (lane : Fin 4) (s : State) : Host.Outcome State Fault Refusal :=
  .next (match l with
    | some l => s.laneFail l.val lane.val
    | none => s.mirGroupFail)

/-- WRITE_FRAME. -/
def execWriteFrame (l : LinkId) (f : Frame) (s : State) : Host.Outcome State Fault Refusal :=
  .next (s.rxFrame l.val (· == opcWrite) f)

/-- WGANN_FRAME. -/
def execWgannFrame (l : LinkId) (f : Frame) (s : State) : Host.Outcome State Fault Refusal :=
  .next (s.rxFrame l.val (· == opcWgann) f)

/-- RFINAL_FRAME. -/
def execRfinalFrame (l : LinkId) (f : Frame) (s : State) : Host.Outcome State Fault Refusal :=
  .next (s.rxFrame l.val (· == opcRfinal) f)

/-- REL. -/
def execRel (l : LinkId) (f : Frame) (s : State) : Host.Outcome State Fault Refusal :=
  .next (s.rxFrame l.val (· == opcRel) f)

/-- NAK. -/
def execNak (l : LinkId) (f : Frame) (s : State) : Host.Outcome State Fault Refusal :=
  .next (s.rxFrame l.val (· == opcNak) f)

/-- CREDIT. -/
def execCredit (l : LinkId) (f : Frame) (s : State) : Host.Outcome State Fault Refusal :=
  .next (s.rxFrame l.val (· == opcCredit) f)

/-- UNKNOWN_OPCODE_FRAME. -/
def execUnknownOpcodeFrame (l : LinkId) (f : Frame) (s : State) : Host.Outcome State Fault Refusal :=
  .next (s.rxFrame l.val (fun o => !knownOpc o) f)

/-- ACK_TIMEOUT. -/
def execAckTimeout (l : LinkId) (s : State) : Host.Outcome State Fault Refusal := .next (s.ackTimeout l.val)

/-- VC0_RELEASE. -/
def execVc0Release (l : LinkId) (s : State) : Host.Outcome State Fault Refusal := .next (s.vc0Release l.val)

/-- WGTMO. -/
def execWgtmo (l : LinkId) (c : ClusterId) (g : GroupId) (s : State) : Host.Outcome State Fault Refusal :=
  .next (s.wgtmo l.val c.val g.val)

/-- QWIN_EXPIRY. -/
def execQwinExpiry (l : LinkId) (s : State) : Host.Outcome State Fault Refusal := .next (s.qwinExpiry l.val)

end Sys2Proof.Machine
end

