-- ==== Sys2Proof/Machine/Requests.lean ====
section
/-! DEFINITION. The request table of the serving control unit (Table 11.1), its rank order, the SCU's
regions in the case store (Table 11.5), cache pages, page tables, stash blocks and prefix entries
(R264, R309 to R316), and the tier as the module reads and writes it (R392, R393). -/

namespace Sys2Proof.Machine

/-! ### The tier -/

/-- Whether a tier port serves n bytes at a tier address (Table 14.9). -/
def State.tierUp (s : State) (a n : Nat) : Bool :=
  let port := a / 2 ^ 46
  let r := s.reg (rTier port)
  decide (port < 3) && bf r 61 60 == 2 && (bf r 63 62 == 1 || bf r 63 62 == 2)
    && decide (a % 2 ^ 46 + n ≤ min (2 ^ 46) (bf r 31 0 * 2 ^ 30))

/-- Count a failed tier access (Table 14.9). -/
def State.tierErr (s : State) (a : Nat) : State :=
  if a / 2 ^ 46 < 3 then s.incFld (rTier (a / 2 ^ 46)) 47 32 else s

/-- Count what failed of a run of tier addresses: once at each port. -/
def State.tierErrs (s : State) (as : List Nat) : State :=
  ((List.range 3).filter (fun n => as.any (fun a => a / 2 ^ 46 == n))).foldl (fun s n => s.tierErr (n * 2 ^ 46)) s

/-- Poison the lines or units of a run of locations (R393). -/
def State.poisonRun (s : State) (ls : List (Space × Nat)) : State :=
  (ls.map (fun l => (l.1, unitBase l.1 l.2))).eraseDups.foldl (fun s u => s.setErr u.1 u.2 { poison := true }) s

/-- Whether some of n tier bytes from a return poison. -/
def State.tierBad (s : State) (a n : Nat) : Bool := s.tierPoison.any (fun l => decide (a < 64 * l + 64)
    && decide (64 * l < a + n))

/-- Bytes of the tier go to places, each from its own address: one that no port serves, or that returns poison, is
delivered as a poisoned line (R392, R393). -/
def State.tierInEach (s : State) (qs : List (Nat × Space × Nat)) : State :=
  let bad := (qs.map (·.1 / 64)).eraseDups.filter (fun l => !s.tierUp (64 * l) 1 || s.tierPoison.contains l)
  let ok := qs.filter (fun q => !bad.contains (q.1 / 64))
  let lost := qs.filter (fun q => bad.contains (q.1 / 64))
  let s := s.writeBytes (ok.map (fun q => ⟨q.2.1, q.2.2, 0xFF, mget s.tierMem q.1⟩)) false
  (s.tierErrs (lost.map (·.1))).poisonRun (lost.map (·.2))

/-- Copy tier bytes to physical places; a failed read delivers poison. -/
def State.tierIn (s : State) (a : Nat) (ls : List (Space × Nat)) : State :=
  let s := s.countLines none ls
  if s.tierUp a ls.length && !s.tierBad a ls.length then
    s.writeBytes ((List.zip ls (List.range ls.length)).map (fun q => ⟨q.1.1, q.1.2, 0xFF,
        mget s.tierMem (a + q.2)⟩)) false
  else s.tierInEach ((List.zip (List.range ls.length) ls).map (fun q => (a + q.1, q.2)))

/-- Bytes go to the tier, each to its own address, where a port serves it (R392); a line written whole returns no poison
any more. -/
def State.tierPut (s : State) (a : Nat) (bs : List Byte) : State :=
  let clear := fun (s : State) => if s.tierPoison.isEmpty then s else
    s.withTierPoison (s.tierPoison.filter (fun l => !(decide (a ≤ 64 * l) && decide (64 * l + 64 ≤ a + bs.length)
        && s.tierUp (64 * l) 64)))
  if s.tierUp a bs.length then clear (s.withTierMem (mput s.tierMem a bs))
  else
    let qs := (List.range bs.length).map (fun i => (a + i, bs.getD i 0))
    let m := (qs.filter (fun q => s.tierUp q.1 1)).foldl (fun m q => mset m q.1 q.2) s.tierMem
    (clear (s.withTierMem m)).tierErrs ((qs.filter (fun q => !s.tierUp q.1 1)).map (·.1))

/-- Copy bytes of physical places to the tier. -/
def State.tierOut (s : State) (a : Nat) (ls : List (Space × Nat)) : State :=
  let (bs, _, s) := (s.countLines none ls).readBytes ls
  s.tierPut a bs

/-! ### Entries -/

def Req.state (r : Req) : Nat := bf r.w0 63 60
def Req.prio (r : Req) : Nat := bf r.w0 59 57
def Req.late (r : Req) : Bool := bit r.w0 55
def Req.tiered (r : Req) : Bool := bit r.w0 53
def Req.dlPol (r : Req) : Nat := bf r.w0 52 51
def Req.variant (r : Req) : Nat := bf r.w0 50 45
def Req.home (r : Req) : Nat := bf r.w0 44 38
def Req.reason (r : Req) : Nat := bf r.w0 37 35
def Req.hostp (r : Req) : Bool := bit r.w0 34
def Req.hashed (r : Req) : Bool := bit r.w0 33
def Req.tag (r : Req) : Nat := bf r.w0 31 0
def Req.seq (r : Req) : Nat := bf r.w1 63 32
def Req.pos (r : Req) : Nat := bf r.w1 31 0
def Req.plen (r : Req) : Nat := bf r.w2 63 32
def Req.gen (r : Req) : Nat := bf r.w2 31 0
def Req.maxNew (r : Req) : Nat := bf r.w3 63 32

def Req.set0 (r : Req) (hi lo v : Nat) : Req := { r with w0 := setBf r.w0 hi lo v }
def Req.setPos (r : Req) (v : Nat) : Req := { r with w1 := setBf r.w1 31 0 v }

/-- PAGES: cache pages held. -/
def Req.setPages (r : Req) (ps : List PageRef) : Req :=
  { r with pages := ps, w3 := setBf r.w3 31 0 (ps.filter (·.addr.isSome)).length }

/-- TIERED: whether some of the request's pages are in the tier. -/
def Req.setTiered (r : Req) : Req := r.set0 53 53 (boolNat (r.pages.any (·.tier.isSome)))

def rqQueued : Nat := 1
def rqRunning : Nat := 2
def rqPaused : Nat := 3
def rqPageWait : Nat := 4
def rqFinished : Nat := 5
def rqCancelled : Nat := 6

def reasonEnd : Nat := 1
def reasonMaxNew : Nat := 2
def reasonContext : Nat := 3
def reasonNologit : Nat := 4
def reasonBadreq : Nat := 5
def reasonCancel : Nat := 6

/-- Not FINISHED and not CANCELLED. -/
def Req.live (r : Req) : Bool := decide (1 ≤ r.state) && decide (r.state ≤ 4)

/-- Whether an index lies in the partition's range. -/
def Template.hasReq (t : Template) (i : Nat) : Bool := decide (t.rqBase ≤ i) && decide (i < t.rqBase + t.rqCount)

/-- a ranks before b: PRIO, then SEQ ("Composing a step"). -/
def Req.before (a b : Req) : Bool := decide (a.prio < b.prio) || (a.prio == b.prio && decide (a.seq < b.seq))

/-- Indices of a partition's entries that are not free, in rank order. -/
def State.ranked (s : State) (p : Nat) : List Nat :=
  ((sortBy (fun (a b : Nat × Req) => !b.2.before a.2)
    (s.reqs.filter (fun e => e.2.part == p && (s.tmpl p).hasReq e.1 && e.2.state != 0)))).map (·.1)

/-- RQSTATE record of an entry (Table 14.7). -/
def State.rqPost (s : State) (p i state reason tag : Nat) : State :=
  s.post p 6 (state * 2 ^ 52 + reason * 2 ^ 46 + i % 2 ^ 14 * 2 ^ 32) (BitVec.ofNat 64 tag) 0

/-- Change an entry's STATE; the record of R388 posts. -/
def State.rqMove (s : State) (p i state : Nat) : State :=
  let s := s.modReq i (fun r => r.set0 63 60 state)
  let r := s.req i
  if state = rqPaused ∨ state = rqPageWait ∨ state = rqCancelled ∨ state = rqFinished then
    s.rqPost p i state r.reason r.tag
  else s

/-- PAUSED, by the host or a deadline (HOSTP 1) or automatically. -/
def State.rqPause (s : State) (p i : Nat) (hostp : Bool) : State :=
  (s.modReq i (fun r => r.set0 34 34 (boolNat hostp))).rqMove p i rqPaused

def State.rqCancel (s : State) (p i : Nat) : State :=
  (s.modReq i (fun r => r.set0 37 35 reasonCancel)).rqMove p i rqCancelled

/-! ### Regions of Table 11.5 -/

/-- BASE field 33:6 of a region register, as an address. -/
def State.scuBase (s : State) (p off : Nat) : Nat := bf (s.reg (rScu p + off)) 33 6 * 64

/-- STRIDE of the token records and page tables, in bytes. -/
def State.scuStride (s : State) (p off : Nat) : Nat := s.fld (rScu p + off) 63 48 * 1024

/-- Positions a request's token record holds. -/
def State.capacity (s : State) (p : Nat) : Nat := s.scuStride p 0x30 / 4

def State.tokAddr (s : State) (p i t : Nat) : Nat := s.scuBase p 0x30 + i * s.scuStride p 0x30 + 4 * t

def State.pgtAddr (s : State) (p i : Nat) : Nat := s.scuBase p 0x38 + i * s.scuStride p 0x38

/-- Merge the bytes read at valid places with free bytes elsewhere. -/
def spread (free : Nat) : List (Option Nat) → List Byte → Nat → List Byte
  | [], _, _ => []
  | some _ :: t, b :: bs, k => b :: spread free t bs (k + 1)
  | _ :: t, bs, k => Config.freeByte free k :: spread free t bs (k + 1)

/-- Read partition case-store bytes; nothing fixes bytes outside the partition's slices. -/
def State.scuRead (s : State) (p a n : Nat) : List Byte × State :=
  let locs := (List.range n).map (fun i => (s.tmpl p).xlCase (a + i))
  let (bs, _, s') := s.readBytes (locs.filterMap (fun l => l.map (fun x => (Space.case, x))))
  if bs.length = n then (bs, s') else (spread s'.free locs bs 0, s'.withFree (s'.free + 1))

/-- Write partition case-store bytes; those outside the partition's slices are discarded. -/
def State.scuWrite (s : State) (p a : Nat) (bs : List Byte) : State :=
  s.writeBytes ((List.zip (List.range bs.length) bs).filterMap (fun q =>
    ((s.tmpl p).xlCase (a + q.1)).map (fun x => (⟨.case, x, 0xFF, q.2⟩ : PWrite)))) false

/-! ### Variants -/

def State.varW (s : State) (p v w : Nat) : W64 := s.reg (rVariant p v w)
def State.varLayers (s : State) (p v : Nat) : Nat := bf (s.varW p v 0) 55 48
def State.varWin (s : State) (p v : Nat) : Bool := bit (s.varW p v 0) 61
def State.resident (s : State) (p v : Nat) : Bool := bit (s.varW p v 0) 62
def State.vocab (s : State) (p v : Nat) : Nat := min (bf (s.varW p v 0) 19 0) 262144

/-- Bytes of a resident slot, and the partition stack address of slot k. -/
def State.slotBytes (s : State) (p : Nat) : Nat := s.fld (rScu p + 0x58) 47 32 * 65536
def State.vslotAddr (s : State) (p k : Nat) : Nat := s.fld (rScu p + 0x58) 31 0 * 2 ^ 21 + k * s.slotBytes p

/-- The variant may be requested and fits its resident slot. -/
def State.variantOk (s : State) (p v : Nat) : Bool :=
  bit (s.varW p v 0) 63 && decide (bf (s.varW p v 2) 63 40 * 2 ^ 20 ≤ s.slotBytes p)

/-- Pages of the ring of a layer with window w; 0 without one (R268). -/
def ringPages (w : Nat) : Nat := if w = 0 then 0 else ceilDiv (w - 1) 64 + 1

/-- Pages of a layer's ring, 0 for a layer without a window. -/
def State.ringOf (s : State) (p v l : Nat) : Nat :=
  if s.varWin p v then ringPages (Config.layerWindow p v l (s.varW p v 0)) else 0

/-! ### Cache pages (R264, R309, R410) -/

/-- Physical channels that hold cache pages. -/
def State.poolChans (s : State) (p : Nat) : List Nat :=
  (List.range 128).filter (fun k =>
    s.fbit (rScu p + 0x10 + 8 * (k / 64)) (k % 64) && (s.tmpl p).chans.contains k)

/-- Pages in one 2 MiB chunk, and in a channel. -/
def Template.perChunk (t : Template) : Nat := max 1 (2 ^ 21 / t.pageBytes)
def Template.perChan (t : Template) : Nat := 2304 * t.perChunk

/-- Partition stack address of page j of a channel, in rising order. -/
def Template.pageAddr (t : Template) (k j : Nat) : Nat :=
  t.unxl .stack ((k / 16) * stackBytes + (16 * (j / t.perChunk) + k % 16) * 2 ^ 21 + j % t.perChunk * t.pageBytes)

/-- Bank of page j of a channel. -/
def Template.pageBank (t : Template) (j : Nat) : Nat := j / t.perChunk % 32

/-- Banks that hold a retired data-die slice and take no page (R410). -/
def State.badBanks (s : State) (k : Nat) : List Nat :=
  if s.integ.retired.isEmpty then [] else (List.range 32).filter (fun b => (s.retiredDies k b).any (· < 16))

/-- Whether a page address is in use: referenced, or held by a prefix entry. -/
def State.pageUsed (s : State) (p a : Nat) : Bool :=
  sget 0 (s.scu p).refs a != 0 || (s.scu p).prefixes.any (fun e => e.pages.any (fun q => q.2 == a))

/-- The n free pages of lowest address of a channel, from page j on. -/
def State.takePages (s : State) (p k : Nat) (bad : List Nat) : Nat → Nat → Nat → List Nat
  | 0, _, _ => []
  | _, _, 0 => []
  | f + 1, j, n + 1 =>
    let t := s.tmpl p
    if !bad.contains (t.pageBank j) && !s.pageUsed p (t.pageAddr k j) then
      t.pageAddr k j :: s.takePages p k bad f (j + 1) n
    else s.takePages p k bad f (j + 1) (n + 1)

/-- Channel key of a partition stack address. -/
def Template.chanOf (t : Template) (a : Nat) : Option Nat := (t.xlStack a).map chanOfPa

/-- Addresses in use in a channel. -/
def State.usedIn (s : State) (p k : Nat) : List Nat :=
  (((s.scu p).refs.map (·.1)) ++ (s.scu p).prefixes.flatMap (fun e => e.pages.map (·.2))).eraseDups.filter
    (fun a => (s.tmpl p).chanOf a == some k)

/-- Free pages of a channel. -/
def State.freeIn (s : State) (p k : Nat) : Nat :=
  let bad := s.badBanks k
  let used := (s.usedIn p k).filter (fun a => !bad.contains (bankOfPa (((s.tmpl p).xlStack a).getD 0)))
  (32 - bad.length) * 72 * (s.tmpl p).perChunk - used.length

/-- SCU_STAT0.FREE. -/
def State.freePages (s : State) (p : Nat) : Nat := (s.poolChans p).foldl (fun a k => a + s.freeIn p k) 0

/-- Write one page table entry (Table 11.5): an address ÷ PS, or all ones while the page is in the tier. -/
def State.pgtWrite (s : State) (p i layer page : Nat) (addr : Option Nat) : State :=
  let v := (s.req i).variant
  let np := s.scuStride p 0x38 / (4 * max 1 (s.varLayers p v))
  let e := match addr with
    | some a => a / (s.tmpl p).pageBytes
    | none => 0xFFFFFFFF
  s.scuWrite p (s.pgtAddr p i + 4 * (layer * np + page)) (leBytes 4 e)

def State.addRef (s : State) (p a : Nat) : State :=
  s.modScu p (fun x => { x with refs := sset 0 x.refs a (sget 0 x.refs a + 1) })

def State.dropRef (s : State) (p a : Nat) : State :=
  s.modScu p (fun x => { x with refs := sset 0 x.refs a (sget 0 x.refs a - 1) })

/-! ### What a request needs -/

/-- Pages that positions POS to e - 1 need and the request does not hold: page ⌊t ÷ 64⌋ of every layer without
a window, and the whole ring of every other (R310). -/
def State.pagesNeeded (s : State) (p i e : Nat) : List (Nat × Nat) :=
  let r := s.req i
  let held := fun (l g : Nat) => r.pages.any (fun x => x.layer == l && x.page == g)
  (List.range (s.varLayers p r.variant)).flatMap (fun l =>
    let ring := s.ringOf p r.variant l
    let gs := if ring > 0 then List.range ring
      else (List.range (ceilDiv e 64 - r.pos / 64)).map (r.pos / 64 + ·)
    (gs.filter (fun g => !held l g)).map (fun g => (l, g)))

/-- Pages of the request that stand in the tier. -/
def Req.away (r : Req) : List PageRef := r.pages.filter (fun x => x.addr.isNone)

/-- Pages an allocation takes. -/
def State.lack (s : State) (p i e : Nat) : Nat := (s.pagesNeeded p i e).length + (s.req i).away.length

def noStage : Nat := 2 ^ 32

/-- Allocate what the request needs for positions below e, from its home channel, lowest address first;
pages in the tier get their new place and a move-in. None when the channel lacks a page, or holds no cache pages
(R309). -/
def State.allocate (s : State) (p i e : Nat) : Option State :=
  let r := s.req i
  let need := s.pagesNeeded p i e
  let away := r.away
  let n := need.length + away.length
  if n = 0 then some s
  else
    let k := r.home
    let got := if (s.poolChans p).contains k then s.takePages p k (s.badBanks k) (s.tmpl p).perChan 0 n else []
    if got.length < n then none
    else
      let fresh := (List.zip need got).map (fun x => ({ layer := x.1.1, page := x.1.2, addr := some x.2, tier := none, shared := false } : PageRef))
      let back := List.zip away (got.drop need.length)
      let s := got.foldl (fun s a => s.addRef p a) s
      let pages := r.pages.map (fun x =>
        match back.find? (fun b => b.1 = x) with
        | some b => { x with addr := some b.2 }
        | none => x) ++ fresh
      let s := s.modReq i (fun r => r.setPages pages)
      let s := fresh.foldl (fun s x => s.pgtWrite p i x.layer x.page x.addr) s
      some (s.modScu p (fun x => { x with moves := x.moves ++ back.map (fun b =>
        { req := i, layer := b.1.layer, page := b.1.page, addr := b.2, staging := noStage
          tier := b.1.tier.getD 0, inward := true, step := none, ready := false }) }))

/-! ### Giving pages back (R312) -/

/-- A stash block is free unless it belongs to a prefix entry. -/
def State.stashFree (s : State) (p b : Nat) : State :=
  if (s.scu p).prefixes.any (fun e => e.stash == b) then s
  else s.modScu p (fun x => { x with stashUsed := x.stashUsed.filter (· != b) })

/-- Prefix entries whose blocks a request holds. -/
def State.entriesOf (s : State) (p i : Nat) : List PrefixEntry :=
  let r := s.req i
  (s.scu p).prefixes.filter (fun e =>
    r.hashes.contains e.hash && e.pages.any (fun q => r.pages.any (fun x => x.shared && x.addr == some q.2)))

/-- Free the pages, stash blocks, tier slots and moves of a request, once per reference. -/
def State.freeReq (s : State) (p i : Nat) : State :=
  let r := s.req i
  if r.pages.isEmpty ∧ r.stash.isEmpty then s.modScu p (fun x => { x with moves := x.moves.filter (·.req != i) })
  else
    let mine := s.entriesOf p i
    let s := s.modScu p (fun x => { x with
      moves := x.moves.filter (·.req != i)
      prefixes := x.prefixes.map (fun e => if mine.any (fun m => m.hash == e.hash) then { e with refs := e.refs - 1 } else e) })
    let s := r.pages.foldl (fun s x => match x.addr with
      | some a => s.dropRef p a
      | none => s) s
    let s := r.stash.foldl (fun s b => s.stashFree p b) s
    s.modReq i (fun r => { r.setPages [] with stash := [] }.setTiered)

/-! ### Moves to the tier (R311, R313) -/

/-- Tier page slots in use. -/
def State.tierUsed (s : State) (p : Nat) : List Nat :=
  (s.ranked p).flatMap (fun i => (s.req i).pages.filterMap (·.tier)) ++ (s.scu p).moves.map (·.tier)

/-- The n lowest free tier page slots. -/
def freeSlots (used : List Nat) (count : Nat) (n : Nat) : List Nat :=
  ((List.range (min count (used.length + n))).filter (fun k => !used.contains k)).take n

/-- Pages of a request with a reference count of 1 that are in place (R311). -/
def State.ownPages (s : State) (p i : Nat) : List PageRef :=
  (s.req i).pages.filter (fun x => match x.addr with
    | some a => sget 0 (s.scu p).refs a == 1 && (s.scu p).moves.all (fun m => m.addr != a)
    | none => false)

/-- End the prefix entries that hold some of these pages of request i: what they held is its own again. -/
def State.endEntries (s : State) (p i : Nat) (own : List PageRef) : State :=
  let gone := (s.scu p).prefixes.filter (fun e => e.pages.any (fun q => own.any (fun x => x.addr == some q.2)))
  if gone.isEmpty then s
  else
    let s := s.modScu p (fun x => { x with prefixes := x.prefixes.filter (fun e => !gone.any (fun g => g.hash == e.hash)) })
    let s := s.modReq i (fun r => { r with pages := r.pages.map (fun x =>
      if gone.any (fun g => g.pages.any (fun q => x.addr == some q.2)) then { x with shared := false } else x) })
    let kept := (s.ranked p).flatMap (fun j => (s.req j).stash)
    gone.foldl (fun s g => if kept.contains g.stash then s else s.stashFree p g.stash) s

/-- Queue a request's own pages for move-out; none when they cannot all find tier page slots. A prefix entry that
holds one of them ends, since its page leaves its place. DESIGN CHOICE (log 98). -/
def State.queueOut (s : State) (p i : Nat) : Option State :=
  let own := s.ownPages p i
  let slots := freeSlots (s.tierUsed p) (s.fld (rScu p + 0x48) 63 40) own.length
  if slots.length < own.length then none
  else if own.isEmpty then some s
  else
    let s := s.endEntries p i own
    some (s.modScu p (fun x => { x with moves := x.moves ++ (List.zip own slots).map (fun q =>
      { req := i, layer := q.1.layer, page := q.1.page, addr := q.1.addr.getD 0, staging := noStage
        tier := q.2, inward := false, step := none, ready := false }) }))

/-- Free staging slots, lowest first. -/
def State.freeStage (s : State) (p n : Nat) : List Nat :=
  freeSlots ((s.scu p).moves.map (·.staging)) (s.fld (rScu p + 0x40) 63 48) n

/-- Staging slots go to move-ins that wait for one, in their order. -/
def State.stageIns (s : State) (p : Nat) : State :=
  let waiting := (s.scu p).moves.filter (fun m => m.inward && m.staging == noStage)
  if waiting.isEmpty then s
  else
    let slots := s.freeStage p waiting.length
    (s.modScu p (fun x => { x with moves := (x.moves.foldl (fun (a : List PageMove × List Nat) m =>
      match a.2 with
      | k :: t => if m.inward && m.staging == noStage then (a.1 ++ [{ m with staging := k }], t) else (a.1 ++ [m], a.2)
      | [] => (a.1 ++ [m], [])) ([], slots)).1 }))

/-- Physical places of a staging slot. -/
def State.stagePlaces (s : State) (p k : Nat) : List (Space × Nat) :=
  let n := (s.tmpl p).pageBytes
  let a := s.scuBase p 0x40 + k * n
  (List.range n).filterMap (fun i => ((s.tmpl p).xlCase (a + i)).map (fun x => (Space.case, x)))

def State.tierSlotAddr (s : State) (p k : Nat) : Nat := s.fld (rScu p + 0x48) 39 0 * 2 ^ 20 + k * (s.tmpl p).pageBytes

/-- Moves whose staging slot the SCU now copies: out once their step completed, in once a slot is theirs. -/
def PageMove.copying (m : PageMove) : Bool := m.staging != noStage && (m.inward != m.ready) && !m.landed

/-- What names a move: request, layer, page, inward. -/
def PageMove.name (m : PageMove) : Nat × Nat × Nat × Bool := (m.req, m.layer, m.page, m.inward)

/-- The SCU finds a staging copy complete: a moved-out page becomes free; a moved-in page's slot is ready for its move
record (R311, R313). A mirrored partition's freed staging slot goes on at its next composition, where both modules of the
pair stand alike (R296). -/
def State.moveFound (s : State) (p : Nat) (k : Nat × Nat × Nat × Bool) : State :=
  match (s.scu p).moves.find? (fun m => m.name == k) with
  | none => s
  | some m =>
    if m.inward then
      s.modScu p (fun x => { x with moves := x.moves.map (fun y => if y.name == k then { y with ready := true, landed := false } else y) })
    else
      let s := s.modScu p (fun x => { x with moves := x.moves.filter (fun y => y.name != k) })
      let s := s.modReq m.req (fun r => (r.setPages (r.pages.map (fun y =>
        if y.layer == m.layer && y.page == m.page then { y with addr := none, tier := some m.tier } else y))).setTiered)
      let s := (s.dropRef p m.addr).pgtWrite p m.req m.layer m.page none
      if s.mirrored p then s else s.stageIns p

/-- TIER_MOVE_DONE: copy k of the partition's staging copies ends. A PRIMARY notes it for its record; a SHADOW finds it
complete only when its primary has (R296). -/
def State.tierMoveDone (s : State) (p k : Nat) : State :=
  match ((s.scu p).moves.filter (·.copying))[k]? with
  | none => s
  | some m =>
    let places := s.stagePlaces p m.staging
    let a := s.tierSlotAddr p m.tier
    let s := if m.inward then s.tierIn a places else s.tierOut a places
    if s.mirrored p && s.role == roleShadow then
      s.modScu p (fun x => { x with moves := x.moves.map (fun y => if y.name == m.name then { y with landed := true } else y) })
    else
      let s := s.moveFound p m.name
      if s.mirrored p && s.role == rolePrimary then s.modScu p (fun x => { x with doneMoves := x.doneMoves ++ [m.name] }) else s

/-! ### Reclaiming (R311) -/

/-- Free unreferenced prefix entries of a channel, the one matched longest ago first, until n pages are free. -/
def State.reclaimEntries (s : State) (p k n : Nat) : Nat → State
  | 0 => s
  | f + 1 =>
    if s.freeIn p k ≥ n then s
    else
      let low := fun (e : PrefixEntry) => e.pages.foldl (fun a q => min a q.2) (2 ^ 64)
      let mine := (s.scu p).prefixes.filter (fun e => e.refs == 0
          && e.pages.any (fun q => (s.tmpl p).chanOf q.2 == some k))
      match pickBy (fun a b => decide (a.used < b.used) || (a.used == b.used && decide (low a < low b))) mine with
      | none => s
      | some e =>
        let s := s.modScu p (fun x => { x with prefixes := x.prefixes.filter (fun y => y.hash != e.hash) })
        (s.stashFree p e.stash).reclaimEntries p k n f

/-- A worse victim is taken first: the lowest priority, then the most pages, then the higher SEQ. -/
def victimFirst (a b : Req) : Bool :=
  decide (b.prio < a.prio) || (a.prio == b.prio && (decide (bf b.w3 31 0 < bf a.w3 31 0)
    || (bf a.w3 31 0 == bf b.w3 31 0 && decide (b.seq < a.seq))))

/-- Pause the first victim whose pages all find tier page slots. -/
def State.takeVictim (s : State) (p : Nat) : List Nat → State
  | [] => s
  | v :: t =>
    match s.queueOut p v with
    | some s => s.rqPause p v false
    | none => s.takeVictim p t

/-- R311 for request i, which lacks n pages in its home channel. -/
def State.reclaim (s : State) (p i n : Nat) : State :=
  let k := (s.req i).home
  let s := s.reclaimEntries p k n ((s.scu p).prefixes.length + 1)
  if s.freeIn p k ≥ n then s
  else
    let vs := (s.ranked p).filter (fun v =>
      let x := s.req v
      v != i && (x.state == rqRunning || x.state == rqPageWait) && x.home == k
        && decide (x.prio ≥ (s.req i).prio) && !x.pages.isEmpty)
    s.takeVictim p ((sortBy (fun a b => !victimFirst (s.req b) (s.req a)) vs))

/-! ### Stash blocks (R310) -/

/-- Give a request stash blocks so that it covers n blocks of positions; none when too few are free. -/
def State.takeStash (s : State) (p i n : Nat) : Option State :=
  let r := s.req i
  if n ≤ r.stash.length then some s
  else
    let got := freeSlots (s.scu p).stashUsed (s.fld (rScu p + 0x50) 63 48) (n - r.stash.length)
    if got.length < n - r.stash.length then none
    else
      let s := s.modScu p (fun x => { x with stashUsed := x.stashUsed ++ got })
      some (s.modReq i (fun r => { r with stash := r.stash ++ got }))

/-- Partition stack address of stash block b. -/
def State.stashAddr (s : State) (p b : Nat) : Nat :=
  s.fld (rScu p + 0x50) 31 0 * 2 ^ 21 + b * s.fld (rScu p + 0x50) 47 32 * 65536

/-! ### Prefix reuse (R314, R315) -/

/-- H_b of the blocks of a token list: SHA-256 over Table 11.11, its first 16 bytes kept as a number whose
low byte is byte 0. -/
def prefixHashes (p v : Nat) : Nat → Nat → List Byte → List (List Byte) → List Nat
  | 0, _, _, _ => []
  | _, _, _, [] => []
  | f + 1, b, prev, blk :: t =>
    let h := (sha256 (prev ++ leBytes 2 p ++ leBytes 1 v ++ [1] ++ leBytes 4 b ++ blk)).take 16
    leNat h :: prefixHashes p v f (b + 1) h t

/-- PREFIX_HASH of request i: the prompt's full blocks are hashed and HASHED becomes 1 (R294, R314). -/
def State.prefixHash (s : State) (p i : Nat) : State :=
  let r := s.req i
  if !((s.scu p).hashing.contains i) || r.state != rqQueued then s
  else
    let s := s.modScu p (fun x => { x with hashing := x.hashing.filter (· != i) })
    let n := if r.plen < s.capacity p then r.plen / 64 else 0
    let (bs, s) := s.scuRead p (s.tokAddr p i 0) (256 * n)
    let hs := prefixHashes p r.variant n 0 (List.replicate 16 0) (chunks 256 n bs)
    s.modReq i (fun r => { r.set0 33 33 1 with hashes := hs })

/-- Channel of a prefix entry's pages. -/
def Template.entryChan (t : Template) (e : PrefixEntry) : Option Nat := e.pages.head?.bind (fun q => t.chanOf q.2)

/-- Entries that match the request's blocks in order, an even number of them (R315). An entry whose pages lie in
another channel than those of the first counts as a miss, since a request has one home channel (R266, R309).
DEDUCED (log 97). -/
def State.matchBlocks (s : State) (p i : Nat) : List PrefixEntry :=
  let r := s.req i
  if s.varWin p r.variant then []
  else
    let hs := r.hashes.take ((r.plen - 1) / 64)
    let ms := ((hs.map (fun h => (s.scu p).prefixes.find? (fun e => e.hash == h))).takeWhile (·.isSome)).filterMap id
    let ms := ms.takeWhile (fun e => (s.tmpl p).entryChan e == (ms.head?.bind (s.tmpl p).entryChan))
    ms.take (ms.length / 2 * 2)

/-- The pool channel with the most free pages, the lowest key among equals (R309); none without a pool. -/
def State.bestChan (s : State) (p : Nat) : Option Nat :=
  (pickBy (fun (a b : Nat × Nat) => decide (b.2 < a.2)) ((s.poolChans p).map (fun k => (k, s.freeIn p k)))).map (·.1)

/-- First admission: home channel, prefix matches, the rings, and the first stash block (R308 to R310, R315). -/
def State.firstAdmission (s : State) (p i : Nat) : State :=
  let ms := s.matchBlocks p i
  let home := ((match ms.head?.bind (s.tmpl p).entryChan with
    | some k => some k
    | none => s.bestChan p)).getD (s.req i).home
  let stamp := (s.scu p).stamp + 1
  let shared := (List.zip (List.range ms.length) ms).flatMap (fun b => b.2.pages.map (fun q =>
    ({ layer := q.1, page := b.1, addr := some q.2, tier := none, shared := true } : PageRef)))
  let s := s.modScu p (fun x => { x with
    stamp := stamp
    prefixes := x.prefixes.map (fun e => if ms.any (fun m => m.hash == e.hash) then { e with refs := e.refs + 1, used := stamp } else e) })
  let s := shared.foldl (fun s x => s.addRef p (x.addr.getD 0)) s
  let s := s.modReq i (fun r =>
    { ((r.set0 44 38 home).setPos (64 * ms.length)).setPages shared with stash := ms.map (·.stash) })
  let s := shared.foldl (fun s x => s.pgtWrite p i x.layer x.page x.addr) s
  let s := if s.varWin p (s.req i).variant then (s.allocate p i (s.req i).pos).getD s else s
  (s.takeStash p i (ms.length + 1)).getD s

/-! ### Rows -/

/-- PREFIX_HASH. -/
def execPrefixHash (p : PartId) (r : BitVec 14) (s : State) : Host.Outcome State Fault Refusal :=
  .next (s.prefixHash p.val r.toNat)

/-- TIER_MOVE_DONE. -/
def execTierMoveDone (p : PartId) (k : Nat) (s : State) : Host.Outcome State Fault Refusal :=
  .next (s.tierMoveDone p.val k)

end Sys2Proof.Machine
end

