-- ==== Sys2Proof/Machine/Compose.lean ====
section
/-! DEFINITION. Composing a step (R294 to R296, R301 to R311, R322, R323): control actions, deadlines,
admission, the choice of the catalogue entry, decode records, pieces and moves, the step descriptor
(Table 11.9) and the parameter block (Table 11.8). -/

namespace Sys2Proof.Machine

/-! ### Control actions and deadlines -/

/-- A RUNNING request whose last sampled token met a finish condition becomes FINISHED; a CANCEL among the control
actions that arrived since the last composition sets CANCEL_SEEN (Tables 11.2 and 11.12). -/
def State.takeFinish (s : State) (acts : List (Nat × Nat)) (i : Nat) : State :=
  let r := s.req i
  if r.state = rqRunning ∧ r.reason ≠ 0 then
    let seen := bit r.w0 56 || acts.any (fun a => a.1 == 2 && a.2 == i)
    s.modReq i (fun r => (r.set0 63 60 rqFinished).set0 56 56 (boolNat seen))
  else s

/-- One control action (R295, Tables 11.2 and 11.12): 2 CANCEL, 3 PAUSE, 4 RESUME. -/
def State.takeAct (s : State) (p : Nat) (a : Nat × Nat) : State :=
  let r := s.req a.2
  match a.1 with
  | 2 => if r.live then s.rqCancel p a.2 else s
  | 3 => if r.state = rqRunning then s.rqPause p a.2 true else s
  | _ => if r.state = rqPaused ∧ r.hostp then s.modReq a.2 (fun r => r.set0 34 34 0) else s

/-- A passed deadline: LATE, and DL_POL (R306, Table 11.12). -/
def State.takeDeadline (s : State) (p t i : Nat) : State :=
  let r := s.req i
  if !r.live || r.w4 == 0 || decide (t < r.w4.toNat) || r.late then s
  else
    let s := s.modReq i (fun r => r.set0 55 55 1)
    match r.dlPol with
    | 1 =>
      if r.state = rqRunning then s.rqPause p i true
      else if r.state = rqPaused then s.modReq i (fun r => r.set0 34 34 1) else s
    | 2 => s.rqCancel p i
    | _ => s

/-- A QUEUED request that can never run is FINISHED with BADREQ (Table 11.2). -/
def State.takeBad (s : State) (p i : Nat) : State :=
  let r := s.req i
  if r.state = rqQueued ∧ (r.plen = 0 ∨ r.plen ≥ s.capacity p ∨ !s.variantOk p r.variant) then
    (s.modReq i (fun r => r.set0 37 35 reasonBadreq)).rqMove p i rqFinished
  else s

/-! ### Variants (R322) -/

/-- Eligible for admission: QUEUED and hashed when the composition began, or PAUSED with HOSTP 0. ok: the requests
whose admission the composition may decide (R296). -/
def State.eligible (s : State) (ok : List Nat) (i : Nat) : Bool :=
  let r := s.req i
  (r.state == rqQueued && r.hashed && ok.contains i) || (r.state == rqPaused && !r.hostp)

/-- Variant that holds a resident slot. -/
def State.inSlot (s : State) (p k : Nat) : Option Nat :=
  (List.range 64).find? (fun v => s.resident p v && bf (s.varW p v 2) 39 32 == k)

/-- The variant in a slot stops being resident: a copy into the slot begins (R322). -/
def State.leaveSlot (s : State) (p k : Nat) : State :=
  match s.inSlot p k with
  | some w => (s.setFld (rVariant p w 0) 62 62 0).setFld (rVariant p w 2) 39 32 0xFF
  | none => s

/-- A completed copy makes its variant resident. -/
def State.variantSwapDone (s : State) (p : Nat) : State :=
  match (s.scu p).swap with
  | some (v, slot, 0) =>
    let s := s.leaveSlot p slot
    let s := (s.setFld (rVariant p v 0) 62 62 1).setFld (rVariant p v 2) 39 32 slot
    s.modScu p (fun x => { x with swap := none })
  | _ => s

/-- The slot a swap takes: a free one, or the least recently used one that no request with pages in place
holds to (R322). -/
def State.swapSlot (s : State) (p : Nat) : Option Nat :=
  let ks := List.range (s.fld (rScu p + 0x58) 63 48)
  match ks.find? (fun k => (s.inSlot p k).isNone) with
  | some k => some k
  | none =>
    let busy := fun (v : Nat) => (s.ranked p).any (fun i =>
      let r := s.req i
      r.variant == v && (r.state == rqRunning || r.state == rqPageWait || r.state == rqPaused)
        && r.pages.any (·.addr.isSome))
    pickBy (fun a b => decide (sget 0 (s.scu p).lastUse a < sget 0 (s.scu p).lastUse b))
      (ks.filter (fun k => match s.inSlot p k with | some v => !busy v | none => false))

/-- Begin the swap that the best-ranked eligible request asks for. The variant it replaces stays resident until the
copy begins in a SWAP duty. -/
def State.swapBegin (s : State) (p : Nat) (ok : List Nat) : State :=
  if (s.scu p).swap.isSome then s
  else match (s.ranked p).find? (s.eligible ok) with
  | none => s
  | some i =>
    let v := (s.req i).variant
    if s.resident p v || !s.variantOk p v then s
    else match s.swapSlot p with
    | none => s
    | some k => s.modScu p (fun x => { x with swap := some (v, k, bf (s.varW p v 2) 63 40) })

/-! ### Catalogue -/

/-- A catalogue entry (Table 11.7), with its index. -/
structure CatEntry where
  ix : Nat
  kernel : Nat
  wcet : Nat
  moves : Nat
  decode : Nat
  chunk : Nat
  deriving DecidableEq, Repr

/-- Room of the tightest serving slot; none without a valid serving slot. -/
def State.servingRoom (s : State) (p : Nat) : Option Nat :=
  let es := ((List.range 64).filter (fun n => s.fbit (rScu p + 8) n)).map (fun n => s.slotEntry p n true)
  pickBy (fun a b => decide (a < b)) ((es.filter (·.valid)).map (fun e => e.len - e.dutyLen))

/-- The entries E that may be chosen under a grade (R306). -/
def State.catalogue (s : State) (p grade : Nat) : List CatEntry :=
  match s.servingRoom p with
  | none => []
  | some room =>
    (List.range 256).filterMap (fun k =>
      let w0 := s.reg (rCatalogue p k 0)
      let w1 := s.reg (rCatalogue p k 1)
      let wc := 10 * bf w0 47 24
      if bit w0 63 && bf w0 62 60 == grade && decide (wc + s.leadNs ≤ room) then
        some { ix := k, kernel := bf w0 55 48, wcet := wc, moves := bf w0 23 16
               decode := min (bf w1 63 48) 16384, chunk := bf w1 47 32 }
      else none)

/-! ### Choosing who runs -/

/-- Variant of the best-ranked request that passes a test and whose variant is resident. -/
def State.residentReq (s : State) (p : Nat) (ok : Nat → Bool) : Option Nat :=
  ((s.ranked p).find? (fun i => ok i && s.resident p (s.req i).variant)).map (fun i => (s.req i).variant)

/-- The variant of this step. -/
def State.stepVariant (s : State) (p : Nat) (ok : List Nat) : Option Nat :=
  match s.residentReq p (fun i => (s.req i).state == rqRunning || (s.req i).state == rqPageWait) with
  | some v => some v
  | none => s.residentReq p (s.eligible ok)

/-- Whether every move of a request has completed. -/
def State.movedIn (s : State) (p i : Nat) : Bool :=
  (s.scu p).moves.all (fun m => m.req != i) && !(s.req i).tiered

/-- A PAGE_WAIT request runs again once its pages are allocated and in place. -/
def State.wake (s : State) (p i : Nat) : State :=
  match s.allocate p i ((s.req i).pos + 1) with
  | none => s
  | some s => if s.movedIn p i then s.rqMove p i rqRunning else s

/-- RUNNING plus PAGE_WAIT requests of the partition. -/
def State.runCount (s : State) (p : Nat) : Nat :=
  ((s.ranked p).filter (fun i => (s.req i).state == rqRunning || (s.req i).state == rqPageWait)).length

/-- Admit one candidate. One that was paused keeps the pages whose move-outs have not completed. DESIGN CHOICE
(log 96). -/
def State.admitOne (s : State) (p i : Nat) : State :=
  let r := s.req i
  let s := s.modScu p (fun x => { x with moves := x.moves.filter (fun m => m.req != i || m.inward) })
  if r.state = rqQueued then (s.firstAdmission p i).rqMove p i rqRunning
  else if r.tiered then s.rqMove p i rqPageWait else s.rqMove p i rqRunning

/-- Admission in rank order, with automatic pauses up to PREEMPT where the count equals MAXRUN (R308). -/
def State.admitList (s : State) (p left : Nat) : List Nat → State
  | [] => s
  | i :: t =>
    if s.runCount p < s.fld (rScu p) 47 32 then (s.admitOne p i).admitList p left t
    else if s.runCount p > s.fld (rScu p) 47 32 then s
    else
      match (s.ranked p).reverse.find? (fun x => (s.req x).state == rqRunning), left with
      | some x, n + 1 =>
        if (s.req i).prio < (s.req x).prio then
          let s := if s.fbit (rScu p) 55 then (s.queueOut p x).getD s else s
          ((s.rqPause p x false).admitOne p i).admitList p n t
        else s
      | _, _ => s

def State.admitQueued (s : State) (p v : Nat) (ok : List Nat) : State :=
  s.admitList p (s.fld (rScu p) 31 24)
    ((s.ranked p).filter (fun i => s.eligible ok i && (s.req i).variant == v))

/-- Pages for positions below e, reclaiming once; a request without them enters PAGE_WAIT. Answers whether
it has them. -/
def State.obtain (s : State) (p i e : Nat) : Bool × State :=
  match s.allocate p i e with
  | some s => (true, s)
  | none =>
    let s := s.reclaim p i (s.lack p i e)
    match s.allocate p i e with
    | some s => (true, s)
    | none => (false, s.rqMove p i rqPageWait)

/-- Decode records: requests that obtain the page of their next position. -/
def State.pickDecodes (s : State) (p : Nat) : List Nat → List Nat × State
  | [] => ([], s)
  | i :: t =>
    if (s.req i).state ≠ rqRunning then s.pickDecodes p t
    else
      let (ok, s) := s.obtain p i ((s.req i).pos + 1)
      let (ds, s) := s.pickDecodes p t
      (if ok then i :: ds else ds, s)

/-- Prefill pieces within the chunk: left tokens and pieces remain (R306). -/
def State.pickPieces (s : State) (p : Nat) : Nat → Nat → List Nat → List Piece × State
  | _, _, [] => ([], s)
  | left, k, i :: t =>
    let r := s.req i
    if r.state ≠ rqRunning then s.pickPieces p left k t
    else if left = 0 ∨ k = 0 then ([], s)
    else
      let rest := r.plen - r.pos
      let n := min rest left
      let n := if n < rest then n / 128 * 128 else n
      if n = 0 then ([], s)
      else
        let (ok, s) := s.obtain p i (r.pos + n)
        match ok, s.takeStash p i (ceilDiv (r.pos + n) 64) with
        | true, some s =>
          let x : Piece := { req := i, pos := r.pos, len := n, last := decide (n = rest)
                             stash := s.stashAddr p ((s.req i).stash.getD (r.pos / 64) 0) }
          let (xs, s) := s.pickPieces p (left - n) (k - 1) t
          (x :: xs, s)
        | true, none => (s.rqMove p i rqPageWait).pickPieces p left k t
        | false, _ => s.pickPieces p left k t

/-! ### Move records -/

/-- Rank of a move's request. -/
def moveRank (order : List Nat) (m : PageMove) : Nat := order.findIdx (· == m.req)

/-- Give up to n waiting moves to step k: outs first, then staged ins, each in rank order; an out takes a
free staging slot. -/
def State.pickMoves (s : State) (p k n : Nat) : List PageMove × State :=
  let order := s.ranked p
  let byRank := fun (ms : List PageMove) => sortBy (fun a b => decide (moveRank order a ≤ moveRank order b)) ms
  let ms := (s.scu p).moves
  let outs := (byRank (ms.filter (fun m => !m.inward && m.step.isNone))).take n
  let stage := s.freeStage p outs.length
  let outs := List.zipWith (fun (m : PageMove) g => { m with staging := g, step := some k }) outs stage
  let ins := ((byRank (ms.filter (fun m => m.inward && m.ready && m.step.isNone))).take (n - outs.length)).map
    (fun (m : PageMove) => { m with step := some k })
  let chosen := outs ++ ins
  let same := fun (a b : PageMove) => a.req == b.req && a.layer == b.layer && a.page == b.page && a.inward == b.inward
  let s := s.modScu p (fun x => { x with moves := x.moves.map (fun m => (chosen.find? (same m)).getD m) })
  (chosen, s)

/-! ### Descriptor and parameters -/

def le32 (v : Nat) : List Byte := leBytes 4 v

/-- Partition address of the descriptor of step n (R304). -/
def State.descAddr (s : State) (p n : Nat) : Nat := s.scuBase p 0x20 + n % 2 * 2 ^ 20

/-- Address A of R260, ÷ 64: the SCU fixes it, and the manual does not say where. -/
def addrA (free : Nat) : Nat := (Config.freeWord free 61).toNat % 2 ^ 32

def State.decodeRecord (s : State) (p i : Nat) : List Byte × State :=
  let r := s.req i
  let (tok, s) := s.scuRead p (s.tokAddr p i r.pos) 4
  (le32 i ++ le32 r.pos ++ tok ++ le32 (s.pgtAddr p i / 64) ++ leBytes 1 (r.home / 16) ++ leBytes 1 (r.home % 16)
    ++ List.replicate 14 0, s)

def State.pieceRecord (s : State) (p k : Nat) (x : Piece) : List Byte :=
  let r := s.req x.req
  le32 x.req ++ le32 x.pos ++ le32 x.len ++ le32 (s.pgtAddr p x.req / 64) ++ leBytes 1 (r.home / 16)
    ++ leBytes 1 (r.home % 16) ++ leBytes 2 k ++ le32 (x.stash / 2 ^ 21) ++ leBytes 1 (boolNat x.last)
    ++ List.replicate 7 0

def State.moveRecord (s : State) (p : Nat) (m : PageMove) : List Byte :=
  le32 m.req ++ le32 (m.addr / (s.tmpl p).pageBytes) ++ le32 m.staging ++ leBytes 1 (boolNat m.inward)
    ++ List.replicate 19 0

/-- Write the step descriptor (Table 11.9). -/
def State.writeDescriptor (s : State) (p n slot a : Nat) (ds : List Nat) (xs : List Piece) (ms : List PageMove) : State :=
  let nt := xs.foldl (fun t x => t + x.len) 0
  let head := leBytes 8 (s.vslotAddr p slot) ++ leBytes 8 n ++ le32 nt ++ le32 a ++ List.replicate 40 0
  let (dec, s) := ds.foldl (fun (acc : List Byte × State) i =>
    let (b, s) := acc.2.decodeRecord p i
    (acc.1 ++ b, s)) ([], s)
  let pcs := (List.zip (List.range xs.length) xs).flatMap (fun q => s.pieceRecord p q.1 q.2)
  s.scuWrite p (s.descAddr p n) (head ++ dec ++ pcs ++ ms.flatMap (s.moveRecord p))

/-- The parameter block of a composed step (Table 11.8). -/
def State.stepParams (s : State) (p n nd np nm a slot v : Nat) : List Nat :=
  [n % 2 ^ 32, nd, np, nm, s.descAddr p n / 64, a, s.scuBase p 0x28 / 64, slot % 256 * 256 + v % 64]

/-- The parameter block of an empty step: EMPTY 1 and no work; nothing fixes its number, its addresses
but the logit buffer's, or its variant (R302, R303). -/
def State.emptyParams (s : State) (p : Nat) (n : Option Nat) : List Nat :=
  let w := fun (k : Nat) => (Config.freeWord s.free k).toNat % 2 ^ 32
  [match n with | some n => n % 2 ^ 32 | none => w 56, 0, 0, 0,
   match n with | some n => s.descAddr p n / 64 | none => w 60, w 61, s.scuBase p 0x28 / 64,
   2 ^ 31 + (w 63 / 256 % 256) * 256 + w 63 % 64]

/-- Hand a composed step over to its serving slot. -/
def State.setComposed (s : State) (p : Nat) (x : Composed) : State :=
  s.modScu p (fun y => { y with composed := some x, due := false })

/-- Write an empty step: it takes no number (R306). -/
def State.composeEmpty (s : State) (p n : Nat) : State :=
  let ps := s.emptyParams p (some n)
  (s.withFree (s.free + 1)).setComposed p
    { n := n, empty := true, kernel := 0xFF, variant := 0, resident := 0xFF, decodes := [], pieces := [], moves := 0
      params := ps, at_ := s.now, from_ := s.now + 1000 }

/-- Decode records stand by home stack, home channel and request index (R304). -/
def State.sortDecodes (s : State) (ds : List Nat) : List Nat :=
  sortBy (fun a b => decide ((s.req a).home < (s.req b).home) || ((s.req a).home == (s.req b).home && decide (a ≤ b))) ds

/-- The rest of composition once E and v are known. -/
def State.composeStep (s : State) (p n v : Nat) (es : List CatEntry) (ok : List Nat) : State :=
  let waits := (s.ranked p).filter (fun i => (s.req i).state == rqPageWait && (s.req i).variant == v)
  let s := waits.foldl (fun s i => s.wake p i) s
  let s := s.admitQueued p v ok
  let mine := (s.ranked p).filter (fun i => (s.req i).state == rqRunning && (s.req i).variant == v)
  let most := es.foldl (fun a e => max a e.decode) 0
  let (ds, s) := s.pickDecodes p ((mine.filter (fun i => decide ((s.req i).pos ≥ (s.req i).plen))).take most)
  let fit := es.filter (fun e => decide (e.decode ≥ ds.length))
  match pickBy (fun a b => decide (b.chunk < a.chunk)
      || (a.chunk == b.chunk && (decide (a.wcet < b.wcet) || (a.wcet == b.wcet && decide (a.ix < b.ix))))) fit with
  | none => s.composeEmpty p n
  | some e =>
    let pm := s.fld (rScu p) 59 56
    let (xs, s) := s.pickPieces p e.chunk (if pm = 0 then 16 else pm)
      (mine.filter (fun i => decide ((s.req i).pos < (s.req i).plen)))
    let (ms, s) := (s.stageIns p).pickMoves p n e.moves
    let ds := s.sortDecodes (ds.filter (fun i => (s.req i).state == rqRunning))
    let xs := xs.filter (fun x => (s.req x.req).state == rqRunning)
    if ds.isEmpty ∧ xs.isEmpty ∧ ms.isEmpty then s.composeEmpty p n
    else
      let slot := bf (s.varW p v 2) 39 32
      let a := addrA s.free
      let s := s.withFree (s.free + 1)
      let s := s.writeDescriptor p n slot a ds xs ms
      let s := s.setReg (rScu p + 0x70) (BitVec.ofNat 64 n)
      let s := s.modScu p (fun x => { x with lastUse := sset 0 x.lastUse slot (n + 1) })
      s.setComposed p
        { n := n, empty := false, kernel := e.kernel, variant := v, resident := slot, decodes := ds, pieces := xs
          moves := ms.length, params := s.stepParams p n ds.length xs.length ms.length a slot v, at_ := s.now, from_ := s.now + 1000 }

/-- Composition of a step (R306) under the decisions of a record (R296), before its grade is noted. -/
def State.composeCore (s : State) (p : Nat) (d : CompRecord) (emptyOnly : Bool) : State :=
  let s := (s.ranked p).foldl (fun s i => (s : State).takeFinish d.acts i) (s.stageIns p)
  let s := d.acts.foldl (fun s a => s.takeAct p a) (s.modScu p (fun x => { x with acts := x.acts.drop d.acts.length, doneMoves := [] }))
  let s := ((s.ranked p).filter (fun i => !(s.req i).live)).foldl (fun s i => s.freeReq p i) s
  let s := (s.ranked p).foldl (fun s i => s.takeDeadline p d.deadlineTime i) s
  let s := (s.ranked p).foldl (fun s i => s.takeBad p i) s
  let s := s.swapBegin p d.admissions
  if emptyOnly then s.composeEmpty p d.step
  else
    let es := s.catalogue p d.grade.toNat
    match es, s.stepVariant p d.admissions with
    | _ :: _, some v => s.composeStep p d.step v es d.admissions
    | _, _ => s.composeEmpty p d.step

/-- Composition of a step under the decisions of a record. from_: the earliest start of a slot that may run it. -/
def State.composeWith (s : State) (p : Nat) (d : CompRecord) (emptyOnly : Bool) (from_ : Nat) : State :=
  (s.composeCore p d emptyOnly).modScu p (fun y =>
    { y with composed := y.composed.map (fun x => { x with grade := d.grade.toNat, from_ := from_ }) })

/-- Requests with moves that have all completed, for the composition record (R296). -/
def State.movesDone (s : State) (p : Nat) : List Nat :=
  (s.ranked p).filter (fun i => (s.req i).state == rqPageWait && (s.scu p).moves.all (fun m => m.req != i))

/-- Variant whose copy has completed. -/
def State.variantReady (s : State) (p : Nat) : Option Nat :=
  match (s.scu p).swap with
  | some (v, _, 0) => some v
  | _ => none

/-- Start of the first serving slot of a partition at or after a time, as its timetable stands (R302). -/
def State.nextServing (s : State) (p t : Nat) : Option Nat :=
  let ns := (List.range 64).filter (fun n => s.fbit (rScu p + 8) n && (s.slotEntry p n true).valid)
  pickBy (fun a b => decide (a < b)) (((s.part p).frameStarts t).flatMap (fun f =>
    (ns.map (fun n => f + (s.slotEntry p n true).start)).filter (fun b => decide (t ≤ b))))

/-- The decisions of R296 as this module takes them now for its next step. -/
def State.decisions (s : State) (p n : Nat) : CompRecord :=
  { step := n, grade := BitVec.ofNat 3 (s.fld (rScu p) 62 60), deadlineTime := s.now
    slotAt := s.nextServing p (s.now + 1000), acts := (s.scu p).acts
    admissions := (s.ranked p).filter (fun i => (s.req i).state == rqQueued && (s.req i).hashed)
    moves := (s.scu p).doneMoves
    movesDone := s.movesDone p, variantDone := (s.variantReady p).map (BitVec.ofNat 6) }

/-- Whether a shadow holds everything that a record of its primary builds on. -/
def State.recordMet (s : State) (p : Nat) (d : CompRecord) : Bool :=
  d.admissions.all (fun i => (s.req i).state == rqQueued && (s.req i).hashed)
    && d.moves.all (fun k => (s.scu p).moves.any (fun m => m.name == k && m.landed))
    && (match d.variantDone with
      | some v => s.variantReady p == some v.toNat
      | none => true)

/-! ### The pair (R355, R359, R369) -/

/-- Lag of a mirrored partition in serving steps, as this module sees it: records the shadow has not applied; numbered
steps the primary has no digest of. -/
def State.lagOf (s : State) (p : Nat) : Nat :=
  if s.role = roleShadow then (s.scu p).records.length
  else ((s.scu p).digests.filter (fun d => d.1 != 0)).length

/-- Refresh MIR_STAT.LAG. -/
def State.refreshLag (s : State) : State :=
  s.setFld rMirStat 31 24 (satTo 8 ((List.range 16).foldl (fun a q => if s.mirrored q then max a (s.lagOf q) else a) 0))

/-- Whether the partner's copy of a partition is being made, or waits to be made (R361, R369). -/
def State.syncing (s : State) (p : Nat) : Bool :=
  s.mirror.waitSync.contains p
    || ((s.fld rMirRsync 63 62 == 1 || s.fld rMirRsync 63 62 == 2)
      && (match s.mirror.only with | some q => q == p | none => s.mirrored p))

/-- COMPOSE. A mirrored partition's SOLO or PRIMARY decides for itself, and a PRIMARY sends its record; its
SHADOW composes with the primary's record for that step, once what the record builds on is there (R296, R442). It runs
the step in the first serving slot after that, but not before the slot that the primary found for it. DESIGN CHOICE
(log 101). During cutover only empty steps are composed (R369). -/
def State.compose (s : State) (p : Nat) : State :=
  let x := s.scu p
  let n := s.fld (rScu p + 0x70) 63 0 + 1
  if !x.due || x.composed.isSome || !s.fbit (rScu p) 63 || s.halted || !s.ready || !s.validPart p then s
  else if s.mirrored p && (s.role == roleFenced || s.role == roleJoining || s.fbit rMirStat (32 + p)) then s
  else if s.mirrored p && s.role == roleShadow then
    match x.records with
    | d :: t =>
      if d.step ≠ n ∨ !s.recordMet p d then s
      else
        let s := s.modScu p (fun x => { x with records := t })
        let s := d.moves.foldl (fun s k => s.moveFound p k) s
        let s := if d.variantDone.isSome then s.variantSwapDone p else s
        (s.composeWith p d false (max s.now (d.slotAt.getD 0))).refreshLag
    | [] => s
  else
    let s := ((x.moves.filter (·.landed)).map (·.name)).foldl (fun s k => s.moveFound p k) s
    let d := s.decisions p n
    let s := if s.mirrored p && s.role == rolePrimary then
        s.withMirror { s.mirror with recsSent := s.mirror.recsSent ++ [d] } else s
    let s := s.variantSwapDone p
    s.composeWith p d (s.fld rMirRsync 63 62 == 2 && s.syncing p) (s.now + 1000)

/-! ### Rows -/

/-- SCU_ENABLE: ENABLE becomes 1, and composition of the first step may begin (R302). -/
def State.scuEnable (s : State) (p : Nat) : State :=
  if s.fbit (rScu p) 63 then s
  else (s.setBit (rScu p) 63 true).modScu p (fun x => { x with due := x.composed.isNone && x.running.isNone })

def execScuEnable (p : PartId) (s : State) : Host.Outcome State Fault Refusal := .next (s.scuEnable p.val)

/-- COMPOSE. -/
def execCompose (p : PartId) (s : State) : Host.Outcome State Fault Refusal := .next (s.compose p.val)

/-- VARIANT_SWAP_DONE: at a composition that may begin, a completed copy makes its variant resident (R322).
In a pair the composition itself does this, with its record (R296). -/
def execVariantSwapDone (p : PartId) (s : State) : Host.Outcome State Fault Refusal :=
  .next (if (s.scu p.val).due && !s.halted && !(s.mirrored p.val
      && s.role != roleSolo) then s.variantSwapDone p.val else s)

end Sys2Proof.Machine
end

