-- ==== Sys2Proof/Machine/Sampling.lean ====
section
/-! DEFINITION. Sampling at step completion (R307, R316, R318 to R321): logit rows, penalties, the choice of
the token, the count table, finish conditions, token records, new prefix entries, and the moves a step
carried. -/

namespace Sys2Proof.Machine

/-- Bytes of one logit, and of one logit row (R304). -/
def State.logitBytes (s : State) (p v : Nat) : Nat := if bit (s.varW p v 0) 60 then 4 else 2

def State.logitStride (s : State) (p v : Nat) : Nat := ceilDiv (s.vocab p v * s.logitBytes p v) 64 * 64

/-- The logits of row k as FP32 values; NaN counts as −infinity. -/
def State.logits (s : State) (p v k : Nat) : List Val × State :=
  let b := s.logitBytes p v
  let n := s.vocab p v
  let (bs, s) := s.scuRead p (s.scuBase p 0x28 + k * s.logitStride p v) (n * b)
  let f := if b = 4 then Fmt.fp32 else Fmt.bf16
  (((chunks b n bs).map (fun c => decode f (leNat c))).map (fun z => if isNan z then negInf else z), s)

/-! ### R318 -/

def bfVal (w : W64) (hi lo : Nat) : Val := decode .bf16 (bf w hi lo)

def nanLow (z : Val) : Val := if isNan z then negInf else z

/-- Step 1 on one logit with count c. -/
def penalty (r : Req) (z : Val) (c : Nat) : Val :=
  let rep := bfVal r.w7 63 48
  let rep := if vlt vzero rep then rep else one
  let z := if vlt vzero z then r32 (vdiv z rep) else r32 (vmul z rep)
  let z := r32 (vadd z (vneg (r32 (vmul (ofInt c) (bfVal r.w7 47 32)))))
  nanLow (r32 (vadd z (vneg (bfVal r.w7 31 16))))

def penalised (r : Req) (zs : List Val) : List Val :=
  r.counts.foldl (fun zs e => zs.set e.1 (penalty r (zs.getD e.1 negInf) e.2)) zs

/-- Index of the largest value, the lowest among equals. -/
def argmax (zs : List Val) : Nat :=
  ((pickBy (fun (a b : Nat × Val) => vlt b.2 a.2) (List.zip (List.range zs.length) zs)).map (·.1)).getD 0

def isFinite : Val → Bool
  | .fin _ _ _ => true
  | _ => false

/-- The k finite logits of largest value, by value then token. -/
def candidates (k : Nat) (zs : List Val) : List (Nat × Val) :=
  (List.zip (List.range zs.length) zs).foldl (fun acc x =>
    if isFinite x.2 then (insertBy (fun (a b : Nat × Val) => vlt b.2 a.2) x acc).take k else acc) []

/-- log2 e of step 4. -/
def log2e : Val := decode .fp32 0x3FB8AA3B

/-- Candidates with their weights (step 4). -/
def weights (r : Req) (cs : List (Nat × Val)) : List (Nat × Val) :=
  let t := r32 (vdiv log2e (bfVal r.w6 63 48))
  let z0 := (cs.map (·.2)).headD vzero
  cs.map (fun c => (c.1, exp2r (r32 (vmul (r32 (vadd c.2 (vneg z0))) t))))

/-- Shortest prefix whose chain sum reaches lim. -/
def prefixTo (lim : Val) : Option Val → List (Nat × Val) → List (Nat × Val)
  | _, [] => []
  | a, c :: t =>
    let sum := match a with | none => c.2 | some x => r32 (vadd x c.2)
    if vleq lim sum then [c] else c :: prefixTo lim (some sum) t

/-- Step 5. -/
def kept (r : Req) (ws : List (Nat × Val)) : List (Nat × Val) :=
  let minp := bfVal r.w6 31 16
  let topp := bfVal r.w6 47 32
  let ws := ws.filter (fun c => !vlt c.2 minp)
  if vlt vzero topp && vlt topp one then prefixTo (r32 (vmul topp (chainSum r32 (ws.map (·.2))))) none ws else ws

/-- First kept candidate whose running chain sum exceeds lim, else the last. -/
def drawFrom (lim : Val) : Option Val → List (Nat × Val) → Option Nat
  | _, [] => none
  | a, c :: t =>
    let sum := match a with | none => c.2 | some x => r32 (vadd x c.2)
    if vlt lim sum || t.isEmpty then some c.1 else drawFrom lim (some sum) t

/-- u of R320 for a storing position. -/
def drawU (r : Req) (pos : Nat) : Val :=
  .fin false (beNat ((sha256 (leBytes 8 r.w5.toNat ++ leBytes 4 pos ++ [0, 0, 0, 0])).take 3)) (-24)

/-- The sampled token, none when every logit is −infinity; open_ stands where no candidate is left. -/
def sampleToken (r : Req) (pos : Nat) (zs : List Val) (open_ : Nat) : Option Nat :=
  let zs := penalised r zs
  if zs.all isNegInf then none
  else
    let topk := bf r.w6 10 0
    if !vlt vzero (bfVal r.w6 63 48) || topk == 1 then some (argmax zs)
    else
      let ks := kept r (weights r (candidates (if topk = 0 then 1024 else min topk 1024) zs))
      let lim := r32 (vmul (drawU r pos) (chainSum r32 (ks.map (·.2))))
      some ((drawFrom lim none ks).getD open_)

/-! ### Delivery -/

/-- Count a generated token (R319). -/
def State.countToken (s : State) (p i tok : Nat) : State :=
  let r := s.req i
  let c := sget 0 r.counts tok
  if c > 0 then s.modReq i (fun r => { r with counts := sset 0 r.counts tok (satTo 16 (c + 1)) })
  else if r.counts.length < 4096 then
    s.modReq i (fun r => { r with counts := sset 0 r.counts tok 1, w7 := setBf r.w7 15 0 (r.counts.length + 1) })
  else (s.modReq i (fun r => r.set0 54 54 1)).incFld (rScu p + 0x68) 63 32

/-- Why a request finishes with its sampled token (R318, R321). -/
def State.finishReason (s : State) (p i : Nat) (tok : Option Nat) : Nat :=
  let r := s.req i
  let w3 := s.varW p r.variant 3
  match tok with
  | none => reasonNologit
  | some t =>
    if t = bf w3 63 32 ∨ t = bf w3 31 0 then reasonEnd
    else if r.gen ≥ r.maxNew then reasonMaxNew
    else if r.pos + 1 = s.capacity p then reasonContext
    else 0

/-- Sample row k for request i, whose POS is already its storing position, and post its TOKEN record.
Answers the record's words too. A finish condition sets REASON; the entry
becomes FINISHED at the next composition (R294). -/
def State.sampleRow (s : State) (p n i k : Nat) : List W64 × State :=
  let r := s.req i
  let (zs, s) := s.logits p r.variant k
  let open_ := (Config.freeWord s.free k).toNat % max 1 (s.vocab p r.variant)
  let tok := sampleToken r r.pos zs open_
  let t := tok.getD (bf (s.varW p r.variant 3) 63 32)
  let s := s.withFree (s.free + 1)
  let s := s.modReq i (fun r => { r with w2 := setBf r.w2 31 0 (r.gen + 1) })
  let s := s.countToken p i t
  let s := s.scuWrite p (s.tokAddr p i r.pos) (le32 t)
  let why := s.finishReason p i tok
  let s := if why = 0 then s
    else
      let seen := (s.scu p).acts.any (fun a => a.1 == 2 && a.2 == i)
      s.modReq i (fun r => (r.set0 37 35 why).set0 56 56 (boolNat seen))
  let r := s.req i
  let late := r.late || (r.w4 != 0 && decide (s.now ≥ r.w4.toNat))
  let w0 := evWord 5 p (boolNat (bit r.w0 56) * 2 ^ 52 + boolNat (bit r.w0 54) * 2 ^ 51 + boolNat late * 2 ^ 50
    + boolNat (why != 0) * 2 ^ 49 + why * 2 ^ 46 + i % 2 ^ 14 * 2 ^ 32 + t % 2 ^ 32)
  let w2 := BitVec.ofNat 64 (r.pos * 2 ^ 32 + r.tag)
  ([w0, s.nowWord, w2, BitVec.ofNat 64 n], s.postAt (p + 1) w0 s.now w2 n)

/-! ### Prefix entries (R316) -/

/-- Full prompt blocks that a piece completed and no entry holds become entries. -/
def State.newEntries (s : State) (p : Nat) (x : Piece) : State :=
  let r := s.req x.req
  if s.varWin p r.variant then s
  else
    (List.range ((x.pos + x.len) / 64 - x.pos / 64)).foldl (fun s j =>
      let b := x.pos / 64 + j
      let r := s.req x.req
      match r.hashes[b]?, r.stash[b]? with
      | some h, some st =>
        if (s.scu p).prefixes.any (fun e => e.hash == h) then s
        else
          let mine := r.pages.filter (fun g => g.page == b && g.addr.isSome)
          let e : PrefixEntry :=
            { hash := h, variant := r.variant, block := b, pages := mine.map (fun g => (g.layer, g.addr.getD 0))
              stash := st, refs := 1, used := (s.scu p).stamp }
          let s := s.modScu p (fun y => { y with prefixes := y.prefixes ++ [e] })
          s.modReq x.req (fun r => r.setPages (r.pages.map (fun g => if g.page == b
              && g.addr.isSome then { g with shared := true } else g)))
      | _, _ => s) s

/-- The piece's request after the step: POS, new entries, and the stash given back at the prompt's end. -/
def State.pieceDone (s : State) (p : Nat) (x : Piece) : State :=
  let s := s.modReq x.req (fun r => r.setPos (x.pos + x.len))
  let s := s.newEntries p x
  if x.last then
    let st := (s.req x.req).stash
    (st.foldl (fun s b => s.stashFree p b) s).modReq x.req (fun r => { r with stash := [] })
  else s

/-- Moves that step n carried: outs wait for their copy to the tier, ins are in place. -/
def State.movesCarried (s : State) (p n : Nat) : State :=
  let ms := (s.scu p).moves.filter (fun m => m.step == some n)
  ms.foldl (fun s m =>
    let same := fun (x : PageMove) => x.req == m.req && x.layer == m.layer && x.page == m.page && x.inward == m.inward
    if m.inward then
      let s := s.modScu p (fun y => { y with moves := y.moves.filter (fun x => !same x) })
      let s := s.modReq m.req (fun r =>
        let ps := r.pages.map (fun g => if g.layer == m.layer && g.page == m.page then { g with tier := none } else g)
        (r.setPages ps).setTiered)
      (s.pgtWrite p m.req m.layer m.page (some m.addr)).stageIns p
    else s.modScu p (fun y => { y with moves := y.moves.map (fun x => if same x then { x with ready := true } else x) })) s

/-- SAMPLE: what the completion of a composed step does (R302, R307, R318). Answers its token records. -/
def State.sampleStep (s : State) (p : Nat) (x : Composed) : List (List W64) × State :=
  let s := x.decodes.foldl (fun s i => s.modReq i (fun r => r.setPos (r.pos + 1))) s
  let s := x.pieces.foldl (fun s q => s.pieceDone p q) s
  let rows := x.decodes ++ (x.pieces.filter (·.last)).map (·.req)
  let (recs, s) := (List.zip (List.range rows.length) rows).foldl (fun (a : List (List W64) × State) q =>
    let (w, s) := a.2.sampleRow p x.n q.2 q.1
    (a.1 ++ [w], s)) ([], s)
  let s := if x.empty then s else s.movesCarried p x.n
  (recs, s.modScu p (fun y => { y with running := none, due := true }))

end Sys2Proof.Machine
end

