-- ==== Sys2Proof/Machine/Mirror.lean ====
section
/-! DEFINITION. The mirror pair (chapter 13): roles, heartbeats, lease and promotion (R353, R362 to R367),
composition records and digests (R356 to R361), resynchronisation (R369), and the failure of a cluster (R23). -/

namespace Sys2Proof.Machine

/-! ### Roles -/

/-- MIR_HB.PERIOD in ns. -/
def State.hbPeriod (s : State) : Nat := s.fld rMirHb 31 0 * 1000

/-- MIR_HB.MISS; below 2 acts as 2. -/
def State.hbMiss (s : State) : Nat := max 2 (s.fld rMirHb 39 32)

/-- Whether a frame's cluster belongs to a mirrored partition. -/
def State.mirroredFrame (s : State) (f : Frame) : Bool :=
  let h := frameHdr f
  carriesData h && (match s.partOf h.cluster with | some p => s.mirrored p | none => false)

/-- Remote writes of mirrored partitions that wait in the module are discarded: it no longer transmits for
them (R358, R363). -/
def State.dropMirrored (s : State) : State :=
  s.links.foldl (fun s e =>
    let x := s.link e.1
    let held := x.sendQ.take x.inCells
    let kept := held.filter (fun f => !s.mirroredFrame f)
    let gone := (x.sendQ.drop x.inCells ++ x.winQ).filter s.mirroredFrame
    let s' := gone.foldl (fun (s : State) f => s.unstage f) s
    (s'.setLink e.1 { x with
      sendQ := x.sendQ.filter (fun f => !s.mirroredFrame f)
      inCells := kept.length
      winQ := x.winQ.filter (fun f => !s.mirroredFrame f) }).txFreed e.1 (held.length - kept.length)) s

/-- SETROLE 1: JOINING, from SOLO or FENCED (Table 13.2). -/
def State.setroleJoining (s : State) : State :=
  if s.role = roleSolo ∨ s.role = roleFenced then (s.setRole roleJoining).dropMirrored else s

/-- SETROLE 2: SOLO, from FENCED. -/
def State.setroleSolo (s : State) : State := if s.role = roleFenced then s.dropMirrored.setRole roleSolo else s

/-! ### Heartbeats (R362 to R365) -/

/-- HEARTBEAT_SEND. -/
def State.heartbeatSend (s : State) : State :=
  if s.role = roleSolo ∨ s.role = rolePrimary ∨ s.role = roleShadow then s.sendHeartbeat false false else s

/-- A shadow begins to promote itself. -/
def State.promote (s : State) : State :=
  if s.role = roleShadow ∧ s.mirror.promoting.isNone then s.withMirror { s.mirror with promoting := some s.now } else s

/-- HEARTBEAT_RECEIVE, while the port is up. -/
def State.heartbeatReceive (s : State) (h : Heartbeat) : State :=
  if !s.mirUp then s
  else
  let s := s.withMirror { s.mirror with lastRx := some s.now, acks := s.mirror.acks ++ [h.time] }
  let s := if h.failed then s.setBit rMirStat 58 true else s
  if s.role = rolePrimary ∧ h.failed then s.setRole roleSolo
  else if h.fenced || h.failed then s.promote else s

/-- HEARTBEAT_ACK: the acknowledgement of the heartbeat sent at a given time. -/
def State.heartbeatAck (s : State) (sent : Nat) : State :=
  if s.mirUp && s.mirror.sent.any (fun h => h.time == sent) then
    s.withMirror { s.mirror with acked := some (max sent (s.mirror.acked.getD 0)) }
  else s

/-- LEASE_EXPIRY (R363). -/
def State.leaseExpiry (s : State) : State :=
  if s.role ≠ rolePrimary ∨ s.now < s.mirror.acked.getD 0 + (s.hbMiss - 1) * s.hbPeriod then s
  else (((s.sendHeartbeat true false).setRole roleFenced).setBit rMirStat 56 true).dropMirrored

/-- HEARTBEAT_MISS (R364). -/
def State.heartbeatMissed (s : State) : State :=
  match s.mirror.lastRx with
  | some t => if t + s.hbMiss * s.hbPeriod ≤ s.now then s.promote else s
  | none => s

/-! ### Promotion (R364, R367) -/

/-- Openings on a link of the send windows of a partition's current slot, the last to have started, and of the slot
before it (R367). -/
def State.recentWins (s : State) (l p : Nat) : List Nat :=
  let now := match pickBy (fun a b => decide (b.2.start < a.2.start)) (s.runs p) with
    | some r => ((s.winsOf p).filter (fun w => w.key == r.1 && w.e.link == l && !w.e.recv)).map (·.opening)
    | none => []
  now ++ ((s.part p).keptWins.filter (fun k => k.1 == l)).map (·.2)

/-- What a promoted module sends of the data its windows kept: open and coming windows transmit normally,
windows closed in the current or the previous slot go out LATE (R367). -/
def State.promoteFrames (s : State) (l : Nat) : State :=
  let x := s.link l
  let ws := s.winsOn l false
  let named := fun (f : Frame) (ts : List Nat) => ts.any (fun t => f.w3.toNat == t % 2 ^ 64)
  let recent := (List.range 16).flatMap (fun p => s.recentWins l p)
  let coming := fun (f : Frame) => named f ((ws.filter (fun w => !w.run.closed)).map (·.opening))
  let now := fun (f : Frame) => named f ((ws.filter (fun w => !w.run.closed && w.run.opened
      && w.run.unsched)).map (·.opening))
  let late := x.winQ.filter (fun f => !coming f && named f recent)
  let gone := x.winQ.filter (fun f => !coming f && !named f recent)
  let s := gone.foldl (fun (s : State) f => s.unstage f) s
  (s.setLink l { x with
    winQ := x.winQ.filter (fun f => coming f && !now f)
    sendQ := x.sendQ ++ (x.winQ.filter now).map (fun f => frameStamp f (fun h => { h with vc := 1 }))
      ++ late.map (fun f => frameStamp f (fun h => { h with vc := 1, late := true })) }).pump l

/-- PROMOTION_DONE: SOLO, PROMO_EV, and one event for each partition that is out of sync, whose ENABLE stays
0, or one naming none. -/
def State.promotionDone (s : State) : State :=
  if s.role ≠ roleShadow ∨ s.mirror.promoting.isNone then s
  else
    let s := s.withMirror { s.mirror with promoting := none }
    let s := (s.setRole roleSolo).setBit rMirStat 57 true
    let oos := (List.range 16).filter (fun p => s.mirrored p && s.fbit rMirStat (32 + p))
    let s := oos.foldl (fun s p => (s.setBit (rScu p) 63 false).pfev 3 p) s
    let s := if oos.isEmpty then s.pfev 3 0 else s
    let s := (List.range 16).foldl (fun (s : State) p =>
      if s.mirrored p then s.modScu p (fun x => { x with records := [], digests := [], theirs := [] }) else s) s
    let s := s.refreshLag
    (s.links.map (·.1)).foldl (fun s l => s.promoteFrames l) s

/-! ### Resynchronisation (R369) -/

/-- 2 MiB pages of a partition's memory, in the copy map's numbering. -/
def Template.pages (t : Template) : List Nat :=
  let chans := t.chans.flatMap (fun k => (List.range 2304).map (fun j => (k / 16) * (stackBytes / 2 ^ 21) + 16 * j + k % 16))
  let slices := t.slices.flatMap (fun i => (List.range 128).map (fun j => 2 ^ 20 + 128 * i + j))
  let stores := (bitsOf t.clusters 32).flatMap (fun c => (List.range 4).map (fun j => 2 ^ 21 + 4 * c + j))
  chans ++ slices ++ stores

/-- Partitions that a copy covers: one, or all of MIR_CTL.PARTS. -/
def State.syncParts (s : State) (only : Option Nat) : List Nat :=
  match only with
  | some p => [p]
  | none => (List.range 16).filter (fun p => s.mirrored p && s.validPart p)

/-- Start the bulk copy of some partitions. -/
def State.rsyncStart (s : State) (only : Option Nat) : State :=
  (s.withMirror { s.mirror with
    copyMap := sortBy (fun a b => decide (a ≤ b)) ((s.syncParts only).flatMap (fun p => (s.tmpl p).pages))
    copied := [], only := only }).setFld rMirRsync 63 62 1

/-- RSYNC: SOLO or PRIMARY only. -/
def State.rsync (s : State) : State :=
  if s.role = roleSolo ∨ s.role = rolePrimary then s.rsyncStart none else s

/-- MIR_RSYNC.LEFT. -/
def State.rsyncLeft (s : State) : Nat := s.mirror.copyMap.length

/-- Whether the copy engine may read a page now: the row path works on a processor-mode channel only while it holds no
list (R246), and a refresh makes its accesses wait (R239). -/
def State.pageFree (s : State) (k : Nat) : Bool :=
  match pageBase k with
  | (.stack, a) =>
    let ch := s.chan (chanOfPa a)
    ch.refreshing.isNone && (ch.state == .memory || ch.lists.isEmpty)
  | _ => true

/-- A line of a channel read die word by die word through the per-die code: its bytes, and whether it is sent as poison
(R246, R247). A word whose errors pass for a single one reads as free bytes. -/
def State.rowLine (s : State) (k a : Nat) : List Byte × Bool × State :=
  let e := s.errOf .stack a
  let o := s.errOf .stack (if (a / 64) % 2 = 0 then a + 64 else a - 64)
  let n := fun (d : Nat) => flipCount (flipsOf e d) + flipCount (flipsOf o d)
  let failing := (List.range 16).filter (fun d => dieReport (flipsOf e d) (flipsOf o d))
  let single := (List.range 16).filter (fun d => !failing.contains d && n d == 1)
  let bytes := (List.range 64).map (fun i =>
    if n (i / 4) > 1 && !failing.contains (i / 4) then Config.freeByte s.free i else mget s.stackMem (a + i))
  (bytes, e.poison || !failing.isEmpty, (s.withFree (s.free + 1)).noteDies k a single failing)

/-- The units of a page that hold errors, as offsets in it; of a stack, with the line that shares their die words. -/
def State.badUnits (s : State) (sp : Space) (a : Nat) : List Nat :=
  let u := unitBytes sp
  let lo := errKey sp a
  let own := (s.integ.errs.filter (fun e => decide (lo ≤ e.1)
      && decide (e.1 < lo + 2 ^ 21 / u))).map (fun e => (e.1 - lo) * u)
  if sp = .stack then (own.flatMap (fun o => [o / 128 * 128, o / 128 * 128 + 64])).eraseDups else own

/-- Send a page to the partner: its bytes as they read, and its units that are sent as poison (R369). -/
def State.sendPage (s : State) (k : Nat) : State :=
  let (sp, a) := pageBase k
  let rows : Bool := match sp with
    | .stack => (s.chan (chanOfPa a)).state != .memory
    | _ => false
  let cells := ((s.memOf sp).filter (fun c => decide (a ≤ c.1) && decide (c.1 < a + 2 ^ 21))).map (fun c => (c.1 - a,
      c.2))
  let (bytes, bad, s) := (s.badUnits sp a).foldl (fun (x : List (Nat × Byte) × List Nat × State) o =>
    let (bs, poison, s) := if rows then x.2.2.rowLine (chanOfPa a) (a + o) else x.2.2.readRun sp (a + o) (unitBytes sp)
    let kept := x.1.filter (fun c => decide (c.1 < o) || decide (o + bs.length ≤ c.1))
    (kept ++ List.zipWith (fun i b => (o + i, b)) (List.range bs.length) bs, if poison then x.2.1 ++ [o] else x.2.1, s))
    (cells, [], s)
  s.withMirror { s.mirror with
    forwarded := s.mirror.forwarded ++ [.page k bytes bad]
    copied := linsert k s.mirror.copied
    copyMap := s.mirror.copyMap.filter (· != k) }

/-- The copy engine sends up to n marked pages, in the BKGD time of the sender's slots; it passes over those that it may
not read now, and after a trip there is nothing to read (R450). -/
def State.rsyncCopy (s : State) (n : Nat) : State :=
  let ph := s.fld rMirRsync 63 62
  if (ph = 1 ∨ ph = 2) ∧ s.mirUp ∧ !s.tripped then ((s.mirror.copyMap.filter s.pageFree).take n).foldl State.sendPage s else s

/-- CUTOVER. -/
def State.cutover (s : State) : State :=
  if s.fld rMirRsync 63 62 = 1 ∧ s.rsyncLeft ≤ s.fld rMirCtl 15 0 then s.setFld rMirRsync 63 62 2 else s

/-- Registers that belong to the serving state of a partition: its control, counts and step number, the pointers of its
galley, and the residency of its variants. -/
def scuRegs (p : Nat) : List Nat :=
  [rScu p, rScu p + 0x60, rScu p + 0x68, rScu p + 0x70, rGtail (p + 1), rGhead (p + 1)]
      ++ (List.range 64).flatMap (fun v => [rVariant p v 0, rVariant p v 2])

/-- What the sender sends of a partition beside its memory: SCU state, and request table entries with their count tables
(R369). DESIGN CHOICE (log 69). -/
def State.servingOf (s : State) (p : Nat) : MirrorMsg :=
  let t := s.tmpl p
  .serving (Fin.ofNat 16 p) { s.scu p with records := [], digests := [], theirs := [], doneMoves := [] }
    ((s.reqs.filter (fun e => decide (t.rqBase ≤ e.1) && decide (e.1 < t.rqBase + t.rqCount))).map (fun e => (e.1, e.2)))
    ((scuRegs p).map (fun k => (k, s.reg k)))

/-- The digests of some partitions begin with the next step. -/
def State.freshDigests (s : State) (ps : List Nat) : State :=
  ps.foldl (fun s p => s.modScu p (fun x => { x with records := [], digests := [], theirs := [], doneMoves := [] })) s

/-- Whether no step of some partitions runs: a copy ends between two steps, so that digests begin with the next (R369). -/
def State.betweenSteps (s : State) (ps : List Nat) : Bool :=
  ps.all (fun p => (s.runs p).all (fun r => r.2.phase != .step))

/-- RSYNC_COMPLETE on the sender once LEFT is 0: the serving state follows the pages; a SOLO that has copied everything
becomes PRIMARY (Table 13.1). A partition that waits for the same comes next. -/
def State.rsyncSent (s : State) : State :=
  let ps := s.syncParts s.mirror.only
  let s := s.withMirror { s.mirror with
    forwarded := s.mirror.forwarded ++ ps.map s.servingOf ++ [.complete (s.mirror.only.map (Fin.ofNat 16))] }
  let s := (s.freshDigests ps).setFld rMirRsync 63 62 3
  let s := if s.role = roleSolo && s.mirror.only.isNone then
      (s.withMirror { s.mirror with acked := some s.now }).setRole rolePrimary else s
  let s := (s.withMirror { s.mirror with copied := [], only := none }).refreshLag
  match s.mirror.waitSync with
  | [] => s
  | p :: t => (s.withMirror { s.mirror with waitSync := t }).rsyncStart (some p)

/-- RSYNC_COMPLETE on the receiver, once the sender has completed a copy: a JOINING module becomes SHADOW, and a
SHADOW's partition is in sync again. Pages that wait for a refresh land first. -/
def State.rsyncTaken (s : State) : State :=
  match s.mirror.handed with
  | [] => s
  | x :: t =>
    if s.host.waits.any HostAcc.isPage then s else
    let ps := s.syncParts x
    let s := (s.withMirror { s.mirror with handed := t }).freshDigests ps
    let s := (ps.foldl (fun s p => s.setBit rMirStat (32 + p) false) s).refreshLag
    if s.role = roleJoining ∧ x.isNone then s.setRole roleShadow else s

/-- RSYNC_COMPLETE. -/
def State.rsyncComplete (s : State) : State :=
  if s.role = roleJoining ∨ s.role = roleShadow then s.rsyncTaken
  else if s.fld rMirRsync 63 62 = 2 ∧ s.rsyncLeft = 0 ∧ s.mirUp
      ∧ s.betweenSteps (s.syncParts s.mirror.only) then s.rsyncSent
  else s

/-! ### Divergence (R360, R361) -/

/-- A divergence of partition p: MIR_DIV and the digests are filled, and DIVPOL applied. -/
def State.diverge (s : State) (p cause step : Nat) (dp ds : W64) : State :=
  let s := s.setBit rMirStat 55 true
  let s := s.setReg rMirDiv (BitVec.ofNat 64 (p * 2 ^ 60 + cause * 2 ^ 56 + step % 2 ^ 32))
  let s := (s.setReg rMirDigp dp).setReg rMirDigs ds
  let pol := s.fld rMirCtl 47 46
  if pol = 1 then s.haltOwn 4
  else if pol = 2 then s
  else
    let s := (s.freshDigests [p]).refreshLag
    if s.role = roleShadow then (s.setBit rMirStat (32 + p) true).setBit (rScu p) 63 false
    else if s.fld rMirRsync 63 62 = 1 ∨ s.fld rMirRsync 63 62 = 2 then
      s.withMirror { s.mirror with waitSync := linsert p s.mirror.waitSync }
    else s.rsyncStart (some p)

/-- Refresh MIR_STAT.LAG; a partition in sync whose lag exceeds LAGMAX has diverged (cause 2), and the partner is told, so
that both modules take it as diverged (R361). DESIGN CHOICE (log 121). -/
def State.noteLag (s : State) (p : Nat) : State :=
  let s := s.refreshLag
  if s.lagOf p > s.fld rMirCtl 31 24 ∧ !s.fbit rMirStat (32 + p) then
    let n := s.fld (rScu p + 0x70) 31 0
    (s.withMirror { s.mirror with forwarded := s.mirror.forwarded ++ [.lagged (Fin.ofNat 16 p) n] }).diverge p 2 n 0 0
  else s

/-- Compare this module's digest of a step with the partner's. -/
def State.compareDigest (s : State) (p n : Nat) (mine theirs : W64) : State :=
  if mine = theirs then s
  else if s.role = roleShadow then s.diverge p 1 n theirs mine else s.diverge p 1 n mine theirs

def dropFirst {α : Type} (ok : α → Bool) : List α → List α
  | [] => []
  | h :: t => if ok h then t else h :: dropFirst ok t

/-- Whether the digests of a partition are formed and compared: it runs on both modules of the pair, in sync. -/
def State.digested (s : State) (p : Nat) : Bool :=
  s.mirrored p && (s.role == rolePrimary || s.role == roleShadow) && !s.fbit rMirStat (32 + p)
    && !(s.role == rolePrimary && s.syncing p)

/-- This module's digest of a step of a mirrored partition; it is sent to the partner and compared. -/
def State.formDigest (s : State) (p n : Nat) (d : W64) : State :=
  if !s.digested p then s
  else
    let s := s.withMirror { s.mirror with digSent := s.mirror.digSent ++ [(p, n, d)] }
    match (s.scu p).theirs.lookup n with
    | some t =>
      ((s.modScu p (fun x => { x with theirs := dropFirst (fun e => e.1 == n) x.theirs })).compareDigest p n d t).refreshLag
    | none => (s.modScu p (fun x => { x with digests := x.digests ++ [(n, d)] })).noteLag p

/-- The partner has found the lag above LAGMAX: this module has diverged too, unless it has found so itself. -/
def State.takeLagged (s : State) (p n : Nat) : State := if s.digested p then s.diverge p 2 n 0 0 else s

/-- DIGEST: the partner's digest of a step. -/
def State.takeDigest (s : State) (p n : Nat) (d : W64) : State :=
  if !s.digested p then s
  else
    match (s.scu p).digests.lookup n with
    | some m =>
      ((s.modScu p (fun x => { x with digests := dropFirst (fun e => e.1 == n) x.digests })).compareDigest p n m d).noteLag p
    | none => s.modScu p (fun x => { x with theirs := x.theirs ++ [(n, d)] })

/-- COMPOSITION_RECORD (R356, R359). -/
def State.takeRecord (s : State) (p : Nat) (r : CompRecord) : State :=
  if s.role ≠ roleShadow ∨ !s.mirrored p ∨ s.fbit rMirStat (32 + p) then s
  else (s.modScu p (fun x => { x with records := x.records ++ [r] })).noteLag p

/-! ### Failure of a cluster (R23, R411) -/

/-- CLUSTER_FAIL: the first failed cluster of a C-die is absorbed by its spare at a boundary of R22; a second
is a module failure, and takes nothing out of service. -/
def State.clusterFail (s : State) (d phys : Nat) : State :=
  let old := s.integ.failedClusters.filter (fun f => f.1 == d)
  if old.any (fun f => f.2 == phys) then s
  else
    let s := s.withInteg { s.integ with failedClusters := s.integ.failedClusters ++ [(d, phys)] }
    if !old.isEmpty then s.moduleFail
    else
      let w : RetWord := BitVec.ofNat 64 (4 * 2 ^ 60 + d * 2 ^ 56 + phys * 2 ^ 49)
      let s := ((s.withInteg { s.integ with retired := s.integ.retired ++ [w] }).recordRetirement w (4 * d)).pfev 4 0
      s.setPendingOut d (if s.clmapOut d = phys then none else some phys)

/-! ### The rows -/

/-- HEARTBEAT_SEND. -/
def execHeartbeatSend (s : State) : Host.Outcome State Fault Refusal := .next s.heartbeatSend

/-- HEARTBEAT_RECEIVE. -/
def execHeartbeatReceive (h : Heartbeat) (s : State) : Host.Outcome State Fault Refusal := .next (s.heartbeatReceive h)

/-- HEARTBEAT_ACK. -/
def execHeartbeatAck (sent : Nat) (s : State) : Host.Outcome State Fault Refusal := .next (s.heartbeatAck sent)

/-- LEASE_EXPIRY. -/
def execLeaseExpiry (s : State) : Host.Outcome State Fault Refusal := .next s.leaseExpiry

/-- HEARTBEAT_MISS. -/
def execHeartbeatMiss (s : State) : Host.Outcome State Fault Refusal := .next s.heartbeatMissed

/-- PROMOTION_DONE. -/
def execPromotionDone (s : State) : Host.Outcome State Fault Refusal := .next s.promotionDone

/-- SETROLE_JOINING. -/
def execSetroleJoining (s : State) : Host.Outcome State Fault Refusal := .next s.setroleJoining

/-- SETROLE_SOLO. -/
def execSetroleSolo (s : State) : Host.Outcome State Fault Refusal := .next s.setroleSolo

/-- RSYNC. -/
def execRsync (s : State) : Host.Outcome State Fault Refusal := .next s.rsync

/-- CUTOVER. -/
def execCutover (s : State) : Host.Outcome State Fault Refusal := .next s.cutover

/-- RSYNC_COMPLETE. -/
def execRsyncComplete (s : State) : Host.Outcome State Fault Refusal := .next s.rsyncComplete

/-- DIGEST. -/
def execDigest (p : PartId) (step : Nat) (d : W64) (s : State) : Host.Outcome State Fault Refusal :=
  .next (s.takeDigest p.val step d)

/-- COMPOSITION_RECORD. -/
def execCompositionRecord (p : PartId) (r : CompRecord) (s : State) : Host.Outcome State Fault Refusal :=
  .next (s.takeRecord p.val r)

/-- CLUSTER_FAIL. -/
def execClusterFail (d : DieId) (phys : Fin 17) (s : State) : Host.Outcome State Fault Refusal :=
  .next (s.clusterFail d.val phys.val)

end Sys2Proof.Machine
end

