-- ==== Sys2Proof/Machine/TimetableRows.lean ====
section
/-! DEFINITION. Running the timetable: the start of a slot (R46, R56, R67, R74, R75, R302), completion of
its step (R77, R79, R80), the MODESW, SWAP and MAINT duties (R46, R47, R225), overruns (R64 to R69), and
background time (R369). -/

namespace Sys2Proof.Machine

/-! ### Starting a slot -/

/-- Host-written parameter block of slot n (R389): eight 32-bit values. -/
def State.hostParams (s : State) (p n : Nat) : List Nat :=
  (List.range 8).map (fun k => bf (s.reg (rParam p n + 8 * (k / 2))) (32 * (k % 2) + 31) (32 * (k % 2)))

/-- Windows of a slot, with the bytes that early frames already landed (R54). -/
def State.claimEarly (s : State) (p key : Nat) : State :=
  ((s.winsOf p).filter (fun w => w.key == key && w.e.recv)).foldl (fun s w =>
    match (s.link w.e.link).early.lookup w.opening with
    | none => s
    | some n =>
      let s := s.modLink w.e.link (fun x => { x with early := x.early.filter (fun e => e.1 != w.opening) })
      s.landBytes w.e.link w true n) s

/-- The slot that ran last becomes the one before: a shadow keeps the windowed data of that slot and of the runs that
still stand, and no other (R367). -/
def State.pruneKept (s : State) (p : Nat) : State :=
  if !s.mirrored p || s.role != roleShadow then s
  else ((List.range 48).filter (s.tmpl p).hasLink).foldl (fun s l =>
    let ts := (s.winsOn l false).map (·.opening) ++ ((s.part p).keptWins.filter (fun k => k.1 == l)).map (·.2)
    let x := s.link l
    let gone := x.winQ.filter (fun f => !ts.any (fun t => f.w3.toNat == t % 2 ^ 64))
    let s := gone.foldl (fun (s : State) f => s.unstage f) s
    s.modLink l (fun x => { x with winQ := x.winQ.filter (fun f => !gone.contains f) })) s

/-- Note the send windows of the slot that started last, before another one starts. -/
def State.keepWins (s : State) (p : Nat) : State :=
  match pickBy (fun a b => decide (b.2.start < a.2.start)) (s.runs p) with
  | some r => s.modPart p (fun q => { q with keptWins :=
      ((s.winsOf p).filter (fun w => w.key == r.1 && !w.e.recv)).map (fun w => (w.e.link, w.opening)) })
  | none => s

/-- What a starting slot runs: kernel, parameters, step number, EMPTY, and the state after the choice. -/
def State.slotWork (s : State) (p n start : Nat) (e : SlotEntry) : (Nat × List Nat × Option Nat × Bool) × State :=
  let silent := s.mirrored p && (s.role == roleFenced || s.role == roleJoining || s.fbit rMirStat (32 + p))
  if silent || e.kernel == 0xFF then ((0xFF, s.hostParams p n, none, false), s)
  else if !s.fbit (rScu p + 8) n then ((e.kernel, s.hostParams p n, none, false), s)
  else
    let empty := fun (s : State) => s.incFld (rScu p + 0x68) 31 0
    match (s.scu p).composed with
    | some x =>
      if x.from_ ≤ start then
        let s := s.modScu p (fun y => { y with composed := none, running := some x })
        ((if x.empty then e.kernel else x.kernel, x.params, some x.n, x.empty), if x.empty then empty s else s)
      else ((e.kernel, s.emptyParams p none, none, true), empty (s.withFree (s.free + 1)))
    | none => ((e.kernel, s.emptyParams p none, none, true), empty (s.withFree (s.free + 1)))

/-- Slot n of partition p starts at this instant, as run key, under its entry in the active bank: what its last runs had
left to do ends. A start inside a halt runs nothing, but its windows take what arrives (R454, R458). -/
def State.openSlot (s : State) (p n key start : Nat) (e : SlotEntry) : State :=
  let s := s.keepWins p
  let s := s.withTime { s.time with slotSeen := true }
  let s := (slotKeys n).foldl (fun s k => s.modSlot p k (fun r => if r.working then r else { r with phase := .finished })) s
  let run0 : SlotRun :=
    { kernel := 0xFF, start := start, len := e.len
      w1 := s.reg (rSlot p n 1 + activeBank), w2 := s.reg (rSlot p n 2 + activeBank)
      clusters := [], waiting := [], phase := .finished, wins := s.winRuns p e }
  if s.halted then ((s.incFld rTrcHstat 31 16).setSlot p key (some run0)).claimEarly p key
  else
    let ((kernel, params, step, empty), s) := s.slotWork p n start e
    let mine := (bitsOf e.clusters 32).filter (s.tmpl p).hasCluster
    let busy := mine.filter (fun c => (s.cluster c).run.isSome)
    let idle := mine.filter (fun c => (s.cluster c).run.isNone)
    let s := s.setSlot p key (some { run0 with
      kernel := kernel, params := params, step := step, empty := empty, phase := .step
      clusters := if kernel = 0xFF then [] else idle
      waiting := if kernel = 0xFF then [] else busy })
    let s := (s.claimEarly p key).pruneKept p
    if kernel = 0xFF then idle.foldl (fun s c => s.slotCluster c params) s
    else idle.foldl (fun s c => s.startCluster p key c) s

/-! ### After the step (R46, R64, R68, R69) -/

/-- Fabric time at which a run's leading begins. -/
def State.leadAt (s : State) (r : SlotRun) : Nat := r.start + r.len - s.leadNs

/-- A slot whose step or MODESW duty is not complete when its leading begins has overrun. -/
def State.markOverrun (s : State) (p key : Nat) : State :=
  match s.slot p key with
  | none => s
  | some r =>
    if r.overrun || !r.working || decide (s.now < s.leadAt r) then s
    else
      let s := s.modSlot p key (fun r => { r with overrun := true, late := true })
      (s.incFld (rTtOvr p) 31 0).perf 12 p none 1

/-- The duties of a slot begin, or, after an overrun, are skipped; the overrun's length is known now, and it is the
most recent overrun (R55, R68). -/
def State.enterDuties (s : State) (p key : Nat) : State :=
  let s := s.markOverrun p key
  match s.slot p key with
  | none => s
  | some r =>
    if r.overrun then
      let d := min 0xFFFFFF ((s.now - s.leadAt r) / 10)
      let s := s.modSlot p key (fun r => { r with phase := .finished })
      let s := (s.setFld (rTtOvr p) 63 40 d).setFld (rTtOvr p) 37 32 (key % 64)
      s.post p 7 (key % 64 * 2 ^ 32 + d) 0 (r.step.getD 0)
    else if r.entry.swap || r.entry.maint then
      s.modSlot p key (fun r => { r with phase := .duties, dutyStart := some s.now })
    else s.modSlot p key (fun r => { r with phase := .background })

/-- The step of a run, or its having none, is over: the MODESW duty or the duties follow. -/
def State.afterStep (s : State) (p key : Nat) : State :=
  match s.slot p key with
  | none => s
  | some r =>
    if r.entry.modesw then (s.modSlot p key (fun r => { r with phase := .modesw })).markOverrun p key
    else s.enterDuties p key

/-- A slot starts; one that runs no step goes on to what follows the step. -/
def State.slotBegin (s : State) (p n start : Nat) (e : SlotEntry) : State :=
  match s.slotKeyFor p n with
  | none => s
  | some key =>
    let s := s.openSlot p n key start e
    match s.slot p key with
    | some r => if r.phase == .step && r.kernel == 0xFF then s.afterStep p key else s
    | none => s

/-- SLOT_START (R46, R56): between its programmed start and 4 ns after it, once a frame. A slot that names a
cluster which another slot of the partition still owns is the host error of R51: it starts, and values of its
partition are free (R391). -/
def execSlotStart (p : PartId) (n : SlotId) (s : State) : Host.Outcome State Fault Refusal :=
  match (s.part p.val).frame with
  | none => .next s
  | some f =>
    let e := s.slotEntry p.val n.val true
    let start := f + e.start
    if !s.fbit (rTtFrame p.val) 63 || !e.valid || !s.ready || !s.validPart p.val
        || decide (s.now < start) || decide (s.now > start + 4)
        || (slotKeys n.val).any (fun k => match s.slot p.val k with | some r => r.start == start | none => false)
        || (s.slotKeyFor p.val n.val).isNone then .next s
    else if (s.runs p.val).any (fun r => r.1 % 64 != n.val && decide (r.2.start ≤ s.now)
        && decide (s.now < r.2.start + r.2.len)
        && decide (r.2.entry.clusters &&& e.clusters ≠ 0)) then .next ((s.slotBegin p.val n.val start e).unpredictable p.val)
    else .next (s.slotBegin p.val n.val start e)

/-! ### Completion of a step (R77, R79, R80) -/

/-- Whether everything the run's step issued on a cluster has completed. -/
def Cluster.quiet (x : Cluster) : Bool :=
  x.streams.all (fun e => !e.2.live) && x.flight.isEmpty && x.mv.isEmpty && x.shares.all (fun e => e.2.isEmpty)

/-- Whether a write or a held RFINAL of the run has not landed (Table 10.1). -/
def State.unlanded (s : State) (p key : Nat) : Bool :=
  s.landing.any (fun w => w.part == p && w.slot == key)
    || s.groups.any (fun g => match g.2.held with | some h => h.part == p && h.slot == some key | none => false)

/-- Word 0 of the step completion record (Table 14.7). -/
def stepWord (p key : Nat) (r : SlotRun) : W64 :=
  evWord 1 p (boolNat r.empty * 2 ^ 55 + boolNat r.late * 2 ^ 54 + boolNat r.clamp * 2 ^ 53 + boolNat r.nest * 2 ^ 52
    + boolNat r.imageBad * 2 ^ 51 + boolNat r.watchdog * 2 ^ 50 + boolNat r.poison * 2 ^ 49
    + r.kernel % 256 * 2 ^ 38 + key % 64 * 2 ^ 32)

/-- Clusters that a step leaves go to the runs that wait for them (R67). -/
def State.passOn (s : State) (p : Nat) (cs : List Nat) : State :=
  cs.foldl (fun s c =>
    match pickBy (fun a b => decide (a.2.start < b.2.start)) ((s.runs p).filter (fun e => e.2.waiting.contains c)) with
    | none => s
    | some e =>
      (s.modSlot p e.1 (fun r => { r with clusters := r.clusters ++ [c], waiting := r.waiting.filter (· != c) })).startCluster
        p e.1 c) s

/-- The completed step's record, its tokens, its digest, and what follows it. The empty step of a serving slot before the
one that the composed step goes to has no number, and each module of a pair runs as many as it meets (R302, R359): it
forms no digest. DESIGN CHOICE (log 122). -/
def State.stepDone (s : State) (p key : Nat) : State :=
  let s := s.markOverrun p key
  match s.slot p key with
  | none => s
  | some r =>
    let w0 := stepWord p key r
    let rec0 := [w0, s.nowWord, BitVec.ofNat 64 r.start, BitVec.ofNat 64 (r.step.getD 0)]
    let s := s.post p 1 w0.toNat (BitVec.ofNat 64 r.start) (r.step.getD 0)
    let s := r.clusters.foldl (fun s c => s.modCluster c (fun x => { x with run := none, freeAt := s.now + 4 })) s
    let (toks, s) := match r.step, (s.scu p).running with
      | some _, some x => s.sampleStep p x
      | _, _ => ([], s)
    let s := if r.empty && r.step.isNone then s
      else s.formDigest p (r.step.getD 0) (crc64 (bytesOf (rec0 ++ toks.flatMap id)) + r.lineSum)
    (s.passOn p r.clusters).afterStep p key

/-- STEP_COMPLETE. -/
def State.stepComplete (s : State) (p n : Nat) : State :=
  match s.findRun p n (fun r => r.phase == .step) with
  | none => s
  | some (key, r) =>
    let s := r.clusters.foldl (fun s c => s.settle c) s
    if s.halted || !r.waiting.isEmpty || !r.clusters.all (fun c => (s.cluster c).quiet) || s.unlanded p key then s
    else s.stepDone p key

/-- STEP_WATCHDOG: one FRAME_LEN after its slot start every stream stops, and every RFINAL of the step still
held is discarded (R80). The discard drops the group's announcement, and reports no release, so R283 goes on holding
the group's next WGANN. DESIGN CHOICE (log 87). -/
def State.stepWatchdog (s : State) (p n : Nat) : State :=
  match s.findRun p n (fun r => r.phase == .step) with
  | none => s
  | some (key, r) =>
    if s.halted || decide (s.now < r.start + (s.part p).actLen * 1000 + r.haltedNs) then s
    else
      let s := s.modSlot p key (fun r => { r with watchdog := true, late := true, waiting := [] })
      let s := r.clusters.foldl (fun s c => s.modCluster c (fun x => { x with
        streams := x.streams.map (fun e => (e.1, { e.2 with live := false, held := none, acq := none })) })) s
      s.withGroups (s.groups.map (fun g => (g.1,
        match g.2.held with
        | some h => if h.part = p ∧ h.slot = some key then { count := 0, announced := none, held := none } else g.2
        | none => g.2)) |>.filter (fun g => g.2 ≠ {}))

/-- OVERRUN: the leading begins and the step or its MODESW duty is not complete (R64). -/
def State.overrunAt (s : State) (p n : Nat) : State :=
  match s.findRun p n (fun r => r.working) with
  | none => s
  | some (key, _) => s.markOverrun p key

/-! ### The MODESW duty (R225, R226) -/

/-- Apply one mode-switch entry to a channel: whether it acts, and the state after (Table 8.6). -/
def State.actChannel (s : State) (k idx : Nat) : Bool × State :=
  let w := s.reg (rMsw (k / 16) idx (k % 16))
  let wl := min 2359296 (bf w 21 0)
  let ch := s.chan k
  match bf w 63 62, ch.state with
  | 1, .processor => (true, s.setChan k { ch with state := .toMemory, switch := some (0, none) })
  | 2, .memory => (true, s.setChan k { ch with state := .toProcessor, switch := some (wl, none) })
  | 3, .processor => (true, s.setChan k { ch with state := .recoding, switch := some (wl, none) })
  | _, _ => (false, s)

/-- The MODESW duty of a run ends: the read caches of its partition are invalidated (R276). -/
def State.modeswEnd (s : State) (p key : Nat) : State :=
  let s := (bitsOf (s.tmpl p).clusters 32).foldl (fun s c => s.modCluster c Cluster.cacheDrop) s
  (s.modSlot p key (fun r => { r with switching := false })).enterDuties p key

/-- MODESW_DUTY: every acted channel enters its switching state. -/
def State.modeswDuty (s : State) (p n : Nat) : State :=
  match s.findRun p n (fun r => r.phase == .modesw && !r.switching) with
  | none => s
  | some (key, r) =>
    if s.halted then s
    else
      let (acted, s) := (s.tmpl p).chans.foldl (fun (a : List Nat × State) k =>
        let (b, s) := a.2.actChannel k r.entry.mswIdx
        (if b then a.1 ++ [k] else a.1, s)) ([], s)
      let s := s.modSlot p key (fun r => { r with switching := true, acted := acted })
      if acted.isEmpty then s.modeswEnd p key else s

/-- State a switching channel takes when its work is done. -/
def ChState.target : ChState → ChState
  | .toMemory => .memory
  | .toProcessor => .processor
  | .recoding => .processor
  | x => x

/-- A channel has done its switch: a MODESW duty that waited for it alone ends (R226). -/
def State.actedDone (s : State) (k : Nat) : State :=
  (List.range 16).foldl (fun s p =>
    ((s.runs p).filter (fun r => r.2.switching && r.2.acted.contains k)).foldl (fun s r =>
      let s := s.modSlot p r.1 (fun r => { r with acted := r.acted.filter (· != k) })
      if r.2.acted.all (· == k) then s.modeswEnd p r.1 else s) s) s

/-- MODESW_DONE: the work on a channel ends; a duty ends with the last of the channels it acted on. -/
def State.modeswDone (s : State) (k : Nat) : State :=
  let ch := s.chan k
  match ch.switch with
  | some (_, some t) =>
    if s.frozen || decide (s.now < t) then s
    else (s.setChan k { ch with state := ch.state.target, switch := none }).actedDone k
  | _ => s

/-! ### SWAP, MAINT and background (R47, R322, R369) -/

/-- Places of one 64 KiB piece of a resident slot; none where it does not translate. -/
def State.swapPlaces (s : State) (p a : Nat) : List (Space × Nat) :=
  let ls := (List.range 65536).map (fun i => s.xl p 0 0 (a + i))
  if ls.any (·.isNone) then [] else ls.filterMap id

/-- Copy one 64 KiB piece of a weight image into a resident slot. A channel out of memory mode takes no line of it
(R218). -/
def State.swapPiece (s : State) (p tier a : Nat) : State :=
  let ls := s.swapPlaces p a
  if ls.all s.lineOk then (if ls.isEmpty then s else s.tierIn tier ls)
  else
    let qs := ((List.zip (List.range ls.length) ls).filter (fun q => s.lineOk q.2)).map (fun q => (tier + q.1, q.2))
    (s.countLines none (qs.map (·.2))).tierInEach qs

/-- SWAP_DUTY: the copy of the swap in progress moves on by 1 MiB. With its first, the variant that was in the slot
stops being resident (R322). -/
def State.swapDuty (s : State) (p n : Nat) : State :=
  match s.findRun p n (fun r => r.phase == .duties && r.entry.swap), (s.scu p).swap with
  | some (_, r), some (v, k, left + 1) =>
    if s.halted || decide (s.now ≥ r.dutyStart.getD 0 + r.entry.dutyLen) then s
    else
      let size := bf (s.varW p v 2) 63 40
      let done := (size - (left + 1)) * 2 ^ 20
      let to_ := s.vslotAddr p k + done
      if !(List.range 16).all (fun j => s.calm ((s.swapPlaces p (to_ + 65536 * j)).take 1)) then s
      else
      let s := if done = 0 then s.leaveSlot p k else s
      let s := (List.range 16).foldl (fun s j => s.swapPiece p ((s.varW p v 1).toNat + done + 65536 * j) (to_ + 65536 * j)) s
      s.modScu p (fun x => { x with swap := some (v, k, left) })
  | _, _ => s

/-- Whether a run has a SWAP duty with copying left (R46, R322). -/
def State.swapLeft (s : State) (p : Nat) (r : SlotRun) : Bool :=
  r.entry.swap && (match (s.scu p).swap with | some (_, _, left) => left != 0 | none => false)

/-- Duration of a self-test or calibration kind (Table 16.4). -/
def testNs (kind : Nat) : Nat :=
  match kind with
  | 1 => 50000 | 2 => 2000 | 3 => 60000000 | 4 => 10000 | 5 => 1000000 | 6 => 5000000 | _ => 0

/-- Whether a MAINT duty of a run has work left: a request of chapter 16 that runs, or that its partition's duty may
still start in the time that remains (R46, R423). -/
def State.maintLeft (s : State) (p : Nat) (r : SlotRun) : Bool :=
  s.fw.queue.any (fun q =>
    (match q.kind with
      | 1 => (s.tmpl p).chans.contains q.target
      | 2 => (s.tmpl p).hasLink q.target
      | 4 => true
      | 5 => s.locked
      | _ => false)
    && (q.running || decide (s.now + testNs q.kind ≤ r.dutyStart.getD 0 + r.entry.dutyLen)))

/-- MAINT_DUTY: the MAINT duty of a slot begins once its SWAP duty is done; maintenance of chapter 16 may run in it
(R46). -/
def State.maintDuty (s : State) (p n : Nat) : State :=
  match s.findRun p n (fun r => r.phase == .duties && r.entry.maint && !s.swapLeft p r) with
  | none => s
  | some (key, r) =>
    if s.halted || decide (s.now ≥ r.dutyStart.getD 0 + r.entry.dutyLen) then s
    else s.modSlot p key (fun r => { r with phase := .maint })

/-- DUTY_LEN_EXPIRY: the SWAP and MAINT duties stop DUTY_LEN after they began (R47). -/
def State.dutyExpiry (s : State) (p n : Nat) : State :=
  match s.findRun p n (fun r => r.phase == .duties || r.phase == .maint) with
  | none => s
  | some (key, r) =>
    if decide (s.now ≥ r.dutyStart.getD 0 + r.entry.dutyLen) then s.modSlot p key (fun r => { r with phase := .background })
    else s

/-- Whether a run's SWAP and MAINT duties have nothing left to do. -/
def State.dutiesIdle (s : State) (p : Nat) (r : SlotRun) : Bool :=
  match r.phase with
  | .background => true
  | .maint => !s.maintLeft p r
  | .duties => !s.swapLeft p r && (!r.entry.maint || !s.maintLeft p r)
  | _ => false

/-- BKGD: until the leading begins, the remaining time of a slot serves resynchronisation (R52, R369). -/
def State.bkgd (s : State) (p n : Nat) : State :=
  match s.findRun p n (fun r => r.entry.bkgd && s.dutiesIdle p r) with
  | none => s
  | some (key, r) =>
    if s.halted || decide (s.now ≥ s.leadAt r) then s
    else (s.modSlot p key (fun r => { r with phase := .background })).rsyncCopy 1

/-! ### The rows -/

/-- STEP_COMPLETE. -/
def execStepComplete (p : PartId) (n : SlotId) (s : State) : Host.Outcome State Fault Refusal :=
  .next (s.stepComplete p.val n.val)

/-- STEP_WATCHDOG. -/
def execStepWatchdog (p : PartId) (n : SlotId) (s : State) : Host.Outcome State Fault Refusal :=
  .next (s.stepWatchdog p.val n.val)

/-- OVERRUN. -/
def execOverrun (p : PartId) (n : SlotId) (s : State) : Host.Outcome State Fault Refusal := .next (s.overrunAt p.val n.val)

/-- MODESW_DUTY. -/
def execModeswDuty (p : PartId) (n : SlotId) (s : State) : Host.Outcome State Fault Refusal := .next (s.modeswDuty p.val n.val)

/-- MODESW_DONE. -/
def execModeswDone (n : StackId) (m : ChanId) (s : State) : Host.Outcome State Fault Refusal :=
  .next (s.modeswDone (chanKey n m))

/-- SWAP_DUTY. -/
def execSwapDuty (p : PartId) (n : SlotId) (s : State) : Host.Outcome State Fault Refusal := .next (s.swapDuty p.val n.val)

/-- MAINT_DUTY. -/
def execMaintDuty (p : PartId) (n : SlotId) (s : State) : Host.Outcome State Fault Refusal := .next (s.maintDuty p.val n.val)

/-- DUTY_LEN_EXPIRY. -/
def execDutyLenExpiry (p : PartId) (n : SlotId) (s : State) : Host.Outcome State Fault Refusal :=
  .next (s.dutyExpiry p.val n.val)

/-- BKGD. -/
def execBkgd (p : PartId) (n : SlotId) (s : State) : Host.Outcome State Fault Refusal := .next (s.bkgd p.val n.val)

end Sys2Proof.Machine
end

