-- ==== Sys2Proof/Machine/HostPort.lean ====
section
/-! DEFINITION. The host interface (chapter 14): applying and releasing templates (R377 to R380), the BAR2
aperture and instruction memory (R374, R376, R407), galleys and their commands (R292, R383 to R385), tier copies
and ports (R385, R392, R393), event rings (R386), PERST_N (R479), and mirrored inputs (R356). -/

namespace Sys2Proof.Machine

/-! ### Templates (R377 to R380) -/

/-- The template that the registers of partition p hold. -/
def State.templateOf (s : State) (p : Nat) : Template :=
  let w := fun (o n : Nat) => (List.range n).map (fun j => s.reg (rPart p + o + 8 * j))
  { ctl := s.reg (rPart p) &&& 0x00EFFFFFFFFFFFFF, rq := s.reg (rPart p + 8), flg := s.reg (rPart p + 0x10)
    links := s.reg (rPart p + 0x18), tier := s.reg (rPart p + 0x20)
    chmap := w 0x40 16, slmap := w 0xC0 4, alloc := w 0x100 16 }

def State.busyPart (s : State) (p : Nat) : Bool := s.fbit (rPart p) 60

/-- Templates that partition q holds grants by: the one in force, and the one an apply is taking. -/
def State.heldBy (s : State) (q : Nat) : List Template :=
  (if s.validPart q then [s.tmpl q] else [])
    ++ (if s.busyPart q then (match (s.part q).taking with | some t => if (s.part q).releasing then [] else [t] | none => []) else [])

/-- Templates of other partitions. -/
def State.heldElsewhere (s : State) (p : Nat) : List Template :=
  ((List.range 16).filter (· != p)).flatMap s.heldBy

def meets (a b : List Nat) : Bool := a.any b.contains

/-- The first failure of Table 14.4 for applying t to partition p; 0 when it passes. -/
def State.applyCode (s : State) (p : Nat) (t : Template) : Nat :=
  let others := s.heldElsewhere p
  if s.fbit (rTtFrame p) 63 || s.fbit (rScu p) 63 then 1
  else if t.clusters = 0 then 0
  else if others.any (fun o => (t.clusters &&& o.clusters != 0) || (t.flg &&& o.flg &&& 0xFFFFFFFF != 0)
      || ((t.links &&& o.links &&& 0xFFFFFFFFFFFF) != 0)) then 2
  else if others.any (fun o => meets t.chans o.chans || meets t.slices o.slices) then 3
  else if t.rqBase + t.rqCount > 16384 || others.any (fun o =>
      decide (t.rqBase < o.rqBase + o.rqCount) && decide (o.rqBase < t.rqBase + t.rqCount)
        && decide (t.rqCount > 0) && decide (o.rqCount > 0)) then 4
  else if (t.full && !others.isEmpty) || others.any (·.full) then 5
  else if bf t.ctl 55 53 > 4 then 6
  else 0

/-- The check of template p with contents t, and the start of its apply or release (R377, R378). -/
def State.applyStart (s : State) (p : Nat) (t : Template) : State :=
  if s.busyPart p then s
  else
    let code := s.applyCode p t
    if code ≠ 0 then (s.setBit (rPart p) 61 true).setFld (rPart p) 59 56 code
    else
      let s := ((s.setBit (rPart p) 61 false).setFld (rPart p) 59 56 0).setBit (rPart p) 60 true
      s.modPart p (fun q => { q with taking := some t, releasing := t.clusters == 0 })

/-- Site of an error key. -/
def siteOfKey (k : Nat) : Nat × Nat :=
  if k < 2 ^ 40 then (0, chanOfPa (64 * k))
  else if k < 2 ^ 48 then (1, (k - 2 ^ 40) / 2 ^ 26)
  else (2, (k - 2 ^ 48) / 2 ^ 20)

/-- Case slice of an error key of the case store. -/
def sliceOfKey (k : Nat) : Option Nat := if 2 ^ 40 ≤ k ∧ k < 2 ^ 48 then some ((k - 2 ^ 40) / 2 ^ 22) else none

/-- A newly granted cluster: stores, tile registers, accumulators, anchors and instruction memory at zero, and nothing
left of what ran there, its formes included (R190, R379): those too where the cluster comes back to the partition that
released it. DESIGN CHOICE (log 113). Its clock and the SIZE of its read cache go on. -/
def State.zeroCluster (s : State) (c : Nat) : State :=
  let s := s.modCluster c (fun x => { rcSize := x.rcSize, cyc := x.cyc, left := x.left, stretch := x.stretch, freeAt := x.freeAt })
  s.withInteg { s.integ with errs := s.integ.errs.filter (fun e =>
    siteOfKey e.1 != (2, c) && !(decide (imemKey c 0 ≤ e.1) && decide (e.1 < imemKey c 0 + 2 ^ 15))) }

/-- A newly granted channel: memory mode, zeroed, with fresh codes and a clear dirty map; its rows that waited for memory
mode are retired (R408). -/
def State.zeroChan (s : State) (k : Nat) : State :=
  let s := s.withStackMem (s.stackMem.filter (fun e => chanOfPa e.1 != k))
  let s := s.withInteg { s.integ with errs := s.integ.errs.filter (fun e => siteOfKey e.1 != (0, k)) }
  (s.setChan k { refreshing := (s.chan k).refreshing }).retireWaiting k

/-- A newly granted case slice, zeroed. -/
def State.zeroSlice (s : State) (i : Nat) : State :=
  let s := s.withCaseMem (mzero s.caseMem (i * 2 ^ 28) (2 ^ 28))
  s.withInteg { s.integ with errs := s.integ.errs.filter (fun e => sliceOfKey e.1 != some i) }

/-- Flag groups of a template: 16 × die + group. -/
def Template.groups (t : Template) : List Nat := bitsOf t.flg.toNat 32

/-- What t grants beyond old: clusters, flag groups, slices, channels. -/
def Template.beyond (t old : Template) : List Nat × List Nat × List Nat × List Nat :=
  ((bitsOf t.clusters 32).filter (fun c => !old.hasCluster c), t.groups.filter (fun g => !old.groups.contains g),
    t.slices.filter (fun i => !old.slices.contains i), t.chans.filter (fun k => !old.chans.contains k))

/-- Whether a place lies in one of some clusters, slices or channels. -/
def placeIn (cs is ks : List Nat) (sp : Space) (a : Nat) : Bool :=
  match sp with
  | .stack => ks.contains (chanOfPa a)
  | .case => is.contains (a / 2 ^ 28)
  | .store c => cs.contains c

/-- A near-bank command of an earlier holder writes nothing to what is newly granted. -/
def Chan.dropEarlier (ch : Chan) (keep : List PWrite → List PWrite) : Chan :=
  { ch with lists := ch.lists.map (fun l => { l with running := l.running.map (fun r => { r with puts := keep r.puts }) }) }

/-- An MV operation of an earlier holder moves nothing from or to what is newly granted. -/
def MvOp.dropEarlier (o : MvOp) (gone : PWrite → Bool) (lost : Space × Nat → Bool) : MvOp :=
  let ws := (List.zip o.writes o.tsrc).filter (fun x => !gone x.1)
  { o with
    writes := ws.map (·.1)
    tsrc := ws.map (·.2)
    loads := o.loads.filter (fun b => !b.src.any lost)
    fills := o.fills.filter (fun l => !lost l) }

/-- What earlier holders still had on its way to what is newly granted does not reach it once it has been zeroed (R379):
writes that have completed, MV operations in flight, near-bank commands, received frames, host accesses, and held
finals. -/
def State.dropEarlier (s : State) (cs is ks : List Nat) : State :=
  let at_ := placeIn cs is ks
  let gone := fun (w : PWrite) => at_ w.sp w.addr
  let keep := fun (ws : List PWrite) => ws.filter (fun w => !gone w)
  let s := s.withLanding (s.landing.map (fun w => { w with writes := keep w.writes }))
  let s := s.withClusters (s.clusters.map (fun e =>
    (e.1, { e.2 with mv := e.2.mv.map (fun o => o.dropEarlier gone (fun l => at_ l.1 l.2)) })))
  let s := s.withChans (s.chans.map (fun e => (e.1, e.2.dropEarlier keep)))
  let s := s.withLinks (s.links.map (fun e =>
    (e.1, { e.2 with rxQ := e.2.rxQ.map (fun q => { q with writes := keep q.writes }) })))
  let s := s.withHost { s.host with waits := s.host.waits.filter (fun x => !x.places.any (fun l => at_ l.1 l.2)) }
  s.withGroups ((s.groups.filter (fun g => g.1 ≥ 512 || !cs.contains (g.1 / 16))).map (fun g =>
    (g.1, { g.2 with held := g.2.held.map (fun h => { h with writes := keep h.writes }) })))

/-- The galley and the parameter blocks of a partition hold nothing of its earlier holder (R379). -/
def State.dropRings (s : State) (p : Nat) : State :=
  let lo := rParam p 0
  s.withRegs (s.regs.filter (fun e => !(decide (lo ≤ e.1) && decide (e.1 < rParam p 64)
    || decide (rGalley p 0 ≤ e.1) && decide (e.1 < rGalley p 1024))))

/-- PEND of both C-dies. -/
def State.showPends (s : State) : State := (s.showPend 0).showPend 1

/-- Clear what t grants beyond old (R379). -/
def State.zeroGrants (s : State) (old t : Template) : State :=
  let (cs, gs, is, ks) := t.beyond old
  let s := cs.foldl State.zeroCluster (s.dropEarlier cs is ks)
  let s := s.withFlags (s.flags.filter (fun e => !gs.contains (e.1 / 16)))
  let s := ks.foldl State.zeroChan (is.foldl State.zeroSlice s)
  s.withReqs (s.reqs.filter (fun e =>
    let inside := fun (x : Template) => decide (x.rqBase ≤ e.1) && decide (e.1 < x.rqBase + x.rqCount)
    !(inside t && !inside old)))

/-- APPLY_DONE (R379, R380). -/
def State.applyDone (s : State) (p : Nat) : State :=
  let q := s.part p
  match q.taking with
  | some t =>
    if q.releasing then s
    else
      let was := s.validPart p
      let s := s.zeroGrants (if was then q.tmpl else {}) t
      let s := if was then s else (s.setScu p {}).dropRings p
      let s := s.modPart p (fun q => { q with tmpl := t, taking := none })
      let s := (((s.setBit (rPart p) 63 true).setBit (rPart p) 60 false).setBit (rPart p) 52 t.full).showPends
      (if t.twice then s.unpredictable p else s).pfev 9 p
  | none => s

/-- RELEASE_DONE (R378). -/
def State.releaseDone (s : State) (p : Nat) : State :=
  let q := s.part p
  if !q.releasing || q.taking.isNone then s
  else
    let s := s.modPart p (fun q => { q with tmpl := {}, taking := none, releasing := false, frame := none, copies := [] })
    let s := (((s.setBit (rPart p) 63 false).setBit (rPart p) 60 false).setBit (rPart p) 52 false).showPends
    s.pfev 9 p

/-! ### The BAR2 aperture and instruction memory (R374, R376) -/

/-- Physical location of a BAR2 offset of function f; none where the translation or the grants fail. -/
def State.apLoc (s : State) (f a : Nat) : Option (Space × Nat) :=
  if a < 8 * stackBytes then
    if f = 0 then some (.stack, a) else s.xl (f - 1) 0 0 a
  else if 0xC000000000 ≤ a ∧ a < 0xC000000000 + caseBytes then
    if f = 0 then some (.case, a - 0xC000000000) else s.xl (f - 1) 1 0 (a - 0xC000000000)
  else if 0xE000000000 ≤ a ∧ a < 0xE000000000 + 32 * storeBytes then
    let c := (a - 0xE000000000) / storeBytes
    let o := (a - 0xE000000000) % storeBytes
    if f = 0 then (if o < s.storeTop c then some (.store c, o) else none) else s.xl (f - 1) 2 c o
  else none

/-- Partition to which a location is granted. -/
def State.ownerOf (s : State) (l : Space × Nat) : Option Nat :=
  match l.1 with
  | .stack => s.partOfChan (chanOfPa l.2)
  | .case => s.partOfSlice (l.2 / 2 ^ 28)
  | .store c => s.partOf c

/-- The fault of a BAR2 access, and the partition whose ring takes its record (R218, R376). -/
def State.apFault (s : State) (f : Nat) (ls : List (Option (Space × Nat))) : Option (Nat × Option Nat) :=
  if ls.any (·.isNone) then some (fltXlate, if f = 0 then none else some (f - 1))
  else match (ls.filterMap id).find? (fun l => !s.lineOk l) with
  | some l => some (fltChmode, if f = 0 then s.ownerOf l else some (f - 1))
  | none => none

def State.apRecord (s : State) (x : Nat × Option Nat) (addr : Nat) : State :=
  match x.2 with
  | some p => s.postHostFault p x.1 addr
  | none => s

/-- What the host port answers a read with. -/
def State.complete (s : State) (bs : List Byte) (ep : Bool) : State := s.withHost { s.host with bytes := bs, ep := ep }

/-- Whether a function answers at all: the port is up, and a virtual function's template is in force (R373). -/
def State.fnValid (s : State) (f : Nat) : Bool := f == 0 || s.validPart (f - 1)

/-- Cluster and byte of a BAR0 offset in instruction memory (Table 14.1); the cluster must be granted (R376). -/
def State.imemLoc (s : State) (f a : Nat) : Option (Nat × Nat) :=
  let o := a - 0x800000
  let c := o / 2 ^ 18
  if f ≠ 0 ∧ 0x800000 ≤ a ∧ c < 32 ∧ (s.tmpl (f - 1)).hasCluster c then some (c, o % 2 ^ 18) else none

/-- HOST_BOOT.STAGE. -/
def State.stage (s : State) : Nat := s.fld rHostBoot 63 61

/-- BAR0 accepts accesses from bring-up stage 3 on, while the host port is up (R468, R479). -/
def State.barOpen (s : State) : Bool :=
  s.host.up && s.power.alive && s.power.input && decide (s.stage ≥ 3)

/-! What waits at the port: an access whose channel is under refresh or calibration, and, behind the accesses of its
function, its later ones and its galley commands (R239, R290). -/

/-- Stands in place of a function for what came in on the mirror port. -/
def mirPort : Nat := 17

def HostAcc.fn : HostAcc → Nat
  | .read f .. => f
  | .write f .. => f
  | .bell p _ => p + 1
  | .command p _ => p + 1
  | .page .. => mirPort

/-- Whether something of function f waits. -/
def State.fnWaits (s : State) (f : Nat) : Bool := s.host.waits.any (fun x => x.fn == f)

/-- Whether an access or command may be carried out now. -/
def State.mayServe (s : State) (x : HostAcc) : Bool := !s.fnWaits x.fn && s.calm x.places

def State.hostWait (s : State) (x : HostAcc) : State := s.withHost { s.host with waits := s.host.waits ++ [x] }

/-- A BAR2 read is carried out. -/
def State.readDone (s : State) (ls : List (Space × Nat)) : State :=
  let (bs, bad, s) := (s.countLines none ls).readBytes ls
  s.complete bs bad

/-- A read of instruction memory; one that the grants refuse reads as 0xFF and posts its record (R376). After a trip
what it delivers is free (R450). -/
def State.imemRead (s : State) (f a n : Nat) : State :=
  let ls := (List.range n).map (fun i => s.imemLoc f (a + i))
  if ls.any (·.isNone) then (s.complete (List.replicate n 0xFF) false).apRecord (fltXlate, some (f - 1)) a
  else if s.tripped then
    let (bs, s) := s.chooseBytes n
    s.complete bs false
  else s.complete (ls.filterMap (fun l => l.map (fun l => mget (s.cluster l.1).imem l.2))) false

/-- A BAR2 read. -/
def State.apRead (s : State) (f a n : Nat) : State :=
  let ls := (List.range n).map (fun i => s.apLoc f (a + i))
  match s.apFault f ls with
  | some x => (s.complete (List.replicate n 0xFF) false).apRecord x a
  | none =>
    let x : HostAcc := .read f a (ls.filterMap id)
    if s.mayServe x then s.readDone (ls.filterMap id) else s.hostWait x

/-- HOST_READ. Instruction memory, in BAR0, answers from stage 3 on; before READY every byte of BAR2 reads as 0xFF
(R468). -/
def State.hostRead (s : State) (f : Nat) (imem : Bool) (a n : Nat) : State :=
  if !s.host.up || !s.power.input then s
  else if !imem && !s.ready then s.complete (List.replicate n 0xFF) false
  else if !s.fnValid f || (imem && f == 0) then s.complete (List.replicate n 0) false
  else if imem then (if s.barOpen then s.imemRead f a n else s)
  else s.apRead f a n

/-! ### Split writes (R407) -/

/-- Code half that holds byte o of a unit: the die of a line, or a word's half; and the bit the byte starts at. -/
def flipPlace (sp : Space) (a : Nat) : Nat × Nat :=
  match sp with
  | .stack => (a % 64 / 4, 8 * (a % 4))
  | _ => (a % unitBytes sp / 4, 8 * (a % 4))

/-- The physical bytes that die d holds in the line at base stand as data, for its own are about to change. -/
def State.bakeDie (s : State) (base d : Nat) : State :=
  let e := s.errOf .stack base
  let f := (flipsOf e d).1.toNat
  let m := (List.range 4).foldl (fun m c => mset m (base + dieByte d c) (mget m (base + dieByte d c)
    ^^^ BitVec.ofNat 8 (f >>> (8 * c)))) s.stackMem
  s.withStackMem m

/-- The symbol check bytes of the line at base, as 32-bit words of dies 16 and 17, for the data that stand there. -/
def State.rsWords (s : State) (base : Nat) : W32 × W32 :=
  let right := (List.range 4).map (fun c => rsCheck ((List.range 16).map (fun d => (mget s.stackMem (base + dieByte d c)).toNat)))
  let word := fun (pick : Nat × Nat → Nat) => BitVec.ofNat 32 ((List.range 4).foldl (fun a c =>
    a + (pick (right.getD c (0, 0))) <<< (8 * c)) 0)
  (word (·.1), word (·.2))

def xor2 (a b : W32 × W32) : W32 × W32 := (a.1 ^^^ b.1, a.2 ^^^ b.2)

/-- CHK 0: the data byte changes and the check bits keep their values. The per-die code is encoded for it (R247). -/
def State.splitData (s : State) (w : PWrite) : State :=
  match w.sp with
  | .stack =>
    let base := unitBase .stack w.addr
    let e := s.errOf .stack base
    let d := w.addr % 64 / 4
    let old := s.rsWords base
    let s := (s.bakeDie base d).withStackMem (mset (s.bakeDie base d).stackMem w.addr w.val)
    s.setErr .stack base { e with
      flips := e.flips.filter (fun f => f.1 != d)
      stale := xor2 e.stale (xor2 old (s.rsWords base)) }
  | sp =>
    let e := s.errOf sp w.addr
    let (i, sh) := flipPlace sp w.addr
    let cur := mget (s.memOf sp) w.addr ^^^ BitVec.ofNat 8 ((flipsOf e i).1.toNat >>> sh)
    let d := cur ^^^ w.val
    if d = 0 then s
    else s.setErr sp w.addr { e with flips := e.flips ++ [(i, BitVec.ofNat 32 (d.toNat <<< sh), 0, false)] }

/-- The little-endian 32-bit word of four bytes of a list. -/
def wordLe (bs : List Byte) (i : Nat) : W32 := BitVec.ofNat 32 ((List.range 4).foldl (fun a c => a + (bs.getD (i + c) 0).toNat <<< (8 * c)) 0)

/-- CHK 1: bytes 0 to 7 of a line's write become its check bytes. -/
def State.splitCheck (s : State) (sp : Space) (base : Nat) (bs : List Byte) : State :=
  match sp with
  | .stack =>
    let e := s.errOf sp base
    s.setErr sp base { e with
      flips := e.flips.filter (fun f => f.1 < 16)
      stale := xor2 (wordLe bs 0, wordLe bs 4) (s.rsWords base) }
  | _ =>
    (List.range 8).foldl (fun s j =>
      let a := base + 8 * j
      let e := s.errOf sp a
      let k := a % unitBytes sp / 8
      let cover := match sp with | .store c => c * 2 ^ 23 + a | _ => a
      let m := bs.getD j 0 ^^^ secdedCheck (cover / 8) (mword (s.memOf sp) a)
      let kept := e.flips.map (fun f => if f.1 / 2 = k then (f.1, f.2.1, (0 : Byte), f.2.2.2) else f)
      s.setErr sp a { e with flips := (kept ++ [(2 * k, 0, m, false)]).filter (fun f => f.2 ≠ (0, 0, false)) }) s

/-- A physical-function write to sites in split-write mode; an armed flip mask corrupts it as any other write (R406). -/
def State.splitWrite (s : State) (ws : List PWrite) : State :=
  let chk := fun (w : PWrite) => s.fbit (siteReg (siteOf w.sp w.addr) + 24) 62
  let data := ws.filter (fun w => !chk w)
  let s := data.foldl State.splitData s
  let lines := ((ws.filter chk).map (fun w => (w.sp, w.addr - w.addr % 64))).eraseDups
  let s := lines.foldl (fun s l =>
    let bs := (List.range 64).filterMap (fun i => (ws.find? (fun (w : PWrite) => decide (w.sp = l.1)
        && w.addr == l.2 + i)).map (·.val))
    if bs.length = 64 then s.splitCheck l.1 l.2 bs else s) s
  s.applyFlips ws

/-! ### Host writes -/

/-- Kernels that a valid slot of either bank of a partition may run on cluster c (R73). -/
def State.liveKernels (s : State) (p c : Nat) : List Nat :=
  let serving := ((List.range 256).map (fun k => s.reg (rCatalogue p k 0))).filterMap (fun w => if bit w 63 then some (bf w 55 48) else none)
  [true, false].flatMap (fun b => (List.range 64).flatMap (fun n =>
    let e := s.slotEntry p n b
    if e.valid && e.clusters.testBit c && e.kernel != 0xFF then
      e.kernel :: (if s.fbit (rScu p + 8) n then serving else [])
    else []))

/-- Whether byte a of a cluster's instruction memory belongs to kernel k's directory entry or image. -/
def Cluster.kernelByte (x : Cluster) (k a : Nat) : Bool :=
  let h := 16 * bf (mword x.imem (8 * k)) 13 0
  (decide (8 * k ≤ a) && decide (a < 8 * k + 8))
    || (match x.imageOf k with
      | some m => (decide (h ≤ a) && decide (a < h + 32))
          || (List.range 7).any (fun e => m.streamEn.testBit e && decide (16 * m.entries.getD e 0 ≤ a)
              && decide (a < 16 * (m.last + 1)))
      | none => false)

/-- What a host write into instruction memory of cluster c does to the codes of its words: a word that is written whole
has none of its errors left. One that is written in part keeps them. DESIGN CHOICE (log 103). -/
def State.imemCodes (s : State) (ls : List (Nat × Nat)) : State :=
  if s.integ.errs.isEmpty then s
  else
    let whole := fun (c a : Nat) => (List.range 8).all (fun i => ls.contains (c, a - a % 8 + i))
    let keys := (ls.filter (fun l => whole l.1 l.2)).map (fun l => imemKey l.1 l.2)
    s.withInteg { s.integ with errs := s.integ.errs.filter (fun e => !keys.contains e.1) }

/-- A host write into instruction memory. Changing what a valid slot may run is a host error: the bytes change, and
values of the partition are free (R73, R391). -/
def State.imemWrite (s : State) (f a : Nat) (bs : List Byte) : State :=
  let ls := (List.range bs.length).map (fun i => (s.imemLoc f (a + i)).map (fun l => (l, bs.getD i 0)))
  if ls.any (·.isNone) then s.apRecord (fltXlate, some (f - 1)) a
  else if s.tripped then s
  else
    let ls := ls.filterMap id
    let changed := ls.filter (fun l => mget (s.cluster l.1.1).imem l.1.2 != l.2)
    let bad := changed.any (fun l => (s.liveKernels (f - 1) l.1.1).any (fun k => (s.cluster l.1.1).kernelByte k l.1.2))
    let t := (changed.foldl (fun s l => s.modCluster l.1.1 (fun x => { x with imem := mset x.imem l.1.2 l.2 })) s).imemCodes
      (ls.map (·.1))
    if bad then t.unpredictable (f - 1) else t

/-- Bytes of a write as runs of consecutive addresses of one partition; bytes of none fall away. -/
def writeRuns (qs : List (Option (Nat × Nat) × Byte)) : List (Nat × Nat × List Byte) :=
  (qs.foldl (fun (a : List (Nat × Nat × List Byte)) q =>
    match q.1, a with
    | none, _ => a
    | some (p, x), (p', x', bs) :: rest =>
      if p = p' ∧ x = x' + bs.length then (p', x', bs ++ [q.2]) :: rest else (p, x, [q.2]) :: a
    | some (p, x), [] => [(p, x, [q.2])]) []).reverse

/-- A PRIMARY forwards a write into mirrored partitions' memory to its shadow, each run of it at its partition address
(R356). -/
def State.forwardWrite (s : State) (ls : List (Space × Nat)) (bs : List Byte) : State :=
  if s.role ≠ rolePrimary then s
  else
    let name := fun (l : Space × Nat) => match s.ownerOf l with
      | some p => if s.mirrored p then some (p, (s.tmpl p).unxl l.1 l.2) else none
      | none => none
    let runs := writeRuns ((List.zip ls bs).map (fun q => (name q.1, q.2)))
    s.withMirror { s.mirror with
      forwarded := s.mirror.forwarded ++ runs.map (fun r => MirrorMsg.write (Fin.ofNat 16 r.1) r.2.1 r.2.2) }

/-- Places that a running step of partition p still writes or reads. -/
def State.stepPlaces (s : State) (p : Nat) : List (Space × Nat) :=
  let at_ := fun (ws : List PWrite) => ws.map (fun w => (w.sp, w.addr))
  (s.landing.filter (fun w => w.part == p)).flatMap (fun w => at_ w.writes)
    ++ (s.clusters.filter (fun e => e.2.run.any (fun r => r.1 == p))).flatMap (fun e =>
      e.2.mv.flatMap (fun o => at_ o.writes ++ o.loads.filterMap (·.src)))

/-- Partitions a running step of which uses one of these places: a host write there is the host error of reusing a buffer
before the step's completion record (R291, Table 14.8). -/
def State.stepsUsing (s : State) (ls : List (Space × Nat)) : List Nat :=
  (List.range 16).filter (fun p => (s.stepPlaces p).any ls.contains)

/-- A BAR2 write of function f is carried out. -/
def State.writeDone (s : State) (f : Nat) (ls : List (Space × Nat)) (bs : List Byte) : State :=
  let ws := (List.zip ls bs).map (fun q => (⟨q.1.1, q.1.2, 0xFF, q.2⟩ : PWrite))
  let split := fun (w : PWrite) => f == 0 && s.fbit (siteReg (siteOf w.sp w.addr) + 24) 63
  let t := ((s.countLines none ls).writeBytes (ws.filter (fun w => !split w))).splitWrite (ws.filter split)
  (s.stepsUsing ls).foldl State.unpredictable t

/-- A BAR2 write: checked, and forwarded to a shadow, on arrival. -/
def State.apWrite (s : State) (f a : Nat) (bs : List Byte) : State :=
  let ls := (List.range bs.length).map (fun i => s.apLoc f (a + i))
  match s.apFault f ls with
  | some x => s.apRecord x a
  | none =>
    let ls := ls.filterMap id
    let s := s.forwardWrite ls bs
    let x : HostAcc := .write f a bs ls
    if s.mayServe x then s.writeDone f ls bs else s.hostWait x

/-- HOST_WRITE. -/
def State.hostWrite (s : State) (f : Nat) (imem : Bool) (a : Nat) (bs : List Byte) : State :=
  if !s.host.up || !s.power.input || !s.fnValid f || (imem && f == 0) then s
  else if imem then (if s.barOpen then s.imemWrite f a bs else s)
  else if !s.ready then s
  else s.apWrite f a bs

/-! ### Galley commands (R292, R384, R385) -/

def entIndex (e : List W64) : Nat := bf (wordAt e 0) 13 0

/-- Whether INDEX lies in the partition's request table range. -/
def State.indexOk (s : State) (p : Nat) (e : List W64) : Bool :=
  let t := s.tmpl p
  decide (t.rqBase ≤ entIndex e) && decide (entIndex e < t.rqBase + t.rqCount)

/-- The RQSTATE record of a discarded command (R385). -/
def State.badCommand (s : State) (p : Nat) (e : List W64) : State :=
  let r := s.req (entIndex e)
  let mine := s.indexOk p e
  s.post p 6 ((if mine then r.state else 0) * 2 ^ 52 + 5 * 2 ^ 46 + entIndex e * 2 ^ 32)
    (BitVec.ofNat 64 (if mine then r.tag else bf (wordAt e 1) 31 0)) 0

/-- SUBMIT fills its entry and makes it QUEUED (R293, R294). -/
def State.submitFill (s : State) (p : Nat) (e : List W64) : State :=
  let i := entIndex e
  let w := wordAt e
  let s := s.freeReq p i
  let s := s.modScu p (fun x => { x with acts := x.acts.filter (fun a => a.2 != i) })
  let seq := (s.scu p).seq
  let r : Req :=
    { w0 := BitVec.ofNat 64 (rqQueued * 2 ^ 60 + bf (w 0) 55 53 * 2 ^ 57 + bf (w 0) 52 51 * 2 ^ 51 + bf (w 0) 50 45 * 2 ^ 45 + bf (w 1) 31 0)
      w1 := BitVec.ofNat 64 (seq % 2 ^ 32 * 2 ^ 32)
      w2 := BitVec.ofNat 64 (bf (w 1) 63 32 * 2 ^ 32)
      w3 := BitVec.ofNat 64 (bf (w 2) 63 32 * 2 ^ 32)
      w4 := w 3
      w5 := w 4
      w6 := w 5 &&& 0xFFFFFFFFFFFF07FF
      w7 := w 6 &&& 0xFFFFFFFFFFFF0000
      part := p }
  (s.setReq i r).modScu p (fun x => { x with seq := seq + 1, hashing := x.hashing ++ [i] })

/-- SUBMIT. To an index whose entry is not free, FINISHED or CANCELLED it is a host error: it fills the entry or not,
by a free choice, and values of the partition are free (R292, R391). -/
def State.submit (s : State) (p : Nat) (e : List W64) : State :=
  if !s.indexOk p e then s.badCommand p e
  else if (s.req (entIndex e)).live then
    let (b, s) := s.choose
    (if b then s.submitFill p e else s).unpredictable p
  else s.submitFill p e

/-- CANCEL (2), PAUSE (3) and RESUME (4) wait for the next composition (R295). -/
def State.control2 (s : State) (p act : Nat) (e : List W64) : State :=
  if !s.indexOk p e then s.badCommand p e
  else s.modScu p (fun x => { x with acts := x.acts ++ [(act, entIndex e)] })

/-- COPYDONE record. -/
def State.copyRecord (s : State) (p : Nat) (err : Bool) (cookie : W32) : State :=
  s.post p 8 (boolNat err * 2 ^ 55 + cookie.toNat) 0 0

/-- Physical places of a partition range of a TIERCOPY; none where translation fails. -/
def State.copyPlaces (s : State) (p : Nat) (j : TierJob) : Option (List (Space × Nat)) :=
  let ls := (List.range j.len).map (fun i => s.xl p (boolNat j.sp) 0 (j.paddr + i))
  if ls.any (·.isNone) then none else some (ls.filterMap id)

/-- TIERCOPY (R385): checked, then under way until COPYDONE. -/
def State.tierCopy (s : State) (p : Nat) (e : List W64) : State :=
  let w := wordAt e
  let t := s.tmpl p
  let j : TierJob :=
    { toTier := bit (w 0) 55, sp := bit (w 0) 54, taddr := (w 1).toNat / 64 * 64, paddr := (w 2).toNat / 64 * 64
      len := 64 * bf (w 3) 31 0, cookie := BitVec.ofNat 32 (w 4).toNat }
  let base := bf t.tier 63 32 * 2 ^ 30
  if j.taddr < base ∨ base + bf t.tier 31 0 * 2 ^ 30 < j.taddr + j.len ∨ (s.copyPlaces p j).isNone then
    s.copyRecord p true j.cookie
  else s.modPart p (fun q => { q with copies := q.copies ++ [j] })

/-- COPYDONE: a running tier copy moves its bytes and posts its record. Channels out of memory mode answer as
R218 lays down; while one is under refresh or calibration, the copy goes on. -/
def State.copyDone (s : State) (p k : Nat) : State :=
  match (s.part p).copies[k]? with
  | none => s
  | some j =>
    if s.halted then s
    else
      let s0 := s
      let s := s.modPart p (fun q => { q with copies := dropAt q.copies k })
      match s.copyPlaces p j with
      | none => s.copyRecord p true j.cookie
      | some ls =>
        if !s.calm ls then s0 else
        let away := ls.filter (fun l => !s.lineOk l)
        let s := if away.isEmpty then s else s.postHostFault p fltChmode j.paddr
        let s := if j.toTier then
            (if away.isEmpty then s.tierOut j.taddr ls
             else
               let (bs, _, s') := s.readBytes ls
               let bs := (List.zip ls bs).map (fun q => if s.lineOk q.1 then q.2 else 0xFF)
               s'.tierPut j.taddr bs)
          else if away.isEmpty then s.tierIn j.taddr ls
          else
            let qs := ((List.zip (List.range ls.length) ls).filter (fun q => s.lineOk q.2)).map (fun q => (j.taddr + q.1, q.2))
            (s.countLines none (qs.map (·.2))).tierInEach qs
        s.copyRecord p false j.cookie

/-- One galley command, by its CMD (Table 14.5). -/
def State.galleyDo (s : State) (p : Nat) (e : List W64) : State :=
  let cmd := bf (wordAt e 0) 63 56
  if cmd = 0 then s
  else if cmd = 1 then s.submit p e
  else if cmd ≤ 4 then s.control2 p cmd e
  else if cmd = 5 then s.tierCopy p e
  else s.badCommand p e

/-- Send an input of a mirrored partition to the shadow of a PRIMARY (R356). -/
def State.forward (s : State) (p : Nat) (x : MirrorMsg) : State :=
  if s.mirrored p && s.role == rolePrimary then s.withMirror { s.mirror with forwarded := s.mirror.forwarded ++ [x] } else s

/-- A galley command that has arrived. -/
def State.galleyArrive (s : State) (p : Nat) (e : List W64) : State :=
  (s.forward p (.galley (Fin.ofNat 16 p) e)).galleyDo p e

/-- A row of one galley command runs it when the entry's CMD is the row's and the partition is in force, after every
access of the function that arrived before it (R290). -/
def State.galleyRow (s : State) (p cmd : Nat) (e : List W64) : State :=
  if bf (wordAt e 0) 63 56 = cmd ∧ s.validPart p then
    (if s.fnWaits (p + 1) then s.hostWait (.command p e) else s.galleyArrive p e)
  else s

/-- Entry k of a partition's galley. -/
def State.galleyEntry (s : State) (p k : Nat) : List W64 := (List.range 8).map (fun j => s.reg (rGalley p k + 8 * j))

/-- HEAD of a partition's galley. -/
def State.galleyHead (s : State) (p : Nat) : Nat := s.fld (rGhead (p + 1)) 9 0

/-- Read n entries from HEAD on; each has arrived once HEAD has passed it. -/
def galleyRead (p depth : Nat) : Nat → State → State
  | 0, s => s
  | n + 1, s =>
    let h := s.galleyHead p
    let e := s.galleyEntry p (h % depth)
    galleyRead p depth n ((s.setFld (rGhead (p + 1)) 9 0 ((h + 1) % depth)).galleyArrive p e)

/-- The module acts on a doorbell: it reads the entries from HEAD up to TAIL. After the host error of a TAIL of DEPTH or
above, how many it reads and values of the partition are free (R383, R391). -/
def State.galleyTake (s : State) (p tail : Nat) : State :=
  let d := (s.tmpl p).depth
  if tail ≥ d then
    let n := s.free
    galleyRead p d ((Config.freeWord n 0).toNat % d) ((s.withFree (n + 1)).unpredictable p)
  else galleyRead p d ((tail + d - s.galleyHead p % d) % d) s

/-- A write of HOST_GTAIL, in BAR0: the new TAIL, and the doorbell, which waits for every access of the function that
arrived before it (R290, R383). -/
def State.doorbell (s : State) (p tail : Nat) : State :=
  if !s.host.up || !s.validPart p then s
  else
    let s := (s.setFld (rGtail (p + 1)) 9 0 tail).forward p (.doorbell (Fin.ofNat 16 p) (BitVec.ofNat 10 tail))
    if s.fnWaits (p + 1) then s.hostWait (.bell p tail) else s.galleyTake p tail

/-- Whether galley entry k lies between HEAD and TAIL, where the host must not write (Table 14.8). -/
def State.galleyHeld (s : State) (p k : Nat) : Bool :=
  let d := (s.tmpl p).depth
  let h := s.galleyHead p
  decide ((k + d - h % d) % d < (s.fld (rGtail (p + 1)) 9 0 + d - h % d) % d) && decide (k < d)

/-- A page of a bulk copy: its bytes, the units sent as poison, and no other error. -/
def State.takePage (s : State) (k : Nat) (bytes : List (Nat × Byte)) (poison : List Nat) : State :=
  let (sp, a) := pageBase k
  let s := s.withMem sp (bytes.foldl (fun m b => mset m (a + b.1) b.2) (mzero (s.memOf sp) a (2 ^ 21)))
  poison.foldl (fun s o => s.setErr sp (a + o) { poison := true }) (s.clearErrs sp a (2 ^ 21))

/-- Something that waited at the host port is carried out. -/
def State.hostServe (s : State) : HostAcc → State
  | .read _ _ ls => s.readDone ls
  | .write f _ bs ls => s.writeDone f ls bs
  | .bell p tail => s.galleyTake p tail
  | .command p e => s.galleyArrive p e
  | .page k bytes poison => s.takePage k bytes poison

/-- What waits at the host port, in its order: each that may be carried out is, and the others go on waiting. What a
function left behind whose template is no longer valid is dropped. -/
def State.servePort (s : State) : State :=
  if s.host.waits.isEmpty then s
  else s.host.waits.foldl (fun s x =>
    if x.fn != mirPort && !s.fnValid x.fn then s else if s.mayServe x then s.hostServe x else s.hostWait x)
    (s.withHost { s.host with waits := [] })

/-! ### Event rings and the port (R386, R479) -/

/-- HOST_EBASE_WRITE; a function without a valid template takes none (R373). -/
def State.ebaseWrite (s : State) (f : Nat) (wd : Width) (v : W64) : State :=
  if !s.fnValid f then s
  else
  let s := s.setReg (rEbase f) (writeWord (layoutOf (rEbase f)) (s.reg (rEbase f)) wd v)
  (s.setFld (rEhead f) 15 0 0).setFld (rEstat f) 15 0 0

/-- HOST_EHEAD written. A head beyond TAIL is a host error: values of the function's partition and ring are free
(Table 14.8). -/
def State.eheadWrite (s : State) (f h : Nat) : State :=
  let n := ringSize (s.reg (rEbase f))
  let old := s.fld (rEhead f) 15 0
  let tail := s.fld (rEstat f) 15 0
  let t := s.setFld (rEhead f) 15 0 h
  if h ≥ n ∨ (h + n - old % n) % n > (tail + n - old % n) % n then t.ringSpoiled f else t

/-- EVENT_INTERRUPT: while records remain, at most once per 10 µs. -/
def State.eventInterrupt (s : State) (f : Nat) : State :=
  if s.host.up && s.fld (rEhead f) 15 0 != s.fld (rEstat f) 15 0
      && decide (sget 0 s.host.msixAt f + 10000 ≤ s.now) then s.msix f else s

/-- PERST_N (R479). The completions of reads that wait are lost with the port; writes it had accepted go on. -/
def State.perst (s : State) (asserted : Bool) : State :=
  s.withHost { s.host with
    up := !asserted, waits := if asserted then s.host.waits.filter (fun x => !x.isRead) else s.host.waits }

/-- TIER_PORT_TRAINED (R392): the port comes up, with the lines of its device that return poison (R393). -/
def State.tierTrained (s : State) (t : Nat) (cap : BitVec 32) (poison : List Nat) : State :=
  if s.fld (rTier t) 61 60 = 1 then
    let others := s.tierPoison.filter (fun l => l / 2 ^ 40 != t)
    let mine := (poison.filter (fun l => decide (l < cap.toNat * 2 ^ 24))).map (t * 2 ^ 40 + ·)
    ((s.setFld (rTier t) 61 60 2).setFld (rTier t) 31 0 cap.toNat).withTierPoison (others ++ mine)
  else s

/-- HOST_TIERn written: a port that is switched on trains; MODE 0 or 3 is off (Table 14.9). -/
def State.tierMode (s : State) (t : Nat) (wd : Width) (v : W64) : State :=
  let old := s.fld (rTier t) 63 62
  let s := s.setReg (rTier t) (writeWord (layoutOf (rTier t)) (s.reg (rTier t)) wd v)
  let new := s.fld (rTier t) 63 62
  let on := fun (m : Nat) => m == 1 || m == 2
  if old = new then s
  else if on new then (s.setFld (rTier t) 61 60 1).setFld (rTier t) 31 0 0
  else (s.setFld (rTier t) 61 60 0).setFld (rTier t) 31 0 0

/-! ### Mirrored inputs (R356, R369) -/

/-- The serving state of a partition, as the sender had it at cutover: a JOINING or SHADOW module goes on from it. -/
def State.takeServing (s : State) (p : Nat) (x : ScuPart) (reqs : List (Nat × Req)) (regs : List (Nat × W64)) : State :=
  let t := s.tmpl p
  let s := s.setScu p x
  let s := s.withReqs (s.reqs.filter (fun e => !t.hasReq e.1))
  let s := (reqs.filter (fun e => t.hasReq e.1)).foldl (fun s e => s.setReq e.1 e.2) s
  (regs.filter (fun e => (scuRegs p).contains e.1)).foldl (fun s e => s.setReg e.1 e.2) s

/-- A galley command that the primary forwarded takes the place of the entry at HEAD, as if the host had written it
here. -/
def State.followCommand (s : State) (p : Nat) (e : List W64) : State :=
  let d := (s.tmpl p).depth
  let h := s.galleyHead p
  let s := (List.range 8).foldl (fun s j => s.setReg (rGalley p (h % d) + 8 * j) (wordAt e j)) s
  let s := s.setFld (rGhead (p + 1)) 9 0 ((h + 1) % d)
  if s.fnWaits (p + 1) then s.hostWait (.command p e) else s.galleyDo p e

/-- Whether this module follows its primary's inputs to partition p. -/
def State.follows (s : State) (p : Nat) : Bool := s.role == roleShadow && s.mirrored p && !s.fbit rMirStat (32 + p)

/-- MIRROR_INPUT: a SHADOW takes its primary's galley commands, doorbells and host writes as its own, and it, or a
JOINING module, what a resynchronisation sends. -/
def State.mirrorInput (s : State) (x : MirrorMsg) : State :=
  let copies := s.role == roleShadow || s.role == roleJoining
  match x with
  | .galley p e => if s.follows p.val then s.followCommand p.val e else s
  | .doorbell p tail => if s.follows p.val then s.setFld (rGtail (p.val + 1)) 9 0 tail.toNat else s
  | .write p a bs => if s.follows p.val then s.apWrite (p.val + 1) a bs else s
  | .page k bytes poison =>
    let x : HostAcc := .page k bytes poison
    if !copies then s else if s.mayServe x then s.takePage k bytes poison else s.hostWait x
  | .serving p scu reqs regs => if copies && s.mirrored p.val then s.takeServing p.val scu reqs regs else s
  | .lagged p n => s.takeLagged p.val n
  | .complete only => if copies then s.withMirror { s.mirror with handed := s.mirror.handed ++ [only.map (·.val)] } else s

/-! ### The rows -/

/-- HOST_READ. -/
def execHostRead (f : FnId) (imem : Bool) (addr len : Nat) (s : State) : Host.Outcome State Fault Refusal :=
  .next (s.hostRead f.val imem addr len)

/-- HOST_WRITE. -/
def execHostWrite (f : FnId) (imem : Bool) (addr : Nat) (data : List Byte) (s : State) :
    Host.Outcome State Fault Refusal :=
  .next (s.hostWrite f.val imem addr data)

/-- GALLEY_DOORBELL. -/
def execGalleyDoorbell (p : PartId) (tail : BitVec 10) (s : State) : Host.Outcome State Fault Refusal :=
  .next (s.doorbell p.val tail.toNat)

/-- SUBMIT. -/
def execSubmit (p : PartId) (entry : List W64) (s : State) : Host.Outcome State Fault Refusal := .next (s.galleyRow p.val 1 entry)

/-- CANCEL. -/
def execCancel (p : PartId) (entry : List W64) (s : State) : Host.Outcome State Fault Refusal := .next (s.galleyRow p.val 2 entry)

/-- PAUSE. -/
def execPause (p : PartId) (entry : List W64) (s : State) : Host.Outcome State Fault Refusal := .next (s.galleyRow p.val 3 entry)

/-- RESUME. -/
def execResume (p : PartId) (entry : List W64) (s : State) : Host.Outcome State Fault Refusal := .next (s.galleyRow p.val 4 entry)

/-- GALLEY_NOP. -/
def execGalleyNop (p : PartId) (s : State) : Host.Outcome State Fault Refusal := .next (s.galleyRow p.val 0 [])

/-- TIERCOPY. -/
def execTierCopy (p : PartId) (entry : List W64) (s : State) : Host.Outcome State Fault Refusal := .next (s.galleyRow p.val 5 entry)

/-- COPYDONE. -/
def execCopyDone (p : PartId) (k : Nat) (s : State) : Host.Outcome State Fault Refusal := .next (s.copyDone p.val k)

/-- HOST_EBASE_WRITE. -/
def execHostEbaseWrite (f : FnId) (v : W64) (s : State) : Host.Outcome State Fault Refusal := .next (s.ebaseWrite f.val .w64 v)

/-- EVENT_INTERRUPT. -/
def execEventInterrupt (f : FnId) (s : State) : Host.Outcome State Fault Refusal := .next (s.eventInterrupt f.val)

/-- PERST_N. -/
def execPerstN (asserted : Bool) (s : State) : Host.Outcome State Fault Refusal := .next (s.perst asserted)

/-- TIER_PORT_TRAINED. -/
def execTierPortTrained (t : Fin 3) (cap : BitVec 32) (poison : List Nat) (s : State) :
    Host.Outcome State Fault Refusal :=
  .next (s.tierTrained t.val cap poison)

/-- MIRROR_INPUT. -/
def execMirrorInput (x : MirrorMsg) (s : State) : Host.Outcome State Fault Refusal := .next (s.mirrorInput x)

end Sys2Proof.Machine
end

