-- ==== Sys2Proof/Machine/Integrity.lean ====
section
/-! DEFINITION. The scrubber (R403 to R405), the copy of a retired row (R408), and the split-write test mode
(R407). -/

namespace Sys2Proof.Machine

/-! ### Sites -/

/-- Site of the registers and codes of chapter 15: (0, channel), (1, C-die), (2, cluster). -/
def Site.pair : Site → Nat × Nat
  | .chan n m => (0, 16 * n.val + m.val)
  | .case d => (1, d.val)
  | .store c => (2, c.val)

/-- Key of a site's scrubber. -/
def scrubKey : Nat × Nat → Nat
  | (0, k) => k
  | (1, d) => 128 + d
  | (_, c) => 160 + c

/-- 64-byte lines of a site. -/
def siteLines : Nat × Nat → Nat
  | (0, _) => 72 * 2 ^ 20
  | (1, _) => 2 ^ 26
  | _ => 2 ^ 17

/-- Location of line i of a site, in address order. -/
def siteLine : Nat × Nat → Nat → Space × Nat
  | (0, k), i => (.stack, (k / 16) * stackBytes + (16 * (i / 32768) + k % 16) * 2 ^ 21 + i % 32768 * 64)
  | (1, d), i => (.case, d * 2 ^ 32 + 64 * i)
  | (_, c), i => (.store c, 64 * i)

/-- Whether a partition has a step, or, for its channels, a MODESW duty in progress. -/
def State.partBusy (s : State) (p : Nat) (modesw : Bool) : Bool :=
  (s.runs p).any (fun r => r.2.phase == .step || (modesw && r.2.phase == .modesw))

/-- Whether the scrubber may work at line i of a site now (R403); a refresh suspends it (Table 15.4). -/
def State.siteIdle (s : State) (t : Nat × Nat) (i : Nat) : Bool :=
  match t with
  | (0, k) => (match s.partOfChan k with | some p => !s.partBusy p true | none => true) && (s.chan k).switch.isNone
    && (s.chan k).refreshing.isNone && !s.calibrating k
  | (1, d) => (match s.partOfSlice ((d * 2 ^ 32 + 64 * i) / 2 ^ 28) with | some p => !s.partBusy p false | none => true)
  | (_, c) => (s.cluster c).run.isNone

/-! ### Scrubbing (R404) -/

/-- Scrub one line in memory mode: write back a corrected line, poison an uncorrectable one. -/
def State.scrubLine (s : State) (sp : Space) (a : Nat) : State :=
  (List.range (64 / unitBytes sp)).foldl (fun s j =>
    let u := a + j * unitBytes sp
    if !s.suspect sp u || (s.errOf sp u).poison then s
    else
      let (bs, bad, s) := s.readRun sp u (unitBytes sp)
      if bad then s else (s.withMem sp (mput (s.memOf sp) u bs)).setErr sp u {}) s

/-- Scrub one line of a processor-mode channel: the per-die code of every die word in place. A die word with more errors
that passes for a single one is left as it is. DESIGN CHOICE (log 100). -/
def State.scrubDies (s : State) (k a : Nat) : State :=
  let e := s.errOf .stack a
  let o := s.errOf .stack (if (a / 64) % 2 = 0 then a + 64 else a - 64)
  if e = {} ∨ e.poison then s
  else
    let single := (List.range 18).filter (fun d =>
      flipCount (flipsOf e d) == 1 && flipCount (flipsOf o d) == 0 && !dieReport (flipsOf e d) (flipsOf o d))
    let failing := (List.range 18).filter (fun d => dieReport (flipsOf e d) (flipsOf o d))
    let s := s.noteDies k a single failing
    s.setErr .stack a { s.errOf .stack a with flips := e.flips.filter (fun f => !single.contains f.1) }

/-- Set SLOW, with its log entry and event, unless it is set (R401, R405). -/
def State.setSlow (s : State) (t : Nat × Nat) : State :=
  if s.fbit (siteReg t + 8) 0 then s else ((s.setBit (siteReg t + 8) 0 true).errLog t 8 0 0).pfev 4 0

/-- LAPMAX of a site in ns. -/
def State.lapMax (s : State) (t : Nat × Nat) : Nat := s.fld (rEcfg (siteWin t)) 63 32 * 10 ^ 9

/-- SCRUB_BURST: up to 64 lines of an idle site, and the end of its lap. -/
def State.scrubBurst (s : State) (t : Nat × Nat) : State :=
  let key := scrubKey t
  let sc : Scrub := sget {} s.integ.scrub key
  if !s.power.alive || !s.power.input || s.tripped || !s.fbit (rEcfg (siteWin t)) 0 || s.fbit (siteReg t + 24) 63
      || !s.siteIdle t sc.pos then s
  else
    let start := sc.lapAt.getD s.now
    let n := min 64 (siteLines t - sc.pos)
    let s := if s.integ.errs.isEmpty then s
      else (List.range n).foldl (fun s i =>
        let (sp, a) := siteLine t (sc.pos + i)
        match t with
        | (0, k) => if (s.chan k).state = .memory then s.scrubLine sp a else s.scrubDies k a
        | _ => s.scrubLine sp a) s
    let pos := sc.pos + n
    let sc : Scrub := sget {} s.integ.scrub key
    if pos ≥ siteLines t then
      let s := s.withInteg { s.integ with scrub := sset {} s.integ.scrub key { pos := 0, lapAt := some s.now, rowErrs := [] } }
      let s := (s.setFld (siteReg t + 8) 63 32 (satTo 32 ((s.now - start) / 10 ^ 6))).setFld (siteReg t + 8) 31 24 0
      if s.now - start > s.lapMax t then s.setSlow t else s
    else
      let s := s.withInteg { s.integ with scrub := sset {} s.integ.scrub key { sc with pos := pos, lapAt := some start } }
      s.setFld (siteReg t + 8) 31 24 (100 * pos / siteLines t)

/-- LAP_LIMIT: the running part of the lap exceeds LAPMAX. -/
def State.lapLimit (s : State) (t : Nat × Nat) : State :=
  match (sget {} s.integ.scrub (scrubKey t) : Scrub).lapAt with
  | some a => if s.now - a > s.lapMax t then s.setSlow t else s
  | none => s

/-! ### Retired rows (R408) -/

/-- ROW_COPY_DONE: the oldest copy of the channel ends; the die's bytes of the row are rebuilt on its spare,
and the remap takes effect. -/
def State.rowCopyDone (s : State) (k : Nat) : State :=
  match s.integ.copying.find? (fun e => e.1 == k) with
  | none => s
  | some e =>
    if s.tripped || (s.chan k).state != .memory || !s.siteIdle (0, k) 0 then s
    else
      let w := e.2
      let die := bf w 52 48
      let s := (List.range 256).foldl (fun s i =>
        let pa := paOfRow k (bf w 47 43) (bf w 42 29) (64 * i)
        let x := s.errOf .stack pa
        if x = {} ∨ x.poison then s
        else if (s.checkStack pa).bad then s
        else s.setErr .stack pa { x with flips := x.flips.filter (fun f => f.1 != die) }) s
      let s := s.withInteg { s.integ with copying := s.integ.copying.erase e, retired := s.integ.retired ++ [w] }
      let s := s.recordRetirement w (k / 16)
      (s.errLog (0, k) 6 die (bf w 47 43 * 2 ^ 44 + bf w 42 29 * 2 ^ 30)).pfev 4 0

/-! ### Split-write mode (R407) -/

/-- Whether a site is granted to some valid partition. -/
def State.siteGranted (s : State) (t : Nat × Nat) : Bool :=
  match t with
  | (0, k) => (s.partOfChan k).isSome
  | (1, d) => (List.range 16).any (fun i => (s.partOfSlice (16 * d + i)).isSome)
  | (_, c) => (s.partOf c).isSome

/-- SITE_SPLIT: EN can be set only while the site is granted to no valid partition. -/
def State.siteSplit (s : State) (t : Nat × Nat) (wd : Width) (v : W64) : State :=
  let key := siteReg t + 24
  let old := s.reg key
  let new := writeWord (layoutOf key) old wd v
  s.setReg key (if bit new 63 && !bit old 63 && s.siteGranted t then setBf new 63 63 0 else new)

/-! ### The rows -/

/-- SCRUB_BURST. -/
def execScrubBurst (x : Site) (s : State) : Host.Outcome State Fault Refusal := .next (s.scrubBurst (Site.pair x))

/-- LAP_LIMIT. -/
def execLapLimit (x : Site) (s : State) : Host.Outcome State Fault Refusal := .next (s.lapLimit (Site.pair x))

/-- ROW_COPY_DONE. -/
def execRowCopyDone (n : StackId) (m : ChanId) (s : State) : Host.Outcome State Fault Refusal :=
  .next (s.rowCopyDone (chanKey n m))

/-- SITE_SPLIT. -/
def execSiteSplit (x : Site) (v : W64) (s : State) : Host.Outcome State Fault Refusal :=
  .next (s.siteSplit (Site.pair x) .w64 v)

end Sys2Proof.Machine
end

