-- ==== Sys2Proof/Machine/FirmwareKeep.lean ====
section
/-! DEFINITION. Firmware cores (R413 to R426): images, live update and switching, self-tests and
calibrations; and the keep registers (R427 to R433). -/

namespace Sys2Proof.Machine

/-! ### Keep registers -/

/-- Words the host may write (Table 16.5). -/
def hostKeepWord (w : Nat) : Bool := w == 0 || (decide (2 ≤ w) && decide (w ≤ 7)) || (decide (368 ≤ w)
    && decide (w < 1024))

/-- KEEP_CNT.COUNT and WORN of a word. -/
def State.keepCount (s : State) (w : Nat) : Nat := sget 0 s.keep.counts w
def State.keepWorn (s : State) (w : Nat) : Bool := decide (s.keepCount w ≥ 1000000)

/-- A write to a worn word (R431). -/
def State.keepRefuse (s : State) : State := ((s.incFld rKeepStat 63 32).pfev 6 0).logError coreSec 0

/-- An uncorrectable word was read (R432). -/
def State.keepUe (s : State) : State := ((s.setBit rKeepStat 31 true).pfev 6 0).logError coreSec 0

/-- Whether the compensation table is valid (R427). -/
def State.compValid (s : State) : Bool :=
  let h := s.keepWord 32
  let n := bf h 62 56
  let t := fun (j : Nat) => sext 16 (bf (s.keepWord (33 + j)) 63 48)
  bit h 63 && decide (0 < n) && decide (n ≤ 31) && (List.range (n + 1)).all (fun j => !s.keep.bad.contains (32 + j))
    && (List.range (n - 1)).all (fun j => decide (t j < t (j + 1)))

/-- COMP_BAD: the table is invalid, or the sensor that governs it is broken (R60, R427). -/
def State.noteComp (s : State) : State :=
  s.setBit rTtStatus stCompBad (!s.compValid || (sget {} s.power.sensors 4 : Sensor).broken)

/-- What is queued, once these are the writes not yet performed: a write at the front whose value is stored by then
completes at once. -/
def State.keepPending (s : State) (es : List (Nat × W64)) : State :=
  let es := es.dropWhile (fun e => s.keepSame e.1 e.2 && !s.keepWorn e.1)
  s.withKeep { s.keep with queue := es.take 16, waiting := es.drop 16 }

/-- The oldest queued write is performed; it is persistent now (R429). -/
def State.keepWriteDone (s : State) : State :=
  match s.keep.all with
  | [] => s
  | (w, v) :: t =>
    if s.keepWorn w then (s.keepPending t).keepRefuse
    else if s.keepSame w v then s.keepPending t
    else
      ((s.withKeep { s.keep with
        words := sset 0 s.keep.words w v
        counts := sset 0 s.keep.counts w (s.keepCount w + 1)
        bad := s.keep.bad.filter (· != w) }).keepPending t).noteComp

/-- A write of the physical function to BAR0 waits at the host port until the queue has room (R429). -/
def State.keepRoom (s : State) : Nat → State
  | 0 => s
  | n + 1 => if s.keep.all.length < 16 then s else s.keepWriteDone.keepRoom n

/-- A host write of a keep word (R428, R429). -/
def State.keepWrite (s : State) (w : Nat) (v : W64) : State :=
  let s := s.keepRoom s.keep.all.length
  if !hostKeepWord w then s
  else if s.keepWorn w then s.keepRefuse
  else s.keepQueue w v

/-- A read of a keep word returns the persisted value, after every write queued for it (R429). -/
def State.keepDrain (s : State) (w : Nat) : Nat → State
  | 0 => s
  | n + 1 => if s.keep.all.any (fun e => e.1 == w) then s.keepWriteDone.keepDrain w n else s

def State.keepRead (s : State) (w : Nat) : W64 × State :=
  let s := s.keepDrain w s.keep.all.length
  (s.keepWord w, if s.keep.bad.contains w then s.keepUe else s)

/-! ### Images (R414 to R416) -/

/-- Bytes of an image slot of a kind. -/
def imageMax (k : Nat) : Nat := if k = 1 then 2 ^ 21 else if k = 2 then 2 ^ 23 else 2 ^ 20

def State.image (s : State) (k slot : Nat) : Image := sget {} s.fw.images (2 * k + slot)

/-- Selection word of kind k, as it will stand. -/
def State.selection (s : State) (k : Nat) : W64 := s.keepFinal (8 + k)

/-- Slot that kind k runs from. -/
def State.activeSlot (s : State) (k : Nat) : Nat := boolNat (s.fbit (rFwImg k) 63)

/-- Whether an image slot passes R415: digest, signature and ROLLBACK. -/
def State.slotPasses (s : State) (k slot : Nat) : Bool :=
  let m := s.image k slot
  m.ok && decide (m.version.toNat ≥ bf (s.selection k) 47 32)

/-- Whether trace point n is enabled (FW_TPEN, Table 16.2). -/
def State.tpOn (s : State) (n : Nat) : Bool := s.fbit (rFwTpen (n / 64)) (n % 64)

/-- Which trace points a running core passes is its image's own: in each ns one may log a trace point that is enabled
(R425). DESIGN CHOICE (log 59). -/
def State.tracePoints (s : State) : State :=
  if s.fw.started.isEmpty || (List.range 16).all (fun j => s.reg (rFwTpen j) == 0) then s
  else
    let w := fun (j : Nat) => Config.freeWord s.free j
    let n := (w 0).toNat % 1024
    let k := s.fw.started.getD ((w 1).toNat % s.fw.started.length) 0
    let t := s.withFree (s.free + 1)
    if (w 2).getLsbD 0 && s.tpOn n then t.logRecord k (if k = coreCc then (w 3).toNat % 32 else 0) 0 n (w 4) (w 5) else t

/-- The core of kind k runs from a slot, on trial or not. -/
def State.runFrom (s : State) (k slot : Nat) (trial : Bool) : State :=
  (s.setBit (rFwImg k) 63 (slot == 1)).withFw { s.fw with
    trialAt := sset 0 s.fw.trialAt k (if trial then s.now + 1 else 0) }

/-- Start of a core at power-up: slot SEL, or the other with FELLBACK, on trial while TRIAL is 1 (R416); whether one
passes. -/
def State.startCore (s : State) (k : Nat) : Bool × State :=
  let sel := boolNat (bit (s.selection k) 63)
  let trial := bit (s.selection k) 62
  let run := s.withFw { s.fw with started := linsert k s.fw.started }
  if s.slotPasses k sel then (true, run.runFrom k sel trial)
  else if s.slotPasses k (1 - sel) then
    (true, ((run.runFrom k (1 - sel) trial).setBit (rFwImg k) 61 true).logError coreSec 0)
  else
    (false, (s.withFw { s.fw with
      started := s.fw.started.filter (· != k), trialAt := sset 0 s.fw.trialAt k 0 }).logError coreSec 0)

/-- HEALTHY_REPORT: TRIAL is cleared. -/
def State.healthy (s : State) (k : Nat) : State :=
  if sget 0 s.fw.trialAt k = 0 then s
  else (s.withFw { s.fw with trialAt := sset 0 s.fw.trialAt k 0 }).keepQueue (8 + k) (setBf (s.selection k) 62 62 0)

/-- TRIAL_TIMEOUT: after 1 s SEC inverts SEL, clears TRIAL and restarts the core from the other slot, as at power-up:
where no slot passes, it does not start (R415, R416). -/
def State.trialTimeout (s : State) (k : Nat) : State :=
  let t := sget 0 s.fw.trialAt k
  if t = 0 ∨ s.now < t - 1 + 1000000000 then s
  else
    let w := s.selection k
    let s := s.keepQueue (8 + k) (setBf (setBf w 63 63 (1 - boolNat (bit w 63))) 62 62 0)
    (s.startCore k).2.logError coreSec 0

/-! ### Live update (R418 to R422) -/

def State.updPhase (s : State) : Nat := s.fld rFwUpdstat 63 61
def State.setPhase (s : State) (v : Nat) : State := s.setFld rFwUpdstat 63 61 v

/-- Whether SEC is being switched: FW_UPD, FW_STREQ and JTAG unlock wait (Table 16.3). -/
def State.secWaits (s : State) : Bool := s.fw.switching.any (fun x => x.1 == coreSec)

/-- Whether PWR is being switched (Table 16.3). -/
def State.pwrWaits (s : State) : Bool := s.fw.switching.any (fun x => x.1 == corePwr)

/-- A write of FW_UPD or FW_STREQ that waits for SEC. -/
def State.secHold (s : State) (upd : Bool) (v : W64) : State := s.withFw { s.fw with waits := s.fw.waits ++ [(upd, v)] }

/-- FW_UPD written, with SEC there to act. -/
def State.updWrite (s : State) (v : W64) : State :=
  if !bit v 63 ∨ !(s.updPhase == 0 || s.updPhase == 5 || s.updPhase == 6) then s
  else
    let s := (s.setPhase 1).setFld rFwUpdstat 15 0 0
    s.withFw { s.fw with
      upd := some { kind := bf v 62 61, activate := bit v 60, len := bf v 31 0
                    addr := (s.reg rFwUpdaddr).toNat, startedAt := s.now } }

/-- FW_UPD written (R418). -/
def State.fwUpd (s : State) (v : W64) : State := if s.secWaits then s.secHold true v else s.updWrite v

/-- Logical clusters a CC update switches on a die, in order: down while OUT is 16, up while it is 0 (R420). -/
def State.walkOf (s : State) (d : Nat) : List Nat :=
  let up := (List.range 16).map (16 * d + ·)
  if s.clmapOut d = 16 then up.reverse else up

/-- The live switch of a kind begins: its selection word names the new slot, on trial. -/
def State.switchBegin (s : State) (k slot : Nat) : State :=
  let w := s.selection k
  let s := s.keepQueue (8 + k) (setBf (setBf w 63 63 slot) 62 62 1)
  let s := s.setPhase 4
  let walk := if k = coreCc then s.walkOf 0 ++ s.walkOf 1 else []
  ((s.withFw { s.fw with switching := some (k, s.now), walk := walk, walkAt := s.now }).showPend 0).showPend 1

/-- FW_STRES shows a request's change of state. -/
def State.streqState (s : State) (kind target st : Nat) : State :=
  let s := s.setFld rFwStres 63 61 st
  let s := s.setFld rFwStres 60 57 kind
  (s.setFld rFwStres 56 50 target).pfev 6 0

/-- FW_STREQ written, with SEC there to act: at most 8 requests are queued. -/
def State.streqTake (s : State) (v : W64) : State :=
  if !bit v 63 then s
  else if (s.fw.queue.filter (fun q => !q.own)).length ≥ 8 then s.streqState (bf v 62 59) (bf v 58 52) 6
  else
    let q : StReq := { kind := bf v 62 59, target := bf v 58 52, queuedAt := s.now, running := false, deferred := false }
    (s.withFw { s.fw with queue := s.fw.queue ++ [q] }).streqState (bf v 62 59) (bf v 58 52) 1

/-- FW_STREQ written (R423). -/
def State.streqWrite (s : State) (v : W64) : State := if s.secWaits then s.secHold false v else s.streqTake v

/-- What waited for SEC is acted on, in its order. -/
def State.secResume (s : State) : State :=
  let ws := s.fw.waits
  let s := ws.foldl (fun s x => if x.1 then s.updWrite x.2 else s.streqTake x.2) (s.withFw { s.fw with waits := [] })
  s.withTap { s.tap with
    waiting := [], unlocked := s.tap.unlocked || s.tap.waiting.any (fun x => Config.unlockVerifies x.1 x.2) }

/-- The kind now runs from its other slot, on trial. -/
def State.switchEnd (s : State) (k : Nat) : State :=
  let s := s.runFrom k (1 - s.activeSlot k) true
  let s := (s.withFw { s.fw with switching := none }).setPhase 5
  if k = coreSec then s.secResume else s

/-- The bytes of the image an update has fetched, or fetches now. -/
def State.updImage (s : State) (u : FwUpd) : List Byte := u.fetched.getD (mbytes s.hostMem u.addr u.len)

/-- Whether SEC may store an image of this kind (R415), and a slot can hold it. -/
def State.updPasses (s : State) (u : FwUpd) (bs : List Byte) : Bool :=
  Config.imageVerifies bs && decide ((Config.imageVersion (bs.take 512)).toNat ≥ bf (s.selection u.kind) 47 32)
    && decide (512 ≤ u.len) && decide (u.len ≤ imageMax u.kind)

/-- An update goes on from fetching to verifying, and from verifying to storing where its image passes; when is the
module's own choice (Table 16.2). DESIGN CHOICE (log 59). -/
def State.updAdvance (s : State) : State :=
  match s.fw.upd with
  | none => s
  | some u =>
    let (go, s) := s.choose
    if !go then s
    else if s.updPhase = 1 then (s.withFw { s.fw with upd := some { u with fetched := some (s.updImage u) } }).setPhase 2
    else if s.updPhase = 2 && s.updPasses u (s.updImage u) then s.setPhase 3
    else s

/-- UPDATE_STORED: the image is fetched, verified and stored, or rejected (R418). With ACTIVATE 0 the selection word names
the new slot, so that it runs from the next power-up. -/
def State.updateStored (s : State) : State :=
  match s.fw.upd with
  | none => s
  | some u =>
    let bs := s.updImage u
    let s := s.withFw { s.fw with upd := none }
    let ver := Config.imageVersion (bs.take 512)
    if !s.updPasses u bs then (s.setPhase 6).logError coreSec 0
    else
      let slot := 1 - s.activeSlot u.kind
      let s := s.withFw { s.fw with images := sset {} s.fw.images (2 * u.kind + slot) { ok := true, version := ver } }
      let s := (s.setPhase 5).pfev 6 0
      if u.activate then s.switchBegin u.kind slot else s.keepQueue (8 + u.kind) (setBf (s.selection u.kind) 63 63 slot)

/-- SEC and PWR switch at once; SCH at a frame boundary of an enabled partition, with no hashing under way. -/
def State.switchKind (s : State) (k : Nat) : State :=
  match s.fw.switching with
  | some (j, _) => if j = k then s.switchEnd k else s
  | none => s

/-- Whether this instant is a frame start of an enabled partition. -/
def State.atBoundary (s : State) : Bool :=
  (List.range 16).any (fun p => s.fbit (rTtFrame p) 63 && (s.part p).frame == some s.now)

def State.schSwitch (s : State) : State :=
  if s.atBoundary && (List.range 16).all (fun p => (s.scu p).hashing.isEmpty) then s.switchKind coreSch else s

/-- CLUSTER_MOVE: the next logical cluster of a die moves, or its CC restarts in place, where no slot owns it for
30 µs; a cluster granted to no partition moves at once. A mapping that a failed cluster waits for comes first. PEND shows
whether the next move waits (R22). -/
def State.clusterMove (s : State) (d : Nat) : State :=
  match s.fw.switching, s.fw.walk.find? (fun c => c / 16 == d) with
  | some (3, _), some c =>
    if !((s.partOf c).isNone || (s.atBoundary && !s.slotOwns c s.now 30000)) || (s.cluster c).run.isSome
        || (s.pendingOut d).isSome then s
    else
      let s := if s.outFailed d then s
        else if s.clmapOut d = c % 16 + 1 then s.setClmapOut d (c % 16)
        else if s.clmapOut d = c % 16 then s.setClmapOut d (c % 16 + 1)
        else s
      let s := s.modCluster c (fun x => { x with cache := [] })
      let s := (s.incFld rFwUpdstat 15 0).withFw { s.fw with walk := s.fw.walk.filter (· != c), walkAt := s.now }
      (if s.fw.walk.isEmpty then s.switchEnd coreCc else s.setPhase 4).showPend d
  | _, _ => s

/-! ### Self-tests and calibrations (R423, R424) -/

/-- Whether a MAINT duty that suits a test runs and has d ns left. -/
def State.maintFits (s : State) (ok : Nat → Bool) (d : Nat) : Bool :=
  (List.range 16).any (fun p => ok p && (s.runs p).any (fun r =>
    r.2.phase == .maint && decide (s.now + d ≤ r.2.dutyStart.getD 0 + r.2.entry.dutyLen)))

/-- The firmware schedules a calibration of its own where none of the kind and target is queued (R424). -/
def State.ownRequest (s : State) (kind t : Nat) : State :=
  if s.fw.queue.any (fun q => q.kind == kind && q.target == t) then s
  else
    (s.withFw { s.fw with queue := s.fw.queue ++ [
      { kind := kind, target := t, queuedAt := s.now, running := false, deferred := false, own := true }] }).streqState kind t 1

/-- The oldest queued request of a kind and target that has not started runs now, where it is allowed. -/
def State.streqRun (s : State) (kind : Nat) (target : Nat → Bool) (allowed : Bool) : Bool × State :=
  match s.fw.queue.findIdx? (fun q => q.kind == kind && target q.target && !q.running) with
  | none => (false, s)
  | some i =>
    if !allowed then (false, s)
    else
      let q := s.fw.queue.getD i { kind := 0, target := 0, queuedAt := 0, running := false, deferred := false }
      (true, (s.withFw { s.fw with queue := s.fw.queue.set i { q with running := true, startedAt := s.now } }).streqState
        q.kind q.target 2)

/-- DRAM_CALIBRATION of channel k: in a MAINT duty with the channel in memory mode, or at once if it is granted to none
(Table 16.3). -/
def State.dramCal (s : State) (k : Nat) : State :=
  let free := match s.partOfChan k with
    | none => true
    | some p => s.maintFits (· == p) (testNs 1) && (s.chan k).state == .memory
  ((s.ownRequest 1 k).streqRun 1 (· == k) free).2

/-- Whether a window of a link is open, or opens within d ns. -/
def State.windowNear (s : State) (l d : Nat) : Bool :=
  ((s.winsOn l true) ++ (s.winsOn l false)).any (fun w => decide (w.opening ≤ s.now + d) && decide (s.now < w.close))

/-- PWR writes one of its words, at most once per 600 s (R431). -/
def State.pwrWrite (s : State) (w : Nat) (v : W64) : State :=
  let t := sget 0 s.keep.pwrAt w
  if t ≠ 0 ∧ s.now + 1 < t + 600000000000 then s
  else (s.withKeep { s.keep with pwrAt := sset 0 s.keep.pwrAt w (s.now + 1) }).keepQueue w v

/-- LINK_TRIM: PWR writes the trims found to the link's keep word. -/
def State.linkTrim (s : State) (l : Nat) (v : W64) : State :=
  let free := match (List.range 16).find? (fun p => s.validPart p && (s.tmpl p).hasLink l) with
    | none => true
    | some p => s.maintFits (· == p) (testNs 2) && !s.windowNear l (testNs 2)
  let (ran, s) := (s.ownRequest 2 l).streqRun 2 (· == l) free
  if ran then s.pwrWrite (64 + l) v else s

/-- Byte i of a channel's memory, in address order: its place in the stacks. -/
def chanByte (k i : Nat) : Nat := (k / 16) * stackBytes + (16 * (i / 2 ^ 21) + k % 16) * 2 ^ 21 + i % 2 ^ 21

/-- MEMORY_TEST of a channel granted to no partition is destructive: a free number of its bytes take free values. -/
def State.memoryTest (s : State) (k : Nat) : State :=
  let (ran, s) := s.streqRun 3 (· == k) (s.partOfChan k).isNone
  if ran then
    let n := s.free
    (s.withStackMem ((List.range (Config.freeWord n 0).toNat).foldl (fun m j =>
      mset m (chanByte k ((Config.freeWord n (j + 1)).toNat % (72 * 2 ^ 26))) (Config.freeByte n j)) s.stackMem)).withFree (n + 1)
  else s

/-- Kinds 4 and 5 run in a MAINT duty of any enabled partition. -/
def State.sensorTest (s : State) : State := (s.streqRun 4 (fun _ => true) (s.maintFits (fun p => s.fbit (rTtFrame p) 63) (testNs 4))).2

/-- The start of a kind-5 request, with the correction measured in DETAIL; whether one ran. -/
def State.oscTest (s : State) (ppb : BitVec 32) : Bool × State :=
  let (ran, s) := s.streqRun 5 (fun _ => true) (s.locked && s.maintFits (fun p => s.fbit (rTtFrame p) 63) (testNs 5))
  (ran, if ran then s.setFld rFwStres 31 0 ppb.toNat else s)

/-- CLUSTER_SELF_TEST of the out-of-service cluster of a die, if it has not failed. -/
def State.clusterTest (s : State) (d : Nat) : State := (s.streqRun 6 (fun t => t % 2 == d) (!s.outFailed d)).2

/-- Whether a running request has lasted as long as its kind (Table 16.4). -/
def State.testOver (s : State) (q : StReq) : Bool := q.running && decide (q.startedAt + testNs q.kind ≤ s.now)

/-- SELF_TEST_DONE: the request at a place of the queue ends, if its time is over. -/
def State.selfTestDone (s : State) (k : Nat) (pass : Bool) (detail : BitVec 32) : State :=
  match s.fw.queue[k]? with
  | none => s
  | some q =>
    if !s.testOver q then s
    else
      let s := ((s.withFw { s.fw with queue := s.fw.queue.eraseIdx k }).setFld rFwStres 31 0 detail.toNat).streqState
        q.kind q.target (if pass then 3 else 4)
      if pass then s else s.logError (if q.kind = 3 || q.kind = 6 then coreSec else corePwr) 0

/-- HORIZON in ns. -/
def State.horizon (s : State) : Nat := s.fld rFwHorizon 31 0 * 10 ^ 6

/-- HORIZON_EXPIRY (R422, R424). -/
def State.horizonExpiry (s : State) : State :=
  let late := fun (t : Nat) => decide (t + s.horizon ≤ s.now)
  let s := if !s.fw.walk.isEmpty && s.updPhase == 4 && late s.fw.walkAt then (s.setPhase 7).pfev 6 0 else s
  (s.fw.queue.filter (fun q => !q.running && !q.deferred && late q.queuedAt)).foldl (fun s q =>
    (s.withFw { s.fw with queue := s.fw.queue.map (fun x => if x = q then { x with deferred := true } else x) }).streqState
      q.kind q.target 5) s

/-! ### The rows -/

/-- KEEP_WRITE. -/
def execKeepWrite (w : BitVec 10) (v : W64) (s : State) : Host.Outcome State Fault Refusal := .next (s.keepWrite w.toNat v)

/-- KEEP_WRITE_DONE. -/
def execKeepWriteDone (s : State) : Host.Outcome State Fault Refusal := .next s.keepWriteDone

/-- FW_UPD. -/
def execFwUpd (v : W64) (s : State) : Host.Outcome State Fault Refusal := .next (s.fwUpd v)

/-- UPDATE_STORED. -/
def execUpdateStored (s : State) : Host.Outcome State Fault Refusal := .next s.updateStored

/-- CLUSTER_MOVE. -/
def execClusterMove (d : DieId) (s : State) : Host.Outcome State Fault Refusal := .next (s.clusterMove d.val)

/-- SCH_SWITCH. -/
def execSchSwitch (s : State) : Host.Outcome State Fault Refusal := .next s.schSwitch

/-- SEC_SWITCH. -/
def execSecSwitch (s : State) : Host.Outcome State Fault Refusal := .next (s.switchKind coreSec)

/-- HEALTHY_REPORT. -/
def execHealthyReport (k : Fin 4) (s : State) : Host.Outcome State Fault Refusal := .next (s.healthy k.val)

/-- TRIAL_TIMEOUT. -/
def execTrialTimeout (k : Fin 4) (s : State) : Host.Outcome State Fault Refusal := .next (s.trialTimeout k.val)

/-- HORIZON_EXPIRY. -/
def execHorizonExpiry (s : State) : Host.Outcome State Fault Refusal := .next s.horizonExpiry

/-- DRAM_CALIBRATION. -/
def execDramCalibration (n : StackId) (m : ChanId) (s : State) : Host.Outcome State Fault Refusal :=
  .next (s.dramCal (chanKey n m))

/-- LINK_TRIM. -/
def execLinkTrim (l : LinkId) (trims : W64) (s : State) : Host.Outcome State Fault Refusal := .next (s.linkTrim l.val trims)

/-- MEMORY_TEST. -/
def execMemoryTest (n : StackId) (m : ChanId) (s : State) : Host.Outcome State Fault Refusal :=
  .next (s.memoryTest (chanKey n m))

/-- SENSOR_TEST. -/
def execSensorTest (s : State) : Host.Outcome State Fault Refusal := .next s.sensorTest

/-- CLUSTER_SELF_TEST. -/
def execClusterSelfTest (d : DieId) (s : State) : Host.Outcome State Fault Refusal := .next (s.clusterTest d.val)

end Sys2Proof.Machine
end

