-- ==== Sys2Proof/Machine/PowerThermal.lean ====
section
/-! DEFINITION. Power, clocks and temperature (R436 to R450): sensors and their tests, throttles and trips,
clock stretching and stops, power grades, and the oscillator's compensation. -/

namespace Sys2Proof.Machine

/-- The input is applied and no trip has latched, so that every supply is up (R450). -/
def State.supplied (s : State) : Bool := s.power.alive && s.power.input && !s.fbit rThmStat 63

/-! ### Trips (R449, R450) -/

/-- A trip latches: every clock stops, the FAILED heartbeat is sent, and FAULT_N asserts (R450, R480). -/
def State.trip (s : State) (src : Nat) : State :=
  if s.fbit rThmStat 63 then s
  else
    let s := (s.setBit rThmStat 63 true).setFld rThmStat 62 59 src
    (s.withPower { s.power with fault := true }).moduleFail

/-! ### Clock stretching (R436, R437) -/

/-- Full stretch lengthens the 500 ps cycle to 0.53 ns. -/
def fullStretch : Nat := 30

def State.cThrottled (s : State) (d : Nat) : Bool := s.fbit rThmStat (8 + d)
def State.dramThrottled (s : State) (n : Nat) : Bool := s.fbit rThmStat (10 + n)

/-- Stretch of a whole C-die: full under its throttle, else what PWR gives it (R436, Table 17.6). -/
def State.dieStretch (s : State) (d : Nat) : Nat := if s.cThrottled d then fullStretch else sget 0 s.power.pwrStretch d

/-- Stretch of a die's clock and of every cluster of the die, and CLK_STAT.STR in 0.1 % units. -/
def State.restretch (s : State) (d : Nat) : State :=
  let s := s.setDieClk d { s.dieClk d with stretch := s.dieStretch d }
  let s := ((List.range 16).map (16 * d + ·)).foldl (fun (s : State) c =>
    let v := if s.power.droops.contains c then fullStretch else s.dieStretch d
    if (s.cluster c).stretch = v then s else s.modCluster c (fun x => { x with stretch := v })) s
  let most := ((List.range 16).map (fun c => (s.cluster (16 * d + c)).stretch)).foldl max 0
  s.setFld rClkStat (55 + 8 * d) (48 + 8 * d) (2 * most)

/-- A droop begins or ends at a cluster (R436). -/
def State.setDroop (s : State) (c : Nat) (on : Bool) : State :=
  if !s.supplied then s
  else
    let ds := s.power.droops.filter (· != c)
    (s.withPower { s.power with droops := if on then linsert c ds else ds }).restretch (c / 16)

/-- A C-die clock stops (R437, Table 17.6). -/
def State.stopClock (s : State) (d : Nat) (why : StopCause) : State :=
  s.withPower { s.power with stops := sset none s.power.stops d (some (why, s.boot.elapsed)) }

/-- VMIN: only while a cluster of the die is fully stretched. Each stop is counted. -/
def State.vminStop (s : State) (d : Nat) : State :=
  if !s.supplied || (sget none s.power.stops d).isSome
      || !((List.range 16).any (fun c => (s.cluster (16 * d + c)).stretch == fullStretch)) then s
  else (s.stopClock d .vmin).incFld rClkStat (15 + 16 * d) (16 * d)

def State.frequencyStop (s : State) (d : Nat) : State :=
  if !s.supplied || (sget none s.power.stops d).isSome then s else s.stopClock d .frequency

/-- The clock restarts with a full cycle, 1 µs after its stop at the soonest (R437, R449). -/
def State.clockRestart (s : State) (d : Nat) : State :=
  if (match sget none s.power.stops d with | some (_, t) => decide (s.boot.elapsed < t + 1000) | none => true) then s
  else
    let s := s.withPower { s.power with stops := sset none s.power.stops d none }
    let s := s.setDieClk d { s.dieClk d with left := 0 }
    ((List.range 16).map (16 * d + ·)).foldl (fun (s : State) c => s.modCluster c (fun x => { x with left := 0 })) s

/-! ### Sensors (R444 to R446) -/

/-- The fixed neighbour of a sensor (Table 17.3). -/
def neighbourOf (n : Nat) : Nat :=
  if n = 4 then 0 else if n < 4 then (n + 2) % 4 else if n % 2 = 1 then n + 1 else n - 1

def State.sensor (s : State) (n : Nat) : Sensor := sget {} s.power.sensors n
def State.setSensor (s : State) (n : Nat) (x : Sensor) : State :=
  s.withPower { s.power with sensors := sset {} s.power.sensors n x }

/-- OFS, SUBOFS and SUBK of a sensor in 1/16 °C (R445). -/
def State.calib (s : State) (n : Nat) : Int × Int × Int :=
  let w := s.keepWord (16 + n)
  (sext 16 (bf w 63 48), sext 16 (bf w 47 32), sext 16 (bf w 31 16))

/-- 2,500 times the model value of sensor n over its neighbour's reading tnb. -/
def State.model2500 (s : State) (n : Nat) (tnb : Int) (power : Nat) : Int :=
  let (_, sub, k) := s.calib n
  2500 * (tnb + sub) + k * power

/-- The model value in 1/16 °C; the manual does not say which way it rounds. -/
def State.modelOf (s : State) (n : Nat) (tnb : Int) (power : Nat) : Int :=
  let m := s.model2500 n tnb power
  if m % 2500 ≠ 0 ∧ Config.freeBool (s.free + n) then m / 2500 + 1 else m / 2500

/-- Tests of Table 17.4 that a sensor fails on its own: bit 0 range, bit 1 rate. -/
def ownTests (x : Sensor) (now : Nat) (r : Int) : Nat :=
  let range := decide (r < -640) || decide (r > 2400)
  let rate := x.hist.any (fun h => h.1 + 1000000 == now && decide ((r - h.2).natAbs > 320))
  boolNat range + 2 * boolNat rate

/-- Highest reading of any working sensor. -/
def highestWorking (xs : List Sensor) : Int :=
  match (xs.filter (fun x => !x.broken)).map (·.reading) with
  | [] => 0
  | h :: t => t.foldl max h

/-- Reading in force of sensor n: its own while it works, else its model value, else the highest working. -/
def State.inForceOf (s : State) (xs : List Sensor) (power n : Nat) : Int :=
  let x : Sensor := xs.getD n {}
  let y : Sensor := xs.getD (neighbourOf n) {}
  if !x.broken then x.reading
  else if !y.broken then s.modelOf n y.reading power
  else highestWorking xs

/-- Mark a sensor broken. -/
def Sensor.breakBy (x : Sensor) (why : Nat) : Sensor :=
  if x.broken || why = 0 then x else { x with broken := true, why := BitVec.ofNat 3 why }

/-- All thirteen sensors after a set of raw readings. -/
def State.sensorsAfter (s : State) (raws : List Int) (power : Nat) : List Sensor :=
  let ns := List.range 13
  -- calibrated readings, with range and rate
  let xs := ns.map (fun n =>
    let x := s.sensor n
    let r := raws.getD n 0 + (s.calib n).1
    let why := ownTests x s.now r
    let hist := (s.now, r) :: x.hist.filter (fun h => decide (s.now < h.1 + 1000000) && h.1 != s.now)
    ({ x with reading := r, hist := hist } : Sensor).breakBy why)
  -- the neighbour test, over the readings in force
  let off := fun (n : Nat) =>
    let x : Sensor := xs.getD n {}
    decide ((2500 * x.reading - s.model2500 n (s.inForceOf xs power (neighbourOf n)) power).natAbs > 240 * 2500)
  let xs := ns.map (fun n =>
    let x : Sensor := xs.getD n {}
    { x with nbSince := if off n then some (x.nbSince.getD s.now) else none })
  let fails := fun (n : Nat) => match (xs.getD n {}).nbSince with
    | some t => decide (t + 10000000 ≤ s.now)
    | none => false
  let spared := fun (n : Nat) =>
    let b := neighbourOf n
    let x : Int := (xs.getD n {}).reading
    let y : Int := (xs.getD b {}).reading
    fails b && (decide (y < x) || (x == y && decide (b < n)))
  let xs := ns.map (fun n => (xs.getD n {}).breakBy (if fails n && !spared n then 4 else 0))
  ns.map (fun n => { (xs.getD n {}) with inForce := s.inForceOf xs power n })

/-- THM_Tn shows sensor n. -/
def State.showSensor (s : State) (n : Nat) : State :=
  let x := s.sensor n
  s.setReg (rThmT n) (BitVec.ofNat 64 (wrapInt 16 x.inForce * 2 ^ 48 + wrapInt 16 x.reading * 2 ^ 32
    + boolNat x.broken * 2 ^ 31 + x.why.toNat * 2 ^ 28))

/-- A comparator with hysteresis: on at hi, off below lo, held between. -/
def comparator (was : Bool) (hi lo t : Int) : Bool := decide (t ≥ hi) || (was && decide (t ≥ lo))

/-- Whether a throttle of Table 17.6 is active. -/
def State.throttled (s : State) : Bool := s.fld rThmStat 17 8 != 0

/-- A throttle that acts now is one of Table 17.2's last 10 ms. -/
def State.noteThrottle (s : State) : State :=
  if s.throttled then s.withPower { s.power with throttleAt := some s.now } else s

/-- The comparators of Table 17.6 act on the readings in force. -/
def State.comparators (s : State) : State :=
  let s := (List.range 2).foldl (fun (s : State) d =>
    (s.setBit rThmStat (8 + d) (comparator (s.cThrottled d) 1680 1600 (s.sensor d).inForce)).restretch d) s
  let s := (List.range 8).foldl (fun (s : State) j =>
    s.setBit rThmStat (10 + j) (comparator (s.dramThrottled j) 1520 1440 (s.sensor (5 + j)).inForce)) s
  match (List.range 13).find? (fun n => decide ((s.sensor n).inForce ≥ 1840)) with
  | some n => s.trip n
  | none => s

/-- PWR stretches each C-die as it sees fit, within the limit: a free choice at each reading of the sensors (R436), and
none while PWR is being switched (Table 16.3). -/
def State.pwrStretch (s : State) : State :=
  let n := s.free
  if s.pwrWaits then s
  else (s.withFree (n + 1)).withPower { s.power with
    pwrStretch := [0, 1].foldl (fun m d => sset 0 m d ((Config.freeWord n d).toNat % (fullStretch + 1))) s.power.pwrStretch }

/-- SENSOR_READ (R445, R446, R449). -/
def State.sensorRead (s : State) (raws : List Int) (power : Nat) : State :=
  if !s.supplied then s
  else
    let xs := s.sensorsAfter raws power
    let newly := (List.range 13).filter (fun n => (xs.getD n {}).broken && !(s.sensor n).broken)
    let s := s.withFree (s.free + 13)
    let s := (List.range 13).foldl (fun (s : State) n => (s.setSensor n (xs.getD n {})).showSensor n) s
    let s := newly.foldl (fun (s : State) _ => ((s.setBit rThmStat 58 true).pfev 5 0).logError corePwr 0) s
    s.noteThrottle.noteComp.pwrStretch.comparators

/-- A kind-4 self-test mends the broken sensors that pass it (R446). -/
def State.mendSensors (s : State) (passed : BitVec 13) : State :=
  ((List.range 13).foldl (fun (s : State) n =>
    let x := s.sensor n
    if x.broken && passed.getLsbD n then
      (s.setSensor n { x with broken := false, why := 0, nbSince := none, inForce := x.reading }).showSensor n
    else s) s).noteComp

/-! ### Power grades (R438 to R442) -/

def State.grade (s : State) : Nat := s.fld rClkGrade 63 61
def State.gradeFullCh (s : State) (g : Nat) : Nat := s.fld (rClkGcfg g) 4 0

/-- The module grade becomes g: a fall writes every stack's full-rate count at once, a rise leaves each to
FULL_CH_LOWER (R440). -/
def State.setGrade (s : State) (g : Nat) : State :=
  let old := s.grade
  let s := s.setFld rClkGrade 63 61 g
  if g < old then
    (List.range 8).foldl (fun (s : State) n => s.setFld (rStk n) 4 0 (s.gradeFullCh g))
      (s.withPower { s.power with lower := [] })
  else if old < g then s.withPower { s.power with lower := List.range 8 }
  else s

/-- Whether no throttle has acted in the last 10 ms. -/
def State.unthrottled (s : State) : Bool :=
  !s.throttled && (match s.power.throttleAt with | some t => decide (t + 10000000 ≤ s.now) | none => true)

/-- GRADE_CHANGE: one step of Table 17.2, at most once per 1 ms, and none while PWR is being switched (Table 16.3). -/
def State.gradeChange (s : State) (power overMs underMs : Nat) : State :=
  if !s.supplied then s
  else
    let s := s.setFld rClkGrade 15 0 power
    let g := s.grade
    let gmax := s.fld rClkCtl 62 60
    let pcap := s.fld rClkCtl 31 16
    let next :=
      if gmax < g then g - 1
      else if (decide (power > pcap) && decide (overMs ≥ 1)) || s.throttled then min gmax (g + 1)
      else if decide (power + s.fld rClkCtl 7 0 < pcap) && decide (underMs ≥ 10) && s.unthrottled then g - 1
      else g
    if !s.fbit rClkCtl 63 ∨ s.pwrWaits ∨ next = g ∨ (s.power.gradeAt ≠ 0 ∧ s.now < s.power.gradeAt + 1000000) then s
    else (s.withPower { s.power with gradeAt := s.now }).setGrade next

/-- Whether no step of a partition composed under another grade is still to complete. -/
def State.gradeDone (s : State) (p : Nat) : Bool :=
  [(s.scu p).composed, (s.scu p).running].all (fun o => o.all (fun x => x.grade == s.grade))

/-- Whether a stack's lowering waits for nothing more (R440): of the partitions with a channel of it, every serving
one has adopted the grade, and no step of one composed under another grade is still to complete. -/
def State.mayLower (s : State) (n : Nat) : Bool :=
  (List.range 16).all (fun p =>
    !(s.validPart p && (s.tmpl p).chans.any (fun k => k / 16 == n))
    || ((s.reg (rScu p + 8) == 0 || s.fld (rScu p) 62 60 == s.grade) && s.gradeDone p))

/-- FULL_CH_LOWER. -/
def State.fullChLower (s : State) (n : Nat) : State :=
  if !s.power.lower.contains n || !s.mayLower n || !s.supplied then s
  else
    (s.withPower { s.power with lower := s.power.lower.filter (· != n) }).setFld (rStk n) 4 0 (s.gradeFullCh s.grade)

/-! ### Compensation (R427, R447, R448) -/

/-- The valid points of the compensation table: temperature in 1/16 °C and correction in ppb. -/
def State.compPoints (s : State) : List (Int × Int) :=
  let h := s.keepFinal 32
  if !bit h 63 then []
  else (List.range (min 31 (bf h 62 56))).map (fun j =>
    let w := s.keepFinal (33 + j)
    (sext 16 (bf w 63 48), sext 32 (bf w 31 0)))

/-- Linear between points, the end values beyond them; up rounds an inexact value up. -/
def interpolate (up : Bool) (t : Int) : List (Int × Int) → Option Int
  | [] => none
  | [(_, c)] => some c
  | (t0, c0) :: (t1, c1) :: r =>
    if t ≤ t0 then some c0
    else if t < t1 then
      let num := (c1 - c0) * (t - t0)
      let d := t1 - t0
      some (c0 + num / d + (if num % d ≠ 0 ∧ up then 1 else 0))
    else interpolate up t ((t1, c1) :: r)

/-- Each die's voltage references are corrected from that die's own reading (R447). -/
def State.refCompensation (s : State) : State :=
  s.withPower { s.power with
    vrefs := (List.range 13).foldl (fun m n => sset 0 m n (s.sensor n).inForce) s.power.vrefs }

/-- OSC_COMPENSATION: every 10 ms, the oscillator from the reading of sensor 4, where the table is valid, and the voltage
references. -/
def State.oscCompensation (s : State) : State :=
  if !s.supplied then s
  else if !s.compValid then s.refCompensation
  else
    let (up, s) := s.refCompensation.choose
    match interpolate up (s.sensor 4).inForce s.compPoints with
    | some c => s.withPower { s.power with oscPpb := c }
    | none => s

/-- The table with a measured point: it replaces the nearest point within 2 °C, is inserted in order, or, in a
full table, replaces the nearest (R448). -/
def addPoint (ps : List (Int × Int)) (t c : Int) : List (Int × Int) :=
  let dist := fun (q : Int × Int) => (q.1 - t).natAbs
  match pickBy (fun a b => decide (dist a < dist b)) ps with
  | none => [(t, c)]
  | some q =>
    if dist q ≤ 32 ∨ ps.length ≥ 31 then ps.map (fun x => if x = q then (t, c) else x)
    else ps.filter (fun x => decide (x.1 < t)) ++ [(t, c)] ++ ps.filter (fun x => decide (t < x.1))

def pointWord (q : Int × Int) : W64 := BitVec.ofNat 64 (wrapInt 16 q.1 * 2 ^ 48 + wrapInt 32 q.2)

/-- The words of the compensation table that a point changes, with what they will hold. -/
def State.pointWrites (s : State) (ppb : BitVec 32) : List (Nat × W64) :=
  let ps := addPoint s.compPoints (s.sensor 4).inForce ppb.toInt
  ((List.range ps.length).map (fun j => (33 + j, pointWord (ps.getD j (0, 0))))
    ++ [(32, setBf (setBf (s.keepFinal 32) 63 63 1) 62 56 ps.length)]).filter (fun e =>
      s.keepFinal e.1 != e.2 || s.keep.bad.contains e.1)

/-- Whether PWR may write a word again (R431). -/
def State.pwrMay (s : State) (w : Nat) : Bool :=
  sget 0 s.keep.pwrAt w == 0 || decide (sget 0 s.keep.pwrAt w + 600000000000 ≤ s.now + 1)

/-- Whether PWR may write a point now: at most once per 600 s (R448). -/
def State.mayPoint (s : State) : Bool :=
  match s.power.lastComp with
  | some t => decide (t + 600000000000 ≤ s.now)
  | none => true

/-- A measurement is written as a point; one that would write a word twice within 600 s is not (R431, R448). -/
def State.recordPoint (s : State) (ppb : BitVec 32) : State :=
  let ws := s.pointWrites ppb
  if !s.mayPoint || ws.any (fun e => !s.pwrMay e.1) then s
  else ws.foldl (fun (s : State) e => s.pwrWrite e.1 e.2) (s.withPower { s.power with lastComp := some s.now })

/-- COMPENSATION_POINT: the firmware's own work of kind 5, at most once per 600 s, run as a request of the kind is (R424,
R448). -/
def State.compensationPoint (s : State) (ppb : BitVec 32) : State :=
  if !s.supplied || !s.locked || !s.mayPoint then s
  else
    let (ran, s) := (s.ownRequest 5 0).oscTest ppb
    if ran then s.recordPoint ppb else s

/-! ### The rows -/

/-- SENSOR_READ. -/
def execSensorRead (raws : List Int) (power : Nat) (s : State) : Host.Outcome State Fault Refusal :=
  .next (s.sensorRead raws power)

/-- DROOP. -/
def execDroop (c : ClusterId) (s : State) : Host.Outcome State Fault Refusal := .next (s.setDroop c.val true)

/-- DROOP_RECOVERY. -/
def execDroopRecovery (c : ClusterId) (s : State) : Host.Outcome State Fault Refusal := .next (s.setDroop c.val false)

/-- VMIN_STOP. -/
def execVminStop (d : DieId) (s : State) : Host.Outcome State Fault Refusal := .next (s.vminStop d.val)

/-- FREQUENCY_STOP. -/
def execFrequencyStop (d : DieId) (s : State) : Host.Outcome State Fault Refusal := .next (s.frequencyStop d.val)

/-- CLOCK_RESTART. -/
def execClockRestart (d : DieId) (s : State) : Host.Outcome State Fault Refusal := .next (s.clockRestart d.val)

/-- GRADE_CHANGE. -/
def execGradeChange (power overMs underMs : Nat) (s : State) : Host.Outcome State Fault Refusal :=
  .next (s.gradeChange power overMs underMs)

/-- FULL_CH_LOWER. -/
def execFullChLower (n : StackId) (s : State) : Host.Outcome State Fault Refusal := .next (s.fullChLower n.val)

/-- OSC_COMPENSATION. -/
def execOscCompensation (s : State) : Host.Outcome State Fault Refusal := .next s.oscCompensation

/-- COMPENSATION_POINT. -/
def execCompensationPoint (ppb : BitVec 32) (s : State) : Host.Outcome State Fault Refusal :=
  .next (s.compensationPoint ppb)

/-- OSC_COMPENSATION_TEST: one measurement as R448's. -/
def execOscCompensationTest (ppb : BitVec 32) (s : State) : Host.Outcome State Fault Refusal :=
  let (ran, s) := s.oscTest ppb
  .next (if ran then s.recordPoint ppb else s)

/-- SELF_TEST_DONE: a kind-4 test that ends mends the sensors that pass it (R446). -/
def execSelfTestDone (k : Nat) (pass : Bool) (detail : BitVec 32) (sensors : BitVec 13) (s : State) :
    Host.Outcome State Fault Refusal :=
  let mends := match s.fw.queue[k]? with | some q => q.kind == 4 && s.testOver q | none => false
  let s := s.selfTestDone k pass detail
  .next (if mends then s.mendSensors sensors else s)

/-- PWR_SWITCH: PWR acts again on GRADE_EN, which holds the grade at 0 (R438). -/
def execPwrSwitch (s : State) : Host.Outcome State Fault Refusal :=
  let switched := s.pwrWaits
  let s := s.switchKind corePwr
  .next (if switched && !s.fbit rClkCtl 63 then s.setGrade 0 else s)

/-- INPUT_OVERVOLTAGE: the input above 62 V for 10 µs trips the module. -/
def execInputOvervoltage (s : State) : Host.Outcome State Fault Refusal :=
  .next (if s.supplied then s.trip 13 else s)

end Sys2Proof.Machine
end

