-- ==== Sys2Proof/Machine/HaltTrace.lean ====
section
/-! DEFINITION. The rows of halt, proof and trace (R452 to R463): halting on the host's write and on a HALT
frame, resuming, scan-out, and the writes that restart the record buffers. -/

namespace Sys2Proof.Machine

/-- TRC_PROOF.BUSY. -/
def State.scanning (s : State) : Bool := s.fbit rTrcProof 62

/-- A HALT frame received on a link, or on MIR (R453, R456). -/
def State.haltFrame (s : State) (from_ : Option Nat) (f : Frame) : State :=
  let h := frameHdr f
  let good := frameCrcOk f && h.vc != 3 && h.opc == opcHalt && !badHeader h f
  let halt := fun (s : State) (l : Nat) =>
    s.haltNow 3 (some l) (some (h.arg / 65536 % 65536)) (h.arg / 256 % 256) (h.arg % 8)
  match from_ with
  | none => if good && s.fld rMirStat 60 59 != 0 then halt s 48 else s
  | some l =>
    if s.linkUp l then (if good then halt s l else s).rxFrame l (· == opcHalt) f else s

/-- Fabric time that the halt has lasted for something in progress since began. -/
def State.haltSpan (s : State) (began : Nat) : Nat := s.now - max began s.halt.haltedAt

/-- The copy of a list to its channel continues from where it stopped, and events 7 and 8 do not count the halt (R465). -/
def State.resumeList (s : State) (l : NbList) : NbList :=
  let on := fun (t : Nat) => t + s.haltSpan t
  { l with
    turn := if l.arrived then l.turn else l.turn.map (fun t => t + 16 * s.haltSpan (t / 16))
    powHeld := l.powHeld.map on
    running := l.running.map (fun r => { r with burst := r.burst.map on }) }

/-- A channel's work continues from where it stopped; a refresh still under way holds it until it ends. -/
def State.resumeChan (s : State) (k : Nat) : State :=
  let rest := match (s.chan k).refreshing with
    | some t => if t ≥ s.halt.haltedAt then t + 350 - s.now else 0
    | none => 0
  s.modChan k (fun ch =>
    let ch := ch.delay s.halt.haltedAt (s.now - s.halt.haltedAt + rest)
    { ch with lists := ch.lists.map s.resumeList })

/-- HALT_RESUME (R458). -/
def State.haltResume (s : State) : State :=
  if !s.halted || s.scanning then s
  else
    let s := (s.chans.map (·.1)).foldl State.resumeChan s
    let s := (List.range 16).foldl (fun (s : State) p =>
      s.modPart p (fun q => { q with slots := q.slots.map (fun e =>
        (e.1, e.2.map (fun r => { r with haltedNs := r.haltedNs + s.haltSpan r.start }))) })) s
    s.setBit rTrcHstat 63 false

/-- PROOF_GO (R460). -/
def State.proofGo (s : State) : State := if !s.halted || s.scanning then s else s.scanStart

/-- SCAN_OUT_DONE: the proof stands, under fresh codes, in the slice that PROOF named at its start, and DONE is set. A
slice that a valid template grants by then is not written, and ERR is set (R460). -/
def State.scanOutDone (s : State) : State :=
  if !s.scanning then s
  else if (s.partOfSlice s.halt.slice).isSome then (s.setBit rTrcProof 62 false).setBit rTrcProof 60 true
  else
    let base := s.halt.slice * 2 ^ 28
    let s := s.withCaseMem (proofMem s base s.caseMem)
    let s := s.withInteg { s.integ with errs := s.integ.errs.filter (fun e =>
      !(siteOfKey e.1 == (1, base / 2 ^ 32) && decide (2 ^ 40 + base / 64 ≤ e.1)
          && decide (e.1 < 2 ^ 40 + (base + 0x8100000) / 64))) }
    (s.setBit rTrcProof 62 false).setBit rTrcProof 61 true

/-- TRC_HALT's writable fields (Table 18.1); GO and RESUME are judged by whether the module was halted. -/
def State.trcHaltWrite (s : State) (wd : Width) (v : W64) : State :=
  let s := s.setReg rTrcHalt (writeWord fTrcHalt (s.reg rTrcHalt) wd v)
  let was := s.halted
  let s := if wd = .w64 && bit v 63 then s.haltOwn 1 else s
  if wd = .w64 && bit v 62 && was then s.haltResume else s

/-- A write of a record buffer's register restarts the buffer (R87, R461). -/
def State.bufWrite (s : State) (fs : List Fld) (kBuf kStat : Nat) (wd : Width) (v : W64) : State :=
  (s.setReg kBuf (writeWord fs (s.reg kBuf) wd v)).setReg kStat 0

/-! ### The rows -/

/-- HALT_FRAME. -/
def execHaltFrame (l : Option LinkId) (f : Frame) (s : State) : Host.Outcome State Fault Refusal :=
  .next (s.haltFrame (l.map (·.val)) f)

/-- HALT_GO. -/
def execHaltGo (s : State) : Host.Outcome State Fault Refusal := .next (s.haltOwn 1)

/-- HALT_RESUME. -/
def execHaltResume (s : State) : Host.Outcome State Fault Refusal := .next s.haltResume

/-- PROOF_GO. -/
def execProofGo (s : State) : Host.Outcome State Fault Refusal := .next s.proofGo

/-- SCAN_OUT_DONE. -/
def execScanOutDone (s : State) : Host.Outcome State Fault Refusal := .next s.scanOutDone

/-- TRC_AUDIT_BUF_WRITE. -/
def execTrcAuditBufWrite (v : W64) (s : State) : Host.Outcome State Fault Refusal :=
  .next (s.bufWrite fTrcAuditBuf rTrcAuditBuf rTrcAuditStat .w64 v)

/-- TRC_TBUF_WRITE. -/
def execTrcTbufWrite (v : W64) (s : State) : Host.Outcome State Fault Refusal :=
  .next (s.bufWrite fTrcTbuf rTrcTbuf rTrcTstat .w64 v)

end Sys2Proof.Machine
end

