-- ==== Sys2Proof/Machine/BringUp.lean ====
section
/-! DEFINITION. Power-up and bring-up (R466 to R474): the stages of Table 19.1, boot templates and the host's
early APPLY writes (R471), the time stage, and the loss of the input (R473, Table 17.6). -/

namespace Sys2Proof.Machine

def State.withStage (s : State) (k : Nat) : State :=
  (s.setFld rHostBoot 63 61 k).withBoot { s.boot with stageAt := s.boot.elapsed }

/-- ELAPSED freezes, and bring-up no longer runs. -/
def State.bootEnd (s : State) : State :=
  (s.setFld rHostBoot 31 0 (s.boot.elapsed / 1000000)).withBoot { s.boot with running := false }

/-- Bring-up stops in its stage with a failure code (R466). -/
def State.bootFail (s : State) (code : Nat) : State :=
  let s := ((s.setBit rHostBoot 60 true).setFld rHostBoot 55 48 code).bootEnd
  if s.fld rMirStat 60 59 = 0 then s else s.sendHeartbeat false true

/-- Longest duration of stages 0 to 4 in ns (Table 19.1). -/
def stageLimit (k : Nat) : Nat := [25, 150, 50, 400, 70].getD k 0 * 1000000

/-- How long stage k takes here. -/
def Boot.length (b : Boot) (k : Nat) : Nat := min (stageLimit k) (b.plan.durations.getD k 0)

/-! ### Stage 2: the keep words -/

/-- Physical clusters of retirement entries of kind 4: (C-die, cluster). -/
def failedOf (ws : List RetWord) : List (Nat × Nat) :=
  (ws.filter (fun w => bf w 63 60 == 4)).map (fun w => (bf w 56 56, bf w 53 49))

/-- A lane entry puts the spare lane of its group to use for that lane. -/
def State.applyLane (s : State) (w : RetWord) : State :=
  if bf w 63 60 ≠ 3 then s
  else
    let l := 8 * bf w 59 57 + bf w 55 53
    if l ≥ 48 then s
    else (s.setBit (rLst l) 58 true).setFld (rLst l) 57 56 (2 * bf w 56 56 + bf w 48 48)

/-- SEC loads the keep words: retirement entries, HOST_CLMAP, the compensation table (R32, R411). An uncorrectable word
sets UE and is posted (R432); SEC's own selection word was read before. -/
def State.loadKeep (s : State) : State :=
  let s := (s.keep.bad.filter (· != 8 + coreSec)).foldl (fun s _ => s.keepUe) s
  let ws := ((List.range 240).map (fun k => s.keepWord (128 + k))).filter (· != 0)
  let s := s.withInteg { s.integ with retired := ws, failedClusters := failedOf ws }
  let s := ws.foldl State.applyLane s
  let s := [0, 1].foldl (fun (s : State) d =>
    match (failedOf ws).find? (fun f => f.1 == d) with
    | some f => s.setClmapOut d f.2
    | none => s.setClmapOut d 16) s
  s.noteComp

/-- SEC starts PWR, SCH and the CCs in turn; the failure code of stage 2 is the first's with no slot that passes. -/
def State.startCores (s : State) : State × Option Nat :=
  [(corePwr, 0x20), (coreSch, 0x21), (coreCc, 0x22)].foldl (fun (a : State × Option Nat) x =>
    if a.2.isSome then a
    else
      let (ok, s) := a.1.startCore x.1
      (s, if ok then none else some x.2)) (s, none)

/-! ### Stage 3: the memories -/

/-- A retirement of stage 3 is recorded, counted in RETNEW, and posted (R401, R467). -/
def State.retireNew (s : State) (w : RetWord) (win : Nat) : State :=
  let s := s.withInteg { s.integ with retired := s.integ.retired ++ [w] }
  ((s.recordRetirement w win).incFld rHostBoot 47 40).pfev 4 0

/-- A die that fails training in a channel loses its slice in every bank (R467); a second retired slice of a bank is not
made, and whether one was due (R409). -/
def State.retireDie (s : State) (k die : Nat) : Bool × State :=
  (List.range 32).foldl (fun (a : Bool × State) b =>
    if a.2.sliceRetired k die b then a
    else if !(a.2.retiredDies k b).isEmpty then (true, a.2)
    else (a.1, (a.2.retireNew (retEntry 2 (k / 16) (k % 16) die b 0 0) (k / 16)).errLog (0,
        k) 7 die (b * 2 ^ 44))) (false, s)

/-- A cluster that fails its built-in test goes out of service through the spare; of a C-die's failed clusters only the
first does (R23). -/
def State.retireCluster (s : State) (d phys : Nat) : State :=
  let old := s.integ.failedClusters
  if old.contains (d, phys) then s
  else
    let s := s.withInteg { s.integ with failedClusters := old ++ [(d, phys)] }
    if old.any (fun f => f.1 == d) then s
    else (s.retireNew (BitVec.ofNat 64 (4 * 2 ^ 60 + d * 2 ^ 56 + phys * 2 ^ 49)) (4 * d)).setClmapOut d phys

/-- Whether two clusters of a C-die have failed. -/
def State.dieLost (s : State) : Bool :=
  s.integ.failedClusters.any (fun a => s.integ.failedClusters.any (fun b => a.1 == b.1 && a.2 != b.2))

/-- Every memory holds zeros under fresh codes, every channel is in memory mode with a clear dirty map. -/
def State.zeroMemories (s : State) : State :=
  let s := ((s.withStackMem []).withCaseMem []).withChans (s.chans.filterMap (fun e =>
    match e.2.refreshing with
    | some t => some (e.1, ({ refreshing := some t } : Chan))
    | none => none))
  let s := (s.clusters.map (·.1)).foldl (fun (s : State) c => s.modCluster c (fun x => { x with store := [] })) s
  s.withInteg { s.integ with errs := [] }

/-- Stage 3: training, zeroing and built-in tests, with its failure code. -/
def State.memStage (s : State) : State × Option Nat :=
  let (lost, s) := s.boot.plan.badDies.foldl (fun (a : Bool × State) b =>
    let (two, s) := a.2.retireDie (chanKey b.1 b.2.1) b.2.2.val
    (a.1 || two, s)) (false, s.zeroMemories)
  let s := s.boot.plan.badClusters.foldl (fun (s : State) b => s.retireCluster b.1.val b.2.val) s
  (s, if lost then some 0x30 else if s.dieLost then some 0x31 else none)

/-! ### Stage 4: the links -/

/-- Stored word j of template p. -/
def State.storedTmpl (s : State) (p j : Nat) : W64 := s.keepWord (368 + 41 * p + j)

/-- Templates whose stored BOOT bit is 1. -/
def State.bootTemplates (s : State) : List Nat := (List.range 16).filter (fun p => bit (s.storedTmpl p 0) 63)

/-- Stage 4: MIR trains for a module of a pair, with a partner of the same pair (R353), and every link of a boot
template is enabled and trains. -/
def State.linkStage (s : State) : State :=
  let s := if s.keepWord 0 = 0 ∨ s.boot.plan.mirPair ≠ s.keepWord 0 then s
    else s.setFld rMirStat 60 59 s.boot.plan.mirLanes.val
  let ls := (List.range 48).filter (fun l => s.bootTemplates.any (fun p => bit (s.storedTmpl p 3) l))
  ls.foldl (fun (s : State) l =>
    let s := s.linkEnable l
    match s.boot.plan.linksUp.find? (fun u => u.1.val == l) with
    | some u => s.linkComesUp l (max 1 (min (s.maxGen l) u.2.1)) (2 * u.2.2.1) (some u.2.2.2)
    | none => s) s

/-! ### Stage 6: the templates -/

/-- The stored words of template p go to its registers. -/
def State.loadTemplate (s : State) (p : Nat) : State :=
  let w := s.storedTmpl p
  let put := fun (s : State) (off j : Nat) =>
    let k := rPart p + off
    s.setReg k (writeWord (layoutOf k) (s.reg k) .w64 (w j))
  let s := (List.range 5).foldl (fun (s : State) j => put s (8 * j) j) s
  let s := (List.range 16).foldl (fun (s : State) j => put s (0x40 + 8 * j) (5 + j)) s
  let s := (List.range 4).foldl (fun (s : State) j => put s (0xC0 + 8 * j) (21 + j)) s
  (List.range 16).foldl (fun (s : State) j => put s (0x100 + 8 * j) (25 + j)) s

/-- Whether an apply or release is under way. -/
def State.anyBusy (s : State) : Bool := (List.range 16).any s.busyPart

/-- Boot templates, to be applied in template order. -/
def State.bootApplies (s : State) : List (Nat × Option Template) := s.bootTemplates.map (fun p => (p, none))

/-- The queued applies of stage 6, boot templates before the host's, until one is under way. -/
def State.applyNext (s : State) : Nat → State
  | 0 => s
  | n + 1 =>
    if s.anyBusy then s
    else match s.boot.applyQ with
      | [] => s
      | x :: rest =>
        let s := s.withBoot { s.boot with applyQ := rest }
        match x.2 with
        | some t => (s.applyStart x.1 t).applyNext n
        | none =>
          let s := s.loadTemplate x.1
          (s.applyStart x.1 (s.templateOf x.1)).applyNext n

/-! ### Running the stages -/

/-- SEC starts (R466); its selection word is read, and reported where it is uncorrectable (R432). -/
def State.secStage (s : State) : State × Option Nat :=
  let s := if s.keep.bad.contains (8 + coreSec) then s.keepUe else s
  let (ok, s) := s.startCore coreSec
  (s, if ok then none else some 0x10)

/-- The work of a stage that has lasted as long as it takes, and its failure code. -/
def State.stageWork (s : State) (k : Nat) : State × Option Nat :=
  match k with
  | 0 => (s, if s.boot.plan.supplyOk then none else some 0x01)
  | 1 => s.secStage
  | 2 => s.loadKeep.startCores
  | 3 => s.memStage
  | _ => (s.linkStage, none)

/-- Stages 5 and 6 end when time is locked and no apply is left. -/
def State.lateStages (s : State) : State :=
  let s := if s.stage = 5 then
      if s.locked then (s.withStage 6).withBoot { s.boot with applyQ := s.bootApplies ++ s.boot.applyQ, stageAt := s.boot.elapsed }
      else s
    else s
  if s.stage = 6 then
    let s := s.applyNext (s.boot.applyQ.length + 1)
    if s.anyBusy then s else (s.withStage 7).bootEnd
  else s

/-- Every stage that has ended gives way to the next. -/
def State.bootAdvance (s : State) : Nat → State
  | 0 => s
  | n + 1 =>
    let k := s.stage
    if !s.boot.running || !s.power.input then s
    else if k ≥ 5 then s.lateStages
    else if s.boot.elapsed < s.boot.stageAt + s.boot.length k then s
    else match s.stageWork k with
      | (s, some c) => s.bootFail c
      | (s, none) =>
        let s := s.withStage (k + 1)
        let s := if k = 4 then s.withBoot { s.boot with limitAt := s.boot.elapsed } else s
        s.bootAdvance n

/-- POWER_ON: the input reaches 40 V. The words that are uncorrectable now stay so until they are written. A module of
SRC 0 is locked at once (R469). -/
def State.powerOn (s : State) (b : BootPlan) : State :=
  if s.power.input then s
  else
    let again := s.power.alive && s.boot.running
    let n := s.fld rHostBoot 39 32
    let s := s.setReg rHostBoot (BitVec.ofNat 64 ((if again then satTo 8 (n + 1) else n) * 2 ^ 32))
    let s := s.withPower { s.power with alive := true, input := true }
    let s := s.withBoot { s.boot with plan := b, running := true, stageAt := s.boot.elapsed, applyQ := [] }
    let s := s.withKeep { s.keep with bad := b.badKeep.foldl (fun l w => linsert w.toNat l) s.keep.bad }
    let s := if s.timeSrc = 0 then s.setLocked else s
    s.bootAdvance 8

/-- LOCKED (R469); in stage 5 it ends the stage. -/
def State.lockEvent (s : State) : State :=
  let s := s.setLocked
  if s.stage = 5 then s.bootAdvance 1 else s

/-- TIME_STAGE_LIMIT: stage 5 has lasted 2 s without lock. -/
def State.timeStageLimit (s : State) : State :=
  if s.stage ≠ 5 ∨ !s.boot.running ∨ !s.power.input ∨ s.boot.elapsed < s.boot.limitAt + 2000000000 then s
  else
    let s := (s.setBit rHostBoot 59 true).withStage 6
    (s.withBoot { s.boot with applyQ := s.bootApplies ++ s.boot.applyQ }).bootAdvance 1

/-- A host write of APPLY, with what the template holds now: before READY it is carried out after the boot templates,
in order (R377, R471). One to a busy template is ignored. -/
def State.hostApply (s : State) (p : Nat) : State :=
  if s.ready then s.applyStart p (s.templateOf p)
  else if s.busyPart p then s
  else s.withBoot { s.boot with applyQ := s.boot.applyQ ++ [(p, some (s.templateOf p))] }

/-- An apply or release has ended; bring-up goes on. -/
def State.bootAfterApply (s : State) : State := if s.stage = 6 then s.bootAdvance 1 else s

/-- Registers of the always-on domain: HOST_BOOT, the time unit's own, MIR_, and the keep controller's (R33,
R450). -/
def alwaysOn (key : Nat) : Bool :=
  key == rHostBoot || (decide (0x20000 ≤ key) && decide (key < 0x21000))
    || (decide (0xC0000 ≤ key) && decide (key < 0xD0000)) || (decide (0x100000 ≤ key) && decide (key < 0x110000))

/-- FW_IMG.ACTIVE is kept (Table 16.2). -/
def State.keepActive (s old : State) : State :=
  (List.range 4).foldl (fun s k => s.setBit (rFwImg k) 63 (old.fbit (rFwImg k) 63)) s

/-- MIR goes down with the module's power: its lanes, and what it knew of its partner (R372). -/
def State.mirLost (s : State) : State :=
  let s := ((s.setFld rMirStat 60 59 0).setFld rMirStat 47 32 0).setFld rMirStat 31 24 0
  s.setReg rMirRsync 0

/-- INPUT_LOSS: a begun keep write completes, queued ones are lost, and every die but the always-on domain is
reset (R430, R473, Table 17.6). -/
def State.inputLoss (s : State) : State :=
  if !s.power.input then s
  else
    let s := s.keepWriteDone
    (({ State.reset with
      pending := s.pending
      free := s.free
      time := s.time
      regs := s.regs.filter (fun e => alwaysOn e.1)
      hostMem := s.hostMem
      tierMem := s.tierMem
      fw := { images := s.fw.images }
      keep := { s.keep with queue := [], waiting := [] }
      power := { alive := true, lastComp := s.power.lastComp }
      boot := { s.boot with applyQ := [] }
      tap := { s.tap with unlocked := false, waiting := [] }
      host := { s.host with waits := [] } }.keepActive s).mirLost).setRole roleFenced

/-! ### The rows -/

/-- POWER_ON. -/
def execPowerOn (b : BootPlan) (s : State) : Host.Outcome State Fault Refusal := .next (s.powerOn b)

/-- INPUT_LOSS. -/
def execInputLoss (s : State) : Host.Outcome State Fault Refusal := .next s.inputLoss

/-- TIME_STAGE_LIMIT. -/
def execTimeStageLimit (s : State) : Host.Outcome State Fault Refusal := .next s.timeStageLimit

/-- LOCKED. -/
def execLocked (s : State) : Host.Outcome State Fault Refusal := .next s.lockEvent

/-- APPLY. -/
def execApply (p : PartId) (s : State) : Host.Outcome State Fault Refusal := .next (s.hostApply p.val)

/-- RELEASE: an APPLY of a template with CLUSTERS 0. -/
def execRelease (p : PartId) (s : State) : Host.Outcome State Fault Refusal :=
  .next (if (s.templateOf p.val).clusters = 0 then s.hostApply p.val else s)

/-- APPLY_DONE. -/
def execApplyDone (p : PartId) (s : State) : Host.Outcome State Fault Refusal := .next (s.applyDone p.val).bootAfterApply

/-- RELEASE_DONE. -/
def execReleaseDone (p : PartId) (s : State) : Host.Outcome State Fault Refusal :=
  .next (s.releaseDone p.val).bootAfterApply

end Sys2Proof.Machine
end

