-- ==== Sys2Proof/Machine/RegisterRead.lean ====
section
/-! DEFINITION. What a read of a BAR0 register returns (R9 to R12, R28, R29, R376): the register file, and the
fields the module works out as it is read. -/

namespace Sys2Proof.Machine

/-! ### Read-only fields worked out at the read -/

/-- STK_CHSTm.STATE (Table 8.4). -/
def ChState.code : ChState → Nat
  | .memory => 0
  | .processor => 1
  | .toMemory => 2
  | .toProcessor => 3
  | .recoding => 3

/-- STK_CHSTm of channel key k. -/
def State.readChst (s : State) (k : Nat) : W64 :=
  let ch := s.chan k
  let w := setBf (s.reg (rChst (k / 16) (k % 16))) 63 62 ch.state.code
  setBf (setBf (setBf w 59 56 (satTo 4 ch.lists.length)) 43 22 ch.wlimit) 21 0 ch.dirty.length

/-- FW_IMGk (Table 16.2). -/
def State.readFwImg (s : State) (k : Nat) : W64 :=
  let ver := fun (slot : Nat) => if s.slotPasses k slot then (s.image k slot).version.toNat else 0
  let w := setBf (s.reg (rFwImg k)) 62 62 (boolNat (bit (s.selection k) 62))
  setBf (setBf w 47 32 (ver 1)) 15 0 (ver 0)

/-- HOST_BOOT: ELAPSED counts until READY or FAIL (Table 19.2). -/
def State.readBoot (s : State) : W64 :=
  if s.boot.running then setBf (s.reg rHostBoot) 31 0 (s.boot.elapsed / 1000000) else s.reg rHostBoot

/-- TT_UNCERT (Table 2.6); a value beyond its 32 bits saturates. DESIGN CHOICE (log 94). -/
def State.readUncert (s : State) : W64 := BitVec.ofNat 64 (satTo 32 s.holdNs * 2 ^ 32 + satTo 32 s.leadNs)

/-- SCU_STAT0 of partition p (Table 11.5). -/
def State.readStat0 (s : State) (p : Nat) : W64 :=
  let count := fun (st : Nat) => ((s.ranked p).filter (fun i => (s.req i).state == st)).length
  BitVec.ofNat 64 (satTo 32 (s.freePages p) * 2 ^ 32 + satTo 16 (count rqRunning) * 2 ^ 16 + satTo 16 (count rqPageWait))

/-- Word k of the request table entry that SCU_RQSEL names (R298). -/
def Req.word (r : Req) : Nat → W64
  | 0 => r.w0 | 1 => r.w1 | 2 => r.w2 | 3 => r.w3 | 4 => r.w4 | 5 => r.w5 | 6 => r.w6 | _ => r.w7

/-- A register of partition p's timetable window at offset w: the slot and window areas show the bank that
TT_VIEW selects. -/
def State.readTt (s : State) (p w : Nat) : W64 :=
  if w = 0x18 then s.tight p
  else s.reg (rTtFrame p + w + (if w ≥ 0x200 then bankOff (s.fbit (rTtView p) 0) else 0))

/-- A register of partition p's control window at offset w. -/
def State.readScu (s : State) (p w : Nat) : W64 :=
  if w = 0x60 then s.readStat0 p
  else if 0x80 ≤ w ∧ w < 0xC0 then (s.req (s.fld (rScu p + 0x78) 13 0)).word ((w - 0x80) / 8)
  else s.reg (rScu p + w)

/-- A register of the keep block at offset o; a keep word waits for the writes queued for it (R429). -/
def State.readKeep (s : State) (o : Nat) : W64 × State :=
  if o < 0x2000 then s.keepRead (o / 8)
  else if o < 0x4000 then
    let w := (o - 0x2000) / 8
    (BitVec.ofNat 64 (boolNat (s.keepWorn w) * 2 ^ 63 + satTo 20 (s.keepCount w)), s)
  else (setBf (s.reg rKeepStat) 4 0 s.keep.queue.length, s)

/-- Eight bytes of the debug window onto the proof slice (R459). -/
def State.readDebug (s : State) (o : Nat) : W64 × State :=
  let a := s.fld rTrcProof 4 0 * 2 ^ 28 + s.fld rTrcProof 11 8 * 2 ^ 24 + o
  let (bs, _, s) := s.readBytes ((List.range 8).map (fun i => (Space.case, a + i)))
  (BitVec.ofNat 64 (leNat bs), s)

/-- The 64-bit register at an offset of the physical function's BAR0; 0 where none is assigned (R29). -/
def State.pfWord (s : State) (off : Nat) : W64 × State :=
  if off % 8 ≠ 0 then (0, s)
  else if 0x1000000 ≤ off ∧ off < 0x2000000 then s.readDebug (off - 0x1000000)
  else if (layoutPf off).isEmpty then (0, s)
  else if 0x100000 ≤ off ∧ off < 0x110000 then s.readKeep (off - 0x100000)
  else
    (if off = 0 then setBf (s.reg 0) 23 16 Config.revision.toNat
     else if off = rHostBoot then s.readBoot
     else if off = 0x20000 then s.nowWord
     else if off = 0x20018 then s.readUncert
     else if 0x21000 ≤ off ∧ off < 0x31000 then s.readTt ((off - 0x21000) / 0x1000) (off % 0x1000)
     else if 0x41000 ≤ off ∧ off < 0x51000 then s.readScu ((off - 0x41000) / 0x1000) (off % 0x1000)
     else if off = rHcfg then setBf (s.reg rHcfg) 15 0 s.sharedFree
     else if off = rMirRsync then setBf (s.reg rMirRsync) 31 0 (satTo 32 s.rsyncLeft)
     else if 0xF0000 ≤ off ∧ off < 0xF0020 then s.readFwImg ((off - 0xF0000) / 8)
     else if 0x200000 ≤ off ∧ 0x100 ≤ off % 0x40000 ∧ off % 0x40000 < 0x180 then
       s.readChst (16 * ((off - 0x200000) / 0x40000) + (off % 0x40000 - 0x100) / 8)
     else s.reg off, s)

/-- What a read of this width takes of a register: all of it, its low half, or its high half (R12). -/
def halfRead (wd : Width) (w : W64) : W64 :=
  match wd with
  | .w64 => w
  | .lo32 => w &&& 0xFFFFFFFF
  | .hi32 => w >>> 32

/-- A read of the physical function's BAR0. off is the register's offset; hi32 reads at off + 4 (R12). -/
def State.pfRead (s : State) (off : Nat) (wd : Width) : W64 × State :=
  let (w, s) := s.pfWord off
  (halfRead wd w, s)

/-- Word at offset w of the read-only copy of a template in force (Table 14.1): VALID and FULL as they are. -/
def Template.word (t : Template) (w : Nat) : W64 :=
  if w = 0 then setBf (setBf t.ctl 63 63 1) 52 52 (boolNat t.full)
  else if w = 8 then t.rq
  else if w = 0x10 then t.flg
  else if w = 0x18 then t.links
  else if w = 0x20 then t.tier
  else if 0x40 ≤ w ∧ w < 0xC0 then wordAt t.chmap ((w - 0x40) / 8)
  else if 0xC0 ≤ w ∧ w < 0xE0 then wordAt t.slmap ((w - 0xC0) / 8)
  else if 0x100 ≤ w ∧ w < 0x180 then wordAt t.alloc ((w - 0x100) / 8)
  else 0

/-- The 64-bit register at an offset of virtual function p + 1's BAR0, outside instruction memory; a function
whose template is not valid answers as an unassigned range (R373). -/
def State.vfWord (s : State) (p off : Nat) : W64 :=
  if off % 8 ≠ 0 || !s.validPart p then 0
  else if 0x20000 ≤ off ∧ off < 0x21000 then (s.tmpl p).word (off - 0x20000)
  else if off = 8 then setBf (s.reg (rGhead (p + 1))) 41 32 (bf (s.tmpl p).ctl 41 32)
  else if (layoutVf off).isEmpty then 0
  else s.reg ((p + 1) * 2 ^ 32 + off)

/-- A read of virtual function p + 1's BAR0, outside instruction memory. off is the register's offset; hi32 reads at
off + 4 (R12). -/
def State.vfRead (s : State) (p off : Nat) (wd : Width) : W64 := halfRead wd (s.vfWord p off)

end Sys2Proof.Machine
end

