-- ==== Sys2Proof/Machine/Jtag.lean ====
section
/-! DEFINITION. The pins of M1 and H1 (R479, R480, Table 20.2), management over I3C (R483), and the TAP
(R484, R485). -/

namespace Sys2Proof.Machine

/-! ### Status pins -/

/-- FAULT_N is driven low (R480). -/
def State.faultAsserted (s : State) : Bool := s.power.fault

/-- ALERT_N is driven low while an event bit of THM_STAT, TT_STATUS or MIR_STAT is 1 (R480). -/
def State.alertAsserted (s : State) : Bool :=
  (s.reg rThmStat &&& accMask fThmStat .w1c) != 0 || (s.reg rTtStatus &&& accMask fTtStatus .w1c) != 0
    || (s.reg rMirStat &&& accMask fMirStat .w1c) != 0

/-- TIERk_PERST_N is driven low while HOST_TIERk.MODE is 0 (Table 20.2); 3 acts as 0 (R392). -/
def State.tierReset (s : State) (k : Nat) : Bool := s.fld (rTier k) 63 62 == 0 || s.fld (rTier k) 63 62 == 3

/-! ### Management (R483) -/

/-- The target's static address, 0x50 + SLOT_ID. -/
def i3cStatic : BitVec 7 := 0x50 + Config.slotId.setWidth 7

/-- The address the target answers to. -/
def State.i3cAddress (s : State) : BitVec 7 := s.tap.i3cDynamic.getD i3cStatic

/-- Registers whose W1C fields management may write. -/
def mgmtWritable (off : Nat) : Bool := off == rThmStat || off == rTtStatus || off == rMirStat

/-- Management clears event bits: ones in the W1C fields of the three registers. -/
def State.mgmtClear (s : State) (off : Nat) (v : W64) : State :=
  if mgmtWritable off then s.setReg off (s.reg off &&& ~~~ (v &&& accMask (layoutPf off) .w1c)) else s

/-- A private write: the offset, and what it writes there, if anything. The target is served while the always-on domain
is supplied. -/
def State.i3cWrite (s : State) (off : W32) (data : Option W64) : State :=
  if !s.power.alive then s
  else
  let s := s.withTap { s.tap with i3cOffset := off.toNat }
  match data with
  | some v => s.mgmtClear off.toNat v
  | none => s

/-- Whether an offset lies in a reserved range of Table 1.8, or in a block that no chapter assigns a register there. -/
def reservedRange (off : Nat) : Bool :=
  (decide (0x120000 ≤ off) && decide (off < 0x200000)) || (decide (0x200000 ≤ off) && decide (off < 0x1000000)
    && (layoutPf (off - off % 8)).isEmpty)

/-- A private read: 8 bytes of the register at the offset, which then advances by 8. A reserved range of Table 1.8, and
an offset that no chapter assigns, reads as 0 (R29). The registers of the blocks from 0x0020_0000 on are not management's:
what they return is free. -/
def State.i3cRead (s : State) : State :=
  if !s.power.alive then s
  else
  let off := s.tap.i3cOffset
  let (w, s) := if off < 0x120000 then s.pfRead off .w64
    else if reservedRange off then (0, s) else (Config.freeWord s.free 0, s.withFree (s.free + 1))
  s.withTap { s.tap with i3cData := leBytes 8 w.toNat, i3cOffset := (off + 8) % 2 ^ 32 }

/-! ### The TAP (R484, R485) -/

def irExtest : BitVec 8 := 0x03
def irIdcode : BitVec 8 := 0x01

/-- IDCODE (Table 20.4). -/
def idcodeWord : BitVec 32 := 0x3#4 ++ 0x0576#16 ++ 0x2B3#11 ++ 1#1

/-- Bits of a byte list, each byte's bit 0 first. -/
def bitsOfBytes (bs : List Byte) : List Bool := bs.flatMap (fun b => (List.range 8).map b.getLsbD)

/-- An instruction acts as BYPASS: one bit that captures 0 stands between TDI and TDO. -/
def State.tapBypass (s : State) (ir : BitVec 8) (tdi : List Bool) : State :=
  s.withTap { s.tap with ir := ir, tdo := (false :: tdi).take tdi.length }

/-- A scan of the boundary register: the cells capture their pins, shift out, and take what was shifted in. What
the pins carry is free. -/
def State.boundaryScan (s : State) (ir : BitVec 8) (tdi : List Bool) : State :=
  let cells := (List.range Config.boundaryCells).map (fun k => (Config.freeWord s.free k).getLsbD 0)
  let all := cells ++ tdi
  (s.withTap { s.tap with ir := ir, tdo := all.take tdi.length, boundary := all.drop tdi.length }).withFree (s.free + 1)

/-- EXTEST and its kin act before stage 3, or after FAIL (R485). -/
def State.extestAllowed (s : State) : Bool := decide (s.stage < 3) || s.fbit rHostBoot 60

def State.extestScan (s : State) (ir : BitVec 8) (tdi : List Bool) : State :=
  if s.extestAllowed then s.boundaryScan ir tdi else s.tapBypass ir tdi

/-- UNLOCK: the response shifted in is for the challenge that the scan before shifted out, and SEC verifies it
once it runs; a response waits while SEC is being switched. A new challenge shifts out. -/
def State.unlock (s : State) (resp : List Byte) : State :=
  let asked := !s.tap.challenge.isEmpty && s.fw.started.contains coreSec
  let wait := if asked && s.secWaits then [(s.tap.challenge, resp)] else []
  let ok := asked && !s.secWaits && Config.unlockVerifies s.tap.challenge resp
  let (ch, s) := s.chooseBytes 64
  s.withTap { s.tap with
    ir := 0x10, challenge := ch, tdo := bitsOfBytes ch, waiting := s.tap.waiting ++ wait, unlocked := s.tap.unlocked
        || ok }

/-- Bytes of the proof slice as PROOFRD reads them; while a scan-out is writing, each word is old or new. -/
def State.proofBytes (s : State) (off words : Nat) : List Byte × State :=
  let base := s.fld rTrcProof 4 0 * 2 ^ 28
  let n := 4 * words
  let inside := (List.range n).filter (fun i => off + i < 2 ^ 28)
  let (bs, _, s) := s.readBytes (inside.map (fun i => (Space.case, base + off + i)))
  let fresh := if s.scanning && s.halt.slice == s.fld rTrcProof 4 0 then mbytes (proofMem s base s.caseMem) (base + off) n else []
  let out := (List.range n).map (fun i =>
    if off + i ≥ 2 ^ 28 then Config.freeByte s.free i
    else if !fresh.isEmpty && Config.freeBool (s.free + 1 + i / 4) then fresh.getD i 0
    else bs.getD i 0)
  (out, s.withFree (s.free + 1 + words))

/-- PROOFRD acts only once unlocked. -/
def State.proofrd (s : State) (off : W64) (words : Nat) : State :=
  if !s.tap.unlocked then s.withTap { s.tap with ir := 0x12 }
  else
    let (bs, s) := s.proofBytes off.toNat words
    s.withTap { s.tap with ir := 0x12, tdo := bitsOfBytes bs }

/-- JTAG HALT, on Update-IR, once unlocked. -/
def State.jtagHalt (s : State) : State :=
  let s := s.withTap { s.tap with ir := 0x11 }
  if s.tap.unlocked then s.haltOwn 2 else s

/-- TRST_N asserted: the TAP resets and the unlock ends. -/
def State.trst (s : State) : State := s.withTap { s.tap with ir := irIdcode, unlocked := false, waiting := [] }

/-! ### The rows -/

/-- Instruction codes of Table 20.4. -/
def listedIr (code : BitVec 8) : Bool := [0xFF, 0x01, 0x02, 0x03, 0x04, 0x05, 0x10, 0x11, 0x12].contains code.toNat

/-- BYPASS, and every code that Table 20.4 does not list (R484). -/
def execBypass (code : BitVec 8) (tdi : List Bool) (s : State) : Host.Outcome State Fault Refusal :=
  .next (s.tapBypass (if listedIr code then 0xFF else code) tdi)

/-- IDCODE. -/
def execIdcode (s : State) : Host.Outcome State Fault Refusal :=
  .next (s.withTap { s.tap with ir := irIdcode, tdo := (List.range 32).map idcodeWord.getLsbD })

/-- SAMPLE/PRELOAD. -/
def execSamplePreload (tdi : List Bool) (s : State) : Host.Outcome State Fault Refusal :=
  .next (s.boundaryScan 0x02 tdi)

/-- EXTEST. -/
def execExtest (tdi : List Bool) (s : State) : Host.Outcome State Fault Refusal := .next (s.extestScan irExtest tdi)

/-- EXTEST_PULSE. -/
def execExtestPulse (tdi : List Bool) (s : State) : Host.Outcome State Fault Refusal := .next (s.extestScan 0x04 tdi)

/-- EXTEST_TRAIN. -/
def execExtestTrain (tdi : List Bool) (s : State) : Host.Outcome State Fault Refusal := .next (s.extestScan 0x05 tdi)

/-- UNLOCK. -/
def execUnlock (response : List Byte) (s : State) : Host.Outcome State Fault Refusal := .next (s.unlock response)

/-- JTAG HALT. -/
def execJtagHalt (s : State) : Host.Outcome State Fault Refusal := .next s.jtagHalt

/-- PROOFRD. -/
def execProofrd (offset : W64) (words : Nat) (s : State) : Host.Outcome State Fault Refusal :=
  .next (s.proofrd offset words)

/-- TRST_N. -/
def execTrstN (s : State) : Host.Outcome State Fault Refusal := .next s.trst

/-- I3C private write. -/
def execI3cPrivateWrite (offset : W32) (data : Option W64) (s : State) : Host.Outcome State Fault Refusal :=
  .next (s.i3cWrite offset data)

/-- I3C private read. -/
def execI3cPrivateRead (s : State) : Host.Outcome State Fault Refusal := .next s.i3cRead

/-- I3C dynamic address assignment. -/
def execI3cDynamicAddress (a : BitVec 7) (s : State) : Host.Outcome State Fault Refusal :=
  .next (if s.power.alive then s.withTap { s.tap with i3cDynamic := some a } else s)

end Sys2Proof.Machine
end

