-- ==== Sys2Proof/Machine/RegisterWrite.lean ====
section
/-! DEFINITION. REGISTER_WRITE: a host write to a register of BAR0 by its access codes (R9 to R12), with the
action of every register whose write causes one. -/

namespace Sys2Proof.Machine

/-- A write by the access codes alone. -/
def State.plainWrite (s : State) (key : Nat) (wd : Width) (v : W64) : State :=
  s.setReg key (writeWord (layoutOf key) (s.reg key) wd v)

/-- A write that leaves one bit, whose change has an action of its own, as it was. -/
def State.writeBut (s : State) (key i : Nat) (wd : Width) (v : W64) : State :=
  (s.plainWrite key wd v).setBit key i (s.fbit key i)

/-- What bit i becomes under a write. -/
def State.nextBit (s : State) (key i : Nat) (wd : Width) (v : W64) : Bool :=
  bit (writeWord (layoutOf key) (s.reg key) wd v) i

/-- Whether a whole write carries a 1 in a WO bit. -/
def asks (wd : Width) (v : W64) (i : Nat) : Bool := wd = .w64 && bit v i

/-! ### Registers whose write acts -/

/-- PART_CTL (R377): the fields, then APPLY. -/
def State.partCtlWrite (s : State) (p : Nat) (wd : Width) (v : W64) : State :=
  let s := s.plainWrite (rPart p) wd v
  if asks wd v 62 then s.hostApply p else s

/-- TT_FRAME (Table 2.9): the fields, then COMMIT. -/
def State.ttFrameWrite (s : State) (p : Nat) (wd : Width) (v : W64) : State :=
  let s := s.plainWrite (rTtFrame p) wd v
  if asks wd v 62 then s.ttCommit p else s

/-- A timetable window (R49, R55): the slot and window areas of the standby bank alone are written. -/
def State.ttWrite (s : State) (p w : Nat) (wd : Width) (v : W64) : State :=
  if w = 0 then s.ttFrameWrite p wd v
  else if w ≥ 0x200 ∧ s.fbit (rTtView p) 0 then s
  else s.plainWrite (rTtFrame p + w) wd v

/-- SCU_CTL: ENABLE going to 1 starts the first composition. -/
def State.scuCtlWrite (s : State) (p : Nat) (wd : Width) (v : W64) : State :=
  let was := s.fbit (rScu p) 63
  let on := s.nextBit (rScu p) 63 wd v
  let s := s.writeBut (rScu p) 63 wd v
  if on && !was then s.scuEnable p else s.setBit (rScu p) 63 on

/-- FAB_LCTLn (Table 12.4). -/
def State.lctlWrite (s : State) (l : Nat) (wd : Width) (v : W64) : State :=
  let was := s.fbit (rLctl l) 63
  let on := s.nextBit (rLctl l) 63 wd v
  let s := s.writeBut (rLctl l) 63 wd v
  let s := if on && !was then s.linkEnable l else if was && !on then s.linkDisable l else s
  let s := if asks wd v 62 then s.retrain l else s
  if asks wd v 61 then s.modLink l (fun x => { x with restoreAsked := true }) else s

/-- MIR_CTL (Table 13.2). -/
def State.mirCtlWrite (s : State) (wd : Width) (v : W64) : State :=
  let s := s.plainWrite rMirCtl wd v
  let s := if wd = .w64 ∧ bf v 45 43 = 1 then s.setroleJoining else if wd = .w64
      ∧ bf v 45 43 = 2 then s.setroleSolo else s
  if asks wd v 42 then s.rsync else s

/-- CLK_CTL: while GRADE_EN is 0 the grade stays at 0 (R438); PWR acts on it after its switch (Table 16.3). -/
def State.clkCtlWrite (s : State) (wd : Width) (v : W64) : State :=
  let s := s.plainWrite rClkCtl wd v
  if s.fbit rClkCtl 63 || s.pwrWaits then s else s.setGrade 0

/-- FW_LOGBASE: head and tail restart, as those of an event ring do (R425). -/
def State.logBaseWrite (s : State) (wd : Width) (v : W64) : State :=
  ((s.plainWrite rFwLogbase wd v).setFld rFwLoghead 15 0 0).setFld rFwLogstat 15 0 0

/-- FW_ block (R418, R423). -/
def State.fwWrite (s : State) (o : Nat) (wd : Width) (v : W64) : State :=
  if o = 0x20 then (if wd = .w64 then s.fwUpd v else s)
  else if o = 0x40 then (if wd = .w64 then s.streqWrite v else s)
  else if o = 0x60 then s.logBaseWrite wd v
  else s.plainWrite (0xF0000 + o) wd v

/-- KEEP_ block: K words take whole writes (R12, R428). -/
def State.keepBlockWrite (s : State) (o : Nat) (wd : Width) (v : W64) : State :=
  if o < 0x2000 then (if wd = .w64 then s.keepWrite (o / 8) v else s) else s.plainWrite (0x100000 + o) wd v

/-- TRC_ block. -/
def State.trcWrite (s : State) (o : Nat) (wd : Width) (v : W64) : State :=
  if o = 0 then s.trcHaltWrite wd v
  else if o = 0x18 then
    let s := s.plainWrite rTrcProof wd v
    if asks wd v 63 then s.proofGo else s
  else if o = 0x28 then s.bufWrite fTrcTbuf rTrcTbuf rTrcTstat wd v
  else if o = 0xF08 then s.bufWrite fTrcAuditBuf rTrcAuditBuf rTrcAuditStat wd v
  else s.plainWrite (0x110000 + o) wd v

/-- The site whose SPLIT register lies at offset o of stack window n (R412). -/
def splitSite (n o : Nat) : Option (Nat × Nat) :=
  if o % 0x20 ≠ 0x18 then none
  else if 0x10100 ≤ o ∧ o < 0x10300 then some (0, 16 * n + (o - 0x10100) / 0x20)
  else if n % 4 ≠ 0 then none
  else if o = 0x30018 then some (1, n / 4)
  else if 0x30100 ≤ o ∧ o < 0x30300 then some (2, 16 * (n / 4) + (o - 0x30100) / 0x20)
  else none

/-- Window of stack n. A host write of FULL_CH stands until the next grade change (R440). -/
def State.stkWrite (s : State) (n o : Nat) (wd : Width) (v : W64) : State :=
  match splitSite n o with
  | some t => s.siteSplit t wd v
  | none =>
    let s := s.plainWrite (rStk n + o) wd v
    if o = 0 ∧ wd ≠ .hi32 then s.withPower { s.power with lower := s.power.lower.filter (· != n) } else s

/-! ### The two kinds of BAR0 -/

/-- A write to the physical function's BAR0 (Table 1.8); one that finds the keep queue full waits until it has
room (R429). A half of TT_SRC or of STK_CFG that holds only reserved bits does nothing (R11, R12). -/
def State.pfWrite (s : State) (off : Nat) (wd : Width) (v : W64) : State :=
  let s := s.keepRoom s.keep.all.length
  if off % 8 ≠ 0 ∨ (layoutPf off).isEmpty then s
  else if off = rEbase 0 then s.ebaseWrite 0 wd v
  else if off = rEhead 0 then (if wd = .hi32 then s else s.eheadWrite 0 (bf v 15 0))
  else if 0x300 ≤ off ∧ off < 0x318 then s.tierMode ((off - 0x300) / 8) wd v
  else if 0x10000 ≤ off ∧ off < 0x20000 ∧ off % 0x1000 = 0 then s.partCtlWrite ((off - 0x10000) / 0x1000) wd v
  else if off = rTtSrc then if wd = .hi32 then s else s.ttSrcWrite (writeWord fTtSrc (s.reg rTtSrc) wd v)
  else if 0x21000 ≤ off ∧ off < 0x31000 then s.ttWrite ((off - 0x21000) / 0x1000) (off % 0x1000) wd v
  else if 0x41000 ≤ off ∧ off < 0x51000 ∧ off % 0x1000 = 0 then s.scuCtlWrite ((off - 0x41000) / 0x1000) wd v
  else if 0x80000 ≤ off ∧ off < 0x80C00 ∧ off % 0x40 = 0 then s.lctlWrite ((off - 0x80000) / 0x40) wd v
  else if off = rMirCtl then s.mirCtlWrite wd v
  else if off = rClkCtl then s.clkCtlWrite wd v
  else if 0xF0000 ≤ off ∧ off < 0x100000 then s.fwWrite (off - 0xF0000) wd v
  else if 0x100000 ≤ off ∧ off < 0x110000 then s.keepBlockWrite (off - 0x100000) wd v
  else if 0x110000 ≤ off ∧ off < 0x120000 then s.trcWrite (off - 0x110000) wd v
  else if 0x200000 ≤ off then s.stkWrite ((off - 0x200000) / 0x40000) ((off - 0x200000) % 0x40000) wd v
  else s.plainWrite off wd v

/-- A write to the BAR0 of partition p's virtual function (Table 14.1); none is taken while the partition's
template is not valid (R373). A write of a galley entry between HEAD and TAIL is a host error, and so is one of a slot's
parameter block while its step runs (R291, R391). -/
def State.vfWrite (s : State) (p off : Nat) (wd : Width) (v : W64) : State :=
  if off % 8 ≠ 0 || !s.validPart p || (layoutVf off).isEmpty then s
  else if off = 0 then (if wd = .hi32 then s else s.doorbell p (bf v 9 0))
  else if off = 0x10 then s.ebaseWrite (p + 1) wd v
  else if off = 0x18 then (if wd = .hi32 then s else s.eheadWrite (p + 1) (bf v 15 0))
  else if 0x10000 ≤ off ∧ s.galleyHeld p ((off - 0x10000) / 64) then
    (s.plainWrite ((p + 1) * 2 ^ 32 + off) wd v).unpredictable p
  else if 0x1000 ≤ off ∧ off < 0x1800 ∧ (s.findRun p ((off - 0x1000) / 32) (fun r => r.phase == .step
      && r.step.isNone)).isSome then
    (s.plainWrite ((p + 1) * 2 ^ 32 + off) wd v).unpredictable p
  else s.plainWrite ((p + 1) * 2 ^ 32 + off) wd v

/-- A write to the BAR0 of function f. -/
def State.registerWrite (s : State) (f off : Nat) (wd : Width) (v : W64) : State :=
  if !s.barOpen then s
  else if f = 0 then s.pfWrite off wd v
  else s.vfWrite (f - 1) off wd v

/-- REGISTER_WRITE. -/
def execRegisterWrite (f : FnId) (off : BitVec 25) (wd : Width) (v : W64) (s : State) : Host.Outcome State Fault Refusal :=
  .next (s.registerWrite f.val off.toNat wd v)

end Sys2Proof.Machine
end

