-- ==== Sys2Proof/Machine/Idle.lean ====
section
/-! DEFINITION. What happens at a tick of 1 ns with no command waiting: fabric time and the cluster clocks count,
bring-up's stages run on, and the firmware cores may log (R33, R425, R464, R466). -/

namespace Sys2Proof.Machine

/-- What waited and may go on now: lanes on their spares, frames that were held and frames to be sent, and accesses at
the host port (R239, R329, R337, R339). -/
def State.serve (s : State) : State := s.spareDoneAll.rxDrainAll.pumpAll.servePort

/-- The flags that the host asks for are set and cleared, in its order (R90). -/
def State.serveFlags (s : State) : State :=
  s.host.flagAsks.foldl (fun (s : State) a => s.setFlag a.1.val a.2.1.val a.2.2 34)
    (s.withHost { s.host with flagAsks := [] })

/-- One tick of the always-on oscillator; nothing happens before power is first applied. -/
def State.tick (s : State) : State :=
  if !s.power.alive then s
  else
    let (d, s) := s.slewStep
    let s := (s.tickTime d).tickClusters d
    ((s.withBoot { s.boot with elapsed := s.boot.elapsed + 1 }).bootAdvance 8).serveFlags.serve.updAdvance.tracePoints

/-- The command at the front of the queue and the state with the queue's rest. -/
def State.takeCommand (s : State) : Option (Instr × State) :=
  match s.pending with
  | [] => none
  | c :: rest => some (c, s.withPending rest)

/-- Put a command at the front of the queue. -/
def State.pushFront (s : State) (c : Instr) : State := s.withPending (c :: s.pending)

end Sys2Proof.Machine
end

