-- ==== Sys2Proof/Machine/Dispatch.lean ====
section
/-! DEFINITION. The meaning of every command: one arm per row of spec/opcode_table.json. -/

namespace Sys2Proof.Machine

def exec (i : Instr) (s : State) : Host.Outcome State Fault Refusal :=
  match i with
  | .nop c e w => Sys2Proof.Machine.execNop c e w s
  | .endStream c e w => Sys2Proof.Machine.execEndStream c e w s
  | .loop c e w => Sys2Proof.Machine.execLoop c e w s
  | .zacc c m w => Sys2Proof.Machine.execZacc c m w s
  | .anchor c m w => Sys2Proof.Machine.execAnchor c m w s
  | .mma c m w => Sys2Proof.Machine.execMma c m w s
  | .mmaz c m w => Sys2Proof.Machine.execMmaz c m w s
  | .mmax c m w => Sys2Proof.Machine.execMmax c m w s
  | .mmaxz c m w => Sys2Proof.Machine.execMmaxz c m w s
  | .drain c m w => Sys2Proof.Machine.execDrain c m w s
  | .drainz c m w => Sys2Proof.Machine.execDrainz c m w s
  | .vadd c w => Sys2Proof.Machine.execVadd c w s
  | .vsub c w => Sys2Proof.Machine.execVsub c w s
  | .vmul c w => Sys2Proof.Machine.execVmul c w s
  | .vfma c w => Sys2Proof.Machine.execVfma c w s
  | .vmax c w => Sys2Proof.Machine.execVmax c w s
  | .vmin c w => Sys2Proof.Machine.execVmin c w s
  | .vabs c w => Sys2Proof.Machine.execVabs c w s
  | .vneg c w => Sys2Proof.Machine.execVneg c w s
  | .vand c w => Sys2Proof.Machine.execVand c w s
  | .vor c w => Sys2Proof.Machine.execVor c w s
  | .vxor c w => Sys2Proof.Machine.execVxor c w s
  | .vshl c w => Sys2Proof.Machine.execVshl c w s
  | .vshr c w => Sys2Proof.Machine.execVshr c w s
  | .vmov c w => Sys2Proof.Machine.execVmov c w s
  | .vsel c w => Sys2Proof.Machine.execVsel c w s
  | .vcmpeq c w => Sys2Proof.Machine.execVcmpeq c w s
  | .vcmplt c w => Sys2Proof.Machine.execVcmplt c w s
  | .vcmple c w => Sys2Proof.Machine.execVcmple c w s
  | .vexp2 c w => Sys2Proof.Machine.execVexp2 c w s
  | .vrcp c w => Sys2Proof.Machine.execVrcp c w s
  | .vrsq c w => Sys2Proof.Machine.execVrsq c w s
  | .vcvt c w => Sys2Proof.Machine.execVcvt c w s
  | .vredrSum c w => Sys2Proof.Machine.execVredrSum c w s
  | .vredrMax c w => Sys2Proof.Machine.execVredrMax c w s
  | .vredrMin c w => Sys2Proof.Machine.execVredrMin c w s
  | .vredcSum c w => Sys2Proof.Machine.execVredcSum c w s
  | .vredcMax c w => Sys2Proof.Machine.execVredcMax c w s
  | .vredcMin c w => Sys2Proof.Machine.execVredcMin c w s
  | .rowForm c opc w => Sys2Proof.Machine.execRowForm c opc w s
  | .compress c w => Sys2Proof.Machine.execCompress c w s
  | .compressAppend c w => Sys2Proof.Machine.execCompressAppend c w s
  | .expand c w => Sys2Proof.Machine.execExpand c w s
  | .expandAppend c w => Sys2Proof.Machine.execExpandAppend c w s
  | .rsum c w => Sys2Proof.Machine.execRsum c w s
  | .rmax c w => Sys2Proof.Machine.execRmax c w s
  | .rmin c w => Sys2Proof.Machine.execRmin c w s
  | .rssum c w => Sys2Proof.Machine.execRssum c w s
  | .rsmax c w => Sys2Proof.Machine.execRsmax c w s
  | .rsmin c w => Sys2Proof.Machine.execRsmin c w s
  | .load c w => Sys2Proof.Machine.execLoad c w s
  | .store c w => Sys2Proof.Machine.execStore c w s
  | .fdef c w => Sys2Proof.Machine.execFdef c w s
  | .nbcmd c w => Sys2Proof.Machine.execNbcmd c w s
  | .rwrite c w => Sys2Proof.Machine.execRwrite c w s
  | .wgann c w => Sys2Proof.Machine.execWgann c w s
  | .rfinal c w => Sys2Proof.Machine.execRfinal c w s
  | .flgclr c w => Sys2Proof.Machine.execFlgclr c w s
  | .copy c w => Sys2Proof.Machine.execCopy c w s
  | .transpose c w => Sys2Proof.Machine.execTranspose c w s
  | .permute c w => Sys2Proof.Machine.execPermute c w s
  | .convert c w => Sys2Proof.Machine.execConvert c w s
  | .dieslice c w => Sys2Proof.Machine.execDieslice c w s
  | .gather c w => Sys2Proof.Machine.execGather c w s
  | .scatter c w => Sys2Proof.Machine.execScatter c w s
  | .scatterAdd c w => Sys2Proof.Machine.execScatterAdd c w s
  | .instructionIssue c e => Sys2Proof.Machine.execInstructionIssue c e s
  | .staticCompletion c e => Sys2Proof.Machine.execStaticCompletion c e s
  | .mvCompletion c k => Sys2Proof.Machine.execMvCompletion c k s
  | .impositionComplete c x => Sys2Proof.Machine.execImpositionComplete c x s
  | .nbNop n m => Sys2Proof.Machine.execNbNop n m s
  | .fence n m => Sys2Proof.Machine.execFence n m s
  | .nbEnd n m => Sys2Proof.Machine.execNbEnd n m s
  | .ldv n m => Sys2Proof.Machine.execLdv n m s
  | .stv n m => Sys2Proof.Machine.execStv n m s
  | .ldq n m => Sys2Proof.Machine.execLdq n m s
  | .sti n m => Sys2Proof.Machine.execSti n m s
  | .zst n m => Sys2Proof.Machine.execZst n m s
  | .dot n m => Sys2Proof.Machine.execDot n m s
  | .axpy n m => Sys2Proof.Machine.execAxpy n m s
  | .vmac n m => Sys2Proof.Machine.execVmac n m s
  | .nbVadd n m => Sys2Proof.Machine.execNbVadd n m s
  | .nbVmul n m => Sys2Proof.Machine.execNbVmul n m s
  | .nbVmax n m => Sys2Proof.Machine.execNbVmax n m s
  | .vcmp n m => Sys2Proof.Machine.execVcmp n m s
  | .sta n m => Sys2Proof.Machine.execSta n m s
  | .exp2 n m => Sys2Proof.Machine.execExp2 n m s
  | .osm n m => Sys2Proof.Machine.execOsm n m s
  | .scale n m => Sys2Proof.Machine.execScale n m s
  | .cvt n m => Sys2Proof.Machine.execCvt n m s
  | .att n m => Sys2Proof.Machine.execAtt n m s
  | .send n m => Sys2Proof.Machine.execSend n m s
  | .fin n m => Sys2Proof.Machine.execFin n m s
  | .szero n m => Sys2Proof.Machine.execSzero n m s
  | .bcast n m => Sys2Proof.Machine.execBcast n m s
  | .putc n m => Sys2Proof.Machine.execPutc n m s
  | .nbListArrived n m => Sys2Proof.Machine.execNbListArrived n m s
  | .nbListComplete n m => Sys2Proof.Machine.execNbListComplete n m s
  | .writeLanded k => Sys2Proof.Machine.execWriteLanded k s
  | .rfinalRelease src c g => Sys2Proof.Machine.execRfinalRelease src c g s
  | .sendStagingAccept c => Sys2Proof.Machine.execSendStagingAccept c s
  | .frameBoundary p => Sys2Proof.Machine.execFrameBoundary p s
  | .slotStart p n => Sys2Proof.Machine.execSlotStart p n s
  | .stepComplete p n => Sys2Proof.Machine.execStepComplete p n s
  | .modeswDuty p n => Sys2Proof.Machine.execModeswDuty p n s
  | .modeswToMemory n m => Sys2Proof.Machine.execModeswToMemory n m s
  | .modeswToProcessor n m => Sys2Proof.Machine.execModeswToProcessor n m s
  | .recodeInPlace n m => Sys2Proof.Machine.execRecodeInPlace n m s
  | .modeswDone n m => Sys2Proof.Machine.execModeswDone n m s
  | .swapDuty p n => Sys2Proof.Machine.execSwapDuty p n s
  | .maintDuty p n => Sys2Proof.Machine.execMaintDuty p n s
  | .dutyLenExpiry p n => Sys2Proof.Machine.execDutyLenExpiry p n s
  | .bkgd p n => Sys2Proof.Machine.execBkgd p n s
  | .overrun p n => Sys2Proof.Machine.execOverrun p n s
  | .stepWatchdog p n => Sys2Proof.Machine.execStepWatchdog p n s
  | .sendWindowOpen p n x => Sys2Proof.Machine.execSendWindowOpen p n x s
  | .windowClose p n x => Sys2Proof.Machine.execWindowClose p n x s
  | .ttCommit p => Sys2Proof.Machine.execTtCommit p s
  | .ttSrcWrite v => Sys2Proof.Machine.execTtSrcWrite v s
  | .epochPulse => Sys2Proof.Machine.execEpochPulse s
  | .idleOrderedSet l time hold hops locked fallback => Sys2Proof.Machine.execIdleOrderedSet l time hold hops locked fallback s
  | .refLost => Sys2Proof.Machine.execRefLost s
  | .linkLost l => Sys2Proof.Machine.execLinkLost l s
  | .fallback => Sys2Proof.Machine.execFallback s
  | .locked => Sys2Proof.Machine.execLocked s
  | .refresh n m => Sys2Proof.Machine.execRefresh n m s
  | .refreshEnd n m => Sys2Proof.Machine.execRefreshEnd n m s
  | .throttleRefresh n m => Sys2Proof.Machine.execThrottleRefresh n m s
  | .linkEnable l => Sys2Proof.Machine.execLinkEnable l s
  | .retrain l => Sys2Proof.Machine.execRetrain l s
  | .restore l => Sys2Proof.Machine.execRestore l s
  | .linkTrained l t => Sys2Proof.Machine.execLinkTrained l t s
  | .trainRetry l => Sys2Proof.Machine.execTrainRetry l s
  | .lanesLost l => Sys2Proof.Machine.execLanesLost l s
  | .laneFail l lane => Sys2Proof.Machine.execLaneFail l lane s
  | .writeFrame l f => Sys2Proof.Machine.execWriteFrame l f s
  | .wgannFrame l f => Sys2Proof.Machine.execWgannFrame l f s
  | .rfinalFrame l f => Sys2Proof.Machine.execRfinalFrame l f s
  | .rel l f => Sys2Proof.Machine.execRel l f s
  | .nak l f => Sys2Proof.Machine.execNak l f s
  | .credit l f => Sys2Proof.Machine.execCredit l f s
  | .haltFrame l f => Sys2Proof.Machine.execHaltFrame l f s
  | .ackTimeout l => Sys2Proof.Machine.execAckTimeout l s
  | .vc0Release l => Sys2Proof.Machine.execVc0Release l s
  | .wgtmo l c g => Sys2Proof.Machine.execWgtmo l c g s
  | .qwinExpiry l => Sys2Proof.Machine.execQwinExpiry l s
  | .heartbeatSend => Sys2Proof.Machine.execHeartbeatSend s
  | .heartbeatReceive h => Sys2Proof.Machine.execHeartbeatReceive h s
  | .heartbeatAck sent => Sys2Proof.Machine.execHeartbeatAck sent s
  | .leaseExpiry => Sys2Proof.Machine.execLeaseExpiry s
  | .heartbeatMiss => Sys2Proof.Machine.execHeartbeatMiss s
  | .setroleJoining => Sys2Proof.Machine.execSetroleJoining s
  | .setroleSolo => Sys2Proof.Machine.execSetroleSolo s
  | .rsync => Sys2Proof.Machine.execRsync s
  | .cutover => Sys2Proof.Machine.execCutover s
  | .rsyncComplete => Sys2Proof.Machine.execRsyncComplete s
  | .digest p step d => Sys2Proof.Machine.execDigest p step d s
  | .compositionRecord p r => Sys2Proof.Machine.execCompositionRecord p r s
  | .mirrorInput x => Sys2Proof.Machine.execMirrorInput x s
  | .clusterFail d phys => Sys2Proof.Machine.execClusterFail d phys s
  | .apply p => Sys2Proof.Machine.execApply p s
  | .release p => Sys2Proof.Machine.execRelease p s
  | .applyDone p => Sys2Proof.Machine.execApplyDone p s
  | .releaseDone p => Sys2Proof.Machine.execReleaseDone p s
  | .hostRead f imem addr len => Sys2Proof.Machine.execHostRead f imem addr len s
  | .hostWrite f imem addr data => Sys2Proof.Machine.execHostWrite f imem addr data s
  | .galleyDoorbell p tail => Sys2Proof.Machine.execGalleyDoorbell p tail s
  | .submit p entry => Sys2Proof.Machine.execSubmit p entry s
  | .cancel p entry => Sys2Proof.Machine.execCancel p entry s
  | .pause p entry => Sys2Proof.Machine.execPause p entry s
  | .resume p entry => Sys2Proof.Machine.execResume p entry s
  | .galleyNop p => Sys2Proof.Machine.execGalleyNop p s
  | .tierCopy p entry => Sys2Proof.Machine.execTierCopy p entry s
  | .copyDone p k => Sys2Proof.Machine.execCopyDone p k s
  | .hostEbaseWrite f v => Sys2Proof.Machine.execHostEbaseWrite f v s
  | .eventInterrupt f => Sys2Proof.Machine.execEventInterrupt f s
  | .perstN asserted => Sys2Proof.Machine.execPerstN asserted s
  | .scuEnable p => Sys2Proof.Machine.execScuEnable p s
  | .compose p => Sys2Proof.Machine.execCompose p s
  | .prefixHash p r => Sys2Proof.Machine.execPrefixHash p r s
  | .variantSwapDone p => Sys2Proof.Machine.execVariantSwapDone p s
  | .scrubBurst x => Sys2Proof.Machine.execScrubBurst x s
  | .rowCopyDone n m => Sys2Proof.Machine.execRowCopyDone n m s
  | .lapLimit x => Sys2Proof.Machine.execLapLimit x s
  | .siteSplit x v => Sys2Proof.Machine.execSiteSplit x v s
  | .keepWrite w v => Sys2Proof.Machine.execKeepWrite w v s
  | .keepWriteDone => Sys2Proof.Machine.execKeepWriteDone s
  | .fwUpd v => Sys2Proof.Machine.execFwUpd v s
  | .clusterMove d => Sys2Proof.Machine.execClusterMove d s
  | .schSwitch => Sys2Proof.Machine.execSchSwitch s
  | .pwrSwitch => Sys2Proof.Machine.execPwrSwitch s
  | .secSwitch => Sys2Proof.Machine.execSecSwitch s
  | .trialTimeout k => Sys2Proof.Machine.execTrialTimeout k s
  | .horizonExpiry => Sys2Proof.Machine.execHorizonExpiry s
  | .dramCalibration n m => Sys2Proof.Machine.execDramCalibration n m s
  | .linkTrim l trims => Sys2Proof.Machine.execLinkTrim l trims s
  | .memoryTest n m => Sys2Proof.Machine.execMemoryTest n m s
  | .sensorTest => Sys2Proof.Machine.execSensorTest s
  | .oscCompensationTest ppb => Sys2Proof.Machine.execOscCompensationTest ppb s
  | .clusterSelfTest d => Sys2Proof.Machine.execClusterSelfTest d s
  | .sensorRead raws power => Sys2Proof.Machine.execSensorRead raws power s
  | .droop c => Sys2Proof.Machine.execDroop c s
  | .vminStop d => Sys2Proof.Machine.execVminStop d s
  | .frequencyStop d => Sys2Proof.Machine.execFrequencyStop d s
  | .clockRestart d => Sys2Proof.Machine.execClockRestart d s
  | .gradeChange power overMs underMs => Sys2Proof.Machine.execGradeChange power overMs underMs s
  | .fullChLower n => Sys2Proof.Machine.execFullChLower n s
  | .oscCompensation => Sys2Proof.Machine.execOscCompensation s
  | .compensationPoint ppb => Sys2Proof.Machine.execCompensationPoint ppb s
  | .inputOvervoltage => Sys2Proof.Machine.execInputOvervoltage s
  | .inputLoss => Sys2Proof.Machine.execInputLoss s
  | .powerOn b => Sys2Proof.Machine.execPowerOn b s
  | .timeStageLimit => Sys2Proof.Machine.execTimeStageLimit s
  | .haltGo => Sys2Proof.Machine.execHaltGo s
  | .haltResume => Sys2Proof.Machine.execHaltResume s
  | .proofGo => Sys2Proof.Machine.execProofGo s
  | .scanOutDone => Sys2Proof.Machine.execScanOutDone s
  | .trcAuditBufWrite v => Sys2Proof.Machine.execTrcAuditBufWrite v s
  | .trcTbufWrite v => Sys2Proof.Machine.execTrcTbufWrite v s
  | .bypass code tdi => Sys2Proof.Machine.execBypass code tdi s
  | .idcode => Sys2Proof.Machine.execIdcode s
  | .samplePreload tdi => Sys2Proof.Machine.execSamplePreload tdi s
  | .extest tdi => Sys2Proof.Machine.execExtest tdi s
  | .extestPulse tdi => Sys2Proof.Machine.execExtestPulse tdi s
  | .extestTrain tdi => Sys2Proof.Machine.execExtestTrain tdi s
  | .unlock response => Sys2Proof.Machine.execUnlock response s
  | .jtagHalt => Sys2Proof.Machine.execJtagHalt s
  | .proofrd offset words => Sys2Proof.Machine.execProofrd offset words s
  | .trstN => Sys2Proof.Machine.execTrstN s
  | .i3cPrivateWrite offset data => Sys2Proof.Machine.execI3cPrivateWrite offset data s
  | .i3cPrivateRead => Sys2Proof.Machine.execI3cPrivateRead s
  | .registerWrite f off wd v => Sys2Proof.Machine.execRegisterWrite f off wd v s
  | .nbCommandDone n m k => Sys2Proof.Machine.execNbCommandDone n m k s
  | .impositionTurn d x => Sys2Proof.Machine.execImpositionTurn d x s
  | .tierMoveDone p k => Sys2Proof.Machine.execTierMoveDone p k s
  | .promotionDone => Sys2Proof.Machine.execPromotionDone s
  | .updateStored => Sys2Proof.Machine.execUpdateStored s
  | .healthyReport k => Sys2Proof.Machine.execHealthyReport k s
  | .droopRecovery c => Sys2Proof.Machine.execDroopRecovery c s
  | .selfTestDone k pass detail sensors => Sys2Proof.Machine.execSelfTestDone k pass detail sensors s
  | .tierPortTrained t cap poison => Sys2Proof.Machine.execTierPortTrained t cap poison s
  | .idleSetSend l => Sys2Proof.Machine.execIdleSetSend l s
  | .unknownOpcodeFrame l f => Sys2Proof.Machine.execUnknownOpcodeFrame l f s
  | .i3cDynamicAddress a => Sys2Proof.Machine.execI3cDynamicAddress a s

end Sys2Proof.Machine
end

