-- ==== Sys2Proof/Machine/Step.lean ====
section
/-! DEFINITION. One step of the block: the command at the front of the queue, or a tick. -/

namespace Sys2Proof.Machine

/-- Run the command at the front of the queue on the state with the queue's rest; on an empty queue the block's
clocks count one tick. -/
def step (s : State) : Host.Outcome State Fault Refusal :=
  match s.takeCommand with
  | some (c, t) => exec c t
  | none => .next s.tick

/-- s with the command that a word spells at the front of its queue; s where the word spells none. -/
def State.withFetchWord (s : State) (nbits w : Nat) : State :=
  match decodeTableWord nbits w with
  | some c => s.pushFront c
  | none => s

end Sys2Proof.Machine
end

