-- ==== Sys2Proof/Safety.lean ====
section
/-! DEFINITION. What claims call safe: memories in their canonical form, and a step that goes on. -/

namespace Sys2Proof.Machine

/-- A cluster's byte memories stand in canonical form. -/
def Cluster.memWf (x : Cluster) : Bool := Memory.wf x.tiles && Memory.wf x.store && Memory.wf x.imem

/-- Every byte memory of the state stands in canonical form: addresses strictly rising, no byte equal to what
an unlisted address reads as. -/
def State.memWf (s : State) : Bool :=
  Memory.wf s.stackMem && Memory.wf s.caseMem && Memory.wf s.hostMem && Memory.wf s.tierMem
    && s.clusters.all (fun e => e.2.memWf)

/-- The step goes on. -/
def State.goesOn (s : State) : Prop := ∃ t, step s = .next t

/-- A register's reserved bits read as 0 (R11). -/
def regClean (key : Nat) (w : W64) : Bool :=
  w &&& ~~~ ((layoutOf key).foldl (fun m f => m ||| fmask f.hi f.lo) 0) == 0

/-- A memory as one list of places: the byte at an address of a space. -/
def State.byteAt (s : State) (sp : Space) (a : Nat) : Byte := mget (s.memOf sp) a

/-- Nothing but the clocks is in progress: no bring-up, no frame on a link, nothing that waits at the host port, no
firmware update and no trace point. -/
def State.still (s : State) : Prop :=
  s.boot.running = false ∧ s.links = [] ∧ s.host.waits = [] ∧ s.host.flagAsks = [] ∧ s.fw.upd = none
    ∧ ∀ j, j < 16 → s.reg (rFwTpen j) = 0

/-! ### Issue of engine instructions -/

/-- The cluster, engine (6 for the mover), operation code and word that a command tries to issue; none where
the command is no instruction (Tables 4.6 to 4.13). -/
def issueOf : Instr → Option (Nat × Nat × Nat × IWord)
  | .nop c e w => some (c.val, e.val, opcNop, w)
  | .endStream c e w => some (c.val, e.val, opcEnd, w)
  | .loop c e w => some (c.val, e.val, opcLoop, w)
  | .zacc c m w => some (c.val, m.val, 0x10, w)
  | .anchor c m w => some (c.val, m.val, 0x11, w)
  | .mma c m w => some (c.val, m.val, 0x12, w)
  | .mmaz c m w => some (c.val, m.val, 0x13, w)
  | .mmax c m w => some (c.val, m.val, 0x14, w)
  | .mmaxz c m w => some (c.val, m.val, 0x15, w)
  | .drain c m w => some (c.val, m.val, 0x18, w)
  | .drainz c m w => some (c.val, m.val, 0x19, w)
  | .vadd c w => some (c.val, engVe, 0x20, w)
  | .vsub c w => some (c.val, engVe, 0x21, w)
  | .vmul c w => some (c.val, engVe, 0x22, w)
  | .vfma c w => some (c.val, engVe, 0x23, w)
  | .vmax c w => some (c.val, engVe, 0x24, w)
  | .vmin c w => some (c.val, engVe, 0x25, w)
  | .vabs c w => some (c.val, engVe, 0x26, w)
  | .vneg c w => some (c.val, engVe, 0x27, w)
  | .vand c w => some (c.val, engVe, 0x28, w)
  | .vor c w => some (c.val, engVe, 0x29, w)
  | .vxor c w => some (c.val, engVe, 0x2A, w)
  | .vshl c w => some (c.val, engVe, 0x2B, w)
  | .vshr c w => some (c.val, engVe, 0x2C, w)
  | .vmov c w => some (c.val, engVe, 0x2D, w)
  | .vsel c w => some (c.val, engVe, 0x2E, w)
  | .vcmpeq c w => some (c.val, engVe, 0x30, w)
  | .vcmplt c w => some (c.val, engVe, 0x31, w)
  | .vcmple c w => some (c.val, engVe, 0x32, w)
  | .vexp2 c w => some (c.val, engVe, 0x34, w)
  | .vrcp c w => some (c.val, engVe, 0x35, w)
  | .vrsq c w => some (c.val, engVe, 0x36, w)
  | .vcvt c w => some (c.val, engVe, 0x37, w)
  | .vredrSum c w => some (c.val, engVe, 0x38, w)
  | .vredrMax c w => some (c.val, engVe, 0x39, w)
  | .vredrMin c w => some (c.val, engVe, 0x3A, w)
  | .vredcSum c w => some (c.val, engVe, 0x3B, w)
  | .vredcMax c w => some (c.val, engVe, 0x3C, w)
  | .vredcMin c w => some (c.val, engVe, 0x3D, w)
  | .compress c w => some (c.val, engVe, 0x40, w)
  | .compressAppend c w => some (c.val, engVe, 0x41, w)
  | .expand c w => some (c.val, engVe, 0x42, w)
  | .expandAppend c w => some (c.val, engVe, 0x43, w)
  | .rowForm c o w => some (c.val, engVe, o.toNat + 0x80, w)
  | .rsum c w => some (c.val, engRu, 0x50, w)
  | .rmax c w => some (c.val, engRu, 0x51, w)
  | .rmin c w => some (c.val, engRu, 0x52, w)
  | .rssum c w => some (c.val, engRu, 0x54, w)
  | .rsmax c w => some (c.val, engRu, 0x55, w)
  | .rsmin c w => some (c.val, engRu, 0x56, w)
  | .load c w => some (c.val, engMv, 0x60, w)
  | .store c w => some (c.val, engMv, 0x61, w)
  | .fdef c w => some (c.val, engMv, 0x62, w)
  | .nbcmd c w => some (c.val, engMv, 0x66, w)
  | .rwrite c w => some (c.val, engMv, 0x68, w)
  | .wgann c w => some (c.val, engMv, 0x69, w)
  | .rfinal c w => some (c.val, engMv, 0x6A, w)
  | .flgclr c w => some (c.val, engMv, 0x6C, w)
  | .copy c w => some (c.val, engMv, 0x64, impWord impCopy w)
  | .transpose c w => some (c.val, engMv, 0x64, impWord impTranspose w)
  | .permute c w => some (c.val, engMv, 0x64, impWord impPermute w)
  | .convert c w => some (c.val, engMv, 0x64, impWord impConvert w)
  | .dieslice c w => some (c.val, engMv, 0x64, impWord impDieslice w)
  | .gather c w => some (c.val, engMv, 0x64, impWord impGather w)
  | .scatter c w => some (c.val, engMv, 0x64, impWord impScatter w)
  | .scatterAdd c w => some (c.val, engMv, 0x64, impWord impScatterAdd w)
  | _ => none

/-- Stream e of cluster c may issue word w at once: the clock runs, a step runs, the interval and the 4 ns after an
earlier step have passed, the stream has not been waiting, both wait conditions hold, and neither is an acquire (R67,
R81, R92, R277). -/
def State.mayIssue (s : State) (c e : Nat) (w : IWord) : Prop :=
  s.clockRuns c = true ∧ (s.stream c e).live = true ∧ (s.cluster c).run.isSome = true
    ∧ (s.stream c e).nextCc ≤ (s.cluster c).cyc ∧ (s.cluster c).freeAt ≤ s.now ∧ (s.stream c e).acq = none
      ∧ (s.stream c e).held = none
    ∧ s.condHolds c w.w0K w.w0T w (s.stream c e).iter = true ∧ s.condHolds c w.w1K w.w1T w (s.stream c e).iter = true
    ∧ s.acquires c w = false

/-- The next word of stream e of cluster c, correct in instruction memory, is w with operation code opc (R79, R106). -/
def State.nextWordIs (s : State) (c e opc : Nat) (w : IWord) : Prop :=
  s.headWord c e = (opc, w) ∧ s.imemBad c (s.stream c e).pc = false

/-- Nothing is in flight on the cluster. -/
def State.quiet (s : State) (c : Nat) : Prop := (s.cluster c).flight = [] ∧ (s.cluster c).mv = []

/-- t is s but for its clusters, its performance counters (Table 18.4) and the model's own free choices. -/
def clusterFrame (s t : State) : Prop :=
  t = ((s.withClusters t.clusters).withRegs t.regs).withFree t.free
    ∧ ∀ k, (∀ j, j < 8 → k ≠ rTrcPcnt j) → t.reg k = s.reg k

/-- No cluster but c differs. -/
def otherClusters (s t : State) (c : Nat) : Prop := ∀ c', c' ≠ c → t.cluster c' = s.cluster c'

/-- What an instruction of ME, VE or RU computes from the tiles, the bank and the counter that it finds with nothing
in flight before it. -/
def State.engComputes (s : State) (c e opc : Nat) (w : IWord) : EngRes :=
  let x := s.cluster c
  engResult e opc w (s.stream c e).iter x.tiles
    (if e < 4 ∧ meRuns opc w then sget {} x.banks (2 * e + opnd w 19 19) else {})
    (if e = engVe ∧ veReadsCount opc then sget 0 x.sycs (immf w 5 0) else 0)

/-- No stored error and no trip: a memory is read as it stands (R399, R450). -/
abbrev State.plainReads (s : State) : Prop := s.integ.errs = [] ∧ s.tripped = false

/-- And no armed flip mask, no page of the copy map already sent: writes go to memory as they stand (R398, R406, R369). -/
def State.plainWrites (s : State) : Prop :=
  s.plainReads ∧ s.mirror.copied = [] ∧ ∀ t ∈ allSites, s.fbit (siteReg t + 16) 63 = false

/-- The MV operation as its issue begins it. -/
def State.mvOpOf (s : State) (c opc : Nat) (w : IWord) : MvOp :=
  { seq := (s.cluster c).mvSeq, opc := opc, w := w, idx := (s.stream c engMv).pc, it := (s.stream c engMv).iter
    issueNs := s.now }

/-- A byte after masked writes, in order, given what it was. -/
def storedByte (ws : List PWrite) (sp : Space) (a : Nat) (b : Byte) : Byte :=
  ws.foldl (fun b w => if w.sp = sp ∧ w.addr = a then (b &&& ~~~ w.mask) ||| (w.val &&& w.mask) else b) b

/-- The tracker holds MV instruction w of cluster c, with plan o and captured imposition m: what it reads or writes
conflicts with an operation before it, or too few ranges are free (R84, R85). -/
def State.mvHeldBy (s : State) (c opc : Nat) (w : IWord) (o : MvOp) (m : Option ImpOp) : Bool :=
  let need := o.ranges ++ (m.map (·.ranges)).getD []
  let read : List TRange := if (opc = 0x62 ∨ opc = 0x64) ∧ w.imm.toNat % 64 = 0 then
    [⟨false, w.imm.toNat % storeBytes, 64, false⟩] else []
  (s.cluster c).holdsMv (read ++ need) need

/-- MV word w of cluster c, in slot n of partition p, finds nothing in its way: its stream may issue it, no earlier
operation of the cluster touches memory or completes now, and every flag that it names is granted. -/
def State.mvReady (s : State) (c p n : Nat) (w : IWord) : Prop :=
  s.mayIssue c engMv w ∧ (s.cluster c).flight = [] ∧ (s.cluster c).mvDue = none ∧ (s.cluster c).tracked = []
    ∧ (s.cluster c).run = some (p, n) ∧ s.integ.errs = [] ∧ s.flagFault c w = false

/-- Block b of forme f may move: its handle is not stale, and each of its bytes has a place that serves line accesses. -/
def State.blockReady (s : State) (p : Nat) (f : Forme) (b : Nat) : Prop :=
  s.staleForme p f = false
    ∧ ∀ bb ∈ f.blockBytes b, (s.formeXl p f bb.addr).isSome = true ∧ ∀ l, s.formeXl p f bb.addr = some l →
      s.lineOk l = true

/-- Between s and t an MV instruction of cluster c issued as operation o: it stands behind the operations before it, and
its stream goes on in the next cc. No tile, no bank, no counter, no memory and no other cluster changes. -/
def mvIssued (s t : State) (c opc : Nat) (w : IWord) (o : MvOp) : Prop :=
  (t.cluster c).mv = (s.cluster c).mv ++ [o] ∧ (t.cluster c).mvSeq = (s.cluster c).mvSeq + 1
    ∧ t.stream c engMv = (s.cluster c).fetch ((s.stream c engMv).goOn ((s.stream c engMv).pc + 1)
        (s.stream c engMv).loops ((s.cluster c).cyc + 1))
    ∧ (∀ e, e ≠ engMv → t.stream c e = s.stream c e)
    ∧ o.seq = (s.cluster c).mvSeq ∧ o.opc = opc ∧ o.w = w ∧ o.idx = (s.stream c engMv).pc ∧ o.issueNs = s.now
    ∧ o.done = false ∧ o.fault = none
    ∧ (t.cluster c).tiles = (s.cluster c).tiles ∧ (t.cluster c).store = (s.cluster c).store
    ∧ (t.cluster c).banks = (s.cluster c).banks ∧ (t.cluster c).sycs = (s.cluster c).sycs
    ∧ otherClusters s t c ∧ t = ((s.withClusters t.clusters).withChans t.chans).withFree t.free

/-- Operation o writes block b of forme f from tile td: each of its bytes, as the tile holds it now, and nothing else. -/
def State.writesBlock (s : State) (c p td b : Nat) (f : Forme) (o : MvOp) : Prop :=
  o.writes.length = (f.blockBytes b).length
    ∧ ∀ bb ∈ f.blockBytes b, ∀ l, s.formeXl p f bb.addr = some l →
        ⟨l.1, l.2, bb.mask, mget (s.cluster c).tiles (rowAddr td bb.row + bb.byte) &&& carriedBits f.fmt bb.byte⟩ ∈ o.writes

/-- The 64-byte descriptor that an FDEF or IMP of cluster c reads (R190, R203). -/
def State.descWords (s : State) (c : Nat) (w : IWord) : List W64 :=
  wordsOf ((List.range 64).map (fun k => mget (s.cluster c).store (w.imm.toNat % storeBytes + k)))

/-- The imposition instructions with their operation codes (Table 4.13). -/
def impForms (c : ClusterId) (w : IWord) : List (Instr × Nat) :=
  [(.copy c w, impCopy), (.transpose c w, impTranspose), (.permute c w, impPermute), (.convert c w, impConvert),
   (.dieslice c w, impDieslice), (.gather c w, impGather), (.scatter c w, impScatter), (.scatterAdd c w, impScatterAdd)]

/-- The cluster with operation o alone in its mover, and without its signal. -/
def State.muted (s : State) (c : Nat) (o : MvOp) : State :=
  s.modCluster c (fun x => { x with mv := [{ o with w := { o.w with sigK := 0 } }] })

/-! ### What the imposition operations write (R203 to R210) -/

/-- Code of element q of forme f, and its exponent byte in ZB8, as memory holds it. -/
def State.elemAt (s : State) (p : Nat) (f : Forme) (q : EIdx) : Nat × Nat :=
  elemOf f.fmt q.1 ((f.elemAddrs q).map (fun a => match s.formeXl p f a with | some l => s.byteAt l.1 l.2 | none => 0))

/-- The same once masked writes have landed. -/
def State.elemAfter (s : State) (ws : List PWrite) (p : Nat) (f : Forme) (q : EIdx) : Nat × Nat :=
  elemOf f.fmt q.1 ((f.elemAddrs q).map (fun a => match s.formeXl p f a with
    | some l => storedByte ws l.1 l.2 (s.byteAt l.1 l.2) | none => 0))

/-- Every byte of elements qs has a place. -/
def State.located (s : State) (p : Nat) (f : Forme) (qs : List EIdx) : Prop :=
  ∀ q ∈ qs, ∀ a ∈ f.elemAddrs q, (s.formeXl p f a).isSome = true

/-- Index n of an element. -/
def idxOf (q : EIdx) (n : Nat) : Nat := if n = 0 then q.1 else q.2.getD (n - 1) 0

/-- Value of source element j of an operation, with the scale of its block (R206). -/
def State.srcVal (s : State) (o : ImpOp) (j : EIdx) : Val :=
  if scaledSrc o then
    mxVal o.src.fmt (if o.ssc.has (scaleIdx j) then (s.elemAt o.part o.ssc (scaleIdx j)).1
      else if o.ssc.padFill then o.ssc.fill % 256 else 127) (s.elemAt o.part o.src j).1
  else valOf o.src.fmt (s.elemAt o.part o.src j)

/-- Values of the source elements of the block of n elements along i0 to which unit u's element q belongs. -/
def State.blockSrc (s : State) (o : ImpOp) (u n : Nat) (q : EIdx) : List Val :=
  (((unitElems o u).filter (fun e => e.1.1 / n == q.1 / n)).filterMap (·.2)).map (s.srcVal o)

/-- Every byte that unit u reads or writes has a place, and ZB8 rows hold whole groups (R198). -/
def State.unitPlaced (s : State) (o : ImpOp) (u : Nat) : Prop :=
  s.plainReads ∧ s.located o.part o.src ((unitElems o u).filterMap (·.2))
    ∧ s.located o.part o.dst ((unitElems o u).map (·.1))
    ∧ (scaledSrc o = true →
        s.located o.part o.ssc ((((unitElems o u).filterMap (·.2)).map scaleIdx).filter o.ssc.has))
    ∧ (o.src.fmt = .zb8 → o.src.size 0 % 240 = 0) ∧ (o.dst.fmt = .zb8 → o.dst.size 0 % 240 = 0)

/-! ### What the engine operations compute (Tables 4.8 to 4.10) -/

/-- A tile byte after masked writes, in order, given what it was. -/
def writtenByte (ws : List TWrite) (a : Nat) (b : Byte) : Byte :=
  ws.foldl (fun b w => if w.addr = a then (b &&& ~~~ w.mask) ||| (w.val &&& w.mask) else b) b

/-- Code of element j of row r of tile t, as masked writes leave it. -/
def codeAfter (f : Fmt) (src : Mem) (ws : List TWrite) (t r j : Nat) : Nat :=
  elemCode f (fun k => writtenByte ws (rowAddr t r + k) (mget src (rowAddr t r + k))) j

/-- Rows that a word of the vector engine works on: all 128, or in its row form one alone (R126). -/
def inRows (opc i r : Nat) : Prop := r < 128 ∧ (veIsRow opc = true → r = i % 128)

/-- What each element of an element-wise integer operation's destination holds, from the elements of its sources. -/
def intResult (op n a b d x : Nat) : Prop :=
  (op = 0x20 → x = (a + b) % 2 ^ n) ∧ (op = 0x21 → (x + b) % 2 ^ n = a) ∧ (op = 0x22 → x = a * b % 2 ^ n)
    ∧ (op = 0x23 → x = (a * b + d) % 2 ^ n)
    ∧ (op = 0x24 → sext n x = max (sext n a) (sext n b)) ∧ (op = 0x25 → sext n x = min (sext n a) (sext n b))
    ∧ (op = 0x26 → x = if sext n a < 0 then 2 ^ n - a else a) ∧ (op = 0x27 → (x + a) % 2 ^ n = 0)
    ∧ (op = 0x28 → x = a &&& b) ∧ (op = 0x29 → x = a ||| b) ∧ (op = 0x2A → x = a ^^^ b)
    ∧ (op = 0x2B → x = a * 2 ^ (b % n) % 2 ^ n) ∧ (op = 0x2C → sext n x = sext n a / 2 ^ (b % n))
    ∧ (op = 0x30 → x = if a = b then 1 else 0) ∧ (op = 0x31 → x = if sext n a < sext n b then 1 else 0)
    ∧ (op = 0x32 → x = if sext n a ≤ sext n b then 1 else 0)

/-- The same of a floating-point operation: the exact result, rounded once (R168, R169). -/
def fpResult (op : Nat) (f : Fmt) (a b d : Val) (x : Nat) : Prop :=
  (op = 0x20 → x = encode f (vadd a b)) ∧ (op = 0x21 → x = encode f (vadd a (vneg b)))
    ∧ (op = 0x22 → x = encode f (vmul a b)) ∧ (op = 0x23 → x = encode f (vadd (vmul a b) d))
    ∧ (op = 0x24 → x = encode f (vmaxv a b)) ∧ (op = 0x25 → x = encode f (vminv a b))
    ∧ (op = 0x26 → x = encode f (vabs a)) ∧ (op = 0x27 → x = encode f (vneg a))
    ∧ (op = 0x30 → x = encode f (if veq a b then one else vzero))
    ∧ (op = 0x31 → x = encode f (if vlt a b then one else vzero))
    ∧ (op = 0x32 → x = encode f (if vleq a b then one else vzero))
    ∧ (op = 0x34 → x = encode f (r32 (vexp2v a))) ∧ (op = 0x35 → x = encode f (r32 (vrcp a)))
    ∧ (op = 0x36 → x = encode f (r32 (vrsqv a)))

/-- The element-wise operations and compares (R168, R169). A row that the row form does not name stays as it is. -/
def veElementwise (src : Mem) (opc i : Nat) (w : IWord) (f : Fmt) (res : EngRes) : Prop :=
  let ix := opnd w 0 0 = 1
  let op := veBase opc
  let td := tileNo (opnd w 19 14) ix i
  let a := fun r j => elemCode f (rowRd src (rowAddr (tileNo (opnd w 13 8) ix i) r)) j
  let b := fun r j => if opnd w 1 1 = 1 then immCode f w
    else elemCode f (rowRd src (rowAddr (tileNo (opnd w 7 2) ix i) r)) j
  let d := fun r j => elemCode f (rowRd src (rowAddr td r)) j
  0x20 ≤ op → op ≤ 0x36 → op ≠ 0x2D → op ≠ 0x2E →
    (∀ r j, inRows opc i r → j < f.perRow →
      (∀ n, f.intWidth = some n → intResult op n (a r j) (b r j) (d r j) (codeAfter f src res.out td r j))
      ∧ (f.intWidth = none → fpResult op f (decode f (a r j)) (decode f (b r j)) (decode f (d r j))
          (codeAfter f src res.out td r j)))
    ∧ (∀ r k, r < 128 → k < 256 → veIsRow opc = true → r ≠ i % 128 →
        writtenByte res.out (rowAddr td r + k) (mget src (rowAddr td r + k)) = mget src (rowAddr td r + k))

/-- VMOV copies the bytes that the format uses, VSEL the elements that its second source selects (R490), and VCVT
converts its share of each row into one or two tiles (R170). -/
def veMoves (src : Mem) (opc i : Nat) (w : IWord) (f : Fmt) (res : EngRes) : Prop :=
  let ix := opnd w 0 0 = 1
  let op := veBase opc
  let td := tileNo (opnd w 19 14) ix i
  let ta := tileNo (opnd w 13 8) ix i
  let a := fun r j => elemCode f (rowRd src (rowAddr ta r)) j
  let b := fun r j => if opnd w 1 1 = 1 then immCode f w
    else elemCode f (rowRd src (rowAddr (tileNo (opnd w 7 2) ix i) r)) j
  (op = 0x2D → ∀ r k, inRows opc i r → k < f.rowBytes →
      writtenByte res.out (rowAddr td r + k) (mget src (rowAddr td r + k))
        = mget src (rowAddr ta r + k) &&& carriedBits f k)
    ∧ (op = 0x2E → f ≠ .zb8 → ∀ r j, inRows opc i r → j < f.perRow →
        codeAfter f src res.out td r j
          = if isZero (decode f (b r j)) then elemCode f (rowRd src (rowAddr td r)) j else a r j)
    ∧ (∀ g, op = 0x37 → Fmt.ofCode (opnd w 7 4) = some g →
        let n := min f.perRow (2 * g.perRow)
        ∀ r m, inRows opc i r → m < n → opnd w 3 2 * n + m < f.perRow →
          codeAfter g src res.out (td + m / g.perRow) r (m % g.perRow)
            = encode g (decode f (a r (opnd w 3 2 * n + m))))

/-- VREDR puts each row's reduction into every element of the row, VREDC each column's into every element of the column
(R172 to R174). -/
def veReduces (src : Mem) (opc i : Nat) (w : IWord) (f : Fmt) (res : EngRes) : Prop :=
  let ix := opnd w 0 0 = 1
  let op := veBase opc
  let td := tileNo (opnd w 19 14) ix i
  let vals := fun r => rowVals f src (rowAddr (tileNo (opnd w 13 8) ix i) r)
  ∀ r j, inRows opc i r → j < f.perRow →
    (0x38 ≤ op → op ≤ 0x3A → codeAfter f src res.out td r j = treeReduce (op - 0x38) f (vals r))
    ∧ (0x3B ≤ op → op ≤ 0x3D → veIsRow opc = false → codeAfter f src res.out td r j
        = treeReduce (op - 0x3B) f ((List.range 128).map (fun q => (vals q).getD j vzero)))

/-- COMPRESS packs the rows that the mask selects, from position p on; EXPAND spreads packed rows back to the selected
places (R182 to R185). The counts are the rows packed so far and, of a COMPRESS, the tiles they fill. -/
def vePacks (src : Mem) (opc i cin : Nat) (w : IWord) (f : Fmt) (res : EngRes) : Prop :=
  let ix := opnd w 0 0 = 1
  let td := tileNo (opnd w 19 14) ix i
  let ta := tileNo (opnd w 13 8) ix i
  let sel := (List.range 128).filter (fun r => elemCode .int16 (rowRd src (rowAddr (opnd w 7 2) (i % 128))) r != 0)
  let p := if opc = 0x40 then 0 else cin
  (opc = 0x40 ∨ opc = 0x41 → (∀ q k, q < sel.length → k < f.rowBytes →
      writtenByte res.out (posAddr td (p + q) + k) (mget src (posAddr td (p + q) + k))
        = mget src (rowAddr ta (sel.getD q 0) + k) &&& carriedBits f k)
      ∧ (opc = 0x40 ∨ sel ≠ [] → (immf w 5 0, min (p + sel.length) 0xFFFFFFFF) ∈ res.counts)
      ∧ (immf w 13 8 ≠ immf w 5 0 → (immf w 13 8, min (ceilDiv (p + sel.length) 128) 0xFFFFFFFF) ∈ res.counts))
    ∧ (opc = 0x42 ∨ opc = 0x43 → (∀ q k, q < sel.length → k < f.rowBytes →
        writtenByte res.out (rowAddr td (sel.getD q 0) + k) (mget src (rowAddr td (sel.getD q 0) + k))
          = mget src (posAddr ta (cin + q) + k) &&& carriedBits f k)
      ∧ res.counts = if opc = 0x43 ∧ sel ≠ [] then [(immf w 5 0, min (cin + sel.length) 0xFFFFFFFF)] else [])

/-- The reductions of N tiles, by row or by column (R177, R178), and by segment of rows of one number (R179). -/
def ruComputes (src : Mem) (opc i : Nat) (w : IWord) (f : Fmt) (res : EngRes) : Prop :=
  let ix := opnd w 0 0 = 1
  let td := tileNo (opnd w 19 14) ix i
  let n := ruTiles w
  let row := fun q => rowVals f src (rowAddr (tileNo (opnd w 13 8) ix i + q / 128) (q % 128))
  let nums := (List.range (128 * n)).map (fun q =>
    elemCode .int16 (rowRd src (rowAddr (tileNo (opnd w 7 2) ix i) (q / 128))) (q % 128))
  (opc ≤ 0x52 → ∀ r j, r < 128 → j < f.perRow →
      codeAfter f src res.out td r j = chainReduce (opc - 0x50) f
        (if opnd w 1 1 = 0 then (List.range n).flatMap (fun k => row (128 * k + r))
         else (List.range (128 * n)).map (fun q => (row q).getD j vzero)))
    ∧ (0x54 ≤ opc → res.counts = [(immf w 13 8, (segments nums).length)]
      ∧ ∀ k j, k < 128 → k < (segments nums).length → j < f.perRow →
          codeAfter f src res.out td k j = chainReduce (opc - 0x54) f
            (((segments nums).getD k []).map (fun q => (row q).getD j vzero)))

/-- The matrix operations on element (r, q) of the bank: zero, anchor, the sums of products of row r of TA and row q of TB
(R147 to R155, R163), and the drained values (R152, Table 6.2). -/
def meComputes (src : Mem) (m opc i : Nat) (w : IWord) (b : Bank) (res : EngRes) : Prop :=
  let ix := opnd w 0 0 = 1
  let f := (Fmt.ofCode w.opf.toNat).getD .fp16
  let ta := tileNo (opnd w 18 13) ix i
  let tb := tileNo (opnd w 12 7) ix i
  let ts := tileNo (opnd w 6 1) ix i
  let b0 := if opc = 0x13 ∨ opc = 0x15 then b.zero else b
  ∃ b', res.bank = some (2 * m + opnd w 19 19, b')
    ∧ (opc = 0x11 → b'.elems = b.elems ∧ b'.anchor = min 400 (max (-400) (sext 32 (immCode .int32 w))))
    ∧ (opc ≠ 0x11 → b'.anchor = b.anchor)
    ∧ ∀ r q, r < 128 → q < 128 →
        (opc = 0x10 ∨ opc = 0x19 → b'.at_ r q = {})
        ∧ (opc = 0x18 → b'.at_ r q = b.at_ r q)
        ∧ (opc = 0x12 ∨ opc = 0x13 → f = .int8 → b'.kind = .exact ∧ (b'.at_ r q).field = (b0.at_ r q).field
            + BitVec.ofInt 120 (((List.range 256).map (fun k => sext 8 (mget src (rowAddr ta r + k)).toNat
                * sext 8 (mget src (rowAddr tb q + k)).toNat)).sum * 2 ^ 48))
        ∧ (opc = 0x12 ∨ opc = 0x13 → f = .bf16 → b'.kind = .float ∧ (b'.at_ r q).field.toNat = encode .fp32
            (vadd (b0.at_ r q).f32 (bf16Sum (rowVals f src (rowAddr ta r)) (rowVals f src (rowAddr tb q)))))
        ∧ (opc = 0x12 ∨ opc = 0x13 → f = .fp32 → b'.kind = .float ∧ (b'.at_ r q).field.toNat = encode .fp32
            (vadd (b0.at_ r q).f32 (fp32Sum (rowCodes f src (rowAddr ta r)) (rowCodes f src (rowAddr tb q)))))
        ∧ (opc = 0x12 ∨ opc = 0x13 → f ≠ .bf16 → f ≠ .fp32 → b'.at_ r q = (List.zipWith vmul
            (rowVals f src (rowAddr ta r)) (rowVals f src (rowAddr tb q))).foldl accExact (b0.at_ r q))
        ∧ (opc = 0x14 ∨ opc = 0x15 → b'.kind = .anchored ∧ b'.at_ r q = ((List.zipWith vmul
            (mxRow f src (rowAddr ta r) (rowAddr ts r)) (mxRow f src (rowAddr tb q) (rowAddr ts q + 128))).foldl
              (accAnchored b.anchor) (b0.at_ r q, false)).1)
        ∧ (opc = 0x18 ∨ opc = 0x19 →
            let v := drainVal b (b.at_ r q)
            codeAfter f src res.out (if f.bits = 32 ∧ 64 ≤ q then ta + 1 else ta) r (if f.bits = 32 then q % 64 else q)
              = encode f (if opnd w 1 1 = 1 then drainScaled b (immF32 w) v else v))

/-! ### Event records -/

/-- The event ring of function f takes no record: it is full, or the host port is down (R386, R479). -/
def State.ringShut (s : State) (f : Nat) : Prop :=
  (s.fld (rEstat f) 15 0 + 1) % ringSize (s.reg (rEbase f)) = s.fld (rEhead f) 15 0 % ringSize (s.reg (rEbase f))
    ∨ s.host.up = false

/-- Between s and t one record of four words went to the ring of function f: it stands at TAIL, which moves on; a
ring that takes none counts it in LOST. -/
def recordPosted (s t : State) (f : Nat) (ws : List W64) : Prop :=
  (¬ s.ringShut f → t.hostMem = mput s.hostMem (bf (s.reg (rEbase f)) 63 12 * 4096 + 32 * s.fld (rEstat f) 15 0) (bytesOf ws)
      ∧ t.fld (rEstat f) 15 0 = (s.fld (rEstat f) 15 0 + 1) % ringSize (s.reg (rEbase f)))
    ∧ (s.ringShut f → t.hostMem = s.hostMem ∧ t.fld (rEstat f) 63 32 = satTo 32 (s.fld (rEstat f) 63 32 + 1))

/-- Nothing but event rings differs: their registers, host memory and the interrupts sent. -/
def onlyRecords (s t : State) (fs : List Nat) : Prop :=
  t = ((s.withRegs t.regs).withHostMem t.hostMem).withHost t.host
    ∧ ∀ k, (∀ f ∈ fs, k ≠ rEstat f) → t.reg k = s.reg k

/-- Between s and t SEC, where it runs, logged one error: the log ring took the record, or counts it in LOST where it
takes none (R425). -/
def errorLogged (s t : State) : Prop :=
  let size := ringSize (s.reg rFwLogbase)
  let shut := (s.fld rFwLogstat 15 0 + 1) % size = s.fld rFwLoghead 15 0 % size ∨ s.host.up = false
  coreSec ∈ s.fw.started →
    (shut → t.fld rFwLogstat 63 32 = satTo 32 (s.fld rFwLogstat 63 32 + 1))
      ∧ (¬ shut → t.fld rFwLogstat 15 0 = (s.fld rFwLogstat 15 0 + 1) % size)

/-- Whether one of some partitions holds cluster c. -/
def State.ownedBy (s : State) (ps : List Nat) (c : Nat) : Bool := ps.any (fun p => (s.tmpl p).hasCluster c)

/-- What DIVPOL makes of a divergence of partition p between s and t (R361): 1 halts the module; 2 leaves it as it was; 0
and 3 put the partition out of sync on the shadow, and elsewhere begin its copy, once no other is in progress. -/
def State.divergedBy (s t : State) (p : Nat) : Prop :=
  let pol := s.fld rMirCtl 47 46
  (pol = 1 → t.halted = true ∧ (s.halted = false → t.fld rTrcHstat 62 60 = 4))
    ∧ (pol ≠ 1 → t.halted = s.halted)
    ∧ (pol = 1 ∨ pol = 2 → (∀ i, 32 ≤ i → i < 48 → t.fbit rMirStat i = s.fbit rMirStat i)
      ∧ t.fbit (rScu p) 63 = s.fbit (rScu p) 63
        ∧ t.reg rMirRsync = s.reg rMirRsync ∧ t.mirror.copyMap = s.mirror.copyMap)
    ∧ (pol ≠ 1 → pol ≠ 2 → s.role = roleShadow → t.fbit rMirStat (32 + p) = true ∧ t.fbit (rScu p) 63 = false
        ∧ t.reg rMirRsync = s.reg rMirRsync)
    ∧ (pol ≠ 1 → pol ≠ 2 → s.role ≠ roleShadow →
        (s.fld rMirRsync 63 62 = 1 ∨ s.fld rMirRsync 63 62 = 2 → p ∈ t.mirror.waitSync
            ∧ t.mirror.copyMap = s.mirror.copyMap)
        ∧ (s.fld rMirRsync 63 62 ≠ 1 → s.fld rMirRsync 63 62 ≠ 2 → t.fld rMirRsync 63 62 = 1 ∧ t.mirror.only = some p
            ∧ ∀ q, q ∈ t.mirror.copyMap ↔ q ∈ (s.tmpl p).pages))

/-- Between s and t the count of timing violations of partition p restarts on every link, and no link changes else
(R351). -/
def State.violationsRestart (s t : State) (p : Nat) : Prop :=
  ∀ l, t.link l = if l < 48 then { s.link l with dviol := sset 0 (s.link l).dviol p 0 } else s.link l

/-! ### Self-tests -/

/-- Kind and suitable targets of a self-test's row (R423). -/
def testOf : Instr → Option (Nat × (Nat → Bool))
  | .dramCalibration n m => some (1, (· == chanKey n m))
  | .linkTrim l _ => some (2, (· == l.val))
  | .memoryTest n m => some (3, (· == chanKey n m))
  | .sensorTest => some (4, fun _ => true)
  | .oscCompensationTest _ => some (5, fun _ => true)
  | .clusterSelfTest d => some (6, fun t => t % 2 == d.val)
  | _ => none

/-- Whether the test may run now (R423, R424). -/
def State.testAllowed (s : State) : Instr → Bool
  | .dramCalibration n m =>
    match s.partOfChan (chanKey n m) with
    | none => true
    | some p => s.maintFits (· == p) (testNs 1) && (s.chan (chanKey n m)).state == .memory
  | .linkTrim l _ =>
    match (List.range 16).find? (fun p => s.validPart p && (s.tmpl p).hasLink l.val) with
    | none => true
    | some p => s.maintFits (· == p) (testNs 2) && !s.windowNear l.val (testNs 2)
  | .memoryTest n m => (s.partOfChan (chanKey n m)).isNone
  | .sensorTest => s.maintFits (fun p => s.fbit (rTtFrame p) 63) (testNs 4)
  | .oscCompensationTest _ => s.locked && s.maintFits (fun p => s.fbit (rTtFrame p) 63) (testNs 5)
  | .clusterSelfTest d => !s.outFailed d.val
  | _ => false

/-- A request that test i would start: its kind and target, not running yet. -/
def State.testWaits (s : State) (i : Instr) (q : StReq) : Prop :=
  ∃ hit, testOf i = some (q.kind, hit) ∧ hit q.target = true ∧ q.running = false ∧ q ∈ s.fw.queue

/-! ### Near-bank commands -/

/-- The channel key and operation code of a near-bank command's row; none for other rows (Table 8.9). -/
def nbOf : Instr → Option (Nat × Nat)
  | .nbNop n m => some (chanKey n m, 0x00)
  | .fence n m => some (chanKey n m, 0x01)
  | .nbEnd n m => some (chanKey n m, 0x02)
  | .ldv n m => some (chanKey n m, 0x04)
  | .stv n m => some (chanKey n m, 0x05)
  | .ldq n m => some (chanKey n m, 0x06)
  | .sti n m => some (chanKey n m, 0x07)
  | .zst n m => some (chanKey n m, 0x08)
  | .dot n m => some (chanKey n m, 0x10)
  | .axpy n m => some (chanKey n m, 0x11)
  | .vmac n m => some (chanKey n m, 0x12)
  | .nbVadd n m => some (chanKey n m, 0x13)
  | .nbVmul n m => some (chanKey n m, 0x14)
  | .nbVmax n m => some (chanKey n m, 0x15)
  | .vcmp n m => some (chanKey n m, 0x16)
  | .sta n m => some (chanKey n m, 0x17)
  | .exp2 n m => some (chanKey n m, 0x18)
  | .osm n m => some (chanKey n m, 0x19)
  | .scale n m => some (chanKey n m, 0x1A)
  | .cvt n m => some (chanKey n m, 0x1B)
  | .att n m => some (chanKey n m, 0x20)
  | .send n m => some (chanKey n m, 0x28)
  | .fin n m => some (chanKey n m, 0x29)
  | .szero n m => some (chanKey n m, 0x2A)
  | .bcast n m => some (chanKey n m, 0x2B)
  | .putc n m => some (chanKey n m, 0x2C)
  | _ => none

/-- The next command of list l, at the head of channel k, has operation op and may start: the channel is in processor
mode, or a switch lets what it accepted before run on (R226, R233, R238, R239). -/
def State.nbMayStart (s : State) (k op : Nat) (l : NbList) (rest : List NbList) : Prop :=
  s.frozen = false ∧ (s.chan k).state.runs = true ∧ (s.chan k).refreshing = none ∧ (s.chan k).lists = l :: rest
    ∧ l.arrived = true ∧ l.ended = false ∧ l.cmd.op = op ∧ l.mayStart l.cmd = true
    ∧ (l.cmd.isBurst = true → s.powerAllows k l l.cmd = true)

/-! ### Fabric frames -/

/-- Places of n bytes of a partition's address space from an address on; a byte without a place has none. -/
def State.placesFrom (s : State) (p sp a n : Nat) : List (Space × Nat) :=
  (List.range n).filterMap (fun i => s.xl p sp 0 (a + i))

/-- n received bytes may land: the target partition is in force, its template holds the link, in the full partition the
run lies in one region, every byte has a place in a channel in memory mode, and none is under refresh (R239, R333). -/
def State.rxLands (s : State) (l : Nat) (h : Hdr) (n : Nat) : Prop :=
  s.validPart h.tpart = true ∧ (s.tmpl h.tpart).hasLink l = true
    ∧ ((s.tmpl h.tpart).full = true → (s.tmpl h.tpart).inRegion h.space h.addr (h.addr + n) = true)
    ∧ (s.placesFrom h.tpart h.space h.addr n).length = n
    ∧ (∀ q ∈ s.placesFrom h.tpart h.space h.addr n, s.lineOk q = true)
    ∧ s.calm (s.placesFrom h.tpart h.space h.addr n) = true

/-- The mode-switch entry of a channel acts on it (Table 8.6). -/
def State.switches (s : State) (idx k : Nat) : Bool :=
  let a := bf (s.reg (rMsw (k / 16) idx (k % 16))) 63 62
  ((a == 1 || a == 3) && (s.chan k).state == .processor) || (a == 2 && (s.chan k).state == .memory)

/-- No received frame of link l waits to land, and neither a stored error nor a trip stands in the way of a new one. -/
def State.rxClear (s : State) (l : Nat) : Prop := (s.link l).rxQ = [] ∧ s.plainReads

/-- Every frame that waits to be sent holds its cell, and no queue needs another: sharing the cells out changes nothing
(R342, R343). -/
def State.cellsSettled (s : State) : Prop := s.needing = [] ∧ ∀ e ∈ s.links, e.2.sendQ.length = e.2.inCells

/-- Nothing waits to be sent on link l. -/
def State.txClear (s : State) (l : Nat) : Prop := (s.link l).winQ = [] ∧ (s.link l).outQ = [] ∧ (s.link l).sendQ = []

/-- Link l may put a frame on the wire now: it sends, the wire is free, and no window's transmission is about to start
(R324, R329, R337). -/
def State.wireOpen (s : State) (l : Nat) : Prop := s.sends l = true ∧ s.txIdle l = true ∧ s.quietBefore l = false

/-- A received frame passes cases 1 to 7 of Table 12.12: the link is up, CRC and header are right, and a numbered frame is
the next in its stream, with a credit for it and acknowledgements that name frames sent. -/
def State.inSequence (s : State) (l : Nat) (f : Frame) : Prop :=
  let h := frameHdr f
  let x := s.link l
  s.linkUp l = true ∧ frameCrcOk f = true ∧ h.vc ≠ 3 ∧ knownOpc h.opc = true ∧ badHeader h f = false
    ∧ (h.numbered = true → seqPlace h.seq (if h.vc = 0 then x.rxNext0 else x.rxNext) = 0
      ∧ (h.vc = 1 → 0 < x.rxCred1) ∧ (h.vc = 2 → 0 < x.rxCred2))
    ∧ (s.takeAcks l h).1 = false

end Sys2Proof.Machine
end

