-- ==== Sys2Proof/Certificates/Slice0/Obligations.lean ====
section
/-! DEFINITION. The statements for the provers, one per numbered rule or group of rules of the chapters; terms they
share stand in Sys2Proof/Safety.lean. -/

open Sys2Proof Sys2Proof.Machine

/-! ### The block -/

/-- A step runs the command at the front of the queue on the state with the queue's rest; and every command, in every
state, completes: none of them stops the module, a host error included (R13, R15). -/
def Obligations.StepRunsFrontCommand : Prop :=
  (∀ (s : State) (i : Instr) (rest : List Instr), s.pending = i :: rest → step s = exec i (s.withPending rest))
    ∧ ∀ (i : Instr) (s : State), ∃ t, exec i s = .next t

/-- On an empty queue a step is one tick of 1 ns, and before power is applied nothing happens (the model's choice:
log entry 1). With power applied, no error to slew away and nothing else in progress, a tick moves fabric time and the
count of bring-up by 1 ns and gives each cluster whose clock runs the cycles that 1 ns holds, 2 of them at full speed; no
memory, flag or channel and no register but a performance counter changes. A slew moves fabric time by 0 or 2 ns
instead, and none begins in the first 10 µs of a correction (R36; the latter log entry 81). -/
def Obligations.EmptyQueueTicks : Prop :=
  (∀ s : State, s.pending = [] → step s = .next s.tick ∧ (s.power.alive = false → step s = .next s))
  ∧ (∀ s : State, s.pending = [] → s.power.alive = true → s.still →
      ∃ t, step s = .next t ∧ t.boot.elapsed = s.boot.elapsed + 1
        ∧ s.now ≤ t.now ∧ t.now ≤ s.now + 2 ∧ t.time.err = s.time.err + s.now + 1 - t.now
        ∧ (s.time.err = 0 ∨ s.time.slewTick < 10000 → t.now = s.now + 1
            ∧ ∀ c, c < 32 → s.clockRuns c = true →
                (t.cluster c).cyc = (s.cluster c).cyc + (cyclesIn (s.cluster c).left (s.cluster c).stretch 1).1
                ∧ (t.cluster c).left = (cyclesIn (s.cluster c).left (s.cluster c).stretch 1).2
                ∧ ((s.cluster c).left = 0 → (s.cluster c).stretch = 0 → (t.cluster c).cyc = (s.cluster c).cyc + 2))
        ∧ (∀ c, s.clockRuns c = false → (t.cluster c).cyc = (s.cluster c).cyc)
        ∧ (∀ c, (t.cluster c).tiles = (s.cluster c).tiles ∧ (t.cluster c).store = (s.cluster c).store
            ∧ (t.cluster c).imem = (s.cluster c).imem ∧ (t.cluster c).banks = (s.cluster c).banks
            ∧ (t.cluster c).sycs = (s.cluster c).sycs ∧ (t.cluster c).flight = (s.cluster c).flight
            ∧ (t.cluster c).mv = (s.cluster c).mv)
        ∧ t.flags = s.flags ∧ t.stackMem = s.stackMem ∧ t.caseMem = s.caseMem ∧ t.hostMem = s.hostMem
        ∧ t.chans = s.chans ∧ t.parts = s.parts ∧ t.reqs = s.reqs ∧ t.groups = s.groups ∧ t.landing = s.landing
        ∧ (∀ k, (∀ j, j < 8 → k ≠ rTrcPcnt j) → t.reg k = s.reg k))

/-- Every byte memory keeps its canonical form through every step, whatever commands wait. -/
def Obligations.StepKeepsMemoriesCanonical : Prop :=
  ∀ s t : State, s.memWf = true → step s = .next t → t.memWf = true

/-! ### Engines (chapters 3 and 4) -/

/-- An instruction of ME0 to ME3, VE or RU other than END and LOOP, with nothing in flight before it, issues: its
results, computed from the tiles, the bank and the counter as they stand, are due at issue + latency, its engine
goes on one interval later, its queue fetched on, and nothing else changes but the performance counters.
INSTRUCTION_ISSUE of a stream whose next word it is does the same. The results are those of the operation (Tables 4.8 to
4.10): of every ME, VE and RU operation, what each element of its destination then holds. -/
def Obligations.EngineInstructionIssues : Prop :=
  (∀ (i : Instr) (c : ClusterId) (e : EngId) (opc : Nat) (w : IWord) (s : State),
    issueOf i = some (c.val, e.val, opc, w) → e.val < 6 → opc ≠ opcEnd → opc ≠ opcLoop →
    s.mayIssue c.val e.val w → s.quiet c.val →
    ∃ f t, exec i s = .next t
      ∧ (s.nextWordIs c.val e.val opc w → exec (.instructionIssue c e) s = .next t)
      ∧ t.cluster c.val = { s.cluster c.val with
          flight := [f]
          counted := (t.cluster c.val).counted
          streams := sset {} (s.cluster c.val).streams e.val
            ((s.cluster c.val).fetch ((s.stream c.val e.val).goOn ((s.stream c.val e.val).pc + 1)
              (s.stream c.val e.val).loops ((s.cluster c.val).cyc + (engTiming e.val opc w).1))) }
      ∧ (f.eng, f.opc, f.w, f.idx, f.issueNs, f.issueCc)
          = (e.val, opc, w, (s.stream c.val e.val).pc, s.now, (s.cluster c.val).cyc)
      ∧ f.due = (s.cluster c.val).cyc + (engTiming e.val opc w).2
      ∧ f.out = (s.engComputes c.val e.val opc w).out
      ∧ f.bankOut = (s.engComputes c.val e.val opc w).bank
      ∧ f.counts = (s.engComputes c.val e.val opc w).counts
      ∧ f.fault = (if engRuns e.val opc w && s.flagFault c.val w then some fltBound else (s.engComputes c.val e.val opc w).fault)
      ∧ otherClusters s t c.val ∧ clusterFrame s t)
  ∧
  (∀ (s : State) (c opc i cin : Nat) (w : IWord) (f : Fmt), Fmt.ofCode w.opf.toNat = some f →
     (veRuns opc w = true →
       veElementwise (s.cluster c).tiles opc i w f (veResult opc w i (s.cluster c).tiles cin)
       ∧ veMoves (s.cluster c).tiles opc i w f (veResult opc w i (s.cluster c).tiles cin)
       ∧ veReduces (s.cluster c).tiles opc i w f (veResult opc w i (s.cluster c).tiles cin)
       ∧ vePacks (s.cluster c).tiles opc i cin w f (veResult opc w i (s.cluster c).tiles cin))
     ∧ (ruRuns opc w = true → ruComputes (s.cluster c).tiles opc i w f (ruResult opc w i (s.cluster c).tiles)))
  ∧
  (∀ (s : State) (c m opc i : Nat) (w : IWord) (b : Bank), m < 4 → meRuns opc w = true →
     b = sget {} (s.cluster c).banks (2 * m + opnd w 19 19) →
     meComputes (s.cluster c).tiles m opc i w b (meResult m opc w i (s.cluster c).tiles b))

/-- END ends its stream and leaves every other one; LOOP opens a level whose count is the smaller of source and BOUND
(R97), the source a counter or the word itself, or, with a count of 0 or four levels open, goes on after its body; what
the step records of it is CLAMP and NEST. A LOOP of count 0 opens no level and sets no NEST (the model's reading: log
entry 92). An uncorrectable word acts as END, and the step carries POISON (R79). -/
def Obligations.EndAndLoopSteerTheStream : Prop :=
  (∀ (c : ClusterId) (e : EngId) (w : IWord) (s : State), s.mayIssue c.val e.val w → s.quiet c.val →
     (s.cluster c.val).tracked.length < 32 →
     (∃ t, exec (.endStream c e w) s = .next t
       ∧ t.stream c.val e.val
           = { s.stream c.val e.val with live := false, held := none, acq := none, loops := [], queue := [] }
       ∧ (∀ e', e' ≠ e.val → t.stream c.val e' = s.stream c.val e')
       ∧ (t.cluster c.val).tiles = (s.cluster c.val).tiles ∧ (t.cluster c.val).store = (s.cluster c.val).store
       ∧ otherClusters s t c.val ∧ clusterFrame s t)
     ∧ (∃ t, exec (.loop c e w) s = .next t
       ∧ t.stream c.val e.val =
           (let st := s.stream c.val e.val
            let n := (s.loopCount c.val w).1
            let body := if opnd w 19 8 = 0 then 4096 else opnd w 19 8
            let next := (s.cluster c.val).cyc + 1
            (s.cluster c.val).fetch
              (if n = 0 ∨ st.loops.length ≥ 4 then st.goOn (st.pc + 1 + body) st.loops next
               else st.goOn (st.pc + 1) ({ first := st.pc + 1, len := body, count := n, i := 0 } :: st.loops) next))
       ∧ (∀ e', e' ≠ e.val → t.stream c.val e' = s.stream c.val e')
       ∧ (∀ p k r, (s.cluster c.val).run = some (p, k) → s.slot p k = some r →
           t.slot p k = some { r with clamp := r.clamp || (s.loopCount c.val w).2
                                      nest := r.nest || (decide ((s.stream c.val e.val).loops.length ≥ 4)
                                        && (s.loopCount c.val w).1 != 0) })
       ∧ (t.cluster c.val).tiles = (s.cluster c.val).tiles ∧ (t.cluster c.val).store = (s.cluster c.val).store
       ∧ otherClusters s t c.val ∧ t = (((s.withClusters t.clusters).withParts t.parts).withRegs t.regs).withFree t.free))
  ∧
  (∀ (s : State) (c : Nat) (w : IWord),
     s.loopCount c w = (min (if opnd w 7 7 = 1 then (s.cluster c).sycSeen (opnd w 6 1) else immf w 15 0) (immf w 31 16),
       decide ((if opnd w 7 7 = 1 then (s.cluster c).sycSeen (opnd w 6 1) else immf w 15 0) > immf w 31 16)))
  ∧
  (∀ (c : ClusterId) (e : EngId) (s : State), s.imemBad c.val (s.stream c.val e.val).pc = true →
     s.mayIssue c.val e.val {} → s.quiet c.val → (s.cluster c.val).tracked.length < 32 →
     ∃ t, exec (.instructionIssue c e) s = .next t ∧ (t.stream c.val e.val).live = false
       ∧ (∀ p k r, (s.cluster c.val).run = some (p, k) → s.slot p k = some r →
         t.slot p k = some { r with poison := true })
       ∧ (t.cluster c.val).tiles = (s.cluster c.val).tiles ∧ (t.cluster c.val).store = (s.cluster c.val).store)

/-- A stream whose condition does not hold issues nothing: no instruction flies, no memory and no other cluster
changes, and the stream's place stays. -/
def Obligations.UnmetConditionHoldsTheEngine : Prop :=
  ∀ (i : Instr) (c : ClusterId) (e : EngId) (opc : Nat) (w : IWord) (s : State),
    issueOf i = some (c.val, e.val, opc, w) → s.quiet c.val →
    (∀ n, ((s.atCyc c.val n).condHolds c.val w.w0K w.w0T w (s.stream c.val e.val).iter
      && (s.atCyc c.val n).condHolds c.val w.w1K w.w1T w (s.stream c.val e.val).iter) = false) →
    (s.stream c.val e.val).acq = none →
    ∃ t, exec i s = .next t ∧ t.quiet c.val
      ∧ (t.stream c.val e.val).pc = (s.stream c.val e.val).pc
      ∧ (t.stream c.val e.val).loops = (s.stream c.val e.val).loops
      ∧ (t.cluster c.val).tiles = (s.cluster c.val).tiles ∧ (t.cluster c.val).store = (s.cluster c.val).store
      ∧ (t.cluster c.val).banks = (s.cluster c.val).banks ∧ (t.cluster c.val).sycs = (s.cluster c.val).sycs
      ∧ otherClusters s t c.val ∧ t = s.withClusters t.clusters

/-- Static completion of the one instruction in flight, when it is due: its tile bytes, its bank and its counts are
written, and nothing is in flight after. A bank that an instruction issued later has left already stays as it is (R122).
Its signal then adds 1 to its counter or sets its flag (R93; after its counts: log entry 114). -/
def Obligations.StaticCompletionWritesResults : Prop :=
  ∀ (c : ClusterId) (e : EngId) (f : Flight) (s : State),
    (s.cluster c.val).flight = [f] → f.eng = e.val → f.due ≤ (s.cluster c.val).cyc → f.fault = none → f.early = none →
    (s.cluster c.val).mvDue = none →
    let sig := fun (x : Cluster) => if f.w.sigK = 1 then x.sycAdd (bf f.w.sigT 5 0) f.eng f.due else x
    let sets := f.w.sigK = 2 ∧ s.flagGranted c.val (bf f.w.sigT 8 8) (bf f.w.sigT 7 0) = true
    ∃ t, exec (.staticCompletion c e) s = .next t
      ∧ t.cluster c.val = sig (f.counts.foldl (fun x n => x.sycSet n.1 n.2 f.eng) { s.cluster c.val with
          flight := []
          tiles := applyTile (s.cluster c.val).tiles f.out
          banks := match f.bankOut with
            | some (k, b) => if f.issueCc < sget 0 (s.cluster c.val).bankAt k then (s.cluster c.val).banks
                else sset {} (s.cluster c.val).banks k b
            | none => (s.cluster c.val).banks
          bankAt := match f.bankOut with
            | some (k, _) => if f.issueCc < sget 0 (s.cluster c.val).bankAt k then (s.cluster c.val).bankAt
                else sset 0 (s.cluster c.val).bankAt k (f.issueCc + 1)
            | none => (s.cluster c.val).bankAt })
      ∧ (sets → (t.flag (bf f.w.sigT 8 8) (bf f.w.sigT 7 0)).val = true)
      ∧ (∀ d n, ¬ (sets ∧ d = bf f.w.sigT 8 8 ∧ n = bf f.w.sigT 7 0) → d < 2 → n < 256 → t.flag d n = s.flag d n)
      ∧ otherClusters s t c.val ∧ t = ((s.withClusters t.clusters).withFlags t.flags).withFree t.free

/-- At static completion a SYC signal adds 1, saturating, to its counter, and waits see it 2 cc later; a flag signal
sets a granted flag and does nothing to one that is not granted. A change of a flag reaches the clusters of its own
die after 12 of their cycles and those of the other die after 40 (Table 3.8), in the order of the changes (R280);
until then they see what the flag was before the first change that has not reached them, and a change made now is seen
by none yet. An MV instruction, a list and an imposition operation perform their signal when they complete. -/
def Obligations.SignalsAndFlagsAreSeen : Prop :=
  (∀ (s : State) (c eng : Nat) (w : IWord) (cyc : Nat),
     (w.sigK = 0 ∨ w.sigK = 3 → s.signal c eng w cyc = s)
     ∧ (w.sigK = 1 → (s.signal c eng w cyc).cluster c = (s.cluster c).sycAdd (bf w.sigT 5 0) eng cyc
         ∧ sget 0 ((s.signal c eng w cyc).cluster c).sycs (bf w.sigT 5 0)
             = min (sget 0 (s.cluster c).sycs (bf w.sigT 5 0) + 1) (2 ^ 32 - 1))
     ∧ (w.sigK = 2 → s.flagGranted c (bf w.sigT 8 8) (bf w.sigT 7 0) = true →
         ((s.signal c eng w cyc).flag (bf w.sigT 8 8) (bf w.sigT 7 0)).val = true)
     ∧ (w.sigK = 2 → s.flagGranted c (bf w.sigT 8 8) (bf w.sigT 7 0) = false → s.signal c eng w cyc = s))
  ∧
  (∀ (x : Cluster) (n eng cyc at_ : Nat), cyc ≤ at_ → (∀ e ∈ x.sycFresh, e.1 = n → e.2 ≤ cyc) →
     let y : Cluster := { x.sycAdd n eng cyc with cyc := at_ }
     (sget 0 x.sycs n < 2 ^ 32 - 1 → y.sycSeen n = if at_ < cyc + 2 then sget 0 x.sycs n else sget 0 x.sycs n + 1)
     ∧ (sget 0 x.sycs n = 2 ^ 32 - 1 → y.sycSeen n = sget 0 x.sycs n)
     ∧ (∀ m, m ≠ n → (x.sycAdd n eng cyc).sycSeen m = x.sycSeen m))
  ∧
  (∀ (i : Instr) (c : ClusterId) (s t : State) (o : MvOp), (s.cluster c.val).mv = [o] → o.done = false →
     (i = .mvCompletion c 0 ∨ (∃ x, i = .impositionComplete c x) ∨ (∃ n m, i = .nbListComplete n m)) →
     exec i (s.muted c.val o) = .next t → (t.cluster c.val).mv = [] →
     exec i s = .next (t.signal c.val engMv o.w (s.cluster c.val).cyc))
  ∧
  (∀ (s : State) (c die n : Nat),
     (∀ h : FlagChange, s.sees c die h = true
       ↔ h.cycs.getD c 0 + (if c / 16 = die then 12 else 40) ≤ (s.cluster c).cyc)
     ∧ ((∀ h ∈ (s.flag die n).changes, s.sees c die h = true) → s.flagSeen c die n = (s.flag die n).val)
     ∧ (∀ before h after, (s.flag die n).changes = before ++ h :: after → (∀ b ∈ before, s.sees c die b = true) →
         s.sees c die h = false → s.flagSeen c die n = h.old)
     ∧ (∀ v who, ((s.setFlag die n v who).flag die n).val = v
         ∧ (c < 32 → (s.setFlag die n v who).flagSeen c die n = s.flagSeen c die n)))

/-! ### The mover and the imposition engines (chapters 3, 4, 7, 10) -/

/-- An MV instruction whose checks pass joins the operations in flight, and its stream goes on in the next cc; FDEF sets
its handle at issue, NBCMD's list enters its channel's queue, IMP's operation its share, and RFINAL opens its group; no
tile, no memory and no other cluster changes. INSTRUCTION_ISSUE of the word does the same. NOP, and a word that runs as
NOP there, completes 1 cc later and moves nothing (R119); END ends the stream. While all 32 ranges of the tracker are in
use nothing issues (R85). When each of them does issue follows from the state alone, and with it what it takes along: LOAD
the places and the cached bytes of its block (R202, R275), STORE, RWRITE and RFINAL the bytes of theirs, FDEF a
descriptor that passes Table 7.3, NBCMD a list for a granted channel in processor mode, WGANN its count, FLGCLR its
granted flag, and the eight imposition operations a descriptor that meets no row of Table 7.6 and overlaps nothing. -/
def Obligations.MvInstructionIssues : Prop :=
  (∀ (i : Instr) (c : ClusterId) (opc : Nat) (w : IWord) (s : State) (p n : Nat) (o : MvOp)
     (f : Option Forme) (l : Option NbList) (m : Option ImpOp),
     issueOf i = some (c.val, engMv, opc, w) → s.mayIssue c.val engMv w → (s.cluster c.val).flight = [] →
     (s.cluster c.val).mvDue = none → s.integ.errs = [] →
     s.flagFault c.val w = false → (s.cluster c.val).run = some (p, n) →
     s.planMv c.val p n opc w (s.mvOpOf c.val opc w) (s.stream c.val engMv).iter = (.op o [], f, l, m) →
     (s.cluster c.val).tracked.length < 32 → s.mvHeldBy c.val opc w o m = false →
     s.mvFull c.val opc w = false → s.mvStale c.val p opc w o = false → o.done = false → o.fault = none →
     ∃ t, exec i s = .next t
       ∧ (s.nextWordIs c.val engMv opc w → exec (.instructionIssue c ⟨6, by decide⟩) s = .next t)
       ∧ (t.cluster c.val).mv = (s.cluster c.val).mv ++ [o] ∧ (t.cluster c.val).mvSeq = (s.cluster c.val).mvSeq + 1
       ∧ t.stream c.val engMv = (s.cluster c.val).fetch ((s.stream c.val engMv).goOn ((s.stream c.val engMv).pc + 1)
           (s.stream c.val engMv).loops ((s.cluster c.val).cyc + 1))
       ∧ (∀ e, e ≠ engMv → t.stream c.val e = s.stream c.val e)
       ∧ (t.cluster c.val).formes = (if opc = 0x62 then sset none (s.cluster c.val).formes (opnd w 19 10) f
           else (s.cluster c.val).formes)
       ∧ (∀ k q, o.list = some k → l = some q → t.chan k = { s.chan k with lists := (s.chan k).lists ++ [q] })
       ∧ (l = none → t.chans = s.chans)
       ∧ (∀ x q, o.imp = some x → m = some q →
           (t.cluster c.val).shares = sset [] (s.cluster c.val).shares x ((s.cluster c.val).share x ++ [q]))
       ∧ (m = none → (t.cluster c.val).shares = (s.cluster c.val).shares)
       ∧ (∀ g d, o.group = some g → o.finalFlag = some d →
           (t.cluster c.val).openGroups = linsert g (s.cluster c.val).openGroups)
       ∧ (t.cluster c.val).tiles = (s.cluster c.val).tiles ∧ (t.cluster c.val).store = (s.cluster c.val).store
       ∧ (t.cluster c.val).banks = (s.cluster c.val).banks ∧ (t.cluster c.val).sycs = (s.cluster c.val).sycs
       ∧ otherClusters s t c.val ∧ t = ((s.withClusters t.clusters).withChans t.chans).withFree t.free)
  ∧
  (∀ (i : Instr) (c : ClusterId) (opc : Nat) (w : IWord) (s : State) (p n : Nat)
     (f : Option Forme) (l : Option NbList) (m : Option ImpOp),
     issueOf i = some (c.val, engMv, opc, w) → s.mayIssue c.val engMv w → (s.cluster c.val).flight = [] →
     (s.cluster c.val).mvDue = none →
     (s.cluster c.val).run = some (p, n) → (s.cluster c.val).tracked.length < 32 → opc ≠ opcLoop →
     s.planMv c.val p n opc w (s.mvOpOf c.val opc w) (s.stream c.val engMv).iter = (.nop, f, l, m) →
     ∃ t, exec i s = .next t
       ∧ t.cluster c.val = { s.cluster c.val with
           mv := (s.cluster c.val).mv ++ [{ s.mvOpOf c.val opc w with done := true, due := (s.cluster c.val).cyc + 1 }]
           mvSeq := (s.cluster c.val).mvSeq + 1
           streams := sset {} (s.cluster c.val).streams engMv
             ((s.cluster c.val).fetch
               (let st := s.stream c.val engMv
                if opc = opcEnd then { st with live := false, held := none, acq := none, loops := [] }
                else st.goOn (st.pc + 1) st.loops ((s.cluster c.val).cyc + 1))) }
       ∧ otherClusters s t c.val ∧ t = s.withClusters t.clusters)
  ∧
  (∀ (i : Instr) (c : ClusterId) (opc : Nat) (w : IWord) (s : State),
     issueOf i = some (c.val, engMv, opc, w) → s.mayIssue c.val engMv w → (s.cluster c.val).flight = [] →
     (s.cluster c.val).mvDue = none → 32 ≤ (s.cluster c.val).tracked.length → exec i s = .next s)
  ∧
  (∀ (c : ClusterId) (w : IWord) (s : State) (p n : Nat), s.mvReady c.val p n w →
     let x := s.cluster c.val
     let td := tileNo (opnd w 19 14) (opnd w 0 0 = 1) (s.stream c.val engMv).iter
     let b := w.imm.toNat + opnd w 3 1 * (s.stream c.val engMv).iter
     let g := opnd w 3 0
     (∀ f, x.mvQueue < 32 → x.forme (opnd w 13 4) = some f → (f.space = 2 → f.cluster = c.val) → s.blockReady p f b →
       (∃ t o, exec (.load c w) s = .next t ∧ mvIssued s t c.val 0x60 w o
         ∧ (∀ bb ∈ f.blockBytes b, ∀ l, s.formeXl p f bb.addr = some l → ∃ q ∈ o.loads,
             q.ta = rowAddr td bb.row + bb.byte ∧ q.mask = bb.mask ∧ q.bits = carriedBits f.fmt bb.byte
             ∧ (cacheable l.1 = false ∨ x.cached l.1 (l.2 / 64) = none → q.src = some l ∧ q.old = s.byteAt l.1 l.2)
             ∧ (∀ k, cacheable l.1 = true → x.cached l.1 (l.2 / 64) = some k →
                 q.src = none ∧ q.old = k.bytes.getD (l.2 % 64) 0))
         ∧ (∀ q ∈ o.loads, ∀ l, q.src = some l → ∃ bb ∈ f.blockBytes b, s.formeXl p f bb.addr = some l))
       ∧ (∃ t o, exec (.store c w) s = .next t ∧ mvIssued s t c.val 0x61 w o ∧ s.writesBlock c.val p td b f o))
     ∧ (x.mvQueue < 32 → w.imm.toNat % 64 = 0 →
         s.formeFault (s.tmpl p) (Forme.ofWords (s.descWords c.val w)) = none →
         ∃ t o, exec (.fdef c w) s = .next t ∧ mvIssued s t c.val 0x62 w o
           ∧ (t.cluster c.val).forme (opnd w 19 10) = some (Forme.ofWords (s.descWords c.val w)))
     ∧ (let k := 16 * opnd w 19 17 + opnd w 16 13
        x.mvQueue < 32 → w.imm.toNat % 64 = 0 → (s.tmpl p).chans.contains k = true → (s.chan k).state = .processor →
         ∃ t o q, exec (.nbcmd c w) s = .next t ∧ mvIssued s t c.val 0x66 w o ∧ o.list = some k
           ∧ (t.chan k).lists = (s.chan k).lists ++ [q] ∧ q.cluster = c.val ∧ q.seq = x.mvSeq ∧ q.part = p
           ∧ q.addr = w.imm.toNat % storeBytes ∧ q.len = (if opnd w 12 0 = 0 then 8192 else opnd w 12 0)
           ∧ q.arrived = false ∧ q.ended = false)
     ∧ (∀ f, x.mvQueue < 32 → x.forme (opnd w 13 4) = some f → s.remote p g = none →
         (s.blockReady p f w.imm.toNat →
           ∃ t o, exec (.rwrite c w) s = .next t ∧ mvIssued s t c.val 0x68 w o ∧ o.group = some g
             ∧ s.writesBlock c.val p (opnd w 19 14 % 48) w.imm.toNat f o)
         ∧ (x.openGroups.contains g = false →
           ∃ t o, exec (.wgann c w) s = .next t ∧ mvIssued s t c.val 0x69 w o ∧ o.group = some g
             ∧ o.announce = some (immf w 15 0))
         ∧ (s.blockReady p f 0 → s.flagGranted c.val (bf w.imm 8 8) (immf w 7 0) = true →
           ∃ t o, exec (.rfinal c w) s = .next t ∧ mvIssued s t c.val 0x6A w o ∧ o.group = some g
             ∧ o.finalFlag = some (bf w.imm 8 8, immf w 7 0, true) ∧ s.writesBlock c.val p (opnd w 19 14 % 48) 0 f o
             ∧ g ∈ (t.cluster c.val).openGroups))
     ∧ (∀ f r, x.mvQueue < 32 → x.forme (opnd w 13 4) = some f → s.remote p g = some r →
         (s.tmpl p).hasLink (bf r 61 56) = true →
         (∃ t o, exec (.rwrite c w) s = .next t ∧ mvIssued s t c.val 0x68 w o ∧ o.link = some (bf r 61 56)
           ∧ o.remote = some ⟨opnd w 19 14 % 48, w.imm.toNat, f, r, g, opcWrite, 0⟩)
         ∧ (x.openGroups.contains g = false →
           ∃ t o, exec (.wgann c w) s = .next t ∧ mvIssued s t c.val 0x69 w o ∧ o.link = some (bf r 61 56)
             ∧ o.frames = [({ opc := opcWgann, vc := 2, tpart := bf r 55 52, cluster := c.val, group := g
                              arg := immf w 15 0 } : Hdr).frame []])
         ∧ (∃ t o, exec (.rfinal c w) s = .next t ∧ mvIssued s t c.val 0x6A w o ∧ o.link = some (bf r 61 56)
           ∧ o.remote = some ⟨opnd w 19 14 % 48, 0, f, r, g, opcRfinal, immf w 8 0⟩
           ∧ g ∈ (t.cluster c.val).openGroups))
     ∧ (x.mvQueue < 32 → s.flagGranted c.val (bf w.opnd 8 8) (opnd w 7 0) = true →
         ∃ t o, exec (.flgclr c w) s = .next t ∧ mvIssued s t c.val 0x6C w o
           ∧ o.clearFlag = some (bf w.opnd 8 8, opnd w 7 0))
     ∧ (∀ y ∈ impForms c w,
         let ds := s.descWords c.val w
         let d0 := wordAt ds 0
         let d1 := wordAt ds 1
         ∀ a b, (x.share (opnd w 19 18)).length < 8 → w.imm.toNat % 64 = 0 →
           impNop c.val y.2 d0 d1 (x.forme (descSrc d0)) (x.forme (descDst d0)) (x.forme (descIdx d0))
             (x.forme (descSsc d0)) (x.forme (descDsc d0)) = false →
           x.forme (descSrc d0) = some a → x.forme (descDst d0) = some b → impOverlap y.2 d0 d1 a b = false →
           ∃ t o q, exec y.1 s = .next t ∧ mvIssued s t c.val 0x64 (impWord y.2 w) o ∧ o.imp = some (opnd w 19 18)
             ∧ (t.cluster c.val).share (opnd w 19 18) = x.share (opnd w 19 18) ++ [q]
             ∧ q.seq = x.mvSeq ∧ q.code = y.2 ∧ q.nop = false ∧ q.fault = none ∧ q.part = p ∧ q.slot = n
             ∧ q.d0 = d0 ∧ q.d1 = d1 ∧ q.src = a ∧ q.dst = b ∧ q.pos = 0 ∧ q.total = none))

/-- The checks of FDEF, NBCMD, IMP and FLGCLR at issue (Table 4.14): an unaligned address, an ungranted channel or flag, a
channel that is not in processor mode. A faulting instruction still issues: it takes its place, writes nothing, and its
fault record goes to the event ring of the partition that runs the step; an IMP's goes there when it completes. Issuing
a transfer into a full queue or share is a host error: it takes or loses its place, the stream goes on all the same, and
no cluster of another partition changes (R13, R107; the form of the unpredictable result is the model's: log entry 11). -/
def Obligations.MvFaultsAreCheckedAndReported : Prop :=
  (∀ (s : State) (c p n : Nat) (w : IWord) (o : MvOp) (i : Nat),
     (w.imm.toNat % 64 ≠ 0 →
       s.planMv c p n 0x62 w o i = (.op o [fltAlign], none, none, none)
       ∧ s.planMv c p n 0x66 w o i = (.op o [fltAlign], none, none, none)
       ∧ (opnd w 17 14 < 8 → ∃ m, s.planMv c p n 0x64 w o i = (.op { o with imp := some (opnd w 19 18) } [], none,
         none, some m)
           ∧ m.nop = true ∧ m.fault = some fltAlign ∧ m.ranges = []))
     ∧ (w.imm.toNat % 64 = 0 → (s.tmpl p).chans.contains (16 * opnd w 19 17 + opnd w 16 13) = false →
       s.planMv c p n 0x66 w o i = (.op o [fltBound], none, none, none))
     ∧ (w.imm.toNat % 64 = 0 → (s.tmpl p).chans.contains (16 * opnd w 19 17 + opnd w 16 13) = true →
       (s.chan (16 * opnd w 19 17 + opnd w 16 13)).state ≠ .processor →
       s.planMv c p n 0x66 w o i = (.op o [fltChmode], none, none, none))
     ∧ (s.flagGranted c (bf w.opnd 8 8) (opnd w 7 0) = false →
       s.planMv c p n 0x6C w o i = (.op o [fltBound], none, none, none))
     ∧ (s.flagGranted c (bf w.opnd 8 8) (opnd w 7 0) = true →
       s.planMv c p n 0x6C w o i = (.op { o with clearFlag := some (bf w.opnd 8 8, opnd w 7 0) } [], none, none, none))
     ∧ ((s.cluster c).forme (opnd w 13 4) = none →
       s.planMv c p n 0x60 w o i = (.nop, none, none, none) ∧ s.planMv c p n 0x61 w o i = (.nop, none, none, none)))
  ∧
  (∀ (i : Instr) (c : ClusterId) (opc : Nat) (w : IWord) (s : State) (p n k : Nat),
     issueOf i = some (c.val, engMv, opc, w) → opc = 0x62 ∨ opc = 0x66 → s.mayIssue c.val engMv w → s.quiet c.val →
     s.integ.errs = [] → s.flagFault c.val w = false → (s.cluster c.val).run = some (p, n) →
     (s.cluster c.val).tracked.length < 32 →
     s.planMv c.val p n opc w (s.mvOpOf c.val opc w) (s.stream c.val engMv).iter
       = (.op (s.mvOpOf c.val opc w) [k], none, none, none) →
     ∃ t, exec i s = .next t
       ∧ (t.cluster c.val).mv = [s.mvOpOf c.val opc w]
       ∧ (t.cluster c.val).tiles = (s.cluster c.val).tiles ∧ (t.cluster c.val).store = (s.cluster c.val).store
       ∧ t.chans = s.chans ∧ t.stackMem = s.stackMem ∧ t.caseMem = s.caseMem ∧ otherClusters s t c.val
       ∧ t.hostMem = (s.postFault c.val engMv (s.stream c.val engMv).pc s.now k).hostMem
       ∧ t.regs = (s.postFault c.val engMv (s.stream c.val engMv).pc s.now k).regs
       ∧ t.host = (s.postFault c.val engMv (s.stream c.val engMv).pc s.now k).host)
  ∧
  (∀ (i : Instr) (c : ClusterId) (opc : Nat) (w : IWord) (s : State) (p n : Nat) (o : MvOp) (fs : List Nat)
     (f : Option Forme) (l : Option NbList) (m : Option ImpOp),
     issueOf i = some (c.val, engMv, opc, w) → s.mayIssue c.val engMv w →
     (s.cluster c.val).flight = [] → (s.cluster c.val).mvDue = none → (s.cluster c.val).run = some (p, n) →
     (s.tmpl p).hasCluster c.val = true →
     s.planMv c.val p n opc w (s.mvOpOf c.val opc w) (s.stream c.val engMv).iter = (.op o fs, f, l, m) →
     (s.cluster c.val).tracked.length < 32 → s.mvHeldBy c.val opc w o m = false →
     (opc ≠ 0x64 → 32 ≤ (s.cluster c.val).mvQueue) → (opc = 0x64 → 8 ≤ ((s.cluster c.val).share (opnd w 19 18)).length) →
     ∃ t, exec i s = .next t ∧ (t.cluster c.val).mvSeq = (s.cluster c.val).mvSeq + 1
       ∧ (t.stream c.val engMv).pc
           = (nextIndex ((s.stream c.val engMv).pc + 1) (s.stream c.val engMv).loops).1
       ∧ (∀ c', (s.tmpl p).hasCluster c' = false → t.cluster c' = s.cluster c'))

/-- Completion of the mover's one operation in flight. LOAD writes its bytes to the tile. STORE and RWRITE to memory
of the own C-die land at once, and others wait to land, and an RWRITE that has landed counts in its group. WGANN
announces its group's count, RFINAL is held at its target, FLGCLR clears its flag. The operation then leaves the
queue. While a channel that it accesses is under refresh or calibration, it waits (R239, R419). -/
def Obligations.MvCompletionDoesItsWork : Prop :=
  ∀ (c : ClusterId) (s : State) (p n : Nat) (o : MvOp),
    (s.cluster c.val).mv = [o] → (s.cluster c.val).flight = [] → (s.cluster c.val).run = some (p, n) →
    s.clockRuns c.val = true → o.done = false → o.list = none → o.imp = none → o.link = none → o.w.sigK = 0 →
    (s.calm o.places = false → exec (.mvCompletion c 0) s = .next s) ∧ (s.calm o.places = true →
    s.plainWrites → s.mirrored p = false →
    (o.opc = 0x60 → o.poison = false → (∀ q ∈ o.loads, ∀ l, q.src = some l → s.byteAt l.1 l.2 = q.old) →
      ∃ t, exec (.mvCompletion c 0) s = .next t ∧ (t.cluster c.val).mv = []
        ∧ (t.cluster c.val).tiles = applyTile (s.cluster c.val).tiles (o.loads.map (fun q => ⟨q.ta, q.mask,
          q.old &&& q.bits⟩))
        ∧ (t.cluster c.val).store = (s.cluster c.val).store ∧ otherClusters s t c.val ∧ clusterFrame s t)
    ∧ ((o.opc = 0x61 ∨ (o.opc = 0x68 ∧ o.group.isSome)) → o.tsrc.length = o.writes.length →
      (∀ z ∈ List.zip o.writes o.tsrc, tileByte (s.cluster c.val).tiles z.2 = z.1.val) →
      ((∀ q ∈ o.writes, dieOfSpace q.sp q.addr = c.val / 16) →
        ∃ t, exec (.mvCompletion c 0) s = .next t ∧ (t.cluster c.val).mv = []
          ∧ (∀ sp a, t.byteAt sp a = storedByte o.writes sp a (s.byteAt sp a))
          ∧ (t.cluster c.val).tiles = (s.cluster c.val).tiles ∧ t.landing = s.landing
          ∧ (o.opc = 0x61 → t.groups = s.groups)
          ∧ (∀ g, o.opc = 0x68 → o.group = some g →
              (t.group (groupKey 0 c.val g)).count = (s.group (groupKey 0 c.val g)).count + 1)
          ∧ t.hostMem = s.hostMem ∧ t.tierMem = s.tierMem ∧ t.chans = s.chans ∧ t.parts = s.parts ∧ t.flags = s.flags)
      ∧ (o.writes ≠ [] → (∀ q ∈ o.writes, dieOfSpace q.sp q.addr ≠ c.val / 16) →
        ∃ t, exec (.mvCompletion c 0) s = .next t ∧ (t.cluster c.val).mv = []
          ∧ (∀ sp a, t.byteAt sp a = s.byteAt sp a)
          ∧ t.landing = s.landing ++ [{ part := p, slot := n, cluster := c.val, writes := o.writes
                                        group := if o.opc = 0x68 then o.group.map (groupKey 0 c.val) else none }]
          ∧ t.groups = s.groups ∧ t.flags = s.flags ∧ t.parts = s.parts))
    ∧ (∀ k, o.opc = 0x69 → o.announce = some k →
      ∃ t, exec (.mvCompletion c 0) s = .next t ∧ (t.cluster c.val).mv = []
        ∧ t.group (groupKey 0 c.val (o.group.getD 0))
            = { s.group (groupKey 0 c.val (o.group.getD 0)) with announced := some k }
        ∧ t = (s.withClusters t.clusters).withGroups t.groups)
    ∧ (∀ d fl gr, o.opc = 0x6A → o.finalFlag = some (d, fl, gr) → o.writes = [] →
      (s.group (groupKey 0 c.val (o.group.getD 0))).held = none →
      ∃ t, exec (.mvCompletion c 0) s = .next t ∧ (t.cluster c.val).mv = []
        ∧ (t.group (groupKey 0 c.val (o.group.getD 0))).held
            = some { writes := [], die := d, flag := fl, granted := gr, part := p, slot := some n, since := s.now }
        ∧ t = (((s.withClusters t.clusters).withGroups t.groups).withFree t.free))
    ∧ (∀ d fl, o.opc = 0x6C → o.clearFlag = some (d, fl) →
      ∃ t, exec (.mvCompletion c 0) s = .next t ∧ (t.cluster c.val).mv = [] ∧ (t.flag d fl).val = false
        ∧ t = (s.withClusters t.clusters).withFlags t.flags))

/-- An imposition engine's turn passes to the next cluster of its rotation, and no other begins within 64 cc of the
C-die's clock; the cluster whose turn it is, or when it is idle the next of its partition, moves units of its oldest
operation. An operation that has moved everything leaves its share, its fault posts, and its MV instruction completes;
one that has not stays. An identity copy, and a descriptor that meets Table 7.6, move nothing (R205, R211). What a
turn has moved of COPY, TRANSPOSE, PERMUTE, CONVERT and DIESLICE lands at its end; the elements of a unit, each with
its source element by Table 7.5, arrive code by code, or in the destination's format rounded once, or by the shared scale
of their block, and a padding position receives FILL or stays (R203 to R206). GATHER, SCATTER and SCATTERADD pair rows by
the index, and the destination row receives the source row's codes or the sums with what it held (R207 to R209). -/
def Obligations.ImpositionEnginesTakeTurns : Prop :=
  (∀ (d : DieId) (x : ImpId) (s : State),
     let key := 4 * d.val + x.val
     let cyc := (s.dieClk d.val).cyc
     let next := (s.withTurns (sset 0 (sset 0 s.turns key ((sget 0 s.turns key % 16 + 1) % 16)) (8 + key) (cyc + 64)))
     (s.clockRuns (16 * d.val) = false → exec (.impositionTurn d x) s = .next s)
     ∧ (cyc < sget 0 s.turns (8 + key) → exec (.impositionTurn d x) s = .next s)
     ∧ (s.clockRuns (16 * d.val) = true → sget 0 s.turns (8 + key) ≤ cyc →
         let k := sget 0 s.turns key % 16
         let works := fun (j : Nat) => (s.cluster (16 * d.val + (k + j) % 16)).share x.val ≠ []
           ∧ (j = 0 ∨ ∃ p, s.partOf (16 * d.val + k) = some p ∧ s.partOf (16 * d.val + (k + j) % 16) = some p)
         ((∀ j, j < 16 → ¬ works j) → exec (.impositionTurn d x) s = .next next)
         ∧ (∀ j o rest, j < 16 → works j → (∀ j', j' < j → ¬ works j') →
             (s.cluster (16 * d.val + (k + j) % 16)).share x.val = o :: rest →
             exec (.impositionTurn d x) s = .next
               (let r := next.turnOf (16 * d.val + (k + j) % 16) o
                r.2.modCluster (16 * d.val + (k + j) % 16) (fun y =>
                  { y with shares := sset [] y.shares x.val (r.1 :: rest) })))))
  ∧
  (∀ (c : ClusterId) (x : ImpId) (s : State) (o : ImpOp) (rest : List ImpOp) (u : Nat) (m : MvOp),
     (s.cluster c.val).share x.val = o :: rest → o.total = some u → s.clockRuns c.val = true →
     (s.cluster c.val).mv = [m] → m.seq = o.seq → m.fault = none → m.w.sigK = 0 →
     (o.pos < u → exec (.impositionComplete c x) s = .next s)
     ∧ (u ≤ o.pos → o.fault = none → ∃ t, exec (.impositionComplete c x) s = .next t
         ∧ t.cluster c.val = { s.cluster c.val with shares := sset [] (s.cluster c.val).shares x.val rest, mv := [] }
         ∧ otherClusters s t c.val ∧ t = s.withClusters t.clusters)
     ∧ (∀ e, u ≤ o.pos → o.fault = some e → ∃ t, exec (.impositionComplete c x) s = .next t
         ∧ t.cluster c.val = { s.cluster c.val with shares := sset [] (s.cluster c.val).shares x.val rest, mv := [] }
         ∧ otherClusters s t c.val
         ∧ t.hostMem = (s.postFault c.val engMv m.idx m.issueNs e).hostMem
         ∧ t.regs = (s.postFault c.val engMv m.idx m.issueNs e).regs))
  ∧
  (∀ (s : State) (o : ImpOp), o.total = none →
     (o.nop = true → s.impStart o = { o with total := some 0 })
     ∧ (o.nop = false → s.impFault o = none → o.code ≤ impDieslice → impIdentity o.code o.d0 o.d1 o.src o.dst = true →
         s.impStart o = { o with total := some 0 })
     ∧ (∀ e, o.nop = false → s.impFault o = some e → s.impStart o = { o with total := some 0, fault := some e }))
  ∧
  (∀ (s : State) (c : Nat) (o : ImpOp) (n left : Nat), s.plainWrites → o.code ≤ impDieslice → o.total = some (o.pos + n) →
     (∀ k, k < n → s.unitWaits { o with pos := o.pos + k } = false) →
     ((List.range n).map (fun k => s.unitCost { o with pos := o.pos + k })).sum ≤ left →
     (s.moveUnits c o [] left n).1.pos = o.pos + n
       ∧ ∀ sp a, (s.moveUnits c o [] left n).2.byteAt sp a
           = storedByte ((List.range n).flatMap (fun k => (s.moveUnit o (o.pos + k)).1)) sp a (s.byteAt sp a))
  ∧
  (∀ (o : ImpOp) (q : EIdx),
     (o.dst.has q = true → q.2.length = 5 → ∃ u j, u < unitCount o.dst ∧ (q, j) ∈ unitElems o u)
     ∧ ∀ u j, (q, some j) ∈ unitElems o u → o.src.has j = true
         ∧ (o.code = impCopy ∨ o.code = impConvert ∨ o.code = impDieslice → j = q)
         ∧ (o.code = impTranspose → idxOf j 0 = idxOf q 1 ∧ idxOf j 1 = idxOf q 0
             ∧ ∀ k, 2 ≤ k → k < 6 → idxOf j k = idxOf q k)
         ∧ (o.code = impPermute → isPerm o.d1 = true → ∀ k, k < 6 → idxOf j (descPerm o.d1 k) = idxOf q k))
  ∧
  (∀ (s : State) (o : ImpOp) (u : Nat), s.unitPlaced o u → o.code ≤ impDieslice →
     let ws := (s.moveUnit o u).1
     (∀ q j, (q, some j) ∈ unitElems o u →
       (movesCodes o = true → o.src.fmt = o.dst.fmt →
         s.elemAfter ws o.part o.dst q = s.elemAt o.part o.src j)
       ∧ (movesCodes o = false → scaledDst o = false → o.dst.fmt ≠ .zb8 →
         (s.elemAfter ws o.part o.dst q).1 = encode o.dst.fmt (s.srcVal o j))
       ∧ (movesCodes o = false → scaledDst o = false → o.dst.fmt = .zb8 →
         (s.elemAfter ws o.part o.dst q).2 = zbExp (s.blockSrc o u 16 q)
           ∧ (s.elemAfter ws o.part o.dst q).1 = zbMant (zbExp (s.blockSrc o u 16 q)) (s.srcVal o j))
       ∧ (scaledDst o = true → o.dst.fmt ≠ .zb8 → o.dsc.has (scaleIdx q) = false →
         (s.elemAfter ws o.part o.dst q).1
           = mxElem o.dst.fmt (mxScale o.dst.fmt (s.blockSrc o u 32 q)) (s.srcVal o j))
       ∧ (scaledDst o = true → o.dsc.has (scaleIdx q) = true → o.dsc.fmt = .e8m0 → s.located o.part o.dsc [scaleIdx q] →
         (s.elemAfter ws o.part o.dsc (scaleIdx q)).1 = mxScale o.dst.fmt (s.blockSrc o u 32 q)))
     ∧ (∀ q, (q, none) ∈ unitElems o u → scaledDst o = false → o.dst.distinct = true → o.dst.fmt ≠ .zb8 →
       (o.dst.padFill = true → (s.elemAfter ws o.part o.dst q).1 = o.dst.fill % 2 ^ immBits o.dst.fmt)
       ∧ (o.dst.padFill = false → s.elemAfter ws o.part o.dst q = s.elemAt o.part o.dst q)))
  ∧
  (∀ (s : State) (o : ImpOp) (k : Nat) (v : Int),
     (v = -1 → gatherRows o k v = (none, false))
     ∧ (v < -1 ∨ ((if o.code = impGather then o.src.size 1 else o.dst.size 1 : Nat) : Int) ≤ v →
         gatherRows o k v = (none, true))
     ∧ (0 ≤ v → o.code = impGather → v < (o.src.size 1 : Int) → k < o.dst.size 1 →
         gatherRows o k v = (some (k, v.toNat), false))
     ∧ (0 ≤ v → o.code ≠ impGather → v < (o.dst.size 1 : Int) → gatherRows o k v = (some (v.toNat, k), false))
     ∧ ∀ (dr sr j i : Nat) (cd : Nat × Nat), s.plainReads → o.dst.fmt = o.src.fmt →
         (o.dst.fmt = .zb8 → o.dst.size 0 % 240 = 0 ∧ o.src.size 0 % 240 = 0) →
         i < unitLen → j * unitLen + i < o.dst.size 0 → (∀ y, y < o.dst.size 0 →
             s.located o.part o.dst [(y, [dr, 0, 0, 0, 0])]) →
         let q : EIdx := (j * unitLen + i, [dr, 0, 0, 0, 0])
         let ws := (s.writePiece o dr sr j).2
         (o.codes.length = o.dst.size 0 → (o.codes.getD (j * unitLen + i) none) = some cd → cd.1 < 2 ^ o.dst.fmt.bits →
             (o.dst.fmt = .a12 → cd.1 < 4096) → (o.dst.fmt ≠ .zb8 → cd.2 = 0) →
           (o.code ≠ impScatterAdd → o.dst.fmt ≠ .zb8 → s.elemAfter ws o.part o.dst q = cd)
           ∧ (o.code = impScatterAdd → roundsEach o.dst.fmt = true → o.prior.length = o.dst.size 0 →
               (s.elemAfter ws o.part o.dst q).1 = encode o.dst.fmt
                 (vadd (valOf o.dst.fmt (o.prior.getD (j * unitLen + i) (0, 0))) (valOf o.dst.fmt cd)))))

/-- A write that has completed lands: its bytes are in memory, it leaves the list, and it counts in its group. A held
RFINAL whose group has landed as many RWRITEs as were announced is released: its block is in memory, its flag set when
it is granted, the group starts again, and the issuer's group is open no longer, or, for a partner's group, REL is
queued on its link (R283); before that nothing happens. Either waits while its channel is under refresh (R239). -/
def Obligations.WritesLandAndFinalsRelease : Prop :=
  (∀ (k : Nat) (s : State) (w : Landing), s.landing[k]? = some w → s.calm (placesOf w.writes) = false →
     exec (.writeLanded k) s = .next s)
  ∧
  (∀ (k : Nat) (s : State) (w : Landing), s.landing[k]? = some w → s.calm (placesOf w.writes) = true → s.plainWrites →
     s.mirrored w.part = false →
     ∃ t, exec (.writeLanded k) s = .next t ∧ t.landing = dropAt s.landing k
       ∧ (∀ sp a, t.byteAt sp a = storedByte w.writes sp a (s.byteAt sp a))
       ∧ (∀ g, w.group = some g → (t.group g).count = (s.group g).count + 1)
       ∧ (w.group = none → t.groups = s.groups)
       ∧ t.flags = s.flags ∧ t.regs = s.regs ∧ t.hostMem = s.hostMem ∧ t.chans = s.chans)
  ∧
  (∀ (c : ClusterId) (g : GroupId) (s : State),
     ((s.group (groupKey 0 c.val g.val)).ready = false → exec (.rfinalRelease none c g) s = .next s)
     ∧ (s.calm (s.group (groupKey 0 c.val g.val)).places = false → exec (.rfinalRelease none c g) s = .next s)
     ∧ (∀ h a, s.group (groupKey 0 c.val g.val)
           = { count := (s.group (groupKey 0 c.val g.val)).count, announced := some a, held := some h } →
         a ≤ (s.group (groupKey 0 c.val g.val)).count → h.whole = true → s.calm (placesOf h.writes) = true →
         (∀ q ∈ h.writes, s.lineOk (q.sp, q.addr) = true) → s.plainWrites → s.mirrored h.part = false →
         ∃ t, exec (.rfinalRelease none c g) s = .next t
           ∧ (∀ sp b, t.byteAt sp b = storedByte h.writes sp b (s.byteAt sp b))
           ∧ (h.granted = true → (t.flag h.die h.flag).val = true) ∧ (h.granted = false → t.flags = s.flags)
           ∧ t.group (groupKey 0 c.val g.val) = {}
           ∧ (t.cluster c.val).openGroups = (s.cluster c.val).openGroups.filter (· != g.val)
           ∧ t.regs = s.regs ∧ t.hostMem = s.hostMem ∧ t.landing = s.landing))
  ∧
  (∀ (l : LinkId) (c : ClusterId) (g : GroupId) (s : State) (h : HeldFinal) (a : Nat),
     s.group (groupKey (l.val + 1) c.val g.val)
         = { count := (s.group (groupKey (l.val + 1) c.val g.val)).count, announced := some a, held := some h } →
     a ≤ (s.group (groupKey (l.val + 1) c.val g.val)).count → h.whole = true → h.slot = none →
     s.calm (placesOf h.writes) = true → (∀ q ∈ h.writes, s.lineOk (q.sp, q.addr) = true) → s.plainWrites →
     s.sends l.val = false →
     ∃ t, exec (.rfinalRelease (some l) c g) s = .next t
       ∧ (∀ sp b, t.byteAt sp b = storedByte h.writes sp b (s.byteAt sp b))
       ∧ (h.granted = true → (t.flag h.die h.flag).val = true)
       ∧ t.group (groupKey (l.val + 1) c.val g.val) = {}
       ∧ (t.link l.val).sendQ = (s.link l.val).sendQ
           ++ [({ opc := opcRel, vc := 2, cluster := c.val, group := g.val, arg := g.val * 32 + c.val } : Hdr).frame []]
       ∧ t.regs = s.regs)

/-! ### Near-bank processing (chapter 8) -/

/-- A near-bank command that the channel lets start takes its place in the list's order: the list goes on to the
command after it (END ends it), and it runs for its time, holding its bank, its slot and the stack bus. Nothing of
another channel, no cluster and no flag changes. While the module is halted or has tripped, the channel refreshing or
in memory mode, its list not arrived or ended, or another command is next, the row changes nothing; a burst that the
power rules alone hold is remembered as held. -/
def Obligations.NearBankCommandsStartOrWait : Prop :=
  (∀ (i : Instr) (k op : Nat) (s : State) (l : NbList) (rest : List NbList),
     nbOf i = some (k, op) → s.nbMayStart k op l rest →
     ∃ l' t, exec i s = .next t ∧ (t.chan k).lists = l' :: rest
       ∧ (l'.line, l'.q) = l.after l.cmd ∧ l'.ended = (op == 0x02) ∧ l'.powHeld = none ∧ l'.arrived = true
       ∧ (l'.cluster, l'.seq, l'.part, l'.addr, l'.len, l'.bytes) = (l.cluster, l.seq, l.part, l.addr, l.len, l.bytes)
       ∧ l'.addrSt = (l.addrSt || !l.cmd.inLimits l (s.storeTop l.cluster))
       ∧ (l.cmd.time ((s.chan k).rowOpen l.cmd) = (0, 0) → l'.running = l.running)
       ∧ (l.cmd.time ((s.chan k).rowOpen l.cmd) ≠ (0, 0) → ∃ r, l'.running = l.running ++ [r]
           ∧ r.due = 16 * s.now + (l.cmd.time ((s.chan k).rowOpen l.cmd)).1
           ∧ r.next = (l.cmd.time ((s.chan k).rowOpen l.cmd)).2
           ∧ r.bank = (if l.cmd.namesBank then some l.cmd.bank else none)
           ∧ r.slot = (if l.cmd.namesSlot then some l.cmd.slot else none)
           ∧ r.onBus = l.cmd.usesBus)
       ∧ (t.chan k).state = (s.chan k).state ∧ (∀ k', k' ≠ k → t.chan k' = s.chan k')
       ∧ t.clusters = s.clusters ∧ t.flags = s.flags ∧ t.caseMem = s.caseMem ∧ t.tierMem = s.tierMem)
  ∧
  (∀ (i : Instr) (k op : Nat) (s : State), nbOf i = some (k, op) →
     ((s.chan k).lists = [] → exec i s = .next s)
     ∧ (∀ l rest, (s.chan k).lists = l :: rest →
         s.frozen = true ∨ (s.chan k).state.runs = false ∨ (s.chan k).refreshing.isSome = true ∨ l.arrived = false
           ∨ l.ended = true ∨ l.cmd.op ≠ op ∨ l.mayStart l.cmd = false → exec i s = .next s)
     ∧ (∀ l rest, (s.chan k).lists = l :: rest → s.frozen = false → (s.chan k).state.runs = true →
         (s.chan k).refreshing = none → l.arrived = true → l.ended = false → l.cmd.op = op → l.mayStart l.cmd = true →
         l.cmd.isBurst = true → s.powerAllows k l l.cmd = false →
         exec i s = .next (if l.powHeld.isSome then s
           else s.modChan k (fun ch => { ch with lists := { l with powHeld := some s.now } :: rest }))))

/-- What each compute and load command leaves in the NBU of every die it selects, from the NBU before and from the bank's
bytes, with no error stored and no slice retired; NBUs it does not select keep their contents, and so do those that NOP,
FENCE, END, the stores and the merge commands select (Table 8.9). The merge slots (R242 to R244): SZERO clears its slot,
FIN divides it by its sum, SEND adds what the selected NBUs hold. No other slot changes. PUTC sends its slot's vector,
after MAX and SUM where it asks for them, to its cluster's store (R245). -/
def Obligations.NearBankComputes : Prop :=
  (∀ (i : Instr) (k op : Nat) (s : State) (l : NbList) (rest : List NbList) (d : Nat),
     nbOf i = some (k, op) → s.nbMayStart k op l rest → s.integ.errs = [] → s.integ.retired = [] →
     l.cmd.inLimits l (s.storeTop l.cluster) = true →
     ∃ t, exec i s = .next t
       ∧ (∀ b d', d' < 16 → ¬ (b = l.cmd.bank ∧ d' ∈ l.cmd.dies) → t.nbu k b d' = s.nbu k b d')
       ∧ (d ∈ l.cmd.dies →
           let c := l.cmd
           let x := s.nbu k c.bank d
           let y := t.nbu k c.bank d
           let cs := codes16 ((List.range (32 * c.len)).map (fun j => mget s.stackMem (paOfDie k c.bank d (c.off + j))))
           let imm := f32v (BitVec.ofNat 32 c.imm)
           (op ∈ [0x00, 0x01, 0x02, 0x05, 0x07, 0x17, 0x28, 0x29, 0x2A, 0x2C] → y = x)
           ∧ (op = 0x04 → y = x.setV (16 * c.va) (cs.map (BitVec.ofNat 16)))
           ∧ (op = 0x06 → y = x.setV (16 * c.va) ((codes16 (l.dataBytes c)).map (BitVec.ofNat 16)))
           ∧ (op = 0x08 → y = { v := x.v })
           ∧ (op = 0x10 → y = { x with dotr := to32 (mulr imm (x.dot (16 * c.va) cs)) })
           ∧ (op = 0x11 → y = x.mapAcc (16 * c.len) (fun e v => addr v (mulr (f32v x.pr) (b16v (cs.getD e 0)))))
           ∧ (op = 0x12 → y = x.mapAcc (16 * c.len) (fun e v => addr v (mulr (x.vAt (16 * c.va + e)) (b16v (cs.getD e 0)))))
           ∧ (op = 0x13 → y = x.setV (16 * c.va) ((List.range cs.length).map (fun e =>
               to16 (vadd (x.vAt (16 * c.va + e)) (b16v (cs.getD e 0))))))
           ∧ (op = 0x14 → y = x.setV (16 * c.va) ((List.range cs.length).map (fun e =>
               to16 (vmul (x.vAt (16 * c.va + e)) (b16v (cs.getD e 0))))))
           ∧ (op = 0x15 → y = x.setV (16 * c.va) ((List.range cs.length).map (fun e =>
               to16 (vmaxv (x.vAt (16 * c.va + e)) (b16v (cs.getD e 0))))))
           ∧ (op = 0x16 → y = x.setV (16 * c.va) ((List.range cs.length).map (fun e =>
               to16 (if vlt (b16v (cs.getD e 0)) (x.vAt (16 * c.va + e)) then one else vzero))))
           ∧ (op = 0x18 → y = { x with pr := to32 (exp2r (f32v x.dotr)) })
           ∧ (op = 0x19 → y = if f32v x.dotr = negInf then { x with pr := 0 }
               else x.softmax (f32v x.dotr) (16 * c.vb) none)
           ∧ (op = 0x1A → y = x.mapAcc (16 * c.vb) (fun _ v => mulr v imm))
           ∧ (op = 0x1B → y = if c.imm.testBit 0 then x.mapAcc (16 * c.vb) (fun e _ => x.vAt (16 * c.va + e))
               else x.setV (16 * c.va) ((List.range (16 * c.vb)).map (fun e => to16 (x.accAt e))))
           ∧ (op = 0x20 →
               let e := if c.len ≤ d then 0 else ceilDiv (c.len - d) 16
               y = x.att c (codes16 ((List.range (64 * c.vb * e)).map (fun j =>
                 mget s.stackMem (paOfDie k c.bank d (c.off + j))))) e)
           ∧ (op = 0x2B → y = x.setV (16 * c.va) ((List.range (16 * c.len)).map (fun e =>
               to16 ((s.mslot k c.slot).at_ e))))))
  ∧
  (∀ (i : Instr) (k op : Nat) (s : State) (l : NbList) (rest : List NbList),
     nbOf i = some (k, op) → op = 0x28 ∨ op = 0x29 ∨ op = 0x2A → s.nbMayStart k op l rest →
     l.cmd.inLimits l (s.storeTop l.cluster) = true →
     ∃ t, exec i s = .next t
       ∧ (op = 0x2A → t.mslot k l.cmd.slot = {})
       ∧ (op = 0x29 → t.mslot k l.cmd.slot = (s.mslot k l.cmd.slot).finish)
       ∧ (op = 0x28 → t.mslot k l.cmd.slot = l.cmd.dies.foldl (fun m d =>
           m.fold (s.nbu k l.cmd.bank d) (16 * l.cmd.vb) (l.cmd.imm.testBit 0)) (s.mslot k l.cmd.slot))
       ∧ (∀ j, j ≠ l.cmd.slot → t.mslot k j = s.mslot k j)
       ∧ (∀ b d, t.nbu k b d = s.nbu k b d) ∧ t.stackMem = s.stackMem)
  ∧
  (∀ (n : StackId) (m : ChanId) (s : State) (l : NbList) (rest : List NbList),
     s.nbMayStart (chanKey n m) 0x2C l rest → l.cmd.inLimits l (s.storeTop l.cluster) = true →
     let c := l.cmd
     let x := s.mslot (chanKey n m) c.slot
     let bytes := (if c.imm.testBit 33 then leBytes 4 x.max.toNat ++ leBytes 4 x.sum.toNat else [])
       ++ (List.range (16 * c.vb)).flatMap (fun e => if c.imm.testBit 32 then leBytes 4 (sget 0 x.vec e).toNat
          else leBytes 2 (encode .bf16 (x.at_ e)))
     ∃ l' r t, exec (.putc n m) s = .next t ∧ (t.chan (chanKey n m)).lists = l' :: rest ∧ l'.running = l.running ++ [r]
       ∧ r.puts = (List.zip (List.range bytes.length) bytes).map (fun q =>
           ⟨.store l.cluster, c.imm % 2 ^ 23 + q.1, 0xFF, q.2⟩)
       ∧ (∀ j, t.mslot (chanKey n m) j = s.mslot (chanKey n m) j) ∧ t.clusters = s.clusters)

/-- STV and STA store their elements on every selected die, and STI its list data on die DIE, where the write limit leaves
room for their segments; with no room, and none of their segments marked, they store nothing and set WB (R248). -/
def Obligations.NearBankStores : Prop :=
  ∀ (i : Instr) (k op : Nat) (s : State) (l : NbList) (rest : List NbList),
    nbOf i = some (k, op) → op = 0x05 ∨ op = 0x07 ∨ op = 0x17 → s.nbMayStart k op l rest → s.integ.errs = [] →
    s.integ.retired = [] → s.mirror.copied = [] → (∀ p, s.mirrored p = false) →
        l.cmd.inLimits l (s.storeTop l.cluster) = true →
    ∃ t, exec i s = .next t
      ∧ ((s.chan k).dirty.length + l.cmd.len ≤ (s.chan k).wlimit →
          (∀ d ∈ l.cmd.dies, ∀ j, j < 32 * l.cmd.len →
            mget t.stackMem (paOfDie k l.cmd.bank d (l.cmd.off + j))
              = ((if op = 0x05 then (List.range (16 * l.cmd.len)).flatMap (fun e =>
                    leBytes 2 (sget 0 (s.nbu k l.cmd.bank d).v (16 * l.cmd.va + e)).toNat)
                  else if op = 0x07 then l.dataBytes l.cmd
                  else if l.cmd.imm.testBit 0 then (List.range (8 * l.cmd.len)).flatMap (fun e =>
                    leBytes 4 (sget 0 (s.nbu k l.cmd.bank d).acc e).toNat)
                  else (List.range (16 * l.cmd.len)).flatMap (fun e =>
                    leBytes 2 (encode .bf16 ((s.nbu k l.cmd.bank d).accAt e)))).getD j 0))
          ∧ (∀ a, (∀ d ∈ l.cmd.dies, ∀ j, j < 32 * l.cmd.len → a ≠ paOfDie k l.cmd.bank d (l.cmd.off + j)) →
              mget t.stackMem a = mget s.stackMem a))
      ∧ ((s.chan k).wlimit ≤ (s.chan k).dirty.length →
          (∀ u, u < l.cmd.len → (s.chan k).dirty.contains (segOf l.cmd.bank (l.cmd.off + 32 * u)) = false) →
          t.stackMem = s.stackMem ∧ (t.chan k).dirty = (s.chan k).dirty
            ∧ t.fbit (rChst (k / 16) (k % 16)) 61 = true)

/-- The work of a mode switch begins once the channel's lists have run out and the line accesses it accepted are
complete (R226). To processor mode it takes 500 ns, NBUs and merge slots empty and WLIMIT that of the entry; to memory
mode, and in place, 500 ns and the recode of the marked segments, with no segment marked after. Until then nothing
happens. A channel with nothing running is refreshed at its place in the 3,900 ns period, a throttled stack's a second
time 1,950 ns later; its rows close, and the refresh ends after 350 ns. Work in progress there is put off by those 350
ns (R239). At any other instant the row changes nothing. -/
def Obligations.ModeSwitchAndRefresh : Prop :=
  (∀ (n : StackId) (m : ChanId) (s : State) (wl : Nat),
     (s.chan (chanKey n m)).switch = some (wl, none) → s.frozen = false → (s.chan (chanKey n m)).refreshing = none →
     s.integ.errs = [] → s.integ.retired = [] → s.integ.waitRows = [] →
     ((s.chan (chanKey n m)).lists ≠ [] ∨ s.lineBusy (chanKey n m) = true →
       exec (.modeswToProcessor n m) s = .next s ∧ exec (.modeswToMemory n m) s = .next s
         ∧ exec (.recodeInPlace n m) s = .next s)
     ∧ ((s.chan (chanKey n m)).lists = [] → s.lineBusy (chanKey n m) = false →
       (s.chan (chanKey n m)).state = .toProcessor →
       exec (.modeswToProcessor n m) s = .next (s.setChan (chanKey n m) { s.chan (chanKey n m) with
         nbus := [], slots := [], wlimit := wl, openRow := [], switch := some (wl, some (s.now + 500)) }))
     ∧ ((s.chan (chanKey n m)).lists = [] → s.lineBusy (chanKey n m) = false → (s.chan (chanKey n m)).state = .toMemory →
       exec (.modeswToMemory n m) s = .next (s.setChan (chanKey n m) { s.chan (chanKey n m) with
         dirty := [], wlimit := 0, openRow := []
         switch := some (wl, some (s.now + 500 + recodeNs (s.chan (chanKey n m)).dirty.length)) }))
     ∧ ((s.chan (chanKey n m)).lists = [] → s.lineBusy (chanKey n m) = false → (s.chan (chanKey n m)).state = .recoding →
       exec (.recodeInPlace n m) s = .next (s.setChan (chanKey n m) { s.chan (chanKey n m) with
         dirty := [], wlimit := wl, openRow := []
         switch := some (wl, some (s.now + 500 + recodeNs (s.chan (chanKey n m)).dirty.length)) })))
  ∧
  (∀ (n : StackId) (m : ChanId) (s : State),
     let k := chanKey n m
     let begun := s.modChan k (fun ch => { ch with refreshing := some s.now, openRow := [] })
     ((s.chan k).lists = [] → (s.chan k).bursts = [] → (s.chan k).switch = none → (s.chan k).refreshing = none →
       s.power.alive = true → s.tripped = false →
       (s.now % 3900 = 240 * m.val + 20 * n.val → exec (.refresh n m) s = .next begun)
       ∧ (s.now % 3900 ≠ 240 * m.val + 20 * n.val → exec (.refresh n m) s = .next s)
       ∧ (s.fbit rThmStat (10 + n.val) = true → s.now % 3900 = (240 * m.val + 20 * n.val + 1950) % 3900 →
           exec (.throttleRefresh n m) s = .next begun))
     ∧ (∀ l rest, (s.chan k).lists = l :: rest → s.frozen = false → (s.chan k).refreshing = none → s.power.alive = true →
         s.now % 3900 = 240 * m.val + 20 * n.val →
         (∀ r ∈ l.running, r.onBus = true → 0 < r.next → 16 * s.now < r.due) →
         ∃ t, exec (.refresh n m) s = .next t ∧ (t.chan k).refreshing = some s.now
           ∧ (t.chan k).lists = { l with running := l.running.map (fun r =>
               if 16 * s.now < r.due then { r with due := r.due + 5600 } else r) } :: rest
           ∧ (∀ k', k' ≠ k → t.chan k' = s.chan k'))
     ∧ (s.fbit rThmStat (10 + n.val) = false → exec (.throttleRefresh n m) s = .next s)
     ∧ (∀ t, (s.chan k).refreshing = some t →
         (t + 350 ≤ s.now → exec (.refreshEnd n m) s = .next (s.modChan k (fun ch => { ch with refreshing := none })))
         ∧ (s.now < t + 350 → exec (.refreshEnd n m) s = .next s)))

/-- A list's bytes arrive from its cluster's store 5 sixteenths of a ns a line after its turn began, and FULL_CH is
taken then. A running command ends when its time has passed, PUTC's bytes reaching the cluster store then; one that
holds the stack bus first gives up the bus, and STI's burst, which follows, takes 16 ns less in a row that is open
(R235). END done and nothing running, the list leaves the channel, the next list's turn begins, the cluster's read
cache is invalidated and its NBCMD completes. -/
def Obligations.NearBankListsRunAndEnd : Prop :=
  (∀ (n : StackId) (m : ChanId) (s : State) (l : NbList) (rest : List NbList),
     (s.chan (chanKey n m)).lists = l :: rest → s.frozen = false →
     (∀ t, l.turn = some t → l.arrived = false → (s.chan (chanKey n m)).state.runs = true → t + 5 * l.len ≤ 16 * s.now →
       s.integ.errs = [] →
       exec (.nbListArrived n m) s = .next (s.modChan (chanKey n m) (fun ch => { ch with lists := { l with
         arrived := true
         bytes := (List.range (64 * l.len)).map (fun j => mget (s.cluster l.cluster).store ((l.addr + j) % 2 ^ 23))
         fullCh := min 16 (max 8 (s.fld (rStk n.val) 4 0)) } :: rest })))
     ∧ (l.ended = false ∨ l.running ≠ [] → exec (.nbListComplete n m) s = .next s)
     ∧ (∀ o, l.ended = true → l.running = [] → l.addrSt = false → l.ueSt = false → l.wbSt = false →
         (s.cluster l.cluster).mv = [o] → o.seq = l.seq → o.w.sigK = 0 →
         ∃ t, exec (.nbListComplete n m) s = .next t
           ∧ (t.chan (chanKey n m)).lists = (match rest with
               | h :: r => { h with turn := some (16 * s.now) } :: r
               | [] => [])
           ∧ (t.cluster l.cluster).mv = [] ∧ (t.cluster l.cluster).cache = []
           ∧ (∀ k, k ≠ chanKey n m → t.chan k = s.chan k) ∧ otherClusters s t l.cluster
           ∧ t = (s.withClusters t.clusters).withChans t.chans))
  ∧
  (∀ (n : StackId) (m : ChanId) (j : Nat) (s : State) (l : NbList) (rest : List NbList) (r : NbRun),
     (s.chan (chanKey n m)).lists = l :: rest → l.running[j]? = some r → s.frozen = false →
     (s.chan (chanKey n m)).refreshing = none →
     (16 * s.now < r.due → exec (.nbCommandDone n m j) s = .next s)
     ∧ (r.due ≤ 16 * s.now → r.onBus = true → 0 < r.next →
         ∃ t, exec (.nbCommandDone n m j) s = .next t
           ∧ (t.chan (chanKey n m)).lists = { l with running := setAt l.running j { r with
               onBus := false, next := 0
               due := r.due + r.next
                 - (if r.row ≠ 0 ∧ sget 0 (s.chan (chanKey n m)).openRow (r.bank.getD 0) = r.row then 256 else 0) } } :: rest
           ∧ (r.row = 0 → (t.chan (chanKey n m)).openRow = (s.chan (chanKey n m)).openRow)
           ∧ (r.row ≠ 0 → sget 0 (t.chan (chanKey n m)).openRow (r.bank.getD 0) = r.lastRow)
           ∧ (∀ k, k ≠ chanKey n m → t.chan k = s.chan k) ∧ t = s.withChans t.chans)
     ∧ (r.due ≤ 16 * s.now → r.onBus = false ∨ r.next = 0 → s.plainWrites → (∀ p, s.mirrored p = false) →
         ∃ t, exec (.nbCommandDone n m j) s = .next t
           ∧ (t.chan (chanKey n m)).lists = { l with running := dropAt l.running j } :: rest
           ∧ (∀ sp a, t.byteAt sp a = storedByte r.puts sp a (s.byteAt sp a))
           ∧ (∀ k, k ≠ chanKey n m → t.chan k = s.chan k) ∧ t.hostMem = s.hostMem ∧ t.flags = s.flags
             ∧ t.parts = s.parts))

/-! ### Time (chapter 2) -/

/-- With fabric time loaded, a pulse of the reference does not step it: the error against the nearest whole second is
what remains to be slewed away, and LOCKED falls where it exceeds 10 ns. Before any load, in the time stage and with no
slot started, it loads the whole seconds of TT_EPOCH, once, and EPOCH_SEEN is set. Between the two, and while ALT_LINK is
in use, a pulse is noted and corrects nothing. Other sources ignore it. -/
def Obligations.EpochPulseLoadsOnce : Prop :=
  ∀ s : State,
    (s.timeSrc ≠ 1 → exec .epochPulse s = .next s)
    ∧ (s.timeSrc = 1 → s.power.alive = true → s.mayLoad = false → s.slews = false ∨ s.time.altInUse = true →
        exec .epochPulse s = .next (s.withTime { s.time with lastPulse := some s.now, agreeAt := none }))
    ∧ (s.timeSrc = 1 → s.power.alive = true → s.mayLoad = false → s.slews = true → s.time.altInUse = false →
        ∃ t, exec .epochPulse s = .next t ∧ t.now = s.now
          ∧ t.time.err = (if s.now % 10 ^ 9 ≤ 5 * 10 ^ 8 then -((s.now % 10 ^ 9 : Nat) : Int)
              else ((10 ^ 9 - s.now % 10 ^ 9 : Nat) : Int))
          ∧ t.time.lastPulse = some s.now ∧ t.locked = (s.locked && decide (t.time.err.natAbs ≤ 10))
          ∧ (∀ k, k ≠ rTtStatus → t.reg k = s.reg k) ∧ t = (s.withRegs t.regs).withTime t.time)
    ∧ (s.timeSrc = 1 → s.power.alive = true → s.mayLoad = true →
        ∃ t, exec .epochPulse s = .next t ∧ t.now = (s.reg rTtEpoch).toNat / 10 ^ 9 * 10 ^ 9
          ∧ t.time.err = 0 ∧ t.fbit rTtStatus 0 = true ∧ t.mayLoad = false
          ∧ (∀ k, k < 128 → (t.chan k).refreshing = some t.now)
          ∧ t.stackMem = s.stackMem ∧ t.clusters = s.clusters ∧ t.flags = s.flags)

/-- A write of TT_SRC takes effect at once, without stepping time, and where it changes the source LOCKED falls (R41);
SRC 0 leaves no uncertainty and no holdover (Table 2.1) and is locked at once (R469). The loss of the source in use
clears LOCKED; time moves to ALT_LINK where that link is up and locked, and holdover begins otherwise. A link is lost
as a source when it is down or has carried no time for 10 µs (R38). FALLBACK begins, with its event and a PFEV record,
when HOLD_NS exceeds the limit of TT_HOLD. A loss of anything else changes nothing. -/
def Obligations.TimeSourceChangesAndLosses : Prop :=
  (∀ (v : W64) (s : State), s.fld rHostBoot 63 61 ≠ 5 →
     ∃ t, exec (.ttSrcWrite v) s = .next t ∧ t.now = s.now ∧ t.time.altInUse = false
       ∧ (t.timeSrc ≠ 0 → t.time.err = s.time.err ∧ t.time.hold = s.time.hold ∧ t.fbit rTtStatus 6 = s.fbit rTtStatus 6)
       ∧ (t.timeSrc = 0 → t.holdNs = 0 ∧ t.fbit rTtStatus 6 = false)
       ∧ t.reg rTtSrc = writeWord fTtSrc (s.reg rTtSrc) .w64 v
       ∧ (t.timeSrc ≠ 0 → t.locked = if (t.timeSrc, t.timeLink) = (s.timeSrc, s.timeLink) then s.locked else false)
       ∧ (t.timeSrc = 0 → s.power.alive = true → t.locked = true)
       ∧ (∀ k, k ≠ rTtSrc → k ≠ rTtStatus → t.reg k = s.reg k)
       ∧ t = (s.withRegs t.regs).withTime t.time)
  ∧
  (∀ s : State,
     let alt := s.fld rTtSrc 31 26
     let altOk := s.time.altInUse = false ∧ s.fld (rLst alt) 63 62 = 2 ∧ s.fbit (rLst alt) 55 = true
     (s.timeSrc ≠ 1 ∨ s.time.altInUse = true → exec .refLost s = .next s)
     ∧ (s.timeSrc = 1 → s.time.altInUse = false →
         ∃ t, exec .refLost s = .next t ∧ t.fbit rTtStatus 3 = true ∧ t.locked = false
           ∧ (altOk → t.time.altInUse = true ∧ t.fbit rTtStatus 6 = s.fbit rTtStatus 6)
           ∧ (¬ altOk → t.time.altInUse = false ∧ t.fbit rTtStatus 6 = true)
           ∧ t.now = s.now ∧ t = (s.withRegs t.regs).withTime t.time)
     ∧ (∀ l : LinkId, s.timeLink ≠ some l.val ∨ s.lkState l.val = 2 ∧ s.now < (s.link l.val).pAt + 10000 →
         exec (.linkLost l) s = .next s)
     ∧ (∀ l : LinkId, s.timeLink = some l.val → s.lkState l.val ≠ 2 ∨ (s.link l.val).pAt + 10000 ≤ s.now →
         ∃ t, exec (.linkLost l) s = .next t ∧ t.fbit rTtStatus 2 = true ∧ t.locked = false
           ∧ (altOk ∧ alt ≠ l.val → t.time.altInUse = true ∧ t.fbit rTtStatus 6 = s.fbit rTtStatus 6)
           ∧ (¬ (altOk ∧ alt ≠ l.val) → t.time.altInUse = false ∧ t.fbit rTtStatus 6 = true)
           ∧ t.now = s.now ∧ t = (s.withRegs t.regs).withTime t.time))
  ∧
  (∀ s : State,
     (s.fbit rTtStatus 7 = true ∨ s.holdNs ≤ s.fld rTtHold 31 16 → exec .fallback s = .next s)
     ∧ (s.fbit rTtStatus 7 = false → s.fld rTtHold 31 16 < s.holdNs →
         exec .fallback s = .next (((s.setBit rTtStatus 7 true).setBit rTtStatus 1 true).pfev 1 0)))

/-! ### Timetables (chapter 2) -/

/-- A commit waits for a frame boundary. There it is judged: what fails leaves the active bank and sets REJECT with the
first failing code; what passes makes the standby bank active and its length and phase those in force. The first frame
under a new length begins at the commit where that is a start of it. While no length is in force the boundary is a frame
start under the length and phase programmed, or, where the check refuses those, a whole µs: the model's choice (log
entry 18). -/
def Obligations.CommitActsAtTheBoundary : Prop :=
  ∀ (p : PartId) (s : State),
    (∃ t, exec (.ttCommit p) s = .next t ∧ t.fbit (rTtFrame p.val) 61 = true
      ∧ (∀ i, i ≠ 61 → t.fbit (rTtFrame p.val) i = s.fbit (rTtFrame p.val) i)
      ∧ (∀ k, k ≠ rTtFrame p.val → t.reg k = s.reg k) ∧ t = s.withRegs t.regs)
    ∧ (s.ready = true → s.fbit (rTtFrame p.val) 61 = true → (s.part p.val).frame ≠ some s.now →
        isFrameStart s.now (s.part p.val).actLen (s.part p.val).actPhase = true ∨ (s.part p.val).actLen = 0
          ∧ (if 20 ≤ s.fld (rTtFrame p.val) 48 32 ∧ s.fld (rTtFrame p.val) 48 32 ≤ 100000
                ∧ s.fld (rTtFrame p.val) 16 0 < s.fld (rTtFrame p.val) 48 32
              then isFrameStart s.now (s.fld (rTtFrame p.val) 48 32) (s.fld (rTtFrame p.val) 16 0) = true
              else s.now % 1000 = 0) →
        s.fbit rTtStatus 7 = false → s.pendingOut 0 = none → s.pendingOut 1 = none → s.reg (rScu p.val + 8) = 0 →
        (∀ l, (s.tmpl p.val).hasLink l = false) →
        ∃ t, exec (.frameBoundary p) s = .next t ∧ t.regs = (s.takeCommit p.val).regs
          ∧ (t.part p.val).actLen = ((s.takeCommit p.val).part p.val).actLen
          ∧ (t.part p.val).actPhase = ((s.takeCommit p.val).part p.val).actPhase
          ∧ (t.part p.val).frame = (if s.fbit (rTtFrame p.val) 63
            && isFrameStart s.now (t.part p.val).actLen (t.part p.val).actPhase
              then some s.now else none)
          ∧ s.violationsRestart t p.val ∧ t = ((s.withRegs t.regs).withParts t.parts).withLinks t.links)
    ∧ (s.fbit (rTtFrame p.val) 61 = true →
        (s.commitCode p.val ≠ 0 → (s.takeCommit p.val).fbit (rTtFrame p.val) 61 = false
          ∧ (s.takeCommit p.val).fbit (rTtFrame p.val) 60 = true
          ∧ (s.takeCommit p.val).fld (rTtFrame p.val) 59 56 = s.commitCode p.val
          ∧ (s.takeCommit p.val).parts = s.parts
          ∧ ∀ n, n < 64 → (s.takeCommit p.val).slotEntry p.val n true = s.slotEntry p.val n true)
        ∧ (s.commitCode p.val = 0 → (s.takeCommit p.val).fbit (rTtFrame p.val) 61 = false
          ∧ (s.takeCommit p.val).fbit (rTtFrame p.val) 60 = false
          ∧ ((s.takeCommit p.val).part p.val).actLen = s.fld (rTtFrame p.val) 48 32
          ∧ ((s.takeCommit p.val).part p.val).actPhase = s.fld (rTtFrame p.val) 16 0
          ∧ ∀ n, n < 64 → (s.takeCommit p.val).slotEntry p.val n true = s.slotEntry p.val n false
              ∧ (s.takeCommit p.val).slotEntry p.val n false = s.slotEntry p.val n true))

/-- A frame of an enabled timetable begins at each instant its length and phase name, and at no other, and none before
READY; with no commit, FALLBACK, mapping, serving or link to act on, only the partition's counts of timing violations
restart (R351). -/
def Obligations.FrameBeginsAtItsInstant : Prop :=
  ∀ (p : PartId) (s : State),
    (isFrameStart s.now (s.part p.val).actLen (s.part p.val).actPhase = false →
      (s.part p.val).actLen ≠ 0 ∨ s.fbit (rTtFrame p.val) 61 = false → exec (.frameBoundary p) s = .next s)
    ∧ (s.ready = false → exec (.frameBoundary p) s = .next s)
    ∧ (s.ready = true → isFrameStart s.now (s.part p.val).actLen (s.part p.val).actPhase = true →
        (s.part p.val).frame ≠ some s.now → s.fbit rTtStatus 7 = false → s.fbit (rTtFrame p.val) 61 = false →
        s.pendingOut 0 = none → s.pendingOut 1 = none → s.reg (rScu p.val + 8) = 0 →
        (∀ l, (s.tmpl p.val).hasLink l = false) →
        ∃ t, exec (.frameBoundary p) s = .next t
          ∧ t.part p.val = { s.part p.val with frame := if s.fbit (rTtFrame p.val) 63 then some s.now else none }
          ∧ (∀ q, q ≠ p.val → t.part q = s.part q) ∧ s.violationsRestart t p.val
          ∧ t = (s.withParts t.parts).withLinks t.links)

/-- A slot whose entry is valid starts within 4 ns of its programmed start: the clusters it names and its partition
holds run its kernel's streams, their counters 0 to 55 clear and 56 to 63 the slot's parameters; an image whose header
R74 refuses, or that reads uncorrectable, starts none. Where it starts on a
cluster that another slot of the partition still owns, a host error (R51), it starts all the same, and clusters of
other partitions are untouched (R13); outside its frame, its validity or its start nothing happens. -/
def Obligations.SlotStartsItsStep : Prop :=
  (∀ (p : PartId) (n : SlotId) (s : State) (f : Nat),
     let e := s.slotEntry p.val n.val true
     (s.part p.val).frame = some f → s.fbit (rTtFrame p.val) 63 = true → e.valid = true → s.ready = true →
     s.validPart p.val = true → f + e.start ≤ s.now → s.now ≤ f + e.start + 4 → (s.part p.val).slots = [] →
     s.halted = false → s.mirrored p.val = false → e.kernel ≠ 0xFF → s.fbit (rScu p.val + 8) n.val = false → e.cnt = 0 →
     ∃ r t, exec (.slotStart p n) s = .next t ∧ t.slot p.val n.val = some r
       ∧ r.kernel = e.kernel ∧ r.start = f + e.start ∧ r.len = e.len ∧ r.phase = .step
       ∧ r.params = s.hostParams p.val n.val
       ∧ (∀ c, c ∈ r.clusters ↔ c < 32 ∧ e.clusters.testBit c = true ∧ (s.tmpl p.val).hasCluster c = true
           ∧ (s.cluster c).run = none)
       ∧ (∀ c ∈ r.clusters, (t.cluster c).run = some (p.val, n.val)
           ∧ (∀ j, j < 56 → sget 0 (t.cluster c).sycs j = 0)
           ∧ (∀ j, j < 8 → sget 0 (t.cluster c).sycs (56 + j) = r.params.getD j 0)
           ∧ (s.imageUnread c e.kernel = true → (t.cluster c).streams = [] ∧ r.poison = true)
           ∧ (s.imageUnread c e.kernel = false →
               (∀ m, (s.cluster c).imageOf e.kernel = some m → (t.cluster c).streams = m.streams (s.cluster c))
               ∧ ((s.cluster c).imageOf e.kernel = none → (t.cluster c).streams = [] ∧ r.imageBad = true)))
       ∧ (∀ c, c ∉ r.clusters → t.cluster c = s.cluster c)
       ∧ (∀ k, k ≠ rFwLogstat → t.reg k = s.reg k) ∧ t.stackMem = s.stackMem ∧ t.flags = s.flags ∧ t.chans = s.chans)
  ∧
  (∀ (p : PartId) (n : SlotId) (s : State),
     let e := s.slotEntry p.val n.val true
     ((s.part p.val).frame = none → exec (.slotStart p n) s = .next s)
     ∧ (∀ f, (s.part p.val).frame = some f →
         (e.valid = false ∨ s.fbit (rTtFrame p.val) 63 = false ∨ s.now < f + e.start ∨ f + e.start + 4 < s.now →
           exec (.slotStart p n) s = .next s)
         ∧ (∀ k r, s.fbit (rTtFrame p.val) 63 = true → e.valid = true → s.ready = true → s.validPart p.val = true →
             f + e.start ≤ s.now → s.now ≤ f + e.start + 4 → (∀ k ∈ slotKeys n.val, s.slot p.val k = none) →
             (k, r) ∈ s.runs p.val → k % 64 ≠ n.val → r.start ≤ s.now → s.now < r.start + r.len →
             r.entry.clusters &&& e.clusters ≠ 0 →
             ∃ t r', exec (.slotStart p n) s = .next t ∧ t.slot p.val n.val = some r' ∧ r'.start = f + e.start
               ∧ ∀ c, (s.tmpl p.val).hasCluster c = false → t.cluster c = s.cluster c)))

/-- A step is complete when every stream has ended, everything it issued has completed and everything it wrote has landed:
its record goes to the partition's event ring, its clusters run nothing and start none for 4 ns, and its duties or its
background follow. A step not complete when its leading begins, LEAD_NS before its slot's end, has overrun, and TT_OVR
counts it; once it is complete its duties are skipped, and TT_OVR names the slot and how long the overrun was.
One frame after its start the watchdog ends every stream of it and discards the RFINALs it has held. -/
def Obligations.StepsCompleteOrOverrun : Prop :=
  (∀ (p : PartId) (n : SlotId) (s : State) (key : Nat) (r : SlotRun),
     s.findRun p.val n.val (fun r => r.phase == .step) = some (key, r) → s.slot p.val key = some r →
     (∀ c ∈ r.clusters, (s.cluster c).flight = [] ∧ (s.cluster c).mvDue = none) →
     ((s.halted = true ∨ r.waiting ≠ [] ∨ (∃ c ∈ r.clusters, (s.cluster c).quiet = false) ∨ s.unlanded p.val key = true →
         exec (.stepComplete p n) s = .next s)
     ∧ (s.halted = false → r.waiting = [] → (∀ c ∈ r.clusters, (s.cluster c).quiet = true) →
       s.unlanded p.val key = false →
         s.now < s.leadAt r → r.overrun = false → r.step = none → s.mirrored p.val = false → (∀ e ∈ s.runs p.val,
             e.2.waiting = []) →
         ∃ t, exec (.stepComplete p n) s = .next t
           ∧ t.slot p.val key = some { r with
               phase := if r.entry.modesw then .modesw else if r.entry.swap || r.entry.maint then .duties else .background
               dutyStart := if !r.entry.modesw && (r.entry.swap || r.entry.maint) then some s.now else r.dutyStart }
           ∧ (∀ c ∈ r.clusters, t.cluster c = { s.cluster c with run := none, freeAt := s.now + 4 })
           ∧ (∀ c, c ∉ r.clusters → t.cluster c = s.cluster c)
           ∧ t.hostMem = (s.post p.val 1 (stepWord p.val key r).toNat (BitVec.ofNat 64 r.start) 0).hostMem
           ∧ t.regs = (s.post p.val 1 (stepWord p.val key r).toNat (BitVec.ofNat 64 r.start) 0).regs
           ∧ t.host = (s.post p.val 1 (stepWord p.val key r).toNat (BitVec.ofNat 64 r.start) 0).host
           ∧ t.stackMem = s.stackMem ∧ t.flags = s.flags ∧ t.chans = s.chans)
     ∧ (s.halted = false → r.waiting = [] → (∀ c ∈ r.clusters, (s.cluster c).quiet = true) →
       s.unlanded p.val key = false →
         r.overrun = true → r.entry.modesw = false → r.step = none → s.mirrored p.val = false →
         (∀ e ∈ s.runs p.val, e.2.waiting = []) →
         ∃ t, exec (.stepComplete p n) s = .next t ∧ t.slot p.val key = some { r with phase := .finished }
           ∧ t.fld (rTtOvr p.val) 63 40 = min 0xFFFFFF ((s.now - s.leadAt r) / 10) ∧ t.fld (rTtOvr p.val) 37 32 = key % 64
           ∧ t.fld (rTtOvr p.val) 31 0 = s.fld (rTtOvr p.val) 31 0
           ∧ (∀ c, c ∉ r.clusters → t.cluster c = s.cluster c)
           ∧ t.stackMem = s.stackMem ∧ t.flags = s.flags ∧ t.chans = s.chans)))
  ∧
  (∀ (p : PartId) (n : SlotId) (s : State) (key : Nat) (r : SlotRun), s.slot p.val key = some r → r.phase = .step →
     (s.findRun p.val n.val (fun r => r.working) = some (key, r) →
       (s.now < s.leadAt r → exec (.overrun p n) s = .next s)
       ∧ (s.leadAt r ≤ s.now → r.overrun = false →
           ∃ t, exec (.overrun p n) s = .next t ∧ t.slot p.val key = some { r with overrun := true, late := true }
             ∧ t.fld (rTtOvr p.val) 31 0 = min (s.fld (rTtOvr p.val) 31 0 + 1) (2 ^ 32 - 1)
             ∧ t.fld (rTtOvr p.val) 63 32 = s.fld (rTtOvr p.val) 63 32
             ∧ (∀ k, k ≠ rTtOvr p.val → (∀ j, j < 8 → k ≠ rTrcPcnt j) → t.reg k = s.reg k)
             ∧ t = (s.withRegs t.regs).withParts t.parts))
     ∧ (s.findRun p.val n.val (fun r => r.phase == .step) = some (key, r) → s.halted = false →
         (s.now < r.start + (s.part p.val).actLen * 1000 + r.haltedNs → exec (.stepWatchdog p n) s = .next s)
         ∧ (r.start + (s.part p.val).actLen * 1000 + r.haltedNs ≤ s.now →
             ∃ t, exec (.stepWatchdog p n) s = .next t
               ∧ t.slot p.val key = some { r with watchdog := true, late := true, waiting := [] }
               ∧ (∀ c ∈ r.clusters, ∀ e, (t.stream c e).live = false)
               ∧ (∀ c, c ∉ r.clusters → t.cluster c = s.cluster c)
               ∧ (∀ g h, (t.group g).held = some h → ¬ (h.part = p.val ∧ h.slot = some key))
               ∧ t.regs = s.regs ∧ t.stackMem = s.stackMem ∧ t.landing = s.landing)))

/-- The MODESW duty sets each channel of the partition that its entry acts on switching, from the mode the action
starts in (Table 8.6), and a channel whose work is done takes its new mode. The SWAP and MAINT duties run, in this
order, until DUTY_LEN after they began, and then stop; a slot with BKGD, whether or not it has such duties, serves the
resynchronisation copy until its leading begins, page by page. A MODESW duty that acts on no channel ends at once, and
the read caches of the partition's clusters are invalidated (R276). -/
def Obligations.DutiesRunInTheirTime : Prop :=
  ((∀ (s : State) (k idx : Nat),
     let w := s.reg (rMsw (k / 16) idx (k % 16))
     let ch := s.chan k
     (bf w 63 62 = 1 → ch.state = .processor →
       s.actChannel k idx = (true, s.setChan k { ch with state := .toMemory, switch := some (0, none) }))
     ∧ (bf w 63 62 = 2 → ch.state = .memory →
       s.actChannel k idx = (true, s.setChan k { ch with state := .toProcessor, switch := some (min 2359296 (bf w 21 0), none) }))
     ∧ (bf w 63 62 = 3 → ch.state = .processor →
       s.actChannel k idx = (true, s.setChan k { ch with state := .recoding, switch := some (min 2359296 (bf w 21 0), none) }))
     ∧ (bf w 63 62 = 0 → s.actChannel k idx = (false, s)))
   ∧ (∀ (p : PartId) (n : SlotId) (s : State) (key : Nat) (r : SlotRun),
       s.findRun p.val n.val (fun r => r.phase == .modesw && !r.switching) = some (key, r) → s.slot p.val key = some r →
       (s.halted = true → exec (.modeswDuty p n) s = .next s) ∧ (s.halted = false →
       let acted := (s.tmpl p.val).chans.filter (s.switches r.entry.mswIdx)
       ∃ t, exec (.modeswDuty p n) s = .next t
         ∧ (∀ k ∈ acted,
             let w := s.reg (rMsw (k / 16) r.entry.mswIdx (k % 16))
             let wl := some (min 2359296 (bf w 21 0), none)
             t.chan k = (match bf w 63 62 with
               | 1 => { s.chan k with state := .toMemory, switch := some (0, none) }
               | 2 => { s.chan k with state := .toProcessor, switch := wl }
               | _ => { s.chan k with state := .recoding, switch := wl }))
         ∧ (∀ k, k ∉ acted → t.chan k = s.chan k)
         ∧ (acted ≠ [] → t.slot p.val key = some { r with switching := true, acted := acted.eraseDups }
             ∧ t = (s.withChans t.chans).withParts t.parts)
         ∧ (acted = [] → ∀ c, c < 32 → (s.tmpl p.val).clusters.testBit c = true → (t.cluster c).cache = [])
         ∧ t.stackMem = s.stackMem ∧ t.caseMem = s.caseMem ∧ t.flags = s.flags ∧ t.reqs = s.reqs ∧ t.scus = s.scus))
   ∧ (∀ (n : StackId) (m : ChanId) (s : State) (wl d : Nat),
       (s.chan (chanKey n m)).switch = some (wl, some d) → s.frozen = false →
       (∀ p, ∀ e ∈ s.runs p, chanKey n m ∉ e.2.acted) →
       (s.now < d → exec (.modeswDone n m) s = .next s)
       ∧ (d ≤ s.now → exec (.modeswDone n m) s = .next (s.setChan (chanKey n m) { s.chan (chanKey n m) with
           state := (s.chan (chanKey n m)).state.target, switch := none }))))
  ∧
  (∀ (p : PartId) (n : SlotId) (s : State) (key d : Nat) (r : SlotRun), s.slot p.val key = some r → r.dutyStart = some d →
     (s.findRun p.val n.val (fun r => r.phase == .duties && r.entry.maint && !s.swapLeft p.val r) = some (key, r) →
         s.halted = false →
       (s.now < d + r.entry.dutyLen →
         exec (.maintDuty p n) s = .next (s.setSlot p.val key (some { r with phase := .maint })))
       ∧ (d + r.entry.dutyLen ≤ s.now → exec (.maintDuty p n) s = .next s))
     ∧ (s.findRun p.val n.val (fun r => r.phase == .duties || r.phase == .maint) = some (key, r) →
       (s.now < d + r.entry.dutyLen → exec (.dutyLenExpiry p n) s = .next s)
       ∧ (d + r.entry.dutyLen ≤ s.now →
         exec (.dutyLenExpiry p n) s = .next (s.setSlot p.val key (some { r with phase := .background }))))
     ∧ (∀ v k left, s.findRun p.val n.val (fun r => r.phase == .duties && r.entry.swap) = some (key, r) →
       (s.scu p.val).swap = some (v, k, left + 1) → s.halted = false → (∀ k, (s.chan k).refreshing = none
           ∧ s.calibrating k = false) →
       (d + r.entry.dutyLen ≤ s.now → exec (.swapDuty p n) s = .next s)
       ∧ (s.now < d + r.entry.dutyLen → ∃ t, exec (.swapDuty p n) s = .next t
           ∧ (t.scu p.val).swap = some (v, k, left) ∧ (∀ q, q ≠ p.val → t.scu q = s.scu q)
           ∧ t.slot p.val key = some r ∧ t.caseMem = s.caseMem ∧ t.flags = s.flags)))
  ∧
  (∀ (p : PartId) (n : SlotId) (s : State) (key : Nat) (r : SlotRun), s.slot p.val key = some r → r.entry.bkgd = true →
     (s.findRun p.val n.val (fun r => r.entry.bkgd && s.dutiesIdle p.val r) = some (key, r) → s.halted = false →
       (s.leadAt r ≤ s.now → exec (.bkgd p n) s = .next s)
       ∧ (∀ q rest, s.now < s.leadAt r → s.fld rMirRsync 63 62 = 1 → s.mirUp = true →
           s.mirror.copyMap.filter s.pageFree = q :: rest → s.plainReads →
           ∃ t bytes, exec (.bkgd p n) s = .next t ∧ t.slot p.val key = some { r with phase := .background }
             ∧ t.mirror.copyMap = s.mirror.copyMap.filter (· != q) ∧ t.mirror.copied = linsert q s.mirror.copied
             ∧ t.mirror.forwarded = s.mirror.forwarded ++ [.page q bytes []]
             ∧ (∀ o, o < 2 ^ 21 → mget s.stackMem ((pageBase q).2 + o) ≠ 0 → (pageBase q).1 = .stack →
                 (o, mget s.stackMem ((pageBase q).2 + o)) ∈ bytes)
             ∧ t = (s.withParts t.parts).withMirror t.mirror)))

/-! ### Fabric links (chapter 12) -/

/-- Bringing links up and losing them: ENABLE written 1 starts training; RETRAIN trains an enabled link anew, and on a
disabled one discards its frames and ends a quarantine; a training attempt brings the link UP with the generation, the
one-way delay (half the round trip, rounded up) and 16 credits on each channel, or tries the next generation down, or
leaves it DOWN; a down link tries again after 100 ms; lanes lost by a fault of the partner train again. A failed lane:
where the group's spare can take it, the link stays up and, within 50 µs, SPARED and LANE name the lane, which is
retired; where it cannot, the link is DOWN and the module has failed: one heartbeat with FAILED, where MIR carries
one, then FENCED. MIR trains with the partner of its own pair identity alone, and runs on four lanes when four of its
eight fail. -/
def Obligations.LinksTrainAndSpareLanes : Prop :=
  (∀ (l : LinkId) (s : State),
     (s.fbit (rLctl l.val) 63 = true → exec (.linkEnable l) s = .next s)
     ∧ (s.fbit (rLctl l.val) 63 = false → ∃ t, exec (.linkEnable l) s = .next t ∧ t.fbit (rLctl l.val) 63 = true
         ∧ (s.lkState l.val ≠ 3 → t.lkState l.val = 1 ∧ t.fbit (rLst l.val) 55 = false) ∧ (s.lkState l.val = 3 →
           t.lkState l.val = 3)
         ∧ t = ((s.withRegs t.regs).withLinks t.links).withClusters t.clusters)
     ∧ (s.fbit (rLctl l.val) 63 = true → ∃ t, exec (.retrain l) s = .next t ∧ t.lkState l.val = 1
         ∧ (t.link l.val).tryGen = 3 ∧ t = ((s.withRegs t.regs).withLinks t.links).withClusters t.clusters)
     ∧ (s.fbit (rLctl l.val) 63 = false → ∃ t, exec (.retrain l) s = .next t ∧ (t.link l.val).sendQ = []
         ∧ (t.link l.val).outQ = [] ∧ (t.link l.val).unacked = [] ∧ (t.link l.val).unacked0 = []
         ∧ t.lkState l.val = (if s.lkState l.val = 3 then 0 else s.lkState l.val)
         ∧ t = ((s.withRegs t.regs).withLinks t.links).withClusters t.clusters)
     ∧ (∃ t, exec (.restore l) s = .next t ∧ (t.link l.val).restoreAsked = true
         ∧ (∀ j, j ≠ l.val → t.link j = s.link j) ∧ t = s.withLinks t.links)
     ∧ (∀ tr : Training,
         (s.lkState l.val ≠ 1 → exec (.linkTrained (some l) tr) s = .next s)
         ∧ (s.lkState l.val = 1 → tr.up = true → ∃ t, exec (.linkTrained (some l) tr) s = .next t ∧ t.lkState l.val = 2
               ∧ t.fld (rLst l.val) 61 60 = max 1 (min (min (s.maxGen l.val) (s.link l.val).tryGen) tr.gen.toNat) % 4
               ∧ t.owd l.val = (tr.roundTrip + 1) / 2 % 2 ^ 32 ∧ (t.link l.val).viol = 0
               ∧ ((t.link l.val).rxNext, (t.link l.val).rxNext0) = (0, 0) ∧ t.stackMem = s.stackMem ∧ t.flags = s.flags
               ∧ (s.txClear l.val → (s.link l.val).unacked = [] →
                   ((t.link l.val).txCred1, (t.link l.val).txCred2, (t.link l.val).rxCred1, (t.link l.val).rxCred2)
                     = (16, 16, 16, 16)
                   ∧ ((t.link l.val).txNext, (t.link l.val).txNext0) = (0, 0)
                   ∧ (t.link l.val).wire = (s.link l.val).wire))
         ∧ (s.lkState l.val = 1 → tr.up = false → min (s.maxGen l.val) (s.link l.val).tryGen ≤ 1 →
             ∃ t, exec (.linkTrained (some l) tr) s = .next t ∧ t.lkState l.val = 0 ∧ (t.link l.val).downAt = s.now)
         ∧ (s.lkState l.val = 1 → tr.up = false → 1 < min (s.maxGen l.val) (s.link l.val).tryGen →
             exec (.linkTrained (some l) tr) s = .next (s.modLink l.val (fun x =>
               { x with tryGen := min (s.maxGen l.val) (s.link l.val).tryGen - 1 }))))
     ∧ (s.fbit (rLctl l.val) 63 = true → s.lkState l.val = 0 →
         ((s.link l.val).downAt + 100000000 ≤ s.now → ∃ t, exec (.trainRetry l) s = .next t ∧ t.lkState l.val = 1)
         ∧ (s.now < (s.link l.val).downAt + 100000000 → exec (.trainRetry l) s = .next s))
     ∧ (s.lkState l.val = 2 → ∃ t, exec (.lanesLost (some l)) s = .next t ∧ t.lkState l.val = 1
       ∧ t.fbit (rLst l.val) 55 = false)
     ∧ (s.lkState l.val ≠ 2 → exec (.lanesLost (some l)) s = .next s))
  ∧
  (∀ (l : LinkId) (lane : Fin 4) (s : State), s.lkState l.val = 2 →
     let told := fun j => (Config.freeWord s.free (j % 4)).getLsbD 0
     (s.spareFree l.val told = true → ∃ t d, exec (.laneFail (some l) lane) s = .next t ∧ d ≤ 50000
       ∧ (t.link l.val).sparing = some (lane.val, s.now + d) ∧ t.lkState l.val = 2 ∧ t.sends l.val = false
       ∧ (∀ j, j ≠ l.val → t.link j = s.link j) ∧ t = (s.withLinks t.links).withFree t.free)
     ∧ (∀ d, (s.link l.val).sparing = some (lane.val, d) → d ≤ s.now →
         (s.spareDone l.val).fbit (rLst l.val) 58 = true ∧ (s.spareDone l.val).fld (rLst l.val) 57 56 = lane.val
         ∧ (s.spareDone l.val).lkState l.val = 2 ∧ ((s.spareDone l.val).link l.val).sparing = none
         ∧ (s.spareDone l.val).integ.retired = s.integ.retired ++ [laneEntry l.val lane.val])
     ∧ (s.spareFree l.val told = false → ∃ t, exec (.laneFail (some l) lane) s = .next t ∧ t.lkState l.val = 0
       ∧ t.role = roleFenced ∧ t.power.fault = true ∧ (t.link l.val).downAt = s.now
       ∧ (s.mirUp = true → ∃ h, t.mirror.sent = s.mirror.sent ++ [h] ∧ h.failed = true ∧ h.time = s.now)
       ∧ (s.mirUp = false → t.mirror.sent = s.mirror.sent)
       ∧ t.stackMem = s.stackMem ∧ t.integ = s.integ))
  ∧
  (∀ (s : State) (lane : Fin 4) (tr : Training),
     (s.power.input = true → s.fld rMirStat 60 59 = 0 → tr.up = true → s.keepWord 0 ≠ 0 → tr.pair = s.keepWord 0 →
       exec (.linkTrained none tr) s = .next (s.setFld rMirStat 60 59 tr.lanes.val))
     ∧ (tr.up = false ∨ s.keepWord 0 = 0 ∨ tr.pair ≠ s.keepWord 0 → exec (.linkTrained none tr) s = .next s)
     ∧ exec (.lanesLost none) s = .next (s.setFld rMirStat 60 59 0)
     ∧ (∃ t, exec (.laneFail none lane) s = .next t ∧ t.fld rMirStat 60 59 = s.fld rMirStat 60 59 - 1
         ∧ t.fld rMirStat 63 61 = s.fld rMirStat 63 61 ∧ (∀ k, k ≠ rMirStat → t.reg k = s.reg k) ∧ t = s.withRegs t.regs))

/-- A frame in sequence acts: a WGANN announces its group's count; a WRITE on VC1 or VC2 of plain data lands its bytes and
may count in its group (that it is the last frame of its RWRITE is the model's free choice, log entry 52); a WRITE on VC0
lands in its receive window, whose flag is set once BYTES have arrived; an RFINAL is held with its flag, and a further
frame of it joins the held block; a REL closes the group of the cluster it names. Each takes its number. A frame that
breaks a rule of Table 12.12 does nothing but be counted and logged: a wrong CRC or a repeated number moves nothing; a
frame of unknown opcode is answered with a NAK. On a link that is not up it is not even counted. -/
def Obligations.FramesActOrAreDiscarded : Prop :=
  (∀ (l : LinkId) (f : Frame) (s : State), s.inSequence l.val f → s.rxClear l.val →
     let h := frameHdr f
     let k := groupKey (l.val + 1) h.cluster h.group
     let ls := s.placesFrom h.tpart h.space h.addr f.payload.length
     (h.vc ≠ 0 → h.opc = opcWgann → ¬ ((s.group k).held.isSome ∧ (s.group k).announced.isSome) →
       ∃ t, exec (.wgannFrame l f) s = .next t ∧ t.group k = { s.group k with announced := some (h.arg % 65536) }
         ∧ (t.link l.val).rxNext = (h.seq + 1) % 65536 ∧ (∀ j, j ≠ k → t.group j = s.group j)
         ∧ t.stackMem = s.stackMem ∧ t.caseMem = s.caseMem ∧ t.flags = s.flags)
     ∧ (h.vc ≠ 0 → h.opc = opcWrite → h.late = false → h.wfmt = 0 → s.unscheduled l.val = false →
       (s.link l.val).pFallback = false → s.plainWrites → s.rxLands l.val h f.payload.length →
       ∃ t b, exec (.writeFrame l f) s = .next t
         ∧ (∀ a, mget t.stackMem a = storedByte (putsOn ls f.payload f.mask) .stack a (mget s.stackMem a))
         ∧ (∀ a, mget t.caseMem a = storedByte (putsOn ls f.payload f.mask) .case a (mget s.caseMem a))
         ∧ (t.group k).count = (s.group k).count + boolNat b ∧ (∀ j, j ≠ k → t.group j = s.group j)
         ∧ (t.link l.val).rxNext = (h.seq + 1) % 65536 ∧ t.flags = s.flags)
     ∧ (∀ w, h.vc = 0 → h.opc = opcWrite → h.late = false → h.wfmt = 0 → s.plainWrites →
       s.rxWindow l.val h.wopen = some (w, true) → w.opening ≤ s.now + s.guard l.val → s.now ≤ w.close + s.guard l.val →
       w.run.bytes + f.payload.length ≤ w.e.bytes → s.rxLands l.val h f.payload.length →
       ∃ t, exec (.writeFrame l f) s = .next t
         ∧ (∀ a, mget t.stackMem a = storedByte (putsOn ls f.payload f.mask) .stack a (mget s.stackMem a))
         ∧ (∀ a, mget t.caseMem a = storedByte (putsOn ls f.payload f.mask) .case a (mget s.caseMem a))
         ∧ t.slot w.p w.key = (s.modWin w.p w.key w.x (fun r => { r with bytes := r.bytes + f.payload.length })).slot w.p w.key
         ∧ (w.run.bytes + f.payload.length = w.e.bytes → w.run.bytes < w.e.bytes → (t.flag w.e.fdie w.e.flag).val = true)
         ∧ (w.run.bytes + f.payload.length < w.e.bytes → t.flags = s.flags)
         ∧ (t.link l.val).rxNext0 = (h.seq + 1) % 65536)
     ∧ (h.vc ≠ 0 → h.opc = opcRfinal → h.wfmt = 0 →
       (s.tmpl h.tpart).hasFlag (h.arg / 256 % 2) (h.arg % 256) = true → s.rxLands l.val h f.payload.length →
       ∃ t b, exec (.rfinalFrame l f) s = .next t
         ∧ ((s.group k).held = none → (t.group k).held = some
             { writes := putsOn ls f.payload f.mask, die := h.arg / 256 % 2, flag := h.arg % 256, granted := true
               part := h.tpart, slot := none, since := s.now, seq := h.seq, whole := b, timed := true })
         ∧ (∀ q, (s.group k).held = some q → (t.group k).held = some
             { q with writes := q.writes ++ putsOn ls f.payload f.mask, whole := q.whole || b })
         ∧ (t.group k).count = (s.group k).count ∧ (∀ j, j ≠ k → t.group j = s.group j)
         ∧ (t.link l.val).rxNext = (h.seq + 1) % 65536 ∧ t.stackMem = s.stackMem ∧ t.flags = s.flags)
     ∧ (h.vc ≠ 0 → h.opc = opcRel → (s.cluster (h.arg % 32)).openGroups.contains (h.arg / 32 % 16) = true →
       ∃ t, exec (.rel l f) s = .next t
         ∧ (t.cluster (h.arg % 32)).openGroups = (s.cluster (h.arg % 32)).openGroups.filter (· != h.arg / 32 % 16)
         ∧ (t.link l.val).rxNext = (h.seq + 1) % 65536 ∧ t.groups = s.groups ∧ t.stackMem = s.stackMem))
  ∧
  (∀ (l : LinkId) (f : Frame) (s : State),
     let h := frameHdr f
     (s.linkUp l.val = false → exec (.writeFrame l f) s = .next s ∧ exec (.credit l f) s = .next s
       ∧ exec (.unknownOpcodeFrame l f) s = .next s)
     ∧ (s.linkUp l.val = true → s.rxClear l.val → h.opc = opcWrite → h.vc ≠ 3 →
         frameCrcOk f = false ∨ (frameCrcOk f = true ∧ badHeader h f = false
           ∧ seqPlace h.seq (if h.vc = 0 then (s.link l.val).rxNext0 else (s.link l.val).rxNext) = 1) →
         ∃ t, exec (.writeFrame l f) s = .next t ∧ (t.link l.val).rxNext = (s.link l.val).rxNext
           ∧ (t.link l.val).viol = min ((s.link l.val).viol + 1) (2 ^ 16 - 1)
           ∧ t.fld rPflctl 9 0 = (s.fld rPflctl 9 0 + 1) % 1024
           ∧ t.groups = s.groups ∧ t.stackMem = s.stackMem ∧ t.caseMem = s.caseMem ∧ t.flags = s.flags)
     ∧ (s.linkUp l.val = true → s.rxClear l.val → knownOpc h.opc = false → h.vc ≠ 3 → frameCrcOk f = true →
         ∃ t, exec (.unknownOpcodeFrame l f) s = .next t
           ∧ (t.link l.val).viol = min ((s.link l.val).viol + 1) (2 ^ 16 - 1)
           ∧ t.fld rPflctl 9 0 = (s.fld rPflctl 9 0 + 1) % 1024
           ∧ t.groups = s.groups ∧ t.stackMem = s.stackMem ∧ t.caseMem = s.caseMem ∧ t.flags = s.flags))

/-- A CREDIT frame adds the credits it carries and takes no number; a NAK that names a refusal of this module's write is
reported to the partition of the cluster. A numbered frame with nothing waiting to be sent is answered by a CREDIT
frame that acknowledges it. An unscheduled frame leaves when its channel holds a credit and it holds a send cell: it
carries the next number, joins the unacknowledged frames and uses one credit. -/
def Obligations.CreditsAndNumbers : Prop :=
  (∀ (l : LinkId) (f : Frame) (s : State), s.inSequence l.val f → s.rxClear l.val →
     let h := frameHdr f
     (h.opc = opcCredit → s.txClear l.val → ∃ t, exec (.credit l f) s = .next t
       ∧ (t.link l.val).txCred1 = (s.link l.val).txCred1 + h.cred1
       ∧ (t.link l.val).txCred2 = (s.link l.val).txCred2 + h.cred2
       ∧ (t.link l.val).rxNext = (s.link l.val).rxNext ∧ (t.link l.val).rxNext0 = (s.link l.val).rxNext0
       ∧ (t.link l.val).wire = (s.link l.val).wire ∧ (∀ k, k ≠ rLerr l.val → t.reg k = s.reg k)
       ∧ t.groups = s.groups ∧ t.stackMem = s.stackMem ∧ t.flags = s.flags)
     ∧ (h.opc = opcWgann → h.vc ≠ 0 → (s.group (groupKey (l.val + 1) h.cluster h.group)).held = none → s.txClear l.val →
       s.wireOpen l.val →
       ∃ t g, exec (.wgannFrame l f) s = .next t ∧ (t.link l.val).wire = (s.link l.val).wire ++ [g]
         ∧ (frameHdr g).opc = opcCredit ∧ (frameHdr g).ack = h.seq % 65536)
     ∧ (∀ p, h.opc = opcNak → h.vc ≠ 0 → h.arg % 256 = nakXlate → s.partOf h.cluster = some p →
       ((s.link l.val).txNext + 131071 - h.arg / 65536 % 65536) % 65536 < 32768 →
       ∃ t, exec (.nak l f) s = .next t ∧ (t.link l.val).rxNext = (h.seq + 1) % 65536
         ∧ t.hostMem = (s.post p 4 (l.val * 2 ^ 50 + 5 * 2 ^ 42 + h.cluster * 2 ^ 37 + h.group * 2 ^ 33
             + h.arg / 65536 % 65536 * 65536) 0 0).hostMem
         ∧ t.stackMem = s.stackMem ∧ t.groups = s.groups))
  ∧
  (∀ (l : LinkId) (f : Frame) (s : State), s.wireOpen l.val → s.cellsSettled → s.plainReads →
     (s.link l.val).winQ = [] → (s.link l.val).outQ = [] → (s.link l.val).sendQ = [f] → f.payload = [] →
         (frameHdr f).vc = 2 →
     (frameHdr f).numbered = true → carriesData (frameHdr f) = false → 0 < (s.link l.val).txCred2 →
     let g := s.stampFrame l.val f (s.link l.val).txNext
     (s.pump l.val).link l.val = ({ s.link l.val with
       sendQ := []
       inCells := 0
       wire := (s.link l.val).wire ++ [g]
       txFree := max (s.link l.val).txFree (94 * s.now)
       unacked := (s.link l.val).unacked ++ [g]
       txNext := ((s.link l.val).txNext + 1) % 65536
       txCred2 := (s.link l.val).txCred2 - 1
       ackAt := if (s.link l.val).unacked.isEmpty && (s.link l.val).unacked0.isEmpty then s.now else (s.link l.val).ackAt
       ret1 := (s.link l.val).ret1 - min 255 (s.link l.val).ret1
       ret2 := (s.link l.val).ret2 - min 255 (s.link l.val).ret2
       rxCred1 := (s.link l.val).rxCred1 + min 255 (s.link l.val).ret1
       rxCred2 := (s.link l.val).rxCred2 + min 255 (s.link l.val).ret2 } : Link)
     ∧ (frameHdr g).seq = (s.link l.val).txNext % 65536)

/-- The timers of a link: unacknowledged frames of both streams go out again 10 µs after the last progress, those of VC0
as late data, and the sixteenth time the link trains instead; VC0 frames of an Apenaso link are released; the violation
count of an interval restarts; an RFINAL that is held over a link for 1 ms against its count is discarded and its group
starts again. Idle ordered sets (R336): an up or quarantined link sends fabric time with HOLD_NS, hops, LOCKED and
FALLBACK; what it receives while up gives the partner's, unless HOPS exceeds 3 (a violation, case 18). -/
def Obligations.LinkTimersAndIdleSets : Prop :=
  (∀ (l : LinkId) (c : ClusterId) (g : GroupId) (s : State),
     (s.linkUp l.val = true →
       ((s.link l.val).unacked = [] ∧ (s.link l.val).unacked0 = [] ∨ s.now < (s.link l.val).ackAt + 10000 →
         exec (.ackTimeout l) s = .next s)
       ∧ ((s.link l.val).ackAt + 10000 ≤ s.now → (s.link l.val).resends < 16 → s.txClear l.val →
           (s.link l.val).unacked ≠ [] → (s.link l.val).unacked0 = [] →
           ∃ t fs, exec (.ackTimeout l) s = .next t ∧ (t.link l.val).resends = (s.link l.val).resends + 1
             ∧ (t.link l.val).ackAt = s.now ∧ (t.link l.val).wire = (s.link l.val).wire ++ fs
             ∧ fs.length + (t.link l.val).outQ.length = (s.link l.val).unacked.length
             ∧ (t.link l.val).unacked = (s.link l.val).unacked ∧ t.regs = s.regs ∧ t.groups = s.groups
               ∧ t.stackMem = s.stackMem)
       ∧ ((s.link l.val).ackAt + 10000 ≤ s.now → (s.link l.val).resends < 16 → s.fld (rLst l.val) 61 60 ≠ 1 →
           s.sends l.val = false → (s.link l.val).unacked0 ≠ [] →
           ∃ t, exec (.ackTimeout l) s = .next t ∧ (t.link l.val).resends = (s.link l.val).resends + 1
             ∧ (t.link l.val).unacked0 = [] ∧ (t.link l.val).sendQ = (s.link l.val).unacked0.map (fun f =>
                 frameStamp f (fun h => { h with vc := 1, late := true })) ++ (s.link l.val).sendQ)
       ∧ ((s.link l.val).ackAt + 10000 ≤ s.now → 16 ≤ (s.link l.val).resends → (s.link l.val).unacked ≠ [] →
           ∃ t, exec (.ackTimeout l) s = .next t ∧ t.lkState l.val = 1))
     ∧ (s.fld (rLst l.val) 61 60 ≠ 1 → exec (.vc0Release l) s = .next s)
     ∧ (s.fld (rLst l.val) 61 60 = 1 → s.winsOn l.val false = [] → s.txClear l.val → ∃ t, exec (.vc0Release l) s = .next t
         ∧ (t.link l.val).unacked0 = [] ∧ (t.link l.val).unacked = (s.link l.val).unacked
         ∧ (t.link l.val).wire = (s.link l.val).wire ∧ t.regs = s.regs ∧ t.stackMem = s.stackMem)
     ∧ (s.linkUp l.val = true →
         ((s.link l.val).qStart + s.fld rQthr 47 32 * 1000 ≤ s.now → ∃ t, exec (.qwinExpiry l) s = .next t
           ∧ (t.link l.val).viol = 0 ∧ (t.link l.val).qStart = (s.link l.val).qStart + s.fld rQthr 47 32 * 1000
           ∧ t.fld (rLerr l.val) 7 0 = 0 ∧ t = (s.withLinks t.links).withRegs t.regs)
         ∧ (s.now < (s.link l.val).qStart + s.fld rQthr 47 32 * 1000 → exec (.qwinExpiry l) s = .next s))
     ∧ ((s.group (groupKey (l.val + 1) c.val g.val)).held = none → exec (.wgtmo l c g) s = .next s)
     ∧ (∀ h, (s.group (groupKey (l.val + 1) c.val g.val)).held = some h →
         (h.timed = false ∨ s.now < h.since + 1000000 → exec (.wgtmo l c g) s = .next s)
         ∧ (h.timed = true → h.since + 1000000 ≤ s.now → ∃ t, exec (.wgtmo l c g) s = .next t
             ∧ t.group (groupKey (l.val + 1) c.val g.val) = {} ∧ t.stackMem = s.stackMem ∧ t.flags = s.flags)))
  ∧
  (∀ (l : LinkId) (s : State),
     (s.lkState l.val < 2 → exec (.idleSetSend l) s = .next s)
     ∧ (2 ≤ s.lkState l.val → exec (.idleSetSend l) s = .next (s.modLink l.val (fun x => { x with
         idles := x.idles ++ [(s.now, min s.holdNs (2 ^ 24 - 1), s.hops, s.locked, s.fbit rTtStatus 7)] })))
     ∧ (∀ time hold hops lock fb,
         (s.linkUp l.val = false → exec (.idleOrderedSet l time hold hops lock fb) s = .next s)
         ∧ (s.linkUp l.val = true → hops.toNat ≤ 3 → lock = false →
             exec (.idleOrderedSet l time hold hops lock fb) s
               = .next ((s.modLink l.val (fun x => { x with pHold := hold.toNat, pHops := hops.toNat, pFallback := fb
                                                            pAt := s.now, badSets := 0 })).setBit (rLst l.val) 55 false))
         ∧ (s.linkUp l.val = true → hops.toNat ≤ 3 → lock = true → s.timeLink = some l.val → s.mayLoad = false →
           s.slews = true →
             ((time + s.owd l.val : Nat) - (s.now : Int)).natAbs ≤ 1000 + s.leadNs →
             ∃ t, exec (.idleOrderedSet l time hold hops lock fb) s = .next t ∧ t.now = s.now
               ∧ t.time.err = ((time + s.owd l.val : Nat) : Int) - (s.now : Int)
               ∧ t.fbit (rLst l.val) 55 = true ∧ (t.link l.val).pHops = hops.toNat ∧ (t.link l.val).pHold = hold.toNat
               ∧ (t.link l.val).pFallback = fb)
         ∧ (s.linkUp l.val = true → hops.toNat ≤ 3 → lock = true → s.locked = false → s.timeSrc = 2 →
             s.fld rTtSrc 23 18 = l.val → s.mayLoad = true →
             ∃ t, exec (.idleOrderedSet l time hold hops lock fb) s = .next t ∧ t.now = time + s.owd l.val
               ∧ t.time.err = 0 ∧ t.fbit rTtStatus 0 = true ∧ t.mayLoad = false)
         ∧ (s.linkUp l.val = true → 3 < hops.toNat → s.timeLink = some l.val → 2 ≤ (s.link l.val).badSets →
             ∃ t, exec (.idleOrderedSet l time hold hops lock fb) s = .next t ∧ t.fbit rTtStatus 2 = true
               ∧ t.locked = false ∧ t.now = s.now)
         ∧ (s.linkUp l.val = true → 3 < hops.toNat →
             ∃ t, exec (.idleOrderedSet l time hold hops lock fb) s = .next t ∧ t.now = s.now
               ∧ (t.link l.val).viol = min ((s.link l.val).viol + 1) (2 ^ 16 - 1)
               ∧ (t.link l.val).pHops = (s.link l.val).pHops ∧ t.fbit (rLst l.val) 55 = s.fbit (rLst l.val) 55)))

/-- Exchange windows: SEND_WINDOW_OPEN opens a send window its one-way delay before its opening, or, for data that
travels unscheduled, at it; its first frame leaves there, or, on a link that is not up, its frames are discarded and
counted. WINDOW_CLOSE, at the close + G, sends what it still holds as late data, or, on a shadow of a mirrored partition,
keeps it. SEND_STAGING_ACCEPT: a remote operation enters its cluster's send staging when its frames fit in the 64 KiB,
and completes then, a WRITE in the queue of its window; while they do not fit it waits. -/
def Obligations.WindowsAndStaging : Prop :=
  (∀ (p : PartId) (n : SlotId) (x : WinId) (s : State) (w : WinAt),
     let l := w.e.link
     let ahead := if s.unscheduled l then 0 else s.owd l
     let u := s.modWin w.p w.key w.x (fun r => { r with opened := true, unsched := s.unscheduled l })
     let v := s.modWin w.p w.key w.x (fun r => { r with closed := true })
     (s.winRunOf p.val n.val x.val (fun r => !r.opened) = some w →
       (s.now + ahead < w.opening → exec (.sendWindowOpen p n x) s = .next s)
       ∧ (w.opening ≤ s.now + ahead → ∃ t, exec (.sendWindowOpen p n x) s = .next t ∧ t.slot w.p w.key = u.slot w.p w.key
           ∧ t.stackMem = s.stackMem ∧ t.groups = s.groups ∧ t.flags = s.flags
           ∧ (s.linkUp l = true → s.txClear l → (t.link l).wire = (s.link l).wire ∧ t.regs = s.regs)
           ∧ (s.linkUp l = false →
               (t.link l).winQ = (s.link l).winQ.filter (fun f => f.w3.toNat != w.opening % 2 ^ 64)
               ∧ t.fld (rLerr l) 23 8 = min (s.fld (rLerr l) 23 8 + (winFrames (s.link l).winQ w).length) (2 ^ 16 - 1)
               ∧ (t.link l).wire = (s.link l).wire)
           ∧ (∀ f, s.unscheduled l = false → s.linkUp l = true → u.sends l = true → u.txIdle l = true → u.cellsSettled →
               s.plainReads → (s.link l).winQ = [f] → (s.link l).outQ = [] → (s.link l).sendQ = [] →
               u.vc0Next l = some (0, f) →
               (t.link l).wire = (s.link l).wire ++ [u.stampFrame l f (s.link l).txNext0] ∧ (t.link l).winQ = [])))
     ∧ (s.winRunOf p.val n.val x.val (fun r => !r.closed) = some w →
       (s.now < w.close + s.guard l → exec (.windowClose p n x) s = .next s)
       ∧ (w.close + s.guard l ≤ s.now → s.mirrored p.val = true → s.role = roleShadow →
           exec (.windowClose p n x) s = .next v)
       ∧ (w.close + s.guard l ≤ s.now → s.mirrored p.val = false ∨ s.role ≠ roleShadow →
           ∃ t, exec (.windowClose p n x) s = .next t ∧ t.slot w.p w.key = v.slot w.p w.key
             ∧ t.stackMem = s.stackMem ∧ t.groups = s.groups ∧ t.flags = s.flags
             ∧ (s.linkUp l = true → s.txClear l → (t.link l).wire = (s.link l).wire ∧ t.regs = s.regs)
             ∧ (s.linkUp l = true → s.sends l = false →
                 (t.link l).winQ = (s.link l).winQ.filter (fun f => f.w3.toNat != w.opening % 2 ^ 64)
                 ∧ (t.link l).sendQ = (s.link l).sendQ ++ (winFrames (s.link l).winQ w).map (fun f =>
                     frameStamp f (fun h => { h with vc := 1, late := true }))))))
  ∧
  (∀ (c : ClusterId) (s : State) (o : MvOp) (l : Nat),
     (s.cluster c.val).mv = [o] → (s.cluster c.val).flight = [] → (s.cluster c.val).mvDue = none → o.link = some l →
     o.done = false → s.clockRuns c.val = true → o.w.sigK = 0 →
     let m := (s.cluster c.val).tiles
     let sends := fun (q : RemoteW) => blockFrames q.forme q.block (s.fld (rLst (bf q.route 61 56)) 61 60)
       (bf q.route 51 48) q.td (mget m) s.free
     let fs := match o.remote with
       | none => o.frames
       | some q => (if (sends q).2.isEmpty then [(q.forme.base, [], [])] else (sends q).2).map (fun r =>
           ({ opc := q.opc, vc := if q.opc = opcWrite then 1 else 2, tpart := bf q.route 55 52, cluster := c.val
              group := q.group, len := r.2.1.length / 64, addr := r.1, space := q.forme.space, wfmt := (sends q).1
              arg := q.arg } : Hdr).frame r.2.1 r.2.2)
     (∀ x ∈ o.sent, mget m x.1 = x.2) →
     (65536 < (s.cluster c.val).staged + frameBytes fs → exec (.sendStagingAccept c) s = .next s)
     ∧ ((s.cluster c.val).staged + frameBytes fs ≤ 65536 → ∃ t, exec (.sendStagingAccept c) s = .next t
         ∧ (t.cluster c.val).mv = [] ∧ (t.cluster c.val).staged ≤ (s.cluster c.val).staged + frameBytes fs
         ∧ (t.cluster c.val).tiles = (s.cluster c.val).tiles ∧ t.stackMem = s.stackMem ∧ t.groups = s.groups
           ∧ t.flags = s.flags
         ∧ (fs = [] → s.txClear l → (t.link l).wire = (s.link l).wire)
         ∧ (∀ f, fs = [f] → (frameHdr f).opc ≠ opcWrite → s.mayTransmit c.val = true → s.sends l = false →
             (t.link l).sendQ = (s.link l).sendQ ++ [f])
         ∧ (∀ f w, fs = [f] → (frameHdr f).opc = opcWrite → pickWin (s.sendWins c.val l) f.payload.length = some w →
             w.run.closed = false → w.run.opened = false → s.mayTransmit c.val = true → s.sends l = false →
             (t.link l).winQ = (s.link l).winQ ++ [setWopen f 0 false w.opening])))

/-! ### The mirror pair (chapter 13) -/

/-- Roles change as Table 13.1 lays down: SETROLE 1 from SOLO or FENCED makes JOINING, SETROLE 2 from FENCED makes SOLO,
a completed promotion makes a shadow SOLO, with ENABLE 0 for the partitions out of sync (R364), and from any other role
they change nothing. -/
def Obligations.RolesChangeByTheirTable : Prop :=
  ∀ s : State,
    (s.role = roleSolo ∨ s.role = roleFenced → ∃ t, exec .setroleJoining s = .next t ∧ t.role = roleJoining
      ∧ t.mirror.promoting = none ∧ (∀ k, k ≠ rMirStat → t.reg k = s.reg k)
      ∧ t = (((s.withRegs t.regs).withLinks t.links).withClusters t.clusters).withMirror t.mirror)
    ∧ (s.role ≠ roleSolo → s.role ≠ roleFenced → exec .setroleJoining s = .next s)
    ∧ (s.role = roleFenced → ∃ t, exec .setroleSolo s = .next t ∧ t.role = roleSolo
      ∧ t.mirror.promoting = none ∧ (∀ k, k ≠ rMirStat → t.reg k = s.reg k)
      ∧ t = (((s.withRegs t.regs).withLinks t.links).withClusters t.clusters).withMirror t.mirror)
    ∧ (s.role ≠ roleFenced → exec .setroleSolo s = .next s)
    ∧ (s.role = roleShadow → s.mirror.promoting.isSome →
        ∃ t, exec .promotionDone s = .next t ∧ t.role = roleSolo ∧ t.fbit rMirStat 57 = true ∧ t.mirror.promoting = none
          ∧ (∀ p, p < 16 → s.mirrored p = true → s.fbit rMirStat (32 + p) = true → t.fbit (rScu p) 63 = false)
          ∧ t.stackMem = s.stackMem ∧ t.flags = s.flags ∧ (s.links = [] → t.clusters = s.clusters))
    ∧ (s.role ≠ roleShadow ∨ s.mirror.promoting = none → exec .promotionDone s = .next s)

/-- Heartbeats, while MIR is up: SOLO, PRIMARY and SHADOW send them; each one received is acknowledged and remembered,
a FAILED one sets its bit and makes a primary SOLO, and a FENCED or FAILED one starts a shadow's promotion, as MISS
periods of silence do; an acknowledgement of a heartbeat sent extends the lease, and a lease run out fences the
primary with one heartbeat that says so. A port that is down carries none. -/
def Obligations.HeartbeatsAndLease : Prop :=
  ∀ s : State,
    (s.mirUp = false → exec .heartbeatSend s = .next s ∧ (∀ h, exec (.heartbeatReceive h) s = .next s)
      ∧ ∀ n, exec (.heartbeatAck n) s = .next s)
    ∧ (s.mirUp = true → s.role = roleSolo ∨ s.role = rolePrimary ∨ s.role = roleShadow →
      exec .heartbeatSend s = .next (s.withMirror { s.mirror with
        lastTx := some s.now
        sent := s.mirror.sent ++ [{ time := s.now, role := BitVec.ofNat 3 s.role, fenced := false, failed := false }] }))
    ∧ (s.role = roleJoining ∨ s.role = roleFenced → exec .heartbeatSend s = .next s)
    ∧ (∀ h : Heartbeat, s.mirUp = true →
        (h.failed = false → h.fenced = false → exec (.heartbeatReceive h) s = .next (s.withMirror { s.mirror with
          lastRx := some s.now, acks := s.mirror.acks ++ [h.time] }))
        ∧ (s.role = rolePrimary → h.failed = true → ∃ t, exec (.heartbeatReceive h) s = .next t ∧ t.role = roleSolo
            ∧ t.fbit rMirStat 58 = true ∧ t.mirror.acks = s.mirror.acks ++ [h.time])
        ∧ (s.role = roleShadow → h.failed = true ∨ h.fenced = true → s.mirror.promoting = none →
            ∃ t, exec (.heartbeatReceive h) s = .next t ∧ t.role = roleShadow ∧ t.mirror.promoting = some s.now))
    ∧ (s.role = roleShadow → s.mirror.promoting = none → ∀ r, s.mirror.lastRx = some r →
        (r + s.hbMiss * s.hbPeriod ≤ s.now → exec .heartbeatMiss s
          = .next (s.withMirror { s.mirror with promoting := some s.now }))
        ∧ (s.now < r + s.hbMiss * s.hbPeriod → exec .heartbeatMiss s = .next s))
    ∧ (∀ n, s.mirUp = true → (s.mirror.sent.any (fun h => h.time == n) = false → exec (.heartbeatAck n) s = .next s)
        ∧ (s.mirror.sent.any (fun h => h.time == n) = true → exec (.heartbeatAck n) s
            = .next (s.withMirror { s.mirror with acked := some (max n (s.mirror.acked.getD 0)) })))
    ∧ (s.role ≠ rolePrimary → exec .leaseExpiry s = .next s)
    ∧ (s.now < s.mirror.acked.getD 0 + (s.hbMiss - 1) * s.hbPeriod → exec .leaseExpiry s = .next s)
    ∧ (s.role = rolePrimary → s.mirror.acked.getD 0 + (s.hbMiss - 1) * s.hbPeriod ≤ s.now →
        ∃ t, exec .leaseExpiry s = .next t ∧ t.role = roleFenced ∧ t.fbit rMirStat 56 = true
          ∧ (s.mirUp = true → t.mirror.sent = s.mirror.sent
            ++ [{ time := s.now, role := 1, fenced := true, failed := false }])
          ∧ (∀ c p, t.partOf c = some p → t.mirrored p = true → t.mayTransmit c = false)
          ∧ t.stackMem = s.stackMem ∧ t.chans = s.chans)

/-- Resynchronisation (R369): RSYNC marks every page of the mirrored partitions, CUTOVER follows once at most the
threshold of MIR_CTL are left, and with none left the sender sends the serving state of each, and a SOLO sender becomes
PRIMARY; a receiver that is JOINING becomes SHADOW once it has been told so, with no partition out of sync. -/
def Obligations.ResynchronisationPhases : Prop :=
  ∀ s : State,
    (s.role = roleSolo ∨ s.role = rolePrimary → ∃ t, exec .rsync s = .next t ∧ t.fld rMirRsync 63 62 = 1
      ∧ t.mirror.copied = [] ∧ t.mirror.only = none
      ∧ (∀ q, q ∈ t.mirror.copyMap ↔ ∃ p, p < 16 ∧ s.mirrored p = true ∧ s.validPart p = true ∧ q ∈ (s.tmpl p).pages)
      ∧ (∀ k, k ≠ rMirRsync → t.reg k = s.reg k) ∧ t = (s.withMirror t.mirror).withRegs t.regs)
    ∧ (s.role ≠ roleSolo → s.role ≠ rolePrimary → exec .rsync s = .next s)
    ∧ (s.fld rMirRsync 63 62 = 1 → s.mirror.copyMap.length ≤ s.fld rMirCtl 15 0 →
        exec .cutover s = .next (s.setFld rMirRsync 63 62 2))
    ∧ (s.fld rMirRsync 63 62 ≠ 1 ∨ s.fld rMirCtl 15 0 < s.mirror.copyMap.length → exec .cutover s = .next s)
    ∧ (s.role = roleSolo ∨ s.role = rolePrimary → s.fld rMirRsync 63 62 = 2 → s.mirror.copyMap = [] →
      s.mirror.only = none → s.mirror.waitSync = [] → s.mirUp = true →
        (∀ p, s.mirrored p = true → ∀ r ∈ s.runs p, r.2.phase ≠ .step) →
        ∃ t, exec .rsyncComplete s = .next t ∧ t.role = rolePrimary ∧ t.fld rMirRsync 63 62 = 3
          ∧ (s.role = roleSolo → t.mirror.acked = some s.now)
          ∧ t.mirror.forwarded = s.mirror.forwarded
              ++ ((List.range 16).filter (fun p => s.mirrored p && s.validPart p)).map s.servingOf ++ [.complete none]
          ∧ t.stackMem = s.stackMem ∧ t.reqs = s.reqs)
    ∧ (s.role = roleSolo ∨ s.role = rolePrimary → s.fld rMirRsync 63 62 ≠ 2 ∨ s.mirror.copyMap ≠ [] ∨ s.mirUp = false →
        exec .rsyncComplete s = .next s)
    ∧ (s.role = roleJoining → s.mirror.handed = [] → exec .rsyncComplete s = .next s)
    ∧ (s.role = roleJoining → s.host.waits.any HostAcc.isPage = true → exec .rsyncComplete s = .next s)
    ∧ (∀ rest, s.role = roleJoining → s.mirror.handed = none :: rest → s.host.waits.any HostAcc.isPage = false →
        ∃ t, exec .rsyncComplete s = .next t ∧ t.role = roleShadow ∧ t.mirror.handed = rest
          ∧ (∀ p, p < 16 → s.mirrored p = true → s.validPart p = true → t.fbit rMirStat (32 + p) = false)
          ∧ t.stackMem = s.stackMem ∧ t.reqs = s.reqs)

/-- Digests (R360, R361): equal digests of a step pass and leave the list; different ones are a divergence, which
MIR_STAT records, with MIR_DIV and both digests. Digests of partitions that do not run on both modules in sync are
ignored. A composition record reaches a shadow's partition in order; every other module, and a partition out of sync,
ignores it. A record within LAGMAX changes nothing else but LAG; the one that takes LAG past LAGMAX is a divergence too
(cause 2), of which the partner is told (the model's choice, log entry 121). After a divergence, by DIVPOL, the partition
is out of sync on the shadow, its serving disabled, while the other module copies it anew, at once or after the copy in
progress; or both modules halt (1); or they go on (2). -/
def Obligations.DigestsAndCompositionRecords : Prop :=
  (∀ (p : PartId) (n : Nat) (d m : W64) (s : State),
     (s.mirrored p.val = false ∨ (s.role ≠ rolePrimary ∧ s.role ≠ roleShadow) ∨ s.fbit rMirStat (32 + p.val) = true →
       exec (.digest p n d) s = .next s)
     ∧ (s.digested p.val = true →
         ((s.scu p.val).digests.lookup n = none → exec (.digest p n d) s
           = .next (s.modScu p.val (fun x => { x with theirs := x.theirs ++ [(n, d)] })))
         ∧ ((s.scu p.val).digests = [(n, m)] → m ≠ d → (∀ q, q ≠ p.val → s.mirrored q = false) →
             (s.scu p.val).records.length ≤ s.fld rMirCtl 31 24 →
             ∃ t, exec (.digest p n d) s = .next t ∧ t.fbit rMirStat 55 = true
               ∧ t.reg rMirDigp = (if s.role = rolePrimary then m else d)
               ∧ t.reg rMirDigs = (if s.role = rolePrimary then d else m)
               ∧ t.reg rMirDiv = BitVec.ofNat 64 (p.val * 2 ^ 60 + 1 * 2 ^ 56 + n % 2 ^ 32)
               ∧ (t.scu p.val).digests = [] ∧ s.divergedBy t p.val ∧ t.stackMem = s.stackMem ∧ t.clusters = s.clusters)
         ∧ ((s.scu p.val).digests = [(n, d)] → s.role = rolePrimary → (∀ q, q ≠ p.val → s.mirrored q = false) →
             ∃ t, exec (.digest p n d) s = .next t ∧ (t.scu p.val).digests = [] ∧ t.fld rMirStat 31 24 = 0
               ∧ t.fbit rMirStat 55 = s.fbit rMirStat 55 ∧ t.reg rMirDiv = s.reg rMirDiv)))
  ∧
  (∀ (p : PartId) (r : CompRecord) (s : State),
     (s.role ≠ roleShadow ∨ s.mirrored p.val = false ∨ s.fbit rMirStat (32 + p.val) = true →
       exec (.compositionRecord p r) s = .next s)
     ∧ (s.role = roleShadow → s.mirrored p.val = true → s.fbit rMirStat (32 + p.val) = false →
         (∀ q, q ≠ p.val → s.mirrored q = false) → (s.scu p.val).records.length + 1 ≤ s.fld rMirCtl 31 24 →
         ∃ t, exec (.compositionRecord p r) s = .next t ∧ (t.scu p.val).records = (s.scu p.val).records ++ [r]
           ∧ t.fld rMirStat 31 24 = (s.scu p.val).records.length + 1 ∧ t = (s.withScus t.scus).withRegs t.regs)
     ∧ (s.role = roleShadow → s.mirrored p.val = true → s.fbit rMirStat (32 + p.val) = false →
         s.fld rMirCtl 31 24 < (s.scu p.val).records.length + 1 →
         ∃ t n, exec (.compositionRecord p r) s = .next t ∧ t.fbit rMirStat 55 = true ∧ t.reg rMirDigp = 0
           ∧ t.reg rMirDigs = 0 ∧ t.reg rMirDiv = BitVec.ofNat 64 (p.val * 2 ^ 60 + 2 * 2 ^ 56 + n % 2 ^ 32)
           ∧ t.mirror.forwarded = s.mirror.forwarded ++ [.lagged p n] ∧ s.divergedBy t p.val)
     ∧ ∀ n, (s.digested p.val = false → exec (.mirrorInput (.lagged p n)) s = .next s)
         ∧ (s.digested p.val = true → ∃ t, exec (.mirrorInput (.lagged p n)) s = .next t ∧ t.fbit rMirStat 55 = true
           ∧ t.reg rMirDiv = BitVec.ofNat 64 (p.val * 2 ^ 60 + 2 * 2 ^ 56 + n % 2 ^ 32) ∧ t.reg rMirDigp = 0
           ∧ t.reg rMirDigs = 0 ∧ t.mirror.forwarded = s.mirror.forwarded ∧ s.divergedBy t p.val))

/-- The first failed cluster of a C-die is retired and, where it is in use, the mapping that leaves it out waits for its
boundary, as PEND shows (R22, R23); a second one fails the module and leaves the mapping as it is. A failure already
known changes nothing. -/
def Obligations.ClusterFailureTakesTheSpare : Prop :=
  ∀ (d : DieId) (phys : Fin 17) (s : State),
    ((s.integ.failedClusters.filter (fun f => f.1 == d.val)).any (fun f => f.2 == phys.val) = true →
      exec (.clusterFail d phys) s = .next s)
    ∧ (s.integ.failedClusters.filter (fun f => f.1 == d.val) = [] →
        ∃ t, exec (.clusterFail d phys) s = .next t
          ∧ t.integ.failedClusters = s.integ.failedClusters ++ [(d.val, phys.val)]
          ∧ t.integ.retired = s.integ.retired ++ [BitVec.ofNat 64 (4 * 2 ^ 60 + d.val * 2 ^ 56 + phys.val * 2 ^ 49)]
          ∧ t.role = s.role
          ∧ (s.clmapOut d.val ≠ phys.val → t.fbit rHostClmap (if d.val = 0 then 15 else 31) = true
              ∧ t.pendingOut d.val = some phys.val)
          ∧ (s.clmapOut d.val = phys.val → t.pendingOut d.val = none) ∧ t.clmapOut d.val = s.clmapOut d.val
          ∧ t.clusters = s.clusters ∧ t.stackMem = s.stackMem)
    ∧ (s.integ.failedClusters.filter (fun f => f.1 == d.val) ≠ [] →
        (s.integ.failedClusters.filter (fun f => f.1 == d.val)).any (fun f => f.2 == phys.val) = false →
        ∃ t, exec (.clusterFail d phys) s = .next t ∧ t.role = roleFenced ∧ t.power.fault = true
          ∧ t.integ.retired = s.integ.retired ∧ t.pendingOut d.val = s.pendingOut d.val
            ∧ t.reg rHostClmap = s.reg rHostClmap
          ∧ (s.mirUp = true → ∃ h, t.mirror.sent = s.mirror.sent ++ [h] ∧ h.failed = true ∧ h.time = s.now))

/-! ### The serving control unit (chapter 11) -/

/-- SCU_ENABLE sets ENABLE and lets the first step be composed (R302); PREFIX_HASH hashes the full blocks of a queued
request's prompt by Table 11.11 and sets HASHED (R294, R314). Either does nothing where it does not apply. -/
def Obligations.EnableAndPromptHashing : Prop :=
  ∀ (p : PartId) (s : State),
    (s.fbit (rScu p.val) 63 = true → exec (.scuEnable p) s = .next s)
    ∧ (s.fbit (rScu p.val) 63 = false → ∃ t, exec (.scuEnable p) s = .next t ∧ t.fbit (rScu p.val) 63 = true
      ∧ t.scu p.val = { s.scu p.val with due := (s.scu p.val).composed.isNone && (s.scu p.val).running.isNone }
      ∧ (∀ q, q ≠ p.val → t.scu q = s.scu q) ∧ (∀ k, k ≠ rScu p.val → t.reg k = s.reg k)
      ∧ t = (s.withScus t.scus).withRegs t.regs)
    ∧ ∀ r : BitVec 14,
        (r.toNat ∉ (s.scu p.val).hashing ∨ (s.req r.toNat).state ≠ rqQueued → exec (.prefixHash p r) s = .next s)
        ∧ (r.toNat ∈ (s.scu p.val).hashing → (s.req r.toNat).state = rqQueued → s.plainReads →
            let x := s.req r.toNat
            let n := if x.plen < s.capacity p.val then x.plen / 64 else 0
            ∃ t, exec (.prefixHash p r) s = .next t
              ∧ (t.req r.toNat).hashed = true ∧ (t.req r.toNat).state = rqQueued
              ∧ (t.req r.toNat).hashes = prefixHashes p.val x.variant n 0 (List.replicate 16 0)
                  (chunks 256 n (s.scuRead p.val (s.tokAddr p.val r.toNat 0) (256 * n)).1)
              ∧ (∀ j, j ≠ r.toNat → t.req j = s.req j)
              ∧ t.scu p.val = { s.scu p.val with hashing := (s.scu p.val).hashing.filter (· != r.toNat) }
              ∧ t = ((s.withReqs t.reqs).withScus t.scus).withFree t.free)

/-- COMPOSE (R302, R306) of a partition that is not mirrored: when composition may begin it ends with a step composed,
one above STEP, under the current grade; an empty step holds no work and takes no number, another one becomes
STEP. It makes FINISHED a RUNNING request whose last token met a finish condition, and carries out the control actions
that wait (R294, R295). With no request at all the step is empty. Where composition may not begin nothing happens. -/
def Obligations.CompositionMakesAStep : Prop :=
  ∀ (p : PartId) (s : State),
    ((s.scu p.val).due = false ∨ (s.scu p.val).composed.isSome = true ∨ s.fbit (rScu p.val) 63 = false ∨ s.halted = true
        ∨ s.ready = false ∨ s.validPart p.val = false
        ∨ (s.mirrored p.val = true ∧ (s.role = roleFenced ∨ s.role = roleJoining ∨ s.fbit rMirStat (32 + p.val) = true)) →
        exec (.compose p) s = .next s)
    ∧ ((s.scu p.val).due = true → (s.scu p.val).composed = none → s.fbit (rScu p.val) 63 = true → s.halted = false →
        s.ready = true → s.validPart p.val = true → s.mirrored p.val = false →
        (∃ t x, exec (.compose p) s = .next t ∧ (t.scu p.val).composed = some x ∧ (t.scu p.val).due = false
          ∧ x.n = s.fld (rScu p.val + 0x70) 63 0 + 1 ∧ x.grade = s.fld (rScu p.val) 62 60
          ∧ (x.empty = true → x.decodes = [] ∧ x.pieces = [] ∧ x.moves = 0)
          ∧ (x.empty = false → t.reg (rScu p.val + 0x70) = BitVec.ofNat 64 x.n
              ∧ ¬ (x.decodes = [] ∧ x.pieces = [] ∧ x.moves = 0)))
        ∧ (∀ i, i ∈ s.ranked p.val →
            ((s.req i).state = rqRunning → (s.req i).reason ≠ 0 →
              ∃ t, exec (.compose p) s = .next t ∧ (t.req i).state = rqFinished)
            ∧ ((s.req i).live = true → (s.req i).reason = 0 → (s.scu p.val).acts = [(2, i)] →
              ∃ t, exec (.compose p) s = .next t ∧ (t.req i).state = rqCancelled ∧ (t.scu p.val).acts = []))
        ∧ (s.reqs = [] → (s.scu p.val).acts = [] → (s.scu p.val).swap = none →
            (∀ m ∈ (s.scu p.val).moves, m.landed = false) →
            ∃ t x, exec (.compose p) s = .next t
              ∧ t.scu p.val = { s.scu p.val with composed := some x, due := false, doneMoves := [] }
              ∧ x.empty = true ∧ x.at_ = s.now ∧ x.n = s.fld (rScu p.val + 0x70) 63 0 + 1
              ∧ (∀ q, q ≠ p.val → t.scu q = s.scu q) ∧ t = (s.withScus t.scus).withFree t.free))

/-- A variant's completed copy makes it resident in its slot when composition may begin (R322), and not before; in a pair
that is part of the composition. A staging copy that ends makes a moved-in page's slot ready, or puts a moved-out page
into its tier slot and its page table entry to all ones (R311, R313); on a shadow the primary's record has still to
name it (R296). -/
def Obligations.CopiesOfVariantsAndPagesEnd : Prop :=
  ∀ (p : PartId) (s : State),
    (∀ v slot, (s.scu p.val).due = true → s.halted = false → s.mirrored p.val = false →
      (s.scu p.val).swap = some (v, slot, 0) → ∃ t, exec (.variantSwapDone p) s = .next t
        ∧ t.resident p.val v = true ∧ bf (t.varW p.val v 2) 39 32 = slot % 256 ∧ (t.scu p.val).swap = none
        ∧ (∀ k, (∀ w, w < 64 → k ≠ rVariant p.val w 0 ∧ k ≠ rVariant p.val w 2) → t.reg k = s.reg k)
        ∧ t = (s.withScus t.scus).withRegs t.regs)
    ∧ ((s.scu p.val).due = false ∨ s.halted = true ∨ (s.mirrored p.val = true ∧ s.role ≠ roleSolo) ∨ (∀ v slot,
      (s.scu p.val).swap ≠ some (v, slot, 0)) →
        exec (.variantSwapDone p) s = .next s)
    ∧ ∀ k : Nat,
        (((s.scu p.val).moves.filter (·.copying))[k]? = none → exec (.tierMoveDone p k) s = .next s)
        ∧ ∀ m, ((s.scu p.val).moves.filter (·.copying))[k]? = some m → s.plainWrites →
            s.tierUp (s.tierSlotAddr p.val m.tier) (s.stagePlaces p.val m.staging).length = true →
            (s.scu p.val).moves.find? (fun y => y.name == m.name) = some m →
            (s.mirrored p.val = true → s.role = roleShadow → ∃ t, exec (.tierMoveDone p k) s = .next t
              ∧ { m with landed := true } ∈ (t.scu p.val).moves ∧ t.reqs = s.reqs ∧ t.clusters = s.clusters)
            ∧ (s.mirrored p.val = false ∨ s.role ≠ roleShadow → m.inward = true → ∃ t,
              exec (.tierMoveDone p k) s = .next t
              ∧ { m with ready := true } ∈ (t.scu p.val).moves
              ∧ (∀ sp b, t.byteAt sp b = storedByte ((List.zip (s.stagePlaces p.val m.staging)
                  (List.range (s.stagePlaces p.val m.staging).length)).map (fun q =>
                    ⟨q.1.1, q.1.2, 0xFF, mget s.tierMem (s.tierSlotAddr p.val m.tier + q.2)⟩)) sp b (s.byteAt sp b))
              ∧ t.reqs = s.reqs ∧ t.clusters = s.clusters ∧ t.stackMem = s.stackMem ∧ t.tierMem = s.tierMem)
            ∧ (s.mirrored p.val = false ∨ s.role ≠ roleShadow → m.inward = false → ∃ t,
              exec (.tierMoveDone p k) s = .next t
              ∧ t.tierMem = mput s.tierMem (s.tierSlotAddr p.val m.tier)
                  ((s.stagePlaces p.val m.staging).map (fun x => s.byteAt x.1 x.2))
              ∧ (∀ y ∈ (t.req m.req).pages, y.layer = m.layer → y.page = m.page → y.addr = none ∧ y.tier = some m.tier)
              ∧ (∀ x ∈ (t.scu p.val).moves,
                  ¬ (x.req = m.req ∧ x.layer = m.layer ∧ x.page = m.page ∧ x.inward = m.inward))
              ∧ (∀ j, j ≠ m.req → t.req j = s.req j) ∧ t.clusters = s.clusters ∧ t.stackMem = s.stackMem)

/-! ### The host interface (chapter 14) -/

/-- Galley commands of a partition in force (R292 to R295, R385), once no access of its function waits (R290). SUBMIT
fills a free entry of the request table and makes it QUEUED with the next SEQ; SUBMIT to a live entry is a host error,
which reaches neither the entries nor the clusters of another partition (R13, R391). CANCEL, PAUSE and RESUME wait for
the next composition. An INDEX outside the partition's range posts the RQSTATE record of a discarded command. A row
whose entry holds another CMD, and NOP, do nothing. -/
def Obligations.GalleyCommandsAct : Prop :=
  ∀ (p : PartId) (e : List W64) (s : State),
    (s.mirrored p.val = false → s.fnWaits (p.val + 1) = false → exec (.galleyNop p) s = .next s)
    ∧ (∀ i n, (i, n) ∈ [(Instr.submit p e, 1), (Instr.cancel p e, 2), (Instr.pause p e, 3), (Instr.resume p e, 4),
          (Instr.tierCopy p e, 5)] →
        (bf (wordAt e 0) 63 56 ≠ n ∨ s.validPart p.val = false → exec i s = .next s)
        ∧ (bf (wordAt e 0) 63 56 = n → s.validPart p.val = true → s.fnWaits (p.val + 1) = true →
            exec i s = .next (s.withHost { s.host with waits := s.host.waits ++ [.command p.val e] }))
        ∧ (bf (wordAt e 0) 63 56 = n → n ≤ 4 → s.validPart p.val = true → s.fnWaits (p.val + 1) = false →
            s.mirrored p.val = false → s.indexOk p.val e = false →
            ∃ t, exec i s = .next t ∧ onlyRecords s t [p.val + 1]
              ∧ recordPosted s t (p.val + 1) [evWord 6 p.val (5 * 2 ^ 46 + entIndex e * 2 ^ 32), s.nowWord,
                  BitVec.ofNat 64 (bf (wordAt e 1) 31 0), 0])
        ∧ (bf (wordAt e 0) 63 56 = n → 2 ≤ n → n ≤ 4 → s.validPart p.val = true → s.fnWaits (p.val + 1) = false →
            s.mirrored p.val = false → s.indexOk p.val e = true →
            exec i s = .next (s.modScu p.val (fun x => { x with acts := x.acts ++ [(n, entIndex e)] }))))
    ∧ (bf (wordAt e 0) 63 56 = 1 → s.validPart p.val = true → s.fnWaits (p.val + 1) = false → s.mirrored p.val = false →
        s.indexOk p.val e = true →
        ((s.req (entIndex e)).live = true → ∃ t, exec (.submit p e) s = .next t
            ∧ (∀ c, (s.tmpl p.val).hasCluster c = false → t.cluster c = s.cluster c)
            ∧ (∀ j, (s.tmpl p.val).hasReq j = false → t.req j = s.req j)
            ∧ (∀ q, q ≠ p.val → t.scu q = s.scu q) ∧ t.parts = s.parts)
        ∧ ((s.req (entIndex e)).live = false → ∃ t, exec (.submit p e) s = .next t
            ∧ (let r := t.req (entIndex e)
               r.state = rqQueued ∧ r.prio = bf (wordAt e 0) 55 53 ∧ r.dlPol = bf (wordAt e 0) 52 51
                ∧ r.variant = bf (wordAt e 0) 50 45 ∧ r.tag = bf (wordAt e 1) 31 0
                ∧ r.seq = (s.scu p.val).seq % 2 ^ 32 ∧ r.pos = 0 ∧ r.plen = bf (wordAt e 1) 63 32 ∧ r.gen = 0
                ∧ r.maxNew = bf (wordAt e 2) 63 32 ∧ r.w4 = wordAt e 3 ∧ r.w5 = wordAt e 4 ∧ r.part = p.val
                ∧ r.hashed = false ∧ r.late = false ∧ r.tiered = false ∧ r.hostp = false ∧ r.reason = 0
                ∧ r.pages = [] ∧ r.stash = [] ∧ r.counts = [])
            ∧ (t.scu p.val).seq = (s.scu p.val).seq + 1
            ∧ (t.scu p.val).hashing = (s.scu p.val).hashing ++ [entIndex e]
            ∧ (t.scu p.val).acts = (s.scu p.val).acts.filter (fun a => a.2 != entIndex e)
            ∧ (∀ j, j ≠ entIndex e → t.req j = s.req j)
            ∧ t = (s.withReqs t.reqs).withScus t.scus))

/-- GALLEY_DOORBELL (R383): TAIL takes the value rung, and the module reads the entries from HEAD up to it and HEAD
follows; while an access of the function waits, so does the doorbell (R290). A tail beyond the ring is a host error,
which reaches no other partition (R13, R391). While the port is down, or the partition is not in force, nothing is
taken. -/
def Obligations.DoorbellReadsTheGalley : Prop :=
  ∀ (p : PartId) (tail : BitVec 10) (s : State),
    (s.host.up = false ∨ s.validPart p.val = false → exec (.galleyDoorbell p tail) s = .next s)
    ∧ (s.host.up = true → s.validPart p.val = true → s.mirrored p.val = false → s.fnWaits (p.val + 1) = true →
        ∃ t, exec (.galleyDoorbell p tail) s = .next t ∧ t.fld (rGtail (p.val + 1)) 9 0 = tail.toNat
          ∧ t.host.waits = s.host.waits ++ [.bell p.val tail.toNat]
          ∧ (∀ k, k ≠ rGtail (p.val + 1) → t.reg k = s.reg k) ∧ t = (s.withRegs t.regs).withHost t.host)
    ∧ (s.host.up = true → s.validPart p.val = true → s.fnWaits (p.val + 1) = false → s.mirrored p.val = false →
        ((s.tmpl p.val).depth ≤ tail.toNat → ∃ t, exec (.galleyDoorbell p tail) s = .next t
            ∧ (∀ c, (s.tmpl p.val).hasCluster c = false → t.cluster c = s.cluster c)
            ∧ (∀ j, (s.tmpl p.val).hasReq j = false → t.req j = s.req j) ∧ (∀ q, q ≠ p.val → t.scu q = s.scu q))
        ∧ (tail.toNat < (s.tmpl p.val).depth → s.fld (rGhead (p.val + 1)) 9 0 < (s.tmpl p.val).depth →
            (∀ k, k < (s.tmpl p.val).depth → bf (wordAt (s.galleyEntry p.val k) 0) 63 56 ≠ 1) →
            ∃ t, exec (.galleyDoorbell p tail) s = .next t
              ∧ t.fld (rGhead (p.val + 1)) 9 0 = tail.toNat ∧ t.fld (rGtail (p.val + 1)) 9 0 = tail.toNat
              ∧ t.reqs = s.reqs ∧ t.clusters = s.clusters ∧ t.stackMem = s.stackMem ∧ t.caseMem = s.caseMem)
        ∧ (∀ k, s.fld (rGhead (p.val + 1)) 9 0 = k → k < (s.tmpl p.val).depth →
            tail.toNat = (k + 1) % (s.tmpl p.val).depth → 1 < (s.tmpl p.val).depth →
            bf (wordAt (s.galleyEntry p.val k) 0) 63 56 = 1 → s.indexOk p.val (s.galleyEntry p.val k) = true →
            (s.req (entIndex (s.galleyEntry p.val k))).live = false →
            ∃ t, exec (.galleyDoorbell p tail) s = .next t
              ∧ (t.req (entIndex (s.galleyEntry p.val k))).state = rqQueued
              ∧ t.fld (rGhead (p.val + 1)) 9 0 = tail.toNat))

/-- A host read (R374, R376, R468): before READY every byte of BAR2 reads as 0xFF; a function whose template is not
valid reads zeros; an access that translates reads the memory bytes, or instruction memory; one that does not, or
whose channel is in processor mode, answers 0xFF. With the port down nothing answers. No read changes a memory. A host
write of a partition's function (R374, R376, R73): an access that translates writes its bytes; one that fails writes
nothing. While a channel it touches is under refresh or calibration, or an earlier access of its function waits, an
access waits (R239, R290). Instruction memory takes its bytes; a change of what a valid slot may run is a host error,
which reaches no cluster of another partition, as does the reuse of a buffer that a running step uses (R291, R391).
With the port down, or without a valid template, nothing is written. -/
def Obligations.HostAccessesMemory : Prop :=
  (∀ (f : FnId) (imem : Bool) (a n : Nat) (s : State),
     let ls := (List.range n).map (fun i => s.apLoc f.val (a + i))
     let at_ := ls.filterMap id
     (s.host.up = false ∨ s.power.input = false → exec (.hostRead f imem a n) s = .next s)
     ∧ (s.host.up = true → s.power.input = true →
         (s.ready = false → exec (.hostRead f false a n) s = .next (s.complete (List.replicate n 0xFF) false))
         ∧ (imem = true ∨ s.ready = true → s.fnValid f.val = false ∨ (imem = true ∧ f.val = 0) →
             exec (.hostRead f imem a n) s = .next (s.complete (List.replicate n 0) false))
         ∧ (s.fnValid f.val = true → s.ready = true →
             (s.plainReads → s.apFault f.val ls = none → s.mayServe (.read f.val a at_) = true →
               exec (.hostRead f false a n) s
                 = .next ((s.countLines none at_).complete (at_.map (fun x => s.byteAt x.1 x.2)) false))
             ∧ (s.apFault f.val ls = none → s.mayServe (.read f.val a at_) = false →
               exec (.hostRead f false a n) s
                 = .next (s.withHost { s.host with waits := s.host.waits ++ [.read f.val a at_] }))
             ∧ (∀ x, s.apFault f.val ls = some x →
               ∃ t, exec (.hostRead f false a n) s = .next t ∧ t.host.bytes = List.replicate n 0xFF ∧ t.host.ep = false
                 ∧ onlyRecords s t ((List.range 17)) ∧ (x.2 = none → t.regs = s.regs ∧ t.hostMem = s.hostMem)))
         ∧ (s.fnValid f.val = true → f.val ≠ 0 → s.barOpen = true →
             ((∀ i, i < n → (s.imemLoc f.val (a + i)).isSome) → s.tripped = false →
                 exec (.hostRead f true a n) s = .next (s.complete
                 (((List.range n).map (fun i => s.imemLoc f.val (a + i))).filterMap
                   (fun l => l.map (fun l => mget (s.cluster l.1).imem l.2))) false))
             ∧ ((∃ i, i < n ∧ s.imemLoc f.val (a + i) = none) → ∃ t, exec (.hostRead f true a n) s = .next t
                 ∧ t.host.bytes = List.replicate n 0xFF ∧ onlyRecords s t ((List.range 17))))))
  ∧
  (∀ (f : FnId) (imem : Bool) (a : Nat) (bs : List Byte) (s : State),
     let ls := (List.range bs.length).map (fun i => s.apLoc f.val (a + i))
     let at_ := ls.filterMap id
     (s.host.up = false ∨ s.power.input = false ∨ s.fnValid f.val = false → exec (.hostWrite f imem a bs) s = .next s)
     ∧ (s.ready = false → exec (.hostWrite f false a bs) s = .next s)
     ∧ (s.host.up = true → s.power.input = true → s.fnValid f.val = true → f.val ≠ 0 →
         (s.ready = true → s.apFault f.val ls = none → s.role ≠ rolePrimary → s.mayServe (.write f.val a bs at_) = true →
           s.plainWrites → s.stepsUsing at_ = [] → ∃ t, exec (.hostWrite f false a bs) s = .next t
             ∧ (∀ sp b, t.byteAt sp b = storedByte ((List.zip at_ bs).map (fun q => ⟨q.1.1, q.1.2, 0xFF, q.2⟩)) sp b
                 (s.byteAt sp b))
             ∧ (∀ k, (∀ j, j < 8 → k ≠ rTrcPcnt j) → t.reg k = s.reg k) ∧ t.reqs = s.reqs ∧ t.scus = s.scus
             ∧ t.hostMem = s.hostMem ∧ t.mirror = s.mirror)
         ∧ (s.ready = true → s.apFault f.val ls = none → s.role ≠ rolePrimary →
           s.mayServe (.write f.val a bs at_) = false →
           exec (.hostWrite f false a bs) s
             = .next (s.withHost { s.host with waits := s.host.waits ++ [.write f.val a bs at_] }))
         ∧ (s.ready = true → s.apFault f.val ls = none → ∃ t, exec (.hostWrite f false a bs) s = .next t
           ∧ t.parts = s.parts ∧ ∀ c, s.ownedBy ((f.val - 1) :: s.stepsUsing at_) c = false →
               (t.cluster c).tiles = (s.cluster c).tiles ∧ (t.cluster c).sycs = (s.cluster c).sycs)
         ∧ (∀ x, s.ready = true → s.apFault f.val ls = some x →
           ∃ t, exec (.hostWrite f false a bs) s = .next t ∧ onlyRecords s t (List.range 17))
         ∧ (s.barOpen = true →
           ((∃ i, i < bs.length ∧ s.imemLoc f.val (a + i) = none) →
             ∃ t, exec (.hostWrite f true a bs) s = .next t ∧ onlyRecords s t (List.range 17))
           ∧ ((∀ i, i < bs.length → (s.imemLoc f.val (a + i)).isSome) →
             ((∀ c, c < 32 → s.liveKernels (f.val - 1) c = []) → s.tripped = false → ∃ t,
                 exec (.hostWrite f true a bs) s = .next t
               ∧ (∀ i c o, i < bs.length → s.imemLoc f.val (a + i) = some (c, o) →
                   mget (t.cluster c).imem o = bs.getD i 0)
               ∧ (∀ c o, (∀ i, i < bs.length → s.imemLoc f.val (a + i) ≠ some (c, o)) →
                   mget (t.cluster c).imem o = mget (s.cluster c).imem o)
               ∧ t = (s.withClusters t.clusters).withInteg t.integ)
             ∧ (∃ t, exec (.hostWrite f true a bs) s = .next t
               ∧ (∀ c, (s.tmpl (f.val - 1)).hasCluster c = false → t.cluster c = s.cluster c) ∧ t.parts = s.parts)))))

/-- The host port and its rings: PERST_N takes the port down and up, and the reads that wait there are lost (R479); a
write of EBASE empties the ring (R386); an interrupt goes out while records remain, at most once in 10 µs; a tier port
that trained is up with its capacity (R392), and its device's poisoned lines are known (log entry 123); a shadow takes
its primary's inputs as its own and no other role does (R356), and a shadow or joining module takes the pages and the
state of a resynchronisation (R369), a page once its channel's refresh is over (R239). -/
def Obligations.HostPortEvents : Prop :=
  ∀ s : State,
    (∀ b, exec (.perstN b) s = .next (s.withHost { s.host with
        up := !b, waits := if b then s.host.waits.filter (fun x => !x.isRead) else s.host.waits }))
    ∧ (∀ (f : FnId) v, (s.fnValid f.val = false → exec (.hostEbaseWrite f v) s = .next s)
        ∧ (s.fnValid f.val = true → ∃ t, exec (.hostEbaseWrite f v) s = .next t
          ∧ t.fld (rEbase f.val) 63 12 = bf v 63 12 ∧ t.fld (rEbase f.val) 3 0 = bf v 3 0
          ∧ t.fld (rEhead f.val) 15 0 = 0 ∧ t.fld (rEstat f.val) 15 0 = 0
          ∧ (∀ k, k ≠ rEbase f.val → k ≠ rEhead f.val → k ≠ rEstat f.val → t.reg k = s.reg k) ∧ t = s.withRegs t.regs))
    ∧ (∀ f : FnId,
        (s.host.up = true → s.fld (rEhead f.val) 15 0 ≠ s.fld (rEstat f.val) 15 0 →
          sget 0 s.host.msixAt f.val + 10000 ≤ s.now → exec (.eventInterrupt f) s = .next (s.msix f.val))
        ∧ (s.host.up = false ∨ s.fld (rEhead f.val) 15 0 = s.fld (rEstat f.val) 15 0
            ∨ s.now < sget 0 s.host.msixAt f.val + 10000 → exec (.eventInterrupt f) s = .next s))
    ∧ (∀ (n : Fin 3) (cap : BitVec 32) (poison : List Nat),
        (s.fld (rTier n.val) 61 60 = 1 → ∃ t, exec (.tierPortTrained n cap poison) s = .next t
          ∧ t.fld (rTier n.val) 61 60 = 2 ∧ t.fld (rTier n.val) 31 0 = cap.toNat
          ∧ t.fld (rTier n.val) 63 62 = s.fld (rTier n.val) 63 62
          ∧ (∀ l, l / 2 ^ 40 = n.val → (l ∈ t.tierPoison ↔ l % 2 ^ 40 < cap.toNat * 2 ^ 24 ∧ l % 2 ^ 40 ∈ poison))
          ∧ (∀ l, l / 2 ^ 40 ≠ n.val → (l ∈ t.tierPoison ↔ l ∈ s.tierPoison))
          ∧ (∀ k, k ≠ rTier n.val → t.reg k = s.reg k) ∧ t = (s.withRegs t.regs).withTierPoison t.tierPoison)
        ∧ (s.fld (rTier n.val) 61 60 ≠ 1 → exec (.tierPortTrained n cap poison) s = .next s))
    ∧ (∀ x, s.role ≠ roleShadow → s.role ≠ roleJoining → exec (.mirrorInput x) s = .next s)
    ∧ (∀ (p : PartId) e tail a bs, s.follows p.val = false → exec (.mirrorInput (.galley p e)) s = .next s
        ∧ exec (.mirrorInput (.doorbell p tail)) s = .next s ∧ exec (.mirrorInput (.write p a bs)) s = .next s)
    ∧ (∀ (p : PartId) e, s.follows p.val = true → bf (wordAt e 0) 63 56 = 2 → s.fnWaits (p.val + 1) = false →
        s.indexOk p.val e = true → ∃ t, exec (.mirrorInput (.galley p e)) s = .next t
          ∧ t.scu p.val = { s.scu p.val with acts := (s.scu p.val).acts ++ [(2, entIndex e)] }
          ∧ (s.galleyHead p.val < (s.tmpl p.val).depth →
              (∀ j, j < 8 → t.reg (rGalley p.val (s.galleyHead p.val) + 8 * j) = wordAt e j)
              ∧ t.galleyHead p.val = (s.galleyHead p.val + 1) % (s.tmpl p.val).depth % 1024)
          ∧ t = (s.withRegs t.regs).withScus t.scus)
    ∧ (∀ (p : PartId) tail, s.follows p.val = true →
        exec (.mirrorInput (.doorbell p tail)) s = .next (s.setFld (rGtail (p.val + 1)) 9 0 tail.toNat))
    ∧ (∀ k bytes poison, s.role = roleShadow ∨ s.role = roleJoining → s.mayServe (.page k bytes poison) = false →
        exec (.mirrorInput (.page k bytes poison)) s
          = .next (s.withHost { s.host with waits := s.host.waits ++ [.page k bytes poison] }))
    ∧ (∀ k bytes, s.role = roleShadow ∨ s.role = roleJoining → k < 2 ^ 20 → Memory.wf s.stackMem = true →
        s.mayServe (.page k bytes []) = true →
        ∃ t, exec (.mirrorInput (.page k bytes [])) s = .next t
          ∧ (∀ o, o < 2 ^ 21 → (∀ b ∈ bytes, b.1 < 2 ^ 21) →
              mget t.stackMem (k * 2 ^ 21 + o) = bytes.foldl (fun x b => if b.1 = o then b.2 else x) 0)
          ∧ (∀ o, (∀ b ∈ bytes, b.1 < 2 ^ 21) → o < k * 2 ^ 21 ∨ (k + 1) * 2 ^ 21 ≤ o →
            mget t.stackMem o = mget s.stackMem o)
          ∧ t = (s.withStackMem t.stackMem).withInteg t.integ)
    ∧ (∀ only, s.role = roleShadow ∨ s.role = roleJoining → exec (.mirrorInput (.complete only)) s
        = .next (s.withMirror { s.mirror with handed := s.mirror.handed ++ [only.map (·.val)] }))
    ∧ (∀ (p : PartId) a bs, s.follows p.val = true → s.plainWrites →
        s.stepsUsing (((List.range bs.length).map (fun i => s.apLoc (p.val + 1) (a + i))).filterMap id) = [] →
        s.mayServe (.write (p.val + 1) a bs (((List.range bs.length).map (fun i => s.apLoc (p.val + 1) (a + i))).filterMap id)) = true →
        s.apFault (p.val + 1) ((List.range bs.length).map (fun i => s.apLoc (p.val + 1) (a + i))) = none →
        ∃ t, exec (.mirrorInput (.write p a bs)) s = .next t
          ∧ ∀ sp b, t.byteAt sp b = storedByte ((List.zip (((List.range bs.length).map
              (fun i => s.apLoc (p.val + 1) (a + i))).filterMap id) bs).map (fun q => ⟨q.1.1, q.1.2, 0xFF, q.2⟩)) sp b
              (s.byteAt sp b))

/-- Templates (R377 to R380, R471): before READY an APPLY waits with the contents it was written with; an APPLY that fails
a check of Table 14.4 sets REJECT and its code and changes nothing else; one that passes is under way, and when it is
done its template is in force, VALID, and what it newly grants is as after zeroing: clusters with no forme defined
(R190), channels, in memory mode, and slices, flags cleared, request entries free, and, where none was valid before, the
galley and the parameter blocks; nothing that it does not grant changes, but for what operations in flight were to do to
what it takes. A release that is done ends its grants. An APPLY to a busy template is ignored. -/
def Obligations.TemplatesApplyAndRelease : Prop :=
  ∀ (p : PartId) (s : State),
    (s.busyPart p.val = true → exec (.apply p) s = .next s)
    ∧ (s.ready = false → s.boot.running = true → s.busyPart p.val = false → exec (.apply p) s
        = .next (s.withBoot { s.boot with applyQ := s.boot.applyQ ++ [(p.val, some (s.templateOf p.val))] }))
    ∧ (s.ready = true → s.busyPart p.val = false →
        let t0 := s.templateOf p.val
        (s.applyCode p.val t0 ≠ 0 → ∃ t, exec (.apply p) s = .next t ∧ t.fbit (rPart p.val) 61 = true
          ∧ t.fld (rPart p.val) 59 56 = s.applyCode p.val t0 ∧ t.busyPart p.val = false
            ∧ t.validPart p.val = s.validPart p.val
          ∧ (∀ k, k ≠ rPart p.val → t.reg k = s.reg k) ∧ t = s.withRegs t.regs)
        ∧ (s.applyCode p.val t0 = 0 → ∃ t, exec (.apply p) s = .next t ∧ t.busyPart p.val = true
          ∧ t.fbit (rPart p.val) 61 = false ∧ t.fld (rPart p.val) 59 56 = 0
          ∧ t.part p.val = { s.part p.val with taking := some t0, releasing := t0.clusters == 0 }
          ∧ (∀ q, q ≠ p.val → t.part q = s.part q) ∧ t = (s.withRegs t.regs).withParts t.parts
          ∧ (t0.clusters = 0 → exec (.release p) s = .next t)))
    ∧ ((s.templateOf p.val).clusters ≠ 0 → exec (.release p) s = .next s)
    ∧ ((s.part p.val).taking = none → s.stage ≠ 6 → exec (.applyDone p) s = .next s ∧ exec (.releaseDone p) s = .next s)
    ∧ (∀ t0, (s.part p.val).taking = some t0 → s.stage ≠ 6 →
        let old := if s.validPart p.val then s.tmpl p.val else {}
        ((s.part p.val).releasing = false → ∃ t, exec (.applyDone p) s = .next t
          ∧ t.validPart p.val = true ∧ t.busyPart p.val = false ∧ t.fbit (rPart p.val) 52 = t0.full
          ∧ t.tmpl p.val = t0 ∧ (t.part p.val).taking = none
          ∧ (t0.twice = false →
              (s.validPart p.val = false → t.scu p.val = {}
                ∧ (∀ k, rParam p.val 0 ≤ k → k < rParam p.val 64 → t.reg k = 0)
                ∧ (∀ k, rGalley p.val 0 ≤ k → k < rGalley p.val 1024 → t.reg k = 0))
              ∧ (∀ c, c < 32 → t0.hasCluster c = true → old.hasCluster c = false →
                  (t.cluster c).store = [] ∧ (t.cluster c).tiles = [] ∧ (t.cluster c).banks = []
                  ∧ (t.cluster c).imem = [] ∧ (t.cluster c).formes = [] ∧ (t.cluster c).sycs = []
                  ∧ (t.cluster c).mv = [] ∧ (t.cluster c).cyc = (s.cluster c).cyc)
              ∧ (∀ k, k ∈ t0.chans → k ∉ old.chans →
                  (t.chan k).state = .memory ∧ ∀ b, chanOfPa b = k → mget t.stackMem b = 0)
              ∧ (∀ b, b / 2 ^ 28 ∈ t0.slices → b / 2 ^ 28 ∉ old.slices → Memory.wf s.caseMem = true →
                mget t.caseMem b = 0)
              ∧ (∀ d f, d < 2 → f < 256 → 16 * d + f / 16 ∈ t0.groups → 16 * d + f / 16 ∉ old.groups →
                  (t.flag d f).val = false)
              ∧ (∀ i, t0.rqBase ≤ i → i < t0.rqBase + t0.rqCount → ¬ (old.rqBase ≤ i ∧ i < old.rqBase + old.rqCount) →
                  t.req i = {})
              ∧ (s.integ.waitRows = [] → recordPosted s t 0 [evWord 9 p.val (9 * 2 ^ 48), s.nowWord, 0, 0]))
          ∧ (∀ c, t0.hasCluster c = false → t.cluster c = { s.cluster c with mv := (t.cluster c).mv }
              ∧ (t.cluster c).mv.length = (s.cluster c).mv.length)
          ∧ (∀ k b, k ∉ t0.chans → chanOfPa b = k → mget t.stackMem b = mget s.stackMem b)
          ∧ (∀ b, b / 2 ^ 28 ∉ t0.slices → mget t.caseMem b = mget s.caseMem b)
          ∧ (∀ d f, d < 2 → f < 256 → 16 * d + f / 16 ∉ t0.groups → t.flag d f = s.flag d f)
          ∧ (∀ i, ¬ (t0.rqBase ≤ i ∧ i < t0.rqBase + t0.rqCount) → t.req i = s.req i)
          ∧ (∀ q, q ≠ p.val → t.part q = s.part q ∧ t.scu q = s.scu q))
        ∧ ((s.part p.val).releasing = true → ∃ t, exec (.releaseDone p) s = .next t
          ∧ t.validPart p.val = false ∧ t.busyPart p.val = false ∧ t.fbit (rPart p.val) 52 = false
          ∧ t.tmpl p.val = {} ∧ (t.part p.val).taking = none
          ∧ (∀ q, q ≠ p.val → t.part q = s.part q) ∧ t.clusters = s.clusters ∧ t.stackMem = s.stackMem
          ∧ recordPosted s t 0 [evWord 9 p.val (9 * 2 ^ 48), s.nowWord, 0, 0]))

/-- TIERCOPY (R385): a range outside the template's tier or partition range posts COPYDONE with ERR 1; another one is
under way until its COPYDONE, which copies the bytes that the tier's ports serve (R392), delivers as poison what they do
not or what returns poison (R393), and posts its record with ERR 0; while a channel it touches is
under refresh or calibration it goes on (R239). -/
def Obligations.TierCopiesMoveTheirBytes : Prop :=
  ∀ (p : PartId) (s : State),
    (∀ e : List W64, bf (wordAt e 0) 63 56 = 5 → s.validPart p.val = true → s.fnWaits (p.val + 1) = false →
        s.mirrored p.val = false →
        let j : TierJob := { toTier := bit (wordAt e 0) 55, sp := bit (wordAt e 0) 54, taddr := (wordAt e 1).toNat / 64 * 64
                             paddr := (wordAt e 2).toNat / 64 * 64, len := 64 * bf (wordAt e 3) 31 0
                             cookie := BitVec.ofNat 32 (wordAt e 4).toNat }
        let base := bf (s.tmpl p.val).tier 63 32 * 2 ^ 30
        let top := base + bf (s.tmpl p.val).tier 31 0 * 2 ^ 30
        (base ≤ j.taddr → j.taddr + j.len ≤ top → (s.placesFrom p.val (boolNat j.sp) j.paddr j.len).length = j.len →
          exec (.tierCopy p e) s = .next (s.modPart p.val (fun q => { q with copies := q.copies ++ [j] })))
        ∧ (j.taddr < base ∨ top < j.taddr + j.len
              ∨ (s.placesFrom p.val (boolNat j.sp) j.paddr j.len).length ≠ j.len → ∃ t, exec (.tierCopy p e) s = .next t
          ∧ onlyRecords s t [p.val + 1]
          ∧ recordPosted s t (p.val + 1) [evWord 8 p.val (2 ^ 55 + j.cookie.toNat), s.nowWord, 0, 0]))
    ∧ (∀ k, (s.part p.val).copies[k]? = none ∨ s.halted = true → exec (.copyDone p k) s = .next s)
    ∧ (∀ k j, (s.part p.val).copies[k]? = some j → s.halted = false →
      let ls := s.placesFrom p.val (boolNat j.sp) j.paddr j.len
      (ls.length ≠ j.len → ∃ t, exec (.copyDone p k) s = .next t
          ∧ (t.part p.val).copies = dropAt (s.part p.val).copies k ∧ onlyRecords s (t.withParts s.parts) [p.val + 1]
          ∧ recordPosted s t (p.val + 1) [evWord 8 p.val (2 ^ 55 + j.cookie.toNat), s.nowWord, 0, 0])
      ∧ (ls.length = j.len → s.calm ls = false → exec (.copyDone p k) s = .next s)
      ∧ (ls.length = j.len → s.calm ls = true →
        (∀ l ∈ ls, s.lineOk l = true) → s.plainWrites →
        let gives := fun (a : Nat) => s.tierUp (64 * (a / 64)) 1 = true ∧ a / 64 ∉ s.tierPoison
        ∃ t, exec (.copyDone p k) s = .next t ∧ (t.part p.val).copies = dropAt (s.part p.val).copies k
          ∧ (j.toTier = true → (∀ sp b, t.byteAt sp b = s.byteAt sp b)
              ∧ (∀ a, a < j.taddr ∨ j.taddr + ls.length ≤ a ∨ s.tierUp a 1 = false → mget t.tierMem a = mget s.tierMem a)
              ∧ (∀ i l, ls[i]? = some l → s.tierUp (j.taddr + i) 1 = true →
                  mget t.tierMem (j.taddr + i) = s.byteAt l.1 l.2))
          ∧ (j.toTier = false → t.tierMem = s.tierMem
              ∧ ((∀ i, i < ls.length → gives (j.taddr + i)) → ∀ sp b, t.byteAt sp b = storedByte
                  ((List.zip ls (List.range ls.length)).map (fun q => ⟨q.1.1, q.1.2, 0xFF,
                      mget s.tierMem (j.taddr + q.2)⟩))
                  sp b (s.byteAt sp b))
              ∧ (∀ i l, ls[i]? = some l → ¬ gives (j.taddr + i) → (t.errOf l.1 (unitBase l.1 l.2)).poison = true))
          ∧ recordPosted s t (p.val + 1) [evWord 8 p.val j.cookie.toNat, s.nowWord, 0, 0]))

/-! ### Registers and bring-up (chapters 1, 14 and 19) -/

/-- A whole write by the access codes of a register's fields (R9, R11, R12): a bit of an RW field takes the value, a bit
of a W1C field is cleared by a 1 and kept by a 0, every other bit keeps what it was. A half write leaves the other half
as it was, and changes nothing where its half holds a field that is not RW, RO or reserved. -/
def Obligations.AccessCodesGovernWrites : Prop :=
  ∀ (fs : List Fld) (old v : W64), (∀ f ∈ fs, f.lo ≤ f.hi ∧ f.hi < 64) →
    (∀ i, i < 64 →
      ((∃ f ∈ fs, f.acc = .rw ∧ f.lo ≤ i ∧ i ≤ f.hi) → (writeWord fs old .w64 v).getLsbD i = v.getLsbD i)
      ∧ ((∃ f ∈ fs, f.acc = .w1c ∧ f.lo ≤ i ∧ i ≤ f.hi) → ¬ (∃ f ∈ fs, f.acc = .rw ∧ f.lo ≤ i ∧ i ≤ f.hi) →
          (writeWord fs old .w64 v).getLsbD i = (old.getLsbD i && !v.getLsbD i))
      ∧ (¬ (∃ f ∈ fs, (f.acc = .rw ∨ f.acc = .w1c) ∧ f.lo ≤ i ∧ i ≤ f.hi) →
          (writeWord fs old .w64 v).getLsbD i = old.getLsbD i))
    ∧ (∀ i, i < 32 → (writeWord fs old .hi32 v).getLsbD i = old.getLsbD i)
    ∧ (∀ i, 32 ≤ i → i < 64 → (writeWord fs old .lo32 v).getLsbD i = old.getLsbD i)
    ∧ ((∃ f ∈ fs, f.lo < 32 ∧ f.acc ≠ .rw ∧ f.acc ≠ .ro) → writeWord fs old .lo32 v = old)
    ∧ ((∃ f ∈ fs, 32 ≤ f.hi ∧ f.acc ≠ .rw ∧ f.acc ≠ .ro) → writeWord fs old .hi32 v = old)

/-- REGISTER_WRITE: where BAR0 does not answer, and at reserved offsets, nothing happens; the plain registers of
templates, the serving control unit, the thermal block and the parameter blocks take the word by their access codes; a
write whose bit or register acts does what its own row does, and the slot area of a timetable's active view takes none
(R49). A galley entry is written by its words, and a write of one between HEAD and TAIL, of the parameter block of a
step that runs (R291), or of an EHEAD outside the records, is a host error, which leaves values of its own partition
free and no other (R13, R391). -/
def Obligations.RegisterWritesActAsTheirRows : Prop :=
  ∀ (f : FnId) (off : BitVec 25) (wd : Width) (v : W64) (s : State),
    let put := fun (k : Nat) => s.setReg k (writeWord (layoutOf k) (s.reg k) wd v)
    let spares := fun (t : State) => (∀ c, c < 32 → (s.tmpl (f.val - 1)).hasCluster c = false → t.cluster c = s.cluster c)
      ∧ t.parts = s.parts ∧ t.scus = s.scus ∧ t.links = s.links ∧ t.mirror = s.mirror ∧ t.pending = s.pending
    (s.barOpen = false → exec (.registerWrite f off wd v) s = .next s)
    ∧ (s.barOpen = true → s.keep.all.length < 16 →
        (f.val = 0 → (layoutPf off.toNat).isEmpty → exec (.registerWrite f off wd v) s = .next s)
        ∧ (off.toNat % 8 ≠ 0 → exec (.registerWrite f off wd v) s = .next s)
        ∧ (f.val = 0 → (layoutPf off.toNat).isEmpty = false → off.toNat % 0x1000 ≠ 0 →
            ((0x10000 ≤ off.toNat ∧ off.toNat < 0x20000) ∨ (0x41000 ≤ off.toNat ∧ off.toNat < 0x51000)
              ∨ (0xE0000 ≤ off.toNat ∧ off.toNat < 0xF0000)) →
            exec (.registerWrite f off wd v) s = .next (put off.toNat))
        ∧ (∀ p : PartId, f.val = 0 → off.toNat = rPart p.val →
            exec (.registerWrite f off wd v) s
              = (if wd = .w64 ∧ bit v 62 then exec (.apply p) (put off.toNat) else .next (put off.toNat)))
        ∧ (∀ p : PartId, f.val = 0 → off.toNat = rTtFrame p.val →
            exec (.registerWrite f off wd v) s
              = (if wd = .w64 ∧ bit v 62 then exec (.ttCommit p) (put off.toNat) else .next (put off.toNat)))
        ∧ (∀ p : PartId, f.val = 0 → rTtFrame p.val + 0x200 ≤ off.toNat → off.toNat < rTtFrame p.val + 0x1000 →
            s.fbit (rTtView p.val) 0 = true → exec (.registerWrite f off wd v) s = .next s)
        ∧ (f.val = 0 → off.toNat = rMirCtl → wd = .w64 → bit v 42 = false →
            exec (.registerWrite f off wd v) s
              = (if bf v 45 43 = 1 then exec .setroleJoining (put rMirCtl)
                 else if bf v 45 43 = 2 then exec .setroleSolo (put rMirCtl) else .next (put rMirCtl)))
        ∧ (off.toNat = rEbase f.val % 2 ^ 32 → wd = .w64 →
            exec (.registerWrite f off wd v) s = exec (.hostEbaseWrite f v) s)
        ∧ (∀ p : PartId, f.val = p.val + 1 →
            (s.validPart p.val = false → exec (.registerWrite f off wd v) s = .next s)
            ∧ (s.validPart p.val = true → off.toNat = 0 → wd ≠ .hi32 →
                exec (.registerWrite f off wd v) s = exec (.galleyDoorbell p (BitVec.ofNat 10 v.toNat)) s)
            ∧ (s.validPart p.val = true → 0x1000 ≤ off.toNat → off.toNat < 0x1800 → off.toNat % 8 = 0 →
                let runs := (s.findRun p.val ((off.toNat - 0x1000) / 32) (fun r => r.phase == .step
                    && r.step.isNone)).isSome
                (runs = false → exec (.registerWrite f off wd v) s = .next (put (f.val * 2 ^ 32 + off.toNat)))
                ∧ (runs = true → ∃ t, exec (.registerWrite f off wd v) s = .next t ∧ spares t))
            ∧ (s.validPart p.val = true → 0x10000 ≤ off.toNat → off.toNat < 0x20000 → off.toNat % 8 = 0 →
                s.galleyHeld p.val ((off.toNat - 0x10000) / 64) = false →
                exec (.registerWrite f off wd v) s = .next (put (f.val * 2 ^ 32 + off.toNat)))
            ∧ (s.validPart p.val = true → 0x10000 ≤ off.toNat → off.toNat < 0x20000 → off.toNat % 8 = 0 →
                s.galleyHeld p.val ((off.toNat - 0x10000) / 64) = true →
                ∃ t, exec (.registerWrite f off wd v) s = .next t ∧ spares t)
            ∧ (s.validPart p.val = true → off.toNat = 0x18 → wd ≠ .hi32 →
                let n := ringSize (s.reg (rEbase f.val))
                let old := s.fld (rEhead f.val) 15 0
                let tail := s.fld (rEstat f.val) 15 0
                (bf v 15 0 < n → (bf v 15 0 + n - old % n) % n ≤ (tail + n - old % n) % n →
                  exec (.registerWrite f off wd v) s = .next (s.setFld (rEhead f.val) 15 0 (bf v 15 0)))
                ∧ (n ≤ bf v 15 0 ∨ (tail + n - old % n) % n < (bf v 15 0 + n - old % n) % n →
                  ∃ t, exec (.registerWrite f off wd v) s = .next t ∧ spares t))))

/-- Bring-up (R466, R469, R471, R473): power-on starts stage 0, or fails it with 0x01 where a supply is out of
regulation; which keep words it finds uncorrectable comes with it, and a module of SRC 0 is locked at once; lock, or 2
s without it, ends stage 5, and with no template to apply the module is READY. A loss of the input resets everything
but the always-on domain, MIR and what it knew of its partner included, keeps FW_IMG.ACTIVE, and leaves the module
FENCED. -/
def Obligations.BringUpRunsItsStages : Prop :=
  ∀ s : State,
    (∀ b, s.power.input = true → exec (.powerOn b) s = .next s)
    ∧ (∀ b, s.power.input = false →
        (0 < b.durations.getD 0 0 → ∃ t, exec (.powerOn b) s = .next t ∧ t.stage = 0 ∧ t.fbit rHostBoot 60 = false
          ∧ t.power.alive = true ∧ t.power.input = true ∧ t.boot.running = true
          ∧ (∀ w, w ∈ t.keep.bad ↔ w ∈ s.keep.bad ∨ ∃ x ∈ b.badKeep, w = x.toNat)
          ∧ (s.timeSrc = 0 → s.time.altInUse = false → t.locked = true)
          ∧ (s.timeSrc ≠ 0 → t.time = s.time ∧ ∀ k, k ≠ rHostBoot → t.reg k = s.reg k)
          ∧ (∀ k, k ≠ rHostBoot → k ≠ rTtStatus → t.reg k = s.reg k)
          ∧ t = ((((s.withRegs t.regs).withPower t.power).withBoot t.boot).withTime t.time).withKeep t.keep)
        ∧ (b.durations.getD 0 0 = 0 → b.supplyOk = false → ∃ t, exec (.powerOn b) s = .next t ∧ t.stage = 0
          ∧ t.fbit rHostBoot 60 = true ∧ t.fld rHostBoot 55 48 = 1 ∧ t.boot.running = false
          ∧ t.clusters = s.clusters ∧ t.stackMem = s.stackMem))
    ∧ (s.locked = true ∨ s.mayLock = false → s.stage ≠ 5 → exec .locked s = .next s)
    ∧ (s.locked = false → s.mayLock = true → s.power.alive = true →
        (s.stage ≠ 5 → ∃ t, exec .locked s = .next t ∧ t.locked = true ∧ t.fbit rTtStatus stHoldover = false
          ∧ t.time = { s.time with hold := 0 } ∧ (∀ k, k ≠ rTtStatus → t.reg k = s.reg k)
          ∧ t = (s.withTime t.time).withRegs t.regs)
        ∧ (s.stage = 5 → s.boot.running = true → s.power.input = true → s.boot.applyQ = [] → s.bootTemplates = [] →
            s.anyBusy = false → ∃ t, exec .locked s = .next t ∧ t.locked = true ∧ t.ready = true ∧ t.boot.running = false
              ∧ t.clusters = s.clusters ∧ t.parts = s.parts ∧ t.stackMem = s.stackMem))
    ∧ (s.stage ≠ 5 ∨ s.boot.running = false ∨ s.boot.elapsed < s.boot.limitAt + 2000000000 →
        exec .timeStageLimit s = .next s)
    ∧ (s.stage = 5 → s.boot.running = true → s.power.input = true → s.boot.limitAt + 2000000000 ≤ s.boot.elapsed →
      s.boot.applyQ = [] →
        s.bootTemplates = [] → s.anyBusy = false → ∃ t, exec .timeStageLimit s = .next t
          ∧ t.fbit rHostBoot 59 = true ∧ t.ready = true ∧ t.boot.running = false ∧ t.locked = s.locked
          ∧ t.clusters = s.clusters ∧ t.parts = s.parts ∧ t.stackMem = s.stackMem)
    ∧ (s.power.input = false → exec .inputLoss s = .next s)
    ∧ (s.power.input = true → s.keep.queue = [] → ∃ t, exec .inputLoss s = .next t
        ∧ t.power.input = false ∧ t.role = roleFenced ∧ t.time = s.time ∧ t.keep.words = s.keep.words
        ∧ t.clusters = [] ∧ t.chans = [] ∧ t.stackMem = [] ∧ t.caseMem = [] ∧ t.parts = [] ∧ t.reqs = [] ∧ t.links = []
        ∧ (∀ k, alwaysOn k = true → k ≠ rMirStat → k ≠ rMirRsync → t.reg k = s.reg k)
        ∧ (∀ k, alwaysOn k = false → (∀ j, j < 4 → k ≠ rFwImg j) → t.reg k = State.reset.reg k)
        ∧ (∀ j, j < 4 → t.fbit (rFwImg j) 63 = s.fbit (rFwImg j) 63)
        ∧ t.mirror = {} ∧ t.fld rMirStat 60 59 = 0 ∧ t.reg rMirRsync = 0 ∧ t.host.waits = []
        ∧ t.hostMem = s.hostMem ∧ t.tierMem = s.tierMem ∧ t.pending = s.pending)

/-- The state after reset: every register at its Reset column (R10), every module FENCED (R353), every channel in memory
mode (R217), no memory byte listed and the memories canonical, and no command waiting. -/
def Obligations.ResetStateIsAsTabled : Prop :=
  (∀ k, State.reset.reg k = resetWord (layoutOf k))
    ∧ State.reset.role = roleFenced
    ∧ (∀ k, (State.reset.chan k).state = .memory)
    ∧ (∀ sp a, State.reset.byteAt sp a = 0)
    ∧ State.reset.memWf = true ∧ State.reset.pending = [] ∧ State.reset.time.ns = 0

/-! ### Integrity, keep registers and firmware (chapters 15 and 16) -/

/-- Scrubbing and retirement (R403 to R408): a burst scrubs the next 64 lines of an idle site and shows its progress, the
end of a lap shows its time and starts the next; a lap beyond LAPMAX sets SLOW and is logged; the end of a row's copy
retires it; split-write mode is entered only at a site granted to no partition. No stored byte changes. -/
def Obligations.ScrubbingAndRetirement : Prop :=
  ∀ (x : Site) (s : State),
    let t0 := Site.pair x
    let key := siteReg t0 + 8
    let sc : Scrub := sget {} s.integ.scrub (scrubKey t0)
    (s.power.alive = false ∨ s.power.input = false ∨ s.tripped = true ∨ s.fbit (rEcfg (siteWin t0)) 0 = false ∨ s.fbit (siteReg t0 + 24) 63 = true
        ∨ s.siteIdle t0 sc.pos = false → exec (.scrubBurst x) s = .next s)
    ∧ (s.power.alive = true → s.power.input = true → s.fbit (rEcfg (siteWin t0)) 0 = true →
        s.fbit (siteReg t0 + 24) 63 = false → s.siteIdle t0 sc.pos = true → s.plainReads →
        (sc.pos + 64 < siteLines t0 → ∃ t, exec (.scrubBurst x) s = .next t
          ∧ sget {} t.integ.scrub (scrubKey t0) = { sc with pos := sc.pos + 64, lapAt := some (sc.lapAt.getD s.now) }
          ∧ t.fld key 31 24 = 100 * (sc.pos + 64) / siteLines t0 ∧ t.fbit key 0 = s.fbit key 0
          ∧ (∀ k, k ≠ key → t.reg k = s.reg k) ∧ t = (s.withInteg t.integ).withRegs t.regs)
        ∧ (sc.pos < siteLines t0 → siteLines t0 ≤ sc.pos + 64 → ∃ t, exec (.scrubBurst x) s = .next t
          ∧ sget {} t.integ.scrub (scrubKey t0) = { pos := 0, lapAt := some s.now, rowErrs := [] }
          ∧ t.fld key 31 24 = 0 ∧ t.fld key 63 32 = satTo 32 ((s.now - sc.lapAt.getD s.now) / 10 ^ 6)
          ∧ t.fbit key 0 = (s.fbit key 0 || decide (s.now - sc.lapAt.getD s.now > s.lapMax t0))
          ∧ (∀ sp a, t.byteAt sp a = s.byteAt sp a) ∧ t.chans = s.chans))
    ∧ (sc.lapAt = none ∨ (∃ a, sc.lapAt = some a ∧ s.now - a ≤ s.lapMax t0) ∨ s.fbit key 0 = true →
        exec (.lapLimit x) s = .next s)
    ∧ (∀ a, sc.lapAt = some a → s.lapMax t0 < s.now - a → s.fbit key 0 = false → ∃ t, exec (.lapLimit x) s = .next t
        ∧ t.fbit key 0 = true ∧ t.fld key 63 1 = s.fld key 63 1
        ∧ t.fld (rLogctl (siteWin t0)) 63 32 = satTo 32 (s.fld (rLogctl (siteWin t0)) 63 32 + 1)
        ∧ recordPosted s t 0 [evWord 9 0 (4 * 2 ^ 48), s.nowWord, 0, 0]
        ∧ t = ((s.withRegs t.regs).withHostMem t.hostMem).withHost t.host)
    ∧ (∀ v, ∃ t, exec (.siteSplit x v) s = .next t
        ∧ t.fbit (siteReg t0 + 24) 63 = (bit v 63 && (s.fbit (siteReg t0 + 24) 63 || !s.siteGranted t0))
        ∧ t.fbit (siteReg t0 + 24) 62 = bit v 62
        ∧ (∀ k, k ≠ siteReg t0 + 24 → t.reg k = s.reg k) ∧ t = s.withRegs t.regs)
    ∧ ∀ (n : StackId) (m : ChanId),
        (s.integ.copying.find? (fun e => e.1 == chanKey n m) = none → exec (.rowCopyDone n m) s = .next s)
        ∧ (s.tripped = true ∨ (s.chan (chanKey n m)).state ≠ .memory ∨ s.siteIdle (0, chanKey n m) 0 = false →
            exec (.rowCopyDone n m) s = .next s)
        ∧ (∀ e, s.integ.copying.find? (fun e => e.1 == chanKey n m) = some e → (s.chan (chanKey n m)).state = .memory →
            s.siteIdle (0, chanKey n m) 0 = true → s.tripped = false → ∃ t, exec (.rowCopyDone n m) s = .next t
              ∧ t.integ.copying = s.integ.copying.erase e ∧ t.integ.retired = s.integ.retired ++ [e.2]
              ∧ (∀ sp a, t.byteAt sp a = s.byteAt sp a) ∧ t.chans = s.chans ∧ t.clusters = s.clusters)

/-- Keep words (R428, R429, R431): only the host's words are written; a write waits in the queue, and is persistent,
and counted, when it is performed; one behind 16 others waits for the oldest of them; one whose value is stored by then
is neither performed nor counted; a worn word takes none, and the refusal is counted, reported, and logged by SEC (the
model's choice, log entry 59). A core's report that it is healthy ends its trial; after a trial of 1 s the selection
is inverted and the core restarts as at power-up: from the selected slot, or, where that fails, from the other with
FELLBACK (R416). -/
def Obligations.KeepWritesAndTrials : Prop :=
  ∀ s : State,
    (∀ (w : BitVec 10) (v : W64),
      s.keep.all.length < 16 →
      (hostKeepWord w.toNat = false → exec (.keepWrite w v) s = .next s)
      ∧ (hostKeepWord w.toNat = true → s.keepWorn w.toNat = true → ∃ t, exec (.keepWrite w v) s = .next t
          ∧ t.keep = s.keep ∧ t.fld rKeepStat 63 32 = satTo 32 (s.fld rKeepStat 63 32 + 1) ∧ errorLogged s t
          ∧ (coreSec ∉ s.fw.started → recordPosted s t 0 [evWord 9 0 (6 * 2 ^ 48), s.nowWord, 0, 0])
          ∧ (∀ k, k ≠ rKeepStat → k ≠ rEstat 0 → k ≠ rFwLogstat → t.reg k = s.reg k)
          ∧ t = (((s.withRegs t.regs).withHostMem t.hostMem).withHost t.host).withFree t.free)
      ∧ (hostKeepWord w.toNat = true → s.keepWorn w.toNat = false →
          let same := s.keepStored w.toNat = v ∧ w.toNat ∉ s.keep.bad ∧ ∀ e ∈ s.keep.all, e.1 ≠ w.toNat
          (same → exec (.keepWrite w v) s = .next s)
          ∧ (¬ same → s.keep.waiting = [] → exec (.keepWrite w v) s
              = .next (s.withKeep { s.keep with queue := s.keep.queue ++ [(w.toNat, v)] }))))
    ∧ (∀ (w : BitVec 10) v, hostKeepWord w.toNat = true → s.keepWriteDone.keepWorn w.toNat = false →
      s.keep.all.length = 16 →
        exec (.keepWrite w v) s = .next (s.keepWriteDone.keepQueue w.toNat v))
    ∧ (s.keep.all = [] → exec .keepWriteDone s = .next s)
    ∧ (∀ w v rest, s.keep.all = (w, v) :: rest →
        let done := fun (t : State) => ∃ n, n < rest.length + 1 ∧ t.keep.all = rest.drop n
          ∧ (∀ e ∈ rest.take n, t.keepStored e.1 = e.2 ∧ e.1 ∉ t.keep.bad)
          ∧ t.keep.queue.length ≤ 16 ∧ (t.keep.waiting ≠ [] → t.keep.queue.length = 16)
        (s.keepWorn w = false → s.keepStored w ≠ v ∨ w ∈ s.keep.bad → ∃ t, exec .keepWriteDone s = .next t ∧ done t
          ∧ sget 0 t.keep.words w = v ∧ t.keepCount w = s.keepCount w + 1 ∧ w ∉ t.keep.bad
          ∧ (∀ x, x ≠ w → sget 0 t.keep.words x = sget 0 s.keep.words x ∧ t.keepCount x = s.keepCount x)
          ∧ (∀ k, k ≠ rTtStatus → t.reg k = s.reg k) ∧ t = (s.withKeep t.keep).withRegs t.regs)
        ∧ (s.keepWorn w = false → s.keepStored w = v → w ∉ s.keep.bad → ∃ t, exec .keepWriteDone s = .next t ∧ done t
          ∧ t.keep.words = s.keep.words ∧ t.keep.counts = s.keep.counts ∧ t = s.withKeep t.keep)
        ∧ (s.keepWorn w = true → ∃ t, exec .keepWriteDone s = .next t ∧ done t ∧ errorLogged s t
          ∧ t.keep.words = s.keep.words ∧ t.keep.counts = s.keep.counts
          ∧ t.fld rKeepStat 63 32 = satTo 32 (s.fld rKeepStat 63 32 + 1)))
    ∧ ∀ k : Fin 4,
        (sget 0 s.fw.trialAt k.val = 0 → exec (.healthyReport k) s = .next s ∧ exec (.trialTimeout k) s = .next s)
        ∧ (sget 0 s.fw.trialAt k.val ≠ 0 → ∃ t, exec (.healthyReport k) s = .next t
            ∧ sget 0 t.fw.trialAt k.val = 0 ∧ t.selection k.val = setBf (s.selection k.val) 62 62 0
            ∧ t = (s.withFw t.fw).withKeep t.keep)
        ∧ (sget 0 s.fw.trialAt k.val ≠ 0 → s.now < sget 0 s.fw.trialAt k.val - 1 + 1000000000 →
            exec (.trialTimeout k) s = .next s)
        ∧ (sget 0 s.fw.trialAt k.val ≠ 0 → sget 0 s.fw.trialAt k.val - 1 + 1000000000 ≤ s.now →
            let new := 1 - boolNat (bit (s.selection k.val) 63)
            ∃ t, exec (.trialTimeout k) s = .next t ∧ sget 0 t.fw.trialAt k.val = 0
              ∧ t.selection k.val = setBf (setBf (s.selection k.val) 63 63 new) 62 62 0
              ∧ (s.slotPasses k.val new = true → t.activeSlot k.val = new ∧ k.val ∈ t.fw.started)
              ∧ (s.slotPasses k.val new = false → s.slotPasses k.val (1 - new) = true →
                  t.activeSlot k.val = 1 - new ∧ t.fbit (rFwImg k.val) 61 = true ∧ k.val ∈ t.fw.started)
              ∧ (s.slotPasses k.val new = false → s.slotPasses k.val (1 - new) = false → k.val ∉ t.fw.started))

/-- A firmware update (R418, R419): FW_UPD starts one while none runs, and waits while SEC is being switched; the
image stored is verified, and an image that verifies goes to the slot not in use, which the selection word then names,
with the switch begun where it was asked for; one that does not changes no slot, and SEC logs it (log entry 59). -/
def Obligations.UpdatesAreVerified : Prop :=
  ∀ s : State,
    (∀ v, (s.secWaits = false → bit v 63 = false ∨ (s.updPhase ≠ 0 ∧ s.updPhase ≠ 5 ∧ s.updPhase ≠ 6) →
        exec (.fwUpd v) s = .next s)
      ∧ (s.secWaits = true → exec (.fwUpd v) s = .next (s.withFw { s.fw with waits := s.fw.waits ++ [(true, v)] }))
      ∧ (s.secWaits = false → bit v 63 = true → s.updPhase = 0 ∨ s.updPhase = 5 ∨ s.updPhase = 6 → ∃ t,
        exec (.fwUpd v) s = .next t
          ∧ t.updPhase = 1 ∧ t.fld rFwUpdstat 15 0 = 0
          ∧ t.fw = { s.fw with upd := some { kind := bf v 62 61, activate := bit v 60, len := bf v 31 0
                                             addr := (s.reg rFwUpdaddr).toNat, startedAt := s.now } }
          ∧ (∀ k, k ≠ rFwUpdstat → t.reg k = s.reg k) ∧ t = (s.withFw t.fw).withRegs t.regs))
    ∧ (s.fw.upd = none → exec .updateStored s = .next s)
    ∧ ∀ u, s.fw.upd = some u →
        let bs := u.fetched.getD (mbytes s.hostMem u.addr u.len)
        let ver := Config.imageVersion (bs.take 512)
        let good := Config.imageVerifies bs = true ∧ bf (s.selection u.kind) 47 32 ≤ ver.toNat
          ∧ 512 ≤ u.len ∧ u.len ≤ imageMax u.kind
        (¬ good → ∃ t, exec .updateStored s = .next t ∧ t.updPhase = 6 ∧ errorLogged s t
          ∧ t.fw = { s.fw with upd := none } ∧ (∀ k, k ≠ rFwUpdstat → k ≠ rFwLogstat → t.reg k = s.reg k)
          ∧ t = ((((s.withFw t.fw).withRegs t.regs).withHostMem t.hostMem).withHost t.host).withFree t.free)
        ∧ (good → ∃ t, exec .updateStored s = .next t ∧ t.fw.upd = none
          ∧ t.image u.kind (1 - s.activeSlot u.kind) = { ok := true, version := ver }
          ∧ t.image u.kind (s.activeSlot u.kind) = s.image u.kind (s.activeSlot u.kind)
          ∧ (u.activate = false → t.updPhase = 5 ∧ t.fw.switching = s.fw.switching
              ∧ boolNat (bit (t.selection u.kind) 63) = 1 - s.activeSlot u.kind
              ∧ bit (t.selection u.kind) 62 = bit (s.selection u.kind) 62)
          ∧ (u.activate = true → t.updPhase = 4 ∧ t.fw.switching = some (u.kind, s.now)
              ∧ bit (t.selection u.kind) 62 = true ∧ boolNat (bit (t.selection u.kind) 63) = 1 - s.activeSlot u.kind)
          ∧ recordPosted s t 0 [evWord 9 0 (6 * 2 ^ 48), s.nowWord, 0, 0])

/-- The live switch of each kind (R420 to R422): PWR and SEC switch at once, SCH at a frame boundary with no hashing
under way, each to its other slot and on trial; what waited for SEC then acts, and PWR acts on GRADE_EN, which at 0
holds the grade at 0 (R438); a CC update moves the clusters of a die one by one through the one out of service, each
at a frame start with 30 µs to its next slot unless no partition holds it, and ends with the last. Where nothing waits
for it, or HORIZON has not passed, nothing happens. -/
def Obligations.LiveSwitchesKeepTheirOrder : Prop :=
  ∀ s : State,
    (∀ i k, (i, k) ∈ [(Instr.secSwitch, coreSec), (Instr.pwrSwitch, corePwr), (Instr.schSwitch, coreSch)] →
      ((∀ a, s.fw.switching ≠ some (k, a)) → exec i s = .next s)
      ∧ (∀ a, s.fw.switching = some (k, a) →
          (k = coreSch → s.atBoundary = true ∧ ∀ p, p < 16 → (s.scu p).hashing = []) →
          (k = coreSec → s.fw.waits = [] ∧ s.tap.waiting = []) → (k = corePwr → s.fbit rClkCtl 63 = true) →
          ∃ t, exec i s = .next t ∧ t.activeSlot k = 1 - s.activeSlot k ∧ t.fw.switching = none ∧ t.updPhase = 5
            ∧ sget 0 t.fw.trialAt k = s.now + 1 ∧ (∀ j, j ≠ rFwImg k → j ≠ rFwUpdstat → t.reg j = s.reg j)
            ∧ t = (s.withFw t.fw).withRegs t.regs))
    ∧ (s.atBoundary = false → exec .schSwitch s = .next s)
    ∧ (∀ a, s.fw.switching = some (corePwr, a) → s.fbit rClkCtl 63 = false → ∃ t, exec .pwrSwitch s = .next t
        ∧ t.activeSlot corePwr = 1 - s.activeSlot corePwr ∧ t.fw.switching = none ∧ t.updPhase = 5 ∧ t.grade = 0
        ∧ t = ((s.withFw t.fw).withRegs t.regs).withPower t.power)
    ∧ (∀ a, s.fw.switching = some (coreSec, a) → ∃ t, exec .secSwitch s = .next t
        ∧ t.tap.waiting = [] ∧ t.fw.waits = [] ∧ t.fw.switching = none
        ∧ t.tap.unlocked = (s.tap.unlocked || s.tap.waiting.any (fun x => Config.unlockVerifies x.1 x.2))
        ∧ (∀ v, s.fw.waits = [(true, v)] → bit v 63 = true → t.updPhase = 1
            ∧ t.fw.upd = some { kind := bf v 62 61, activate := bit v 60, len := bf v 31 0
                                addr := (s.reg rFwUpdaddr).toNat, startedAt := s.now }))
    ∧ (∀ d : DieId,
        ((∀ a, s.fw.switching ≠ some (coreCc, a)) ∨ s.fw.walk.find? (fun c => c / 16 == d.val) = none →
          exec (.clusterMove d) s = .next s)
        ∧ (∀ a c, s.fw.switching = some (coreCc, a) → s.fw.walk.find? (fun c => c / 16 == d.val) = some c →
            let free := s.partOf c = none ∨ (s.atBoundary = true ∧ s.slotOwns c s.now 30000 = false)
            ((s.cluster c).run.isSome = true ∨ (s.pendingOut d.val).isSome = true ∨ ¬ free →
                exec (.clusterMove d) s = .next s)
            ∧ (free → (s.cluster c).run = none → s.pendingOut d.val = none →
                ∃ t, exec (.clusterMove d) s = .next t
                  ∧ t.clmapOut d.val = (if s.outFailed d.val = true then s.clmapOut d.val
                      else if s.clmapOut d.val = c % 16 + 1 then c % 16
                      else if s.clmapOut d.val = c % 16 then c % 16 + 1 else s.clmapOut d.val)
                  ∧ t.cluster c = { s.cluster c with cache := [] } ∧ otherClusters s t c
                  ∧ t.fw.walk = s.fw.walk.filter (· != c)
                  ∧ t.fld rFwUpdstat 15 0 = satTo 16 (s.fld rFwUpdstat 15 0 + 1)
                  ∧ (s.fw.walk.filter (· != c) ≠ [] → t.updPhase = 4 ∧ t.fw.switching = s.fw.switching)
                  ∧ (s.fw.walk.filter (· != c) = [] → t.updPhase = 5 ∧ t.fw.switching = none
                      ∧ t.activeSlot coreCc = 1 - s.activeSlot coreCc))))
    ∧ ((s.fw.walk = [] ∨ s.updPhase ≠ 4 ∨ s.now < s.fw.walkAt + s.horizon) →
        (∀ q ∈ s.fw.queue, q.running = true ∨ q.deferred = true ∨ s.now < q.queuedAt + s.horizon) →
        exec .horizonExpiry s = .next s)
    ∧ (s.fw.walk ≠ [] → s.updPhase = 4 → s.fw.walkAt + s.horizon ≤ s.now → s.fw.queue = [] →
        ∃ t, exec .horizonExpiry s = .next t ∧ t.updPhase = 7
          ∧ recordPosted s t 0 [evWord 9 0 (6 * 2 ^ 48), s.nowWord, 0, 0] ∧ t.fw = s.fw ∧ t.clusters = s.clusters)

/-- Self-tests and calibrations (R423, R424): a request that may run now runs, FW_STRES says so and the event is
posted; one not allowed now, or with none waiting, does not. The firmware may schedule a calibration of its own, which
is queued, shown and held to the same rules. A trim is kept at most once per 600 s (R431). A test that has lasted as
long as its kind ends: it leaves the queue and shows its result and detail, and a sensor test mends the sensors that
pass it (R446). Only a memory test changes bytes of memory. -/
def Obligations.SelfTestsRunAndReport : Prop :=
  ∀ s : State,
    (∀ i kind hit, testOf i = some (kind, hit) →
      (2 < kind → s.testAllowed i = false ∨ (∀ q, ¬ s.testWaits i q) → exec i s = .next s)
      ∧ (∀ τ, kind ≤ 2 → hit τ = true →
          ((∃ q ∈ s.fw.queue, q.kind = kind ∧ q.target = τ) → s.testAllowed i = false ∨ (∀ q, ¬ s.testWaits i q) →
            exec i s = .next s)
          ∧ ((∀ q ∈ s.fw.queue, ¬ (q.kind = kind ∧ q.target = τ)) → ∃ t, exec i s = .next t
              ∧ t.fw.queue = s.fw.queue ++ [{ kind := kind, target := τ, queuedAt := s.now, running := s.testAllowed i
                                              deferred := false, startedAt := if s.testAllowed i then s.now else 0
                                              own := true }]
              ∧ t.fld rFwStres 63 61 = (if s.testAllowed i then 2 else 1) ∧ t.fld rFwStres 60 57 = kind
              ∧ t.fld rFwStres 56 50 = τ % 128 ∧ t.chans = s.chans ∧ t.clusters = s.clusters))
      ∧ (∀ q, s.fw.queue = [q] → s.testWaits i q → s.testAllowed i = true →
          ∃ t, exec i s = .next t ∧ t.fw = { s.fw with queue := [{ q with running := true, startedAt := s.now }] }
            ∧ t.fld rFwStres 63 61 = 2 ∧ t.fld rFwStres 60 57 = q.kind % 16 ∧ t.fld rFwStres 56 50 = q.target % 128
            ∧ (∀ sp a, kind ≠ 3 → t.byteAt sp a = s.byteAt sp a) ∧ t.chans = s.chans ∧ t.clusters = s.clusters
            ∧ (∀ v, i = .oscCompensationTest v → t.fld rFwStres 31 0 = v.toNat)
            ∧ (∀ l v, i = .linkTrim l v → let a := sget 0 s.keep.pwrAt (64 + l.val)
                (a = 0 ∨ a + 600000000000 ≤ s.now + 1 → t.keepFinal (64 + l.val) = v)
                ∧ (¬ (a = 0 ∨ a + 600000000000 ≤ s.now + 1) → t.keep = s.keep))
            ∧ (∀ n m a, i = .memoryTest n m → chanOfPa a ≠ chanKey n m → mget t.stackMem a = mget s.stackMem a)
            ∧ recordPosted s t 0 [evWord 9 0 (6 * 2 ^ 48), s.nowWord, 0, 0]))
    ∧ ∀ (k : Nat) (pass : Bool) (detail : BitVec 32) (sensors : BitVec 13),
        (s.fw.queue[k]? = none → exec (.selfTestDone k pass detail sensors) s = .next s)
        ∧ ∀ q, s.fw.queue[k]? = some q →
            (q.running = false ∨ s.now < q.startedAt + testNs q.kind →
                exec (.selfTestDone k pass detail sensors) s = .next s)
            ∧ (q.running = true → q.startedAt + testNs q.kind ≤ s.now →
                ∃ t, exec (.selfTestDone k pass detail sensors) s = .next t ∧ t.fw.queue = s.fw.queue.eraseIdx k
                  ∧ t.fld rFwStres 63 61 = (if pass then 3 else 4) ∧ t.fld rFwStres 60 57 = q.kind % 16
                  ∧ t.fld rFwStres 56 50 = q.target % 128 ∧ t.fld rFwStres 31 0 = detail.toNat
                  ∧ (pass = true → recordPosted s t 0 [evWord 9 0 (6 * 2 ^ 48), s.nowWord, 0, 0])
                  ∧ (q.kind ≠ 4 → ∀ j, j ≠ rFwStres → j ≠ rEstat 0 → j ≠ rFwLogstat → t.reg j = s.reg j)
                  ∧ (q.kind ≠ 4 → t.power = s.power)
                  ∧ (q.kind = 4 → ∀ n, n < 13 →
                      (t.sensor n).broken = ((s.sensor n).broken && !sensors.getLsbD n)
                      ∧ ((s.sensor n).broken = true → sensors.getLsbD n = true →
                          (t.sensor n).inForce = (s.sensor n).reading)))

/-! ### Power, halt and test access (chapters 17, 18 and 20) -/

/-- Readings, throttles and trips (R445, R446, R449, R450): a reading is the raw value plus the sensor's offset; a
sensor out of range is broken and stays so; a working one's reading is in force; the throttle bits follow the
comparators of Table 17.6 with their hysteresis; 115 °C in force, or an overvoltage, trips the module, which stops
every clock. PWR may stretch the clocks, never beyond full stretch (R436). -/
def Obligations.SensorsThrottleAndTrip : Prop :=
  ∀ s : State,
    (∀ raws power, s.supplied = false → exec (.sensorRead raws power) s = .next s)
    ∧ (∀ raws power, s.supplied = true → ∃ t, exec (.sensorRead raws power) s = .next t
        ∧ (∀ n, n < 13 →
            (t.sensor n).reading = raws.getD n 0 + (s.calib n).1
            ∧ ((s.sensor n).broken = true → (t.sensor n).broken = true)
            ∧ ((t.sensor n).reading < -640 ∨ 2400 < (t.sensor n).reading → (t.sensor n).broken = true)
            ∧ ((t.sensor n).broken = false → (t.sensor n).inForce = (t.sensor n).reading)
            ∧ t.fld (rThmT n) 63 48 = wrapInt 16 (t.sensor n).inForce
            ∧ t.fld (rThmT n) 47 32 = wrapInt 16 (t.sensor n).reading
            ∧ t.fbit (rThmT n) 31 = (t.sensor n).broken)
        ∧ (∀ d, d < 2 → t.cThrottled d = comparator (s.cThrottled d) 1680 1600 (t.sensor d).inForce)
        ∧ (∀ j, j < 8 → t.dramThrottled j = comparator (s.dramThrottled j) 1520 1440 (t.sensor (5 + j)).inForce)
        ∧ (∀ d, d < 2 → sget 0 t.power.pwrStretch d ≤ fullStretch)
        ∧ ((∀ n, n < 13 → (t.sensor n).inForce < 1840) → t.fbit rThmStat 63 = false ∧ t.role = s.role)
        ∧ ((∃ n, n < 13 ∧ 1840 ≤ (t.sensor n).inForce) → t.fbit rThmStat 63 = true ∧ t.role = roleFenced
            ∧ ∀ c, t.clockRuns c = false)
        ∧ t.stackMem = s.stackMem ∧ t.caseMem = s.caseMem ∧ t.reqs = s.reqs ∧ t.chans = s.chans)
    ∧ (s.supplied = false → exec .inputOvervoltage s = .next s)
    ∧ (s.supplied = true → ∃ t, exec .inputOvervoltage s = .next t ∧ t.fbit rThmStat 63 = true ∧ t.fld rThmStat 62 59 = 13
        ∧ t.power.fault = true ∧ t.role = roleFenced ∧ (∀ c, t.clockRuns c = false)
        ∧ t.mirror.sent = s.mirror.sent ++ (if s.mirUp = true then
            [{ time := s.now, role := BitVec.ofNat 3 s.role, fenced := false, failed := true }] else [])
        ∧ (∀ k, k ≠ rThmStat → k ≠ rMirStat → k ≠ rFwLogstat → t.reg k = s.reg k)
        ∧ (coreSec ∉ s.fw.started → t = ((s.withPower t.power).withMirror t.mirror).withRegs t.regs)
        ∧ t = (((((s.withPower t.power).withMirror t.mirror).withRegs t.regs).withHostMem t.hostMem).withHost t.host).withFree
            t.free)

/-- Cluster clocks (R436, R437): a droop stretches the clusters of its die that droop, and a recovery lets them go
back to the stretch of the die; VMIN, under full stretch, and a frequency fault stop the die's clock, and a restart, 1
µs after the stop at the soonest, begins a full cycle. Without supply, or where the clock already stands so, nothing
happens. -/
def Obligations.ClocksStretchStopAndRestart : Prop :=
  ∀ s : State,
    (∀ c : ClusterId,
      (s.supplied = false → exec (.droop c) s = .next s ∧ exec (.droopRecovery c) s = .next s)
      ∧ (s.supplied = true →
          (∃ t, exec (.droop c) s = .next t ∧ (t.cluster c.val).stretch = fullStretch ∧ c.val ∈ t.power.droops
            ∧ (sget 0 s.power.pwrStretch (c.val / 16) ≤ fullStretch →
                t.fld rClkStat (55 + 8 * (c.val / 16)) (48 + 8 * (c.val / 16)) = 2 * fullStretch)
            ∧ (∀ c', c' / 16 ≠ c.val / 16 → t.cluster c' = s.cluster c')
            ∧ (∀ c', (t.cluster c').tiles = (s.cluster c').tiles ∧ (t.cluster c').cyc = (s.cluster c').cyc)
            ∧ (∀ k, k ≠ rClkStat → t.reg k = s.reg k)
            ∧ t = (((s.withPower t.power).withClusters t.clusters).withRegs t.regs).withDieClks t.dieClks)
          ∧ (∃ t, exec (.droopRecovery c) s = .next t
            ∧ (t.cluster c.val).stretch = s.dieStretch (c.val / 16) ∧ c.val ∉ t.power.droops
            ∧ (∀ c', c' ≠ c.val → (c' ∈ t.power.droops ↔ c' ∈ s.power.droops))
            ∧ (∀ k, k ≠ rClkStat → t.reg k = s.reg k)
            ∧ t = (((s.withPower t.power).withClusters t.clusters).withRegs t.regs).withDieClks t.dieClks)))
    ∧ ∀ d : DieId,
        (s.supplied = false ∨ (sget none s.power.stops d.val).isSome = true →
          exec (.vminStop d) s = .next s ∧ exec (.frequencyStop d) s = .next s)
        ∧ ((∀ j, j < 16 → (s.cluster (16 * d.val + j)).stretch ≠ fullStretch) → exec (.vminStop d) s = .next s)
        ∧ (∀ j, j < 16 → (s.cluster (16 * d.val + j)).stretch = fullStretch → s.supplied = true →
            sget none s.power.stops d.val = none → ∃ t, exec (.vminStop d) s = .next t
              ∧ sget none t.power.stops d.val = some (.vmin, s.boot.elapsed) ∧ t.clockRuns (16 * d.val + j) = false
              ∧ t.fld rClkStat (15 + 16 * d.val) (16 * d.val)
                  = satTo 16 (s.fld rClkStat (15 + 16 * d.val) (16 * d.val) + 1)
              ∧ (∀ k, k ≠ rClkStat → t.reg k = s.reg k) ∧ t = (s.withPower t.power).withRegs t.regs)
        ∧ (s.supplied = true → sget none s.power.stops d.val = none → ∃ t, exec (.frequencyStop d) s = .next t
            ∧ sget none t.power.stops d.val = some (.frequency, s.boot.elapsed) ∧ (∀ j, j < 16 →
              t.clockRuns (16 * d.val + j) = false)
            ∧ t = s.withPower t.power)
        ∧ (sget none s.power.stops d.val = none → exec (.clockRestart d) s = .next s)
        ∧ (∀ why a, sget none s.power.stops d.val = some (why, a) → s.boot.elapsed < a + 1000 →
            exec (.clockRestart d) s = .next s)
        ∧ (∀ why a, sget none s.power.stops d.val = some (why, a) → a + 1000 ≤ s.boot.elapsed → ∃ t,
          exec (.clockRestart d) s = .next t
            ∧ sget none t.power.stops d.val = none
            ∧ (∀ j, j < 16 → t.cluster (16 * d.val + j) = { s.cluster (16 * d.val + j) with left := 0 })
            ∧ t.dieClk d.val = { s.dieClk d.val with left := 0 } ∧ (∀ d', d' ≠ d.val → t.dieClk d' = s.dieClk d')
            ∧ (∀ c, c / 16 ≠ d.val → t.cluster c = s.cluster c)
            ∧ t = ((s.withPower t.power).withClusters t.clusters).withDieClks t.dieClks)

/-- Power grades and the oscillator (R438 to R440, R447, R448): the grade moves one step by Table 17.2, at most once
in 1 ms, never while GRADE_EN is 0 and never while PWR is being switched (Table 16.3); a fall writes every FULL_CH at
once, a rise leaves each stack to its lowering, which waits for the partitions that serve there. Every die's voltage
references follow its own reading, and the oscillator's correction is interpolated in a valid table; the firmware's own
measurement is queued, shown and run as a request of kind 5, while LOCKED and at most once per 600 s, and its point enters
the table where no word of it was written less than 600 s ago (R431). -/
def Obligations.GradesAndCompensation : Prop :=
  ∀ s : State,
    let g := s.grade
    let gmax := s.fld rClkCtl 62 60
    let pcap := s.fld rClkCtl 31 16
    let free := s.fbit rClkCtl 63 = true ∧ (∀ a, s.fw.switching ≠ some (corePwr, a))
        ∧ (s.power.gradeAt = 0 ∨ s.power.gradeAt + 1000000 ≤ s.now)
    let lately := ∃ a, s.power.throttleAt = some a ∧ s.now < a + 10000000
    (∀ power overMs underMs,
      (s.supplied = false → exec (.gradeChange power overMs underMs) s = .next s)
      ∧ (s.supplied = true → ∃ t, exec (.gradeChange power overMs underMs) s = .next t
          ∧ t.fld rClkGrade 15 0 = power % 2 ^ 16
          ∧ (¬ free → t.grade = g)
          ∧ (free → gmax < g → t.grade = g - 1)
          ∧ (free → g < gmax → (pcap < power ∧ 1 ≤ overMs) ∨ s.throttled = true → t.grade = g + 1)
          ∧ (free → g ≤ gmax → power + s.fld rClkCtl 7 0 < pcap → 10 ≤ underMs → s.throttled = false → ¬ lately →
              t.grade = g - 1)
          ∧ (free → g ≤ gmax → (power ≤ pcap ∨ overMs = 0) → s.throttled = false →
              (pcap ≤ power + s.fld rClkCtl 7 0 ∨ underMs < 10 ∨ lately) → t.grade = g)
          ∧ (t.grade < g → t.power.lower = [] ∧ ∀ n, n < 8 → t.fld (rStk n) 4 0 = s.gradeFullCh t.grade)
          ∧ (g < t.grade → t.power.lower = List.range 8 ∧ ∀ n, n < 8 → t.reg (rStk n) = s.reg (rStk n))
          ∧ t = (s.withPower t.power).withRegs t.regs))
    ∧ (∀ n : StackId,
        (n.val ∉ s.power.lower ∨ s.mayLower n.val = false ∨ s.supplied = false → exec (.fullChLower n) s = .next s)
        ∧ (n.val ∈ s.power.lower → s.mayLower n.val = true → s.supplied = true → ∃ t, exec (.fullChLower n) s = .next t
            ∧ t.fld (rStk n.val) 4 0 = s.gradeFullCh g ∧ t.power.lower = s.power.lower.filter (· != n.val)
            ∧ (∀ k, k ≠ rStk n.val → t.reg k = s.reg k) ∧ t = (s.withPower t.power).withRegs t.regs))
    ∧ (s.supplied = false → exec .oscCompensation s = .next s)
    ∧ (s.supplied = true → ∃ t, exec .oscCompensation s = .next t
        ∧ (∀ n, n < 13 → sget 0 t.power.vrefs n = (s.sensor n).inForce)
        ∧ (s.compValid = false → t = s.withPower { s.power with vrefs := t.power.vrefs })
        ∧ (s.compValid = true → s.compPoints ≠ [] →
            (∃ b, interpolate b (s.sensor 4).inForce s.compPoints = some t.power.oscPpb)
            ∧ t = (s.withFree (s.free + 1)).withPower { s.power with vrefs := t.power.vrefs, oscPpb := t.power.oscPpb }))
    ∧ ∀ ppb : BitVec 32,
        (s.supplied = false ∨ s.locked = false ∨ (∃ a, s.power.lastComp = some a ∧ s.now < a + 600000000000) →
          exec (.compensationPoint ppb) s = .next s)
        ∧ (s.supplied = true → s.locked = true → (∀ a, s.power.lastComp = some a → a + 600000000000 ≤ s.now) →
            (∀ q ∈ s.fw.queue, q.kind ≠ 5) →
            let ps := addPoint s.compPoints (s.sensor 4).inForce ppb.toInt
            let may := s.testAllowed (.oscCompensationTest ppb)
            let fresh := ∀ e ∈ s.pointWrites ppb, sget 0 s.keep.pwrAt e.1 = 0
              ∨ sget 0 s.keep.pwrAt e.1 + 600000000000 ≤ s.now + 1
            ∃ t, exec (.compensationPoint ppb) s = .next t
              ∧ t.fw.queue = s.fw.queue ++ [{ kind := 5, target := 0, queuedAt := s.now, running := may, deferred := false
                                              startedAt := if may then s.now else 0, own := true }]
              ∧ t.fld rFwStres 63 61 = (if may then 2 else 1)
              ∧ (may = true → fresh → t.power = { s.power with lastComp := some s.now }
                  ∧ (∀ j, j < ps.length → t.keepFinal (33 + j) = pointWord (ps.getD j (0, 0)))
                  ∧ t.keepFinal 32 = setBf (setBf (s.keepFinal 32) 63 63 1) 62 56 ps.length)
              ∧ (may = false ∨ ¬ fresh → t.power = s.power ∧ t.keep = s.keep)
              ∧ t.clusters = s.clusters ∧ t.stackMem = s.stackMem ∧ t.chans = s.chans)

/-- Halts (R453, R456, R458): the host's GO, the tester's HALT and a HALT frame on MIR or on a link that is up latch
the halt with its cause, time, origin and HOPS and change no memory; a cause that arrives later only counts in IGN;
RESUME ends a halt unless a scan-out runs. -/
def Obligations.HaltsLatchAndResume : Prop :=
  ∀ s : State,
    let id := bf (s.keepStored 1) 7 0 * 256 + (s.halt.own + 1) % 256
    (∀ i cause, (i, cause) ∈ [(Instr.haltGo, 1), (Instr.jtagHalt, 2)] → (i = .jtagHalt → s.tap.unlocked = true) →
      ∃ t, exec i s = .next t
        ∧ (s.halted = true → t.fld rTrcHstat 15 0 = satTo 16 (s.fld rTrcHstat 15 0 + 1)
            ∧ (∀ k, k ≠ rTrcHstat → t.reg k = s.reg k) ∧ t = (s.withTap t.tap).withRegs t.regs)
        ∧ (s.halted = false → t.halted = true ∧ t.fld rTrcHstat 62 60 = cause ∧ t.fld rTrcHstat 47 32 = id
            ∧ t.reg rTrcHtime = s.nowWord ∧ t.halt.haltedAt = s.now
            ∧ t = ((((s.withTap t.tap).withRegs t.regs).withHalt t.halt).withLinks t.links).withMirror t.mirror))
    ∧ (s.tap.unlocked = false → exec .jtagHalt s = .next (s.withTap { s.tap with ir := 0x11 }))
    ∧ (∀ f : Frame, let h := frameHdr f
        let good := frameCrcOk f = true ∧ h.vc ≠ 3 ∧ h.opc = opcHalt ∧ badHeader h f = false
        (s.fld rMirStat 60 59 = 0 ∨ ¬ good → exec (.haltFrame none f) s = .next s)
        ∧ (s.fld rMirStat 60 59 ≠ 0 → good → s.halted = false → ∃ t, exec (.haltFrame none f) s = .next t
            ∧ t.halted = true ∧ t.fld rTrcHstat 62 60 = 3 ∧ t.fld rTrcHstat 56 51 = 48
            ∧ t.fld rTrcHstat 47 32 = h.arg / 65536 % 65536 ∧ t.fld rTrcHstat 59 57 = h.arg % 8
            ∧ t = (((s.withRegs t.regs).withHalt t.halt).withLinks t.links).withMirror t.mirror)
        ∧ ∀ l : LinkId, (s.linkUp l.val = false → exec (.haltFrame (some l) f) s = .next s)
            ∧ (s.linkUp l.val = true → good → s.halted = false → ∃ t, exec (.haltFrame (some l) f) s = .next t
                ∧ t.halted = true ∧ t.fld rTrcHstat 62 60 = 3 ∧ t.fld rTrcHstat 56 51 = l.val))
    ∧ (s.halted = false ∨ s.scanning = true → exec .haltResume s = .next s)
    ∧ (s.halted = true → s.scanning = false → ∃ t, exec .haltResume s = .next t ∧ t.halted = false
        ∧ t.clusters = s.clusters ∧ t.stackMem = s.stackMem ∧ (∀ k, k ≠ rTrcHstat → t.reg k = s.reg k))

/-- Proofs and record buffers (R460, R461): GO starts a scan-out only while halted and not scanning, and is refused
with ERR where a valid template grants the slice; the scan-out's end leaves the proof in the slice that was named at its
start, unless that is granted by then, DONE set and BUSY clear; a write of a buffer's register restarts the buffer. -/
def Obligations.ProofsAndRecordBuffers : Prop :=
  ∀ s : State,
    (s.halted = false ∨ s.scanning = true → exec .proofGo s = .next s)
    ∧ (s.halted = true → s.scanning = false →
        ((s.partOfSlice (s.fld rTrcProof 4 0)).isSome = true →
          exec .proofGo s = .next ((s.setBit rTrcProof 61 false).setBit rTrcProof 60 true))
        ∧ (s.partOfSlice (s.fld rTrcProof 4 0) = none → ∃ t, exec .proofGo s = .next t ∧ t.scanning = true
            ∧ t.fbit rTrcProof 61 = false ∧ t.fbit rTrcProof 60 = false
            ∧ t.halt = { s.halt with slice := s.fld rTrcProof 4 0 }
            ∧ (∀ k, k ≠ rTrcProof → t.reg k = s.reg k) ∧ t = (s.withRegs t.regs).withHalt t.halt))
    ∧ (s.scanning = false → exec .scanOutDone s = .next s)
    ∧ (s.scanning = true → (s.partOfSlice s.halt.slice).isSome = true →
        exec .scanOutDone s = .next ((s.setBit rTrcProof 62 false).setBit rTrcProof 60 true))
    ∧ (s.scanning = true → s.partOfSlice s.halt.slice = none → ∃ t, exec .scanOutDone s = .next t
        ∧ t.scanning = false ∧ t.fbit rTrcProof 61 = true
        ∧ t.caseMem = proofMem s (s.halt.slice * 2 ^ 28) s.caseMem
        ∧ (∀ k, k ≠ rTrcProof → t.reg k = s.reg k) ∧ t = ((s.withCaseMem t.caseMem).withInteg t.integ).withRegs t.regs)
    ∧ ∀ v, ∃ t u, exec (.trcAuditBufWrite v) s = .next t ∧ exec (.trcTbufWrite v) s = .next u
        ∧ t.reg rTrcAuditStat = 0 ∧ u.reg rTrcTstat = 0
        ∧ t.fld rTrcAuditBuf 33 12 = bf v 33 12 ∧ t.fld rTrcAuditBuf 3 0 = bf v 3 0
        ∧ u.fld rTrcTbuf 33 12 = bf v 33 12 ∧ u.fld rTrcTbuf 3 0 = bf v 3 0
        ∧ (∀ k, k ≠ rTrcAuditBuf → k ≠ rTrcAuditStat → t.reg k = s.reg k)
        ∧ (∀ k, k ≠ rTrcTbuf → k ≠ rTrcTstat → u.reg k = s.reg k) ∧ t = s.withRegs t.regs ∧ u = s.withRegs u.regs

/-- Test access and management (R483 to R485): BYPASS, as which every code that Table 20.4 does not list acts, IDCODE,
the boundary scans and their gate, UNLOCK, which waits while SEC is being switched, and PROOFRD, TRST_N, and the I3C
target's writes, reads and address while the always-on domain is supplied; a reserved range of Table 1.8 reads as 0
(R29). What the pins carry is free. -/
def Obligations.TestAccessAndManagement : Prop :=
  ∀ s : State,
    let pass := fun (ir : BitVec 8) (tdi : List Bool) => s.withTap { s.tap with ir := ir, tdo := (false :: tdi).take tdi.length }
    let scan := fun (ir : BitVec 8) (tdi : List Bool) (t : State) => ∃ cells : List Bool,
        cells.length = Config.boundaryCells
      ∧ t = (s.withTap { s.tap with ir := ir, tdo := (cells ++ tdi).take tdi.length, boundary := (cells ++ tdi).drop tdi.length
                         }).withFree (s.free + 1)
    (∀ code tdi, exec (.bypass code tdi) s = .next (pass (if code.toNat
      ∈ [0xFF, 0x01, 0x02, 0x03, 0x04, 0x05, 0x10, 0x11, 0x12] then 0xFF else code) tdi))
    ∧ exec .idcode s = .next (s.withTap { s.tap with ir := 0x01, tdo := (List.range 32).map (0x30576567#32).getLsbD })
    ∧ (∀ tdi, ∃ t, exec (.samplePreload tdi) s = .next t ∧ scan 0x02 tdi t)
    ∧ (∀ tdi i ir, (i, ir) ∈ [(Instr.extest tdi, 0x03#8), (Instr.extestPulse tdi, 0x04#8), (Instr.extestTrain tdi,
      0x05#8)] →
        (s.stage < 3 ∨ s.fbit rHostBoot 60 = true → ∃ t, exec i s = .next t ∧ scan ir tdi t)
        ∧ (3 ≤ s.stage → s.fbit rHostBoot 60 = false → exec i s = .next (pass ir tdi)))
    ∧ (∀ resp, ∃ t, exec (.unlock resp) s = .next t ∧ t.tap.challenge.length = 64
        ∧ t.tap.tdo = bitsOfBytes t.tap.challenge
        ∧ t.tap.unlocked = (s.tap.unlocked || (!s.tap.challenge.isEmpty && s.fw.started.contains coreSec && !s.secWaits
            && Config.unlockVerifies s.tap.challenge resp))
        ∧ t.tap.waiting = s.tap.waiting ++ (if !s.tap.challenge.isEmpty && s.fw.started.contains coreSec
          && s.secWaits then
            [(s.tap.challenge, resp)] else [])
        ∧ t = (s.withTap t.tap).withFree t.free)
    ∧ (∀ off words, (s.tap.unlocked = false → exec (.proofrd off words) s = .next (s.withTap { s.tap with ir := 0x12 }))
        ∧ (s.tap.unlocked = true → s.scanning = false → s.plainReads → off.toNat + 4 * words ≤ 2 ^ 28 →
            ∃ t, exec (.proofrd off words) s = .next t
              ∧ t.tap.tdo = bitsOfBytes (mbytes s.caseMem (s.fld rTrcProof 4 0 * 2 ^ 28 + off.toNat) (4 * words))
              ∧ t = (s.withTap t.tap).withFree t.free))
    ∧ exec .trstN s = .next (s.withTap { s.tap with ir := 0x01, unlocked := false, waiting := [] })
    ∧ (s.power.alive = false →
        (∀ off v, exec (.i3cPrivateWrite off v) s = .next s) ∧ exec .i3cPrivateRead s = .next s
        ∧ ∀ a, exec (.i3cDynamicAddress a) s = .next s)
    ∧ (s.power.alive = true →
        (∀ off, exec (.i3cPrivateWrite off none) s = .next (s.withTap { s.tap with i3cOffset := off.toNat }))
        ∧ (∀ off v, ∃ t, exec (.i3cPrivateWrite off (some v)) s = .next t ∧ t.tap = { s.tap with i3cOffset := off.toNat }
            ∧ (∀ k, k ≠ off.toNat → t.reg k = s.reg k)
            ∧ (mgmtWritable off.toNat = false → t.regs = s.regs)
            ∧ (mgmtWritable off.toNat = true →
                t.reg off.toNat = s.reg off.toNat &&& ~~~ (v &&& accMask (layoutPf off.toNat) .w1c))
            ∧ t = (s.withTap t.tap).withRegs t.regs)
        ∧ (s.tap.i3cOffset = rThmStat ∨ s.tap.i3cOffset = rTtStatus ∨ s.tap.i3cOffset = rMirStat →
            exec .i3cPrivateRead s = .next (s.withTap { s.tap with
              i3cData := leBytes 8 (s.reg s.tap.i3cOffset).toNat, i3cOffset := s.tap.i3cOffset + 8 }))
        ∧ (reservedRange s.tap.i3cOffset = true → exec .i3cPrivateRead s = .next (s.withTap { s.tap with
            i3cData := leBytes 8 0, i3cOffset := (s.tap.i3cOffset + 8) % 2 ^ 32 }))
        ∧ (0x120000 ≤ s.tap.i3cOffset → reservedRange s.tap.i3cOffset = false → ∃ t, exec .i3cPrivateRead s = .next t
            ∧ t.tap.i3cData.length = 8 ∧ t.tap.i3cOffset = (s.tap.i3cOffset + 8) % 2 ^ 32
            ∧ t = (s.withTap t.tap).withFree (s.free + 1))
        ∧ ∀ a, exec (.i3cDynamicAddress a) s = .next (s.withTap { s.tap with i3cDynamic := some a }))

/-- Sampling (R318): with TEMP not above 0, or TOPK 1, the token is that of the largest penalised logit, the lowest token
among equals; where every logit is −infinity there is none; a token generated before is penalised and no other is. -/
def Obligations.SamplingTakesTheLargest : Prop :=
  ∀ (r : Req) (pos : Nat) (zs : List Val) (other : Nat),
    let ys := penalised r zs
    (∀ y ∈ ys, isNan y = false) →
    ys.length = zs.length
    ∧ (∀ k : Nat, (∀ e ∈ r.counts, e.1 ≠ k) → ys[k]? = zs[k]?)
    ∧ (ys.all isNegInf = true → sampleToken r pos zs other = none)
    ∧ (ys.all isNegInf = false → vlt vzero (bfVal r.w6 63 48) = false ∨ bf r.w6 10 0 = 1 →
        ∃ k z, sampleToken r pos zs other = some k ∧ ys[k]? = some z
          ∧ ∀ j y, ys[j]? = some y → vlt z y = false ∧ (j < k → vlt y z = true))
end

