-- ==== Sys2Proof/Laws/Maps.lean ====
section
/-! SUPPORT. Sparse maps and byte memories: a read after a write, and the canonical form that every memory
operation keeps. -/

namespace Sys2Proof.Machine

variable {α : Type}

/-! ### Reads -/

theorem sget_sins_same (d : α) (m : SMap α) (k : Nat) (v : α) : sget d (sins m k v) k = v := by
  induction m with
  | nil => simp [sins, sget]
  | cons e t ih =>
    obtain ⟨k', v'⟩ := e
    by_cases h1 : k < k'
    · simp [sins, h1, sget]
    · by_cases h2 : k = k'
      · simp [sins, h2, sget]
      · simp [sins, h1, h2, sget, ih, Ne.symm h2]

theorem sget_sins_other (d : α) (m : SMap α) (k j : Nat) (v : α) (h : j ≠ k) :
    sget d (sins m k v) j = sget d m j := by
  induction m with
  | nil => simp [sins, sget, Ne.symm h]
  | cons e t ih =>
    obtain ⟨k', v'⟩ := e
    by_cases h1 : k < k'
    · simp [sins, h1, sget, Ne.symm h]
    · by_cases h2 : k = k'
      · subst h2
        simp [sins, sget, Ne.symm h]
      · simp only [sins, h1, h2, if_false, sget]
        split <;> simp_all

theorem sget_sdel_same (d : α) (m : SMap α) (k : Nat) : sget d (sdel m k) k = d := by
  induction m with
  | nil => rfl
  | cons e t ih =>
    obtain ⟨k', v'⟩ := e
    by_cases h : k' = k
    · simpa [sdel, h] using ih
    · simp only [sdel] at ih
      simp [sdel, h, sget, ih]

theorem sget_sdel_other (d : α) (m : SMap α) (k j : Nat) (h : j ≠ k) :
    sget d (sdel m k) j = sget d m j := by
  induction m with
  | nil => rfl
  | cons e t ih =>
    obtain ⟨k', v'⟩ := e
    simp only [sdel] at ih
    by_cases h1 : k' = k
    · subst h1
      simp [sdel, sget, ih, Ne.symm h]
    · simp [sdel, h1, sget, ih]

section
variable [DecidableEq α]

/-- A read of the key just written. -/
@[simp] theorem sget_sset_same (d : α) (m : SMap α) (k : Nat) (v : α) : sget d (sset d m k v) k = v := by
  unfold sset
  split
  · next h => rw [sget_sdel_same, h]
  · exact sget_sins_same d m k v

/-- A write leaves every other key alone. -/
theorem sget_sset_other (d : α) (m : SMap α) (k j : Nat) (v : α) (h : j ≠ k) :
    sget d (sset d m k v) j = sget d m j := by
  unfold sset
  split
  · exact sget_sdel_other d m k j h
  · exact sget_sins_other d m k j v h

/-- What any key reads as after a write. -/
theorem sget_sset (d : α) (m : SMap α) (k j : Nat) (v : α) :
    sget d (sset d m k v) j = if j = k then v else sget d m j := by
  split
  · next h => rw [h, sget_sset_same]
  · next h => exact sget_sset_other d m k j v h

end

/-! ### The canonical form -/

theorem srising_le {lo lo' : Nat} {m : SMap α} (h : srising lo m = true) (hl : lo' ≤ lo) : srising lo' m = true := by
  cases m with
  | nil => rfl
  | cons e t =>
    obtain ⟨k, v⟩ := e
    simp only [srising, Bool.and_eq_true, decide_eq_true_eq] at h ⊢
    exact ⟨by omega, h.2⟩

theorem srising_filter (p : Nat × α → Bool) {lo : Nat} {m : SMap α} (h : srising lo m = true) :
    srising lo (m.filter p) = true := by
  induction m generalizing lo with
  | nil => rfl
  | cons e t ih =>
    obtain ⟨k, v⟩ := e
    simp only [srising, Bool.and_eq_true, decide_eq_true_eq] at h
    by_cases hp : p (k, v) = true
    · simp only [List.filter_cons, hp, if_true, srising, Bool.and_eq_true, decide_eq_true_eq]
      exact ⟨h.1, ih h.2⟩
    · simp only [List.filter_cons, hp]
      exact srising_le (ih h.2) (by omega)

theorem srising_sins {lo : Nat} {m : SMap α} (k : Nat) (v : α) (h : srising lo m = true) (hk : lo ≤ k) :
    srising lo (sins m k v) = true := by
  induction m generalizing lo with
  | nil => simp [sins, srising, hk]
  | cons e t ih =>
    obtain ⟨k', v'⟩ := e
    simp only [srising, Bool.and_eq_true, decide_eq_true_eq] at h
    by_cases h1 : k < k'
    · simp only [sins, h1, if_true, srising, Bool.and_eq_true, decide_eq_true_eq]
      exact ⟨hk, by omega, h.2⟩
    · by_cases h2 : k = k'
      · simp only [sins, h2, srising, Nat.lt_irrefl, if_false, if_true, Bool.and_eq_true, decide_eq_true_eq]
        exact ⟨h.1, h.2⟩
      · simp only [sins, h1, h2, if_false, srising, Bool.and_eq_true, decide_eq_true_eq]
        exact ⟨h.1, ih h.2 (by omega)⟩

theorem sins_all (p : Nat × α → Bool) {m : SMap α} (k : Nat) (v : α) (h : m.all p = true) (hp : p (k, v) = true) :
    (sins m k v).all p = true := by
  induction m with
  | nil => simp [sins, hp]
  | cons e t ih =>
    obtain ⟨k', v'⟩ := e
    simp only [List.all_cons, Bool.and_eq_true] at h
    unfold sins
    split
    · simp [hp, h.1, h.2]
    · split
      · simp only [List.all_cons, Bool.and_eq_true]
        exact ⟨hp, h.2⟩
      · simp only [List.all_cons, Bool.and_eq_true]
        exact ⟨h.1, ih h.2⟩

section
variable [DecidableEq α]

theorem swf_filter (d : α) (p : Nat × α → Bool) {m : SMap α} (h : swf d m = true) : swf d (m.filter p) = true := by
  simp only [swf, Bool.and_eq_true] at h ⊢
  refine ⟨srising_filter p h.1, ?_⟩
  rw [List.all_eq_true] at h ⊢
  intro e he
  exact h.2 e (List.mem_filter.mp he).1

/-- A write keeps the canonical form. -/
theorem swf_sset (d : α) {m : SMap α} (k : Nat) (v : α) (h : swf d m = true) : swf d (sset d m k v) = true := by
  unfold sset
  split
  · exact swf_filter d _ h
  · next hv =>
    simp only [swf, Bool.and_eq_true] at h ⊢
    exact ⟨srising_sins k v h.1 (by omega), sins_all _ k v h.2 (by simpa using hv)⟩

end

/-- A key below all those listed reads as d. -/
theorem sget_of_srising (d : α) {lo : Nat} {m : SMap α} (h : srising lo m = true) {k : Nat} (hk : k < lo) :
    sget d m k = d := by
  induction m generalizing lo with
  | nil => rfl
  | cons e t ih =>
    obtain ⟨k', v'⟩ := e
    simp only [srising, Bool.and_eq_true, decide_eq_true_eq] at h
    have : k' ≠ k := by omega
    simp only [sget, this, if_false]
    exact ih h.2 (by omega)

/-! ### Byte memories -/

/-- A read of the byte just written. -/
@[simp] theorem mget_mset_same (m : Mem) (a : Nat) (b : Byte) : mget (mset m a b) a = b := sget_sset_same 0 m a b

theorem mget_mset_other (m : Mem) (a j : Nat) (b : Byte) (h : j ≠ a) : mget (mset m a b) j = mget m j :=
  sget_sset_other 0 m a j b h

theorem mset_wf {m : Mem} (a : Nat) (b : Byte) (h : Memory.wf m = true) : Memory.wf (mset m a b) = true :=
  swf_sset 0 a b h

theorem mmask_wf {m : Mem} (a : Nat) (mask v : Byte) (h : Memory.wf m = true) : Memory.wf (mmask m a mask v) = true :=
  mset_wf a _ h

theorem mzero_wf {m : Mem} (lo n : Nat) (h : Memory.wf m = true) : Memory.wf (mzero m lo n) = true :=
  swf_filter 0 _ h

theorem mput_wf {m : Mem} (a : Nat) (bs : List Byte) (h : Memory.wf m = true) : Memory.wf (mput m a bs) = true := by
  induction bs generalizing m a with
  | nil => exact h
  | cons b t ih => exact ih (a + 1) (mset_wf a b h)

theorem mputWord_wf {m : Mem} (a : Nat) (v : W64) (h : Memory.wf m = true) : Memory.wf (mputWord m a v) = true :=
  mput_wf a _ h

/-- Bytes before those written keep their values. -/
theorem mget_mput_below (m : Mem) (a : Nat) (bs : List Byte) (j : Nat) (h : j < a) : mget (mput m a bs) j = mget m j := by
  induction bs generalizing m a with
  | nil => rfl
  | cons b t ih => rw [mput, ih (mset m a b) (a + 1) (by omega), mget_mset_other m a j b (by omega)]

/-- Bytes after those written keep their values. -/
theorem mget_mput_above (m : Mem) (a : Nat) (bs : List Byte) (j : Nat) (h : a + bs.length ≤ j) :
    mget (mput m a bs) j = mget m j := by
  induction bs generalizing m a with
  | nil => rfl
  | cons b t ih =>
    simp only [List.length_cons] at h
    rw [mput, ih (mset m a b) (a + 1) (by omega), mget_mset_other m a j b (by omega)]

/-- Each byte written reads as it was given. -/
theorem mget_mput_at (m : Mem) (a : Nat) (bs : List Byte) (i : Nat) (h : i < bs.length) :
    mget (mput m a bs) (a + i) = bs.getD i 0 := by
  induction bs generalizing m a i with
  | nil => simp at h
  | cons b t ih =>
    cases i with
    | zero => rw [mput, Nat.add_zero, mget_mput_below _ _ _ _ (by omega)]; simp
    | succ i =>
      have := ih (mset m a b) (a + 1) i (by simpa using h)
      rw [mput, show a + (i + 1) = a + 1 + i by omega, this]
      simp

theorem foldl_wf {β : Type} (f : Mem → β → Mem) (hf : ∀ m x, Memory.wf m = true → Memory.wf (f m x) = true)
    (xs : List β) {m : Mem} (h : Memory.wf m = true) : Memory.wf (xs.foldl f m) = true := by
  induction xs generalizing m with
  | nil => exact h
  | cons x t ih => exact ih (hf m x h)

end Sys2Proof.Machine
end

