-- ==== Sys2Proof/Laws/State.lean ====
section
/-! SUPPORT. Each whole-field update changes its field and no other: one lemma per field per update, so that no proof
unfolds a record update. -/

namespace Sys2Proof.Machine

/-! ### withPending -/

@[simp] theorem State.withPending_pending (s : State) (x) : (s.withPending x).pending = x := rfl
@[simp] theorem State.withPending_free (s : State) (x) : (s.withPending x).free = s.free := rfl
@[simp] theorem State.withPending_time (s : State) (x) : (s.withPending x).time = s.time := rfl
@[simp] theorem State.withPending_regs (s : State) (x) : (s.withPending x).regs = s.regs := rfl
@[simp] theorem State.withPending_clusters (s : State) (x) : (s.withPending x).clusters = s.clusters := rfl
@[simp] theorem State.withPending_flags (s : State) (x) : (s.withPending x).flags = s.flags := rfl
@[simp] theorem State.withPending_stackMem (s : State) (x) : (s.withPending x).stackMem = s.stackMem := rfl
@[simp] theorem State.withPending_caseMem (s : State) (x) : (s.withPending x).caseMem = s.caseMem := rfl
@[simp] theorem State.withPending_hostMem (s : State) (x) : (s.withPending x).hostMem = s.hostMem := rfl
@[simp] theorem State.withPending_tierMem (s : State) (x) : (s.withPending x).tierMem = s.tierMem := rfl
@[simp] theorem State.withPending_tierPoison (s : State) (x) : (s.withPending x).tierPoison = s.tierPoison := rfl
@[simp] theorem State.withPending_chans (s : State) (x) : (s.withPending x).chans = s.chans := rfl
@[simp] theorem State.withPending_dieClks (s : State) (x) : (s.withPending x).dieClks = s.dieClks := rfl
@[simp] theorem State.withPending_parts (s : State) (x) : (s.withPending x).parts = s.parts := rfl
@[simp] theorem State.withPending_scus (s : State) (x) : (s.withPending x).scus = s.scus := rfl
@[simp] theorem State.withPending_reqs (s : State) (x) : (s.withPending x).reqs = s.reqs := rfl
@[simp] theorem State.withPending_links (s : State) (x) : (s.withPending x).links = s.links := rfl
@[simp] theorem State.withPending_landing (s : State) (x) : (s.withPending x).landing = s.landing := rfl
@[simp] theorem State.withPending_groups (s : State) (x) : (s.withPending x).groups = s.groups := rfl
@[simp] theorem State.withPending_mirror (s : State) (x) : (s.withPending x).mirror = s.mirror := rfl
@[simp] theorem State.withPending_integ (s : State) (x) : (s.withPending x).integ = s.integ := rfl
@[simp] theorem State.withPending_fw (s : State) (x) : (s.withPending x).fw = s.fw := rfl
@[simp] theorem State.withPending_keep (s : State) (x) : (s.withPending x).keep = s.keep := rfl
@[simp] theorem State.withPending_power (s : State) (x) : (s.withPending x).power = s.power := rfl
@[simp] theorem State.withPending_boot (s : State) (x) : (s.withPending x).boot = s.boot := rfl
@[simp] theorem State.withPending_halt (s : State) (x) : (s.withPending x).halt = s.halt := rfl
@[simp] theorem State.withPending_tap (s : State) (x) : (s.withPending x).tap = s.tap := rfl
@[simp] theorem State.withPending_host (s : State) (x) : (s.withPending x).host = s.host := rfl
@[simp] theorem State.withPending_turns (s : State) (x) : (s.withPending x).turns = s.turns := rfl
@[simp] theorem State.withPending_hamper (s : State) (x) : (s.withPending x).hamper = s.hamper := rfl
@[simp] theorem State.withPending_self (s : State) : s.withPending s.pending = s := rfl
@[simp] theorem State.withPending_withPending_twice (s : State) (x y) : (s.withPending x).withPending y = s.withPending y := rfl

/-! ### withFree -/

@[simp] theorem State.withFree_pending (s : State) (x) : (s.withFree x).pending = s.pending := rfl
@[simp] theorem State.withFree_free (s : State) (x) : (s.withFree x).free = x := rfl
@[simp] theorem State.withFree_time (s : State) (x) : (s.withFree x).time = s.time := rfl
@[simp] theorem State.withFree_regs (s : State) (x) : (s.withFree x).regs = s.regs := rfl
@[simp] theorem State.withFree_clusters (s : State) (x) : (s.withFree x).clusters = s.clusters := rfl
@[simp] theorem State.withFree_flags (s : State) (x) : (s.withFree x).flags = s.flags := rfl
@[simp] theorem State.withFree_stackMem (s : State) (x) : (s.withFree x).stackMem = s.stackMem := rfl
@[simp] theorem State.withFree_caseMem (s : State) (x) : (s.withFree x).caseMem = s.caseMem := rfl
@[simp] theorem State.withFree_hostMem (s : State) (x) : (s.withFree x).hostMem = s.hostMem := rfl
@[simp] theorem State.withFree_tierMem (s : State) (x) : (s.withFree x).tierMem = s.tierMem := rfl
@[simp] theorem State.withFree_tierPoison (s : State) (x) : (s.withFree x).tierPoison = s.tierPoison := rfl
@[simp] theorem State.withFree_chans (s : State) (x) : (s.withFree x).chans = s.chans := rfl
@[simp] theorem State.withFree_dieClks (s : State) (x) : (s.withFree x).dieClks = s.dieClks := rfl
@[simp] theorem State.withFree_parts (s : State) (x) : (s.withFree x).parts = s.parts := rfl
@[simp] theorem State.withFree_scus (s : State) (x) : (s.withFree x).scus = s.scus := rfl
@[simp] theorem State.withFree_reqs (s : State) (x) : (s.withFree x).reqs = s.reqs := rfl
@[simp] theorem State.withFree_links (s : State) (x) : (s.withFree x).links = s.links := rfl
@[simp] theorem State.withFree_landing (s : State) (x) : (s.withFree x).landing = s.landing := rfl
@[simp] theorem State.withFree_groups (s : State) (x) : (s.withFree x).groups = s.groups := rfl
@[simp] theorem State.withFree_mirror (s : State) (x) : (s.withFree x).mirror = s.mirror := rfl
@[simp] theorem State.withFree_integ (s : State) (x) : (s.withFree x).integ = s.integ := rfl
@[simp] theorem State.withFree_fw (s : State) (x) : (s.withFree x).fw = s.fw := rfl
@[simp] theorem State.withFree_keep (s : State) (x) : (s.withFree x).keep = s.keep := rfl
@[simp] theorem State.withFree_power (s : State) (x) : (s.withFree x).power = s.power := rfl
@[simp] theorem State.withFree_boot (s : State) (x) : (s.withFree x).boot = s.boot := rfl
@[simp] theorem State.withFree_halt (s : State) (x) : (s.withFree x).halt = s.halt := rfl
@[simp] theorem State.withFree_tap (s : State) (x) : (s.withFree x).tap = s.tap := rfl
@[simp] theorem State.withFree_host (s : State) (x) : (s.withFree x).host = s.host := rfl
@[simp] theorem State.withFree_turns (s : State) (x) : (s.withFree x).turns = s.turns := rfl
@[simp] theorem State.withFree_hamper (s : State) (x) : (s.withFree x).hamper = s.hamper := rfl
@[simp] theorem State.withFree_self (s : State) : s.withFree s.free = s := rfl
@[simp] theorem State.withFree_withFree_twice (s : State) (x y) : (s.withFree x).withFree y = s.withFree y := rfl

/-! ### withTime -/

@[simp] theorem State.withTime_pending (s : State) (x) : (s.withTime x).pending = s.pending := rfl
@[simp] theorem State.withTime_free (s : State) (x) : (s.withTime x).free = s.free := rfl
@[simp] theorem State.withTime_time (s : State) (x) : (s.withTime x).time = x := rfl
@[simp] theorem State.withTime_regs (s : State) (x) : (s.withTime x).regs = s.regs := rfl
@[simp] theorem State.withTime_clusters (s : State) (x) : (s.withTime x).clusters = s.clusters := rfl
@[simp] theorem State.withTime_flags (s : State) (x) : (s.withTime x).flags = s.flags := rfl
@[simp] theorem State.withTime_stackMem (s : State) (x) : (s.withTime x).stackMem = s.stackMem := rfl
@[simp] theorem State.withTime_caseMem (s : State) (x) : (s.withTime x).caseMem = s.caseMem := rfl
@[simp] theorem State.withTime_hostMem (s : State) (x) : (s.withTime x).hostMem = s.hostMem := rfl
@[simp] theorem State.withTime_tierMem (s : State) (x) : (s.withTime x).tierMem = s.tierMem := rfl
@[simp] theorem State.withTime_tierPoison (s : State) (x) : (s.withTime x).tierPoison = s.tierPoison := rfl
@[simp] theorem State.withTime_chans (s : State) (x) : (s.withTime x).chans = s.chans := rfl
@[simp] theorem State.withTime_dieClks (s : State) (x) : (s.withTime x).dieClks = s.dieClks := rfl
@[simp] theorem State.withTime_parts (s : State) (x) : (s.withTime x).parts = s.parts := rfl
@[simp] theorem State.withTime_scus (s : State) (x) : (s.withTime x).scus = s.scus := rfl
@[simp] theorem State.withTime_reqs (s : State) (x) : (s.withTime x).reqs = s.reqs := rfl
@[simp] theorem State.withTime_links (s : State) (x) : (s.withTime x).links = s.links := rfl
@[simp] theorem State.withTime_landing (s : State) (x) : (s.withTime x).landing = s.landing := rfl
@[simp] theorem State.withTime_groups (s : State) (x) : (s.withTime x).groups = s.groups := rfl
@[simp] theorem State.withTime_mirror (s : State) (x) : (s.withTime x).mirror = s.mirror := rfl
@[simp] theorem State.withTime_integ (s : State) (x) : (s.withTime x).integ = s.integ := rfl
@[simp] theorem State.withTime_fw (s : State) (x) : (s.withTime x).fw = s.fw := rfl
@[simp] theorem State.withTime_keep (s : State) (x) : (s.withTime x).keep = s.keep := rfl
@[simp] theorem State.withTime_power (s : State) (x) : (s.withTime x).power = s.power := rfl
@[simp] theorem State.withTime_boot (s : State) (x) : (s.withTime x).boot = s.boot := rfl
@[simp] theorem State.withTime_halt (s : State) (x) : (s.withTime x).halt = s.halt := rfl
@[simp] theorem State.withTime_tap (s : State) (x) : (s.withTime x).tap = s.tap := rfl
@[simp] theorem State.withTime_host (s : State) (x) : (s.withTime x).host = s.host := rfl
@[simp] theorem State.withTime_turns (s : State) (x) : (s.withTime x).turns = s.turns := rfl
@[simp] theorem State.withTime_hamper (s : State) (x) : (s.withTime x).hamper = s.hamper := rfl
@[simp] theorem State.withTime_self (s : State) : s.withTime s.time = s := rfl
@[simp] theorem State.withTime_withTime_twice (s : State) (x y) : (s.withTime x).withTime y = s.withTime y := rfl

/-! ### withRegs -/

@[simp] theorem State.withRegs_pending (s : State) (x) : (s.withRegs x).pending = s.pending := rfl
@[simp] theorem State.withRegs_free (s : State) (x) : (s.withRegs x).free = s.free := rfl
@[simp] theorem State.withRegs_time (s : State) (x) : (s.withRegs x).time = s.time := rfl
@[simp] theorem State.withRegs_regs (s : State) (x) : (s.withRegs x).regs = x := rfl
@[simp] theorem State.withRegs_clusters (s : State) (x) : (s.withRegs x).clusters = s.clusters := rfl
@[simp] theorem State.withRegs_flags (s : State) (x) : (s.withRegs x).flags = s.flags := rfl
@[simp] theorem State.withRegs_stackMem (s : State) (x) : (s.withRegs x).stackMem = s.stackMem := rfl
@[simp] theorem State.withRegs_caseMem (s : State) (x) : (s.withRegs x).caseMem = s.caseMem := rfl
@[simp] theorem State.withRegs_hostMem (s : State) (x) : (s.withRegs x).hostMem = s.hostMem := rfl
@[simp] theorem State.withRegs_tierMem (s : State) (x) : (s.withRegs x).tierMem = s.tierMem := rfl
@[simp] theorem State.withRegs_tierPoison (s : State) (x) : (s.withRegs x).tierPoison = s.tierPoison := rfl
@[simp] theorem State.withRegs_chans (s : State) (x) : (s.withRegs x).chans = s.chans := rfl
@[simp] theorem State.withRegs_dieClks (s : State) (x) : (s.withRegs x).dieClks = s.dieClks := rfl
@[simp] theorem State.withRegs_parts (s : State) (x) : (s.withRegs x).parts = s.parts := rfl
@[simp] theorem State.withRegs_scus (s : State) (x) : (s.withRegs x).scus = s.scus := rfl
@[simp] theorem State.withRegs_reqs (s : State) (x) : (s.withRegs x).reqs = s.reqs := rfl
@[simp] theorem State.withRegs_links (s : State) (x) : (s.withRegs x).links = s.links := rfl
@[simp] theorem State.withRegs_landing (s : State) (x) : (s.withRegs x).landing = s.landing := rfl
@[simp] theorem State.withRegs_groups (s : State) (x) : (s.withRegs x).groups = s.groups := rfl
@[simp] theorem State.withRegs_mirror (s : State) (x) : (s.withRegs x).mirror = s.mirror := rfl
@[simp] theorem State.withRegs_integ (s : State) (x) : (s.withRegs x).integ = s.integ := rfl
@[simp] theorem State.withRegs_fw (s : State) (x) : (s.withRegs x).fw = s.fw := rfl
@[simp] theorem State.withRegs_keep (s : State) (x) : (s.withRegs x).keep = s.keep := rfl
@[simp] theorem State.withRegs_power (s : State) (x) : (s.withRegs x).power = s.power := rfl
@[simp] theorem State.withRegs_boot (s : State) (x) : (s.withRegs x).boot = s.boot := rfl
@[simp] theorem State.withRegs_halt (s : State) (x) : (s.withRegs x).halt = s.halt := rfl
@[simp] theorem State.withRegs_tap (s : State) (x) : (s.withRegs x).tap = s.tap := rfl
@[simp] theorem State.withRegs_host (s : State) (x) : (s.withRegs x).host = s.host := rfl
@[simp] theorem State.withRegs_turns (s : State) (x) : (s.withRegs x).turns = s.turns := rfl
@[simp] theorem State.withRegs_hamper (s : State) (x) : (s.withRegs x).hamper = s.hamper := rfl
@[simp] theorem State.withRegs_self (s : State) : s.withRegs s.regs = s := rfl
@[simp] theorem State.withRegs_withRegs_twice (s : State) (x y) : (s.withRegs x).withRegs y = s.withRegs y := rfl

/-! ### withClusters -/

@[simp] theorem State.withClusters_pending (s : State) (x) : (s.withClusters x).pending = s.pending := rfl
@[simp] theorem State.withClusters_free (s : State) (x) : (s.withClusters x).free = s.free := rfl
@[simp] theorem State.withClusters_time (s : State) (x) : (s.withClusters x).time = s.time := rfl
@[simp] theorem State.withClusters_regs (s : State) (x) : (s.withClusters x).regs = s.regs := rfl
@[simp] theorem State.withClusters_clusters (s : State) (x) : (s.withClusters x).clusters = x := rfl
@[simp] theorem State.withClusters_flags (s : State) (x) : (s.withClusters x).flags = s.flags := rfl
@[simp] theorem State.withClusters_stackMem (s : State) (x) : (s.withClusters x).stackMem = s.stackMem := rfl
@[simp] theorem State.withClusters_caseMem (s : State) (x) : (s.withClusters x).caseMem = s.caseMem := rfl
@[simp] theorem State.withClusters_hostMem (s : State) (x) : (s.withClusters x).hostMem = s.hostMem := rfl
@[simp] theorem State.withClusters_tierMem (s : State) (x) : (s.withClusters x).tierMem = s.tierMem := rfl
@[simp] theorem State.withClusters_tierPoison (s : State) (x) : (s.withClusters x).tierPoison = s.tierPoison := rfl
@[simp] theorem State.withClusters_chans (s : State) (x) : (s.withClusters x).chans = s.chans := rfl
@[simp] theorem State.withClusters_dieClks (s : State) (x) : (s.withClusters x).dieClks = s.dieClks := rfl
@[simp] theorem State.withClusters_parts (s : State) (x) : (s.withClusters x).parts = s.parts := rfl
@[simp] theorem State.withClusters_scus (s : State) (x) : (s.withClusters x).scus = s.scus := rfl
@[simp] theorem State.withClusters_reqs (s : State) (x) : (s.withClusters x).reqs = s.reqs := rfl
@[simp] theorem State.withClusters_links (s : State) (x) : (s.withClusters x).links = s.links := rfl
@[simp] theorem State.withClusters_landing (s : State) (x) : (s.withClusters x).landing = s.landing := rfl
@[simp] theorem State.withClusters_groups (s : State) (x) : (s.withClusters x).groups = s.groups := rfl
@[simp] theorem State.withClusters_mirror (s : State) (x) : (s.withClusters x).mirror = s.mirror := rfl
@[simp] theorem State.withClusters_integ (s : State) (x) : (s.withClusters x).integ = s.integ := rfl
@[simp] theorem State.withClusters_fw (s : State) (x) : (s.withClusters x).fw = s.fw := rfl
@[simp] theorem State.withClusters_keep (s : State) (x) : (s.withClusters x).keep = s.keep := rfl
@[simp] theorem State.withClusters_power (s : State) (x) : (s.withClusters x).power = s.power := rfl
@[simp] theorem State.withClusters_boot (s : State) (x) : (s.withClusters x).boot = s.boot := rfl
@[simp] theorem State.withClusters_halt (s : State) (x) : (s.withClusters x).halt = s.halt := rfl
@[simp] theorem State.withClusters_tap (s : State) (x) : (s.withClusters x).tap = s.tap := rfl
@[simp] theorem State.withClusters_host (s : State) (x) : (s.withClusters x).host = s.host := rfl
@[simp] theorem State.withClusters_turns (s : State) (x) : (s.withClusters x).turns = s.turns := rfl
@[simp] theorem State.withClusters_hamper (s : State) (x) : (s.withClusters x).hamper = s.hamper := rfl
@[simp] theorem State.withClusters_self (s : State) : s.withClusters s.clusters = s := rfl
@[simp] theorem State.withClusters_withClusters_twice (s : State) (x y) : (s.withClusters x).withClusters y = s.withClusters y := rfl

/-! ### withFlags -/

@[simp] theorem State.withFlags_pending (s : State) (x) : (s.withFlags x).pending = s.pending := rfl
@[simp] theorem State.withFlags_free (s : State) (x) : (s.withFlags x).free = s.free := rfl
@[simp] theorem State.withFlags_time (s : State) (x) : (s.withFlags x).time = s.time := rfl
@[simp] theorem State.withFlags_regs (s : State) (x) : (s.withFlags x).regs = s.regs := rfl
@[simp] theorem State.withFlags_clusters (s : State) (x) : (s.withFlags x).clusters = s.clusters := rfl
@[simp] theorem State.withFlags_flags (s : State) (x) : (s.withFlags x).flags = x := rfl
@[simp] theorem State.withFlags_stackMem (s : State) (x) : (s.withFlags x).stackMem = s.stackMem := rfl
@[simp] theorem State.withFlags_caseMem (s : State) (x) : (s.withFlags x).caseMem = s.caseMem := rfl
@[simp] theorem State.withFlags_hostMem (s : State) (x) : (s.withFlags x).hostMem = s.hostMem := rfl
@[simp] theorem State.withFlags_tierMem (s : State) (x) : (s.withFlags x).tierMem = s.tierMem := rfl
@[simp] theorem State.withFlags_tierPoison (s : State) (x) : (s.withFlags x).tierPoison = s.tierPoison := rfl
@[simp] theorem State.withFlags_chans (s : State) (x) : (s.withFlags x).chans = s.chans := rfl
@[simp] theorem State.withFlags_dieClks (s : State) (x) : (s.withFlags x).dieClks = s.dieClks := rfl
@[simp] theorem State.withFlags_parts (s : State) (x) : (s.withFlags x).parts = s.parts := rfl
@[simp] theorem State.withFlags_scus (s : State) (x) : (s.withFlags x).scus = s.scus := rfl
@[simp] theorem State.withFlags_reqs (s : State) (x) : (s.withFlags x).reqs = s.reqs := rfl
@[simp] theorem State.withFlags_links (s : State) (x) : (s.withFlags x).links = s.links := rfl
@[simp] theorem State.withFlags_landing (s : State) (x) : (s.withFlags x).landing = s.landing := rfl
@[simp] theorem State.withFlags_groups (s : State) (x) : (s.withFlags x).groups = s.groups := rfl
@[simp] theorem State.withFlags_mirror (s : State) (x) : (s.withFlags x).mirror = s.mirror := rfl
@[simp] theorem State.withFlags_integ (s : State) (x) : (s.withFlags x).integ = s.integ := rfl
@[simp] theorem State.withFlags_fw (s : State) (x) : (s.withFlags x).fw = s.fw := rfl
@[simp] theorem State.withFlags_keep (s : State) (x) : (s.withFlags x).keep = s.keep := rfl
@[simp] theorem State.withFlags_power (s : State) (x) : (s.withFlags x).power = s.power := rfl
@[simp] theorem State.withFlags_boot (s : State) (x) : (s.withFlags x).boot = s.boot := rfl
@[simp] theorem State.withFlags_halt (s : State) (x) : (s.withFlags x).halt = s.halt := rfl
@[simp] theorem State.withFlags_tap (s : State) (x) : (s.withFlags x).tap = s.tap := rfl
@[simp] theorem State.withFlags_host (s : State) (x) : (s.withFlags x).host = s.host := rfl
@[simp] theorem State.withFlags_turns (s : State) (x) : (s.withFlags x).turns = s.turns := rfl
@[simp] theorem State.withFlags_hamper (s : State) (x) : (s.withFlags x).hamper = s.hamper := rfl
@[simp] theorem State.withFlags_self (s : State) : s.withFlags s.flags = s := rfl
@[simp] theorem State.withFlags_withFlags_twice (s : State) (x y) : (s.withFlags x).withFlags y = s.withFlags y := rfl

/-! ### withStackMem -/

@[simp] theorem State.withStackMem_pending (s : State) (x) : (s.withStackMem x).pending = s.pending := rfl
@[simp] theorem State.withStackMem_free (s : State) (x) : (s.withStackMem x).free = s.free := rfl
@[simp] theorem State.withStackMem_time (s : State) (x) : (s.withStackMem x).time = s.time := rfl
@[simp] theorem State.withStackMem_regs (s : State) (x) : (s.withStackMem x).regs = s.regs := rfl
@[simp] theorem State.withStackMem_clusters (s : State) (x) : (s.withStackMem x).clusters = s.clusters := rfl
@[simp] theorem State.withStackMem_flags (s : State) (x) : (s.withStackMem x).flags = s.flags := rfl
@[simp] theorem State.withStackMem_stackMem (s : State) (x) : (s.withStackMem x).stackMem = x := rfl
@[simp] theorem State.withStackMem_caseMem (s : State) (x) : (s.withStackMem x).caseMem = s.caseMem := rfl
@[simp] theorem State.withStackMem_hostMem (s : State) (x) : (s.withStackMem x).hostMem = s.hostMem := rfl
@[simp] theorem State.withStackMem_tierMem (s : State) (x) : (s.withStackMem x).tierMem = s.tierMem := rfl
@[simp] theorem State.withStackMem_tierPoison (s : State) (x) : (s.withStackMem x).tierPoison = s.tierPoison := rfl
@[simp] theorem State.withStackMem_chans (s : State) (x) : (s.withStackMem x).chans = s.chans := rfl
@[simp] theorem State.withStackMem_dieClks (s : State) (x) : (s.withStackMem x).dieClks = s.dieClks := rfl
@[simp] theorem State.withStackMem_parts (s : State) (x) : (s.withStackMem x).parts = s.parts := rfl
@[simp] theorem State.withStackMem_scus (s : State) (x) : (s.withStackMem x).scus = s.scus := rfl
@[simp] theorem State.withStackMem_reqs (s : State) (x) : (s.withStackMem x).reqs = s.reqs := rfl
@[simp] theorem State.withStackMem_links (s : State) (x) : (s.withStackMem x).links = s.links := rfl
@[simp] theorem State.withStackMem_landing (s : State) (x) : (s.withStackMem x).landing = s.landing := rfl
@[simp] theorem State.withStackMem_groups (s : State) (x) : (s.withStackMem x).groups = s.groups := rfl
@[simp] theorem State.withStackMem_mirror (s : State) (x) : (s.withStackMem x).mirror = s.mirror := rfl
@[simp] theorem State.withStackMem_integ (s : State) (x) : (s.withStackMem x).integ = s.integ := rfl
@[simp] theorem State.withStackMem_fw (s : State) (x) : (s.withStackMem x).fw = s.fw := rfl
@[simp] theorem State.withStackMem_keep (s : State) (x) : (s.withStackMem x).keep = s.keep := rfl
@[simp] theorem State.withStackMem_power (s : State) (x) : (s.withStackMem x).power = s.power := rfl
@[simp] theorem State.withStackMem_boot (s : State) (x) : (s.withStackMem x).boot = s.boot := rfl
@[simp] theorem State.withStackMem_halt (s : State) (x) : (s.withStackMem x).halt = s.halt := rfl
@[simp] theorem State.withStackMem_tap (s : State) (x) : (s.withStackMem x).tap = s.tap := rfl
@[simp] theorem State.withStackMem_host (s : State) (x) : (s.withStackMem x).host = s.host := rfl
@[simp] theorem State.withStackMem_turns (s : State) (x) : (s.withStackMem x).turns = s.turns := rfl
@[simp] theorem State.withStackMem_hamper (s : State) (x) : (s.withStackMem x).hamper = s.hamper := rfl
@[simp] theorem State.withStackMem_self (s : State) : s.withStackMem s.stackMem = s := rfl
@[simp] theorem State.withStackMem_withStackMem_twice (s : State) (x y) : (s.withStackMem x).withStackMem y = s.withStackMem y := rfl

/-! ### withCaseMem -/

@[simp] theorem State.withCaseMem_pending (s : State) (x) : (s.withCaseMem x).pending = s.pending := rfl
@[simp] theorem State.withCaseMem_free (s : State) (x) : (s.withCaseMem x).free = s.free := rfl
@[simp] theorem State.withCaseMem_time (s : State) (x) : (s.withCaseMem x).time = s.time := rfl
@[simp] theorem State.withCaseMem_regs (s : State) (x) : (s.withCaseMem x).regs = s.regs := rfl
@[simp] theorem State.withCaseMem_clusters (s : State) (x) : (s.withCaseMem x).clusters = s.clusters := rfl
@[simp] theorem State.withCaseMem_flags (s : State) (x) : (s.withCaseMem x).flags = s.flags := rfl
@[simp] theorem State.withCaseMem_stackMem (s : State) (x) : (s.withCaseMem x).stackMem = s.stackMem := rfl
@[simp] theorem State.withCaseMem_caseMem (s : State) (x) : (s.withCaseMem x).caseMem = x := rfl
@[simp] theorem State.withCaseMem_hostMem (s : State) (x) : (s.withCaseMem x).hostMem = s.hostMem := rfl
@[simp] theorem State.withCaseMem_tierMem (s : State) (x) : (s.withCaseMem x).tierMem = s.tierMem := rfl
@[simp] theorem State.withCaseMem_tierPoison (s : State) (x) : (s.withCaseMem x).tierPoison = s.tierPoison := rfl
@[simp] theorem State.withCaseMem_chans (s : State) (x) : (s.withCaseMem x).chans = s.chans := rfl
@[simp] theorem State.withCaseMem_dieClks (s : State) (x) : (s.withCaseMem x).dieClks = s.dieClks := rfl
@[simp] theorem State.withCaseMem_parts (s : State) (x) : (s.withCaseMem x).parts = s.parts := rfl
@[simp] theorem State.withCaseMem_scus (s : State) (x) : (s.withCaseMem x).scus = s.scus := rfl
@[simp] theorem State.withCaseMem_reqs (s : State) (x) : (s.withCaseMem x).reqs = s.reqs := rfl
@[simp] theorem State.withCaseMem_links (s : State) (x) : (s.withCaseMem x).links = s.links := rfl
@[simp] theorem State.withCaseMem_landing (s : State) (x) : (s.withCaseMem x).landing = s.landing := rfl
@[simp] theorem State.withCaseMem_groups (s : State) (x) : (s.withCaseMem x).groups = s.groups := rfl
@[simp] theorem State.withCaseMem_mirror (s : State) (x) : (s.withCaseMem x).mirror = s.mirror := rfl
@[simp] theorem State.withCaseMem_integ (s : State) (x) : (s.withCaseMem x).integ = s.integ := rfl
@[simp] theorem State.withCaseMem_fw (s : State) (x) : (s.withCaseMem x).fw = s.fw := rfl
@[simp] theorem State.withCaseMem_keep (s : State) (x) : (s.withCaseMem x).keep = s.keep := rfl
@[simp] theorem State.withCaseMem_power (s : State) (x) : (s.withCaseMem x).power = s.power := rfl
@[simp] theorem State.withCaseMem_boot (s : State) (x) : (s.withCaseMem x).boot = s.boot := rfl
@[simp] theorem State.withCaseMem_halt (s : State) (x) : (s.withCaseMem x).halt = s.halt := rfl
@[simp] theorem State.withCaseMem_tap (s : State) (x) : (s.withCaseMem x).tap = s.tap := rfl
@[simp] theorem State.withCaseMem_host (s : State) (x) : (s.withCaseMem x).host = s.host := rfl
@[simp] theorem State.withCaseMem_turns (s : State) (x) : (s.withCaseMem x).turns = s.turns := rfl
@[simp] theorem State.withCaseMem_hamper (s : State) (x) : (s.withCaseMem x).hamper = s.hamper := rfl
@[simp] theorem State.withCaseMem_self (s : State) : s.withCaseMem s.caseMem = s := rfl
@[simp] theorem State.withCaseMem_withCaseMem_twice (s : State) (x y) : (s.withCaseMem x).withCaseMem y = s.withCaseMem y := rfl

/-! ### withHostMem -/

@[simp] theorem State.withHostMem_pending (s : State) (x) : (s.withHostMem x).pending = s.pending := rfl
@[simp] theorem State.withHostMem_free (s : State) (x) : (s.withHostMem x).free = s.free := rfl
@[simp] theorem State.withHostMem_time (s : State) (x) : (s.withHostMem x).time = s.time := rfl
@[simp] theorem State.withHostMem_regs (s : State) (x) : (s.withHostMem x).regs = s.regs := rfl
@[simp] theorem State.withHostMem_clusters (s : State) (x) : (s.withHostMem x).clusters = s.clusters := rfl
@[simp] theorem State.withHostMem_flags (s : State) (x) : (s.withHostMem x).flags = s.flags := rfl
@[simp] theorem State.withHostMem_stackMem (s : State) (x) : (s.withHostMem x).stackMem = s.stackMem := rfl
@[simp] theorem State.withHostMem_caseMem (s : State) (x) : (s.withHostMem x).caseMem = s.caseMem := rfl
@[simp] theorem State.withHostMem_hostMem (s : State) (x) : (s.withHostMem x).hostMem = x := rfl
@[simp] theorem State.withHostMem_tierMem (s : State) (x) : (s.withHostMem x).tierMem = s.tierMem := rfl
@[simp] theorem State.withHostMem_tierPoison (s : State) (x) : (s.withHostMem x).tierPoison = s.tierPoison := rfl
@[simp] theorem State.withHostMem_chans (s : State) (x) : (s.withHostMem x).chans = s.chans := rfl
@[simp] theorem State.withHostMem_dieClks (s : State) (x) : (s.withHostMem x).dieClks = s.dieClks := rfl
@[simp] theorem State.withHostMem_parts (s : State) (x) : (s.withHostMem x).parts = s.parts := rfl
@[simp] theorem State.withHostMem_scus (s : State) (x) : (s.withHostMem x).scus = s.scus := rfl
@[simp] theorem State.withHostMem_reqs (s : State) (x) : (s.withHostMem x).reqs = s.reqs := rfl
@[simp] theorem State.withHostMem_links (s : State) (x) : (s.withHostMem x).links = s.links := rfl
@[simp] theorem State.withHostMem_landing (s : State) (x) : (s.withHostMem x).landing = s.landing := rfl
@[simp] theorem State.withHostMem_groups (s : State) (x) : (s.withHostMem x).groups = s.groups := rfl
@[simp] theorem State.withHostMem_mirror (s : State) (x) : (s.withHostMem x).mirror = s.mirror := rfl
@[simp] theorem State.withHostMem_integ (s : State) (x) : (s.withHostMem x).integ = s.integ := rfl
@[simp] theorem State.withHostMem_fw (s : State) (x) : (s.withHostMem x).fw = s.fw := rfl
@[simp] theorem State.withHostMem_keep (s : State) (x) : (s.withHostMem x).keep = s.keep := rfl
@[simp] theorem State.withHostMem_power (s : State) (x) : (s.withHostMem x).power = s.power := rfl
@[simp] theorem State.withHostMem_boot (s : State) (x) : (s.withHostMem x).boot = s.boot := rfl
@[simp] theorem State.withHostMem_halt (s : State) (x) : (s.withHostMem x).halt = s.halt := rfl
@[simp] theorem State.withHostMem_tap (s : State) (x) : (s.withHostMem x).tap = s.tap := rfl
@[simp] theorem State.withHostMem_host (s : State) (x) : (s.withHostMem x).host = s.host := rfl
@[simp] theorem State.withHostMem_turns (s : State) (x) : (s.withHostMem x).turns = s.turns := rfl
@[simp] theorem State.withHostMem_hamper (s : State) (x) : (s.withHostMem x).hamper = s.hamper := rfl
@[simp] theorem State.withHostMem_self (s : State) : s.withHostMem s.hostMem = s := rfl
@[simp] theorem State.withHostMem_withHostMem_twice (s : State) (x y) : (s.withHostMem x).withHostMem y = s.withHostMem y := rfl

/-! ### withTierMem -/

@[simp] theorem State.withTierMem_pending (s : State) (x) : (s.withTierMem x).pending = s.pending := rfl
@[simp] theorem State.withTierMem_free (s : State) (x) : (s.withTierMem x).free = s.free := rfl
@[simp] theorem State.withTierMem_time (s : State) (x) : (s.withTierMem x).time = s.time := rfl
@[simp] theorem State.withTierMem_regs (s : State) (x) : (s.withTierMem x).regs = s.regs := rfl
@[simp] theorem State.withTierMem_clusters (s : State) (x) : (s.withTierMem x).clusters = s.clusters := rfl
@[simp] theorem State.withTierMem_flags (s : State) (x) : (s.withTierMem x).flags = s.flags := rfl
@[simp] theorem State.withTierMem_stackMem (s : State) (x) : (s.withTierMem x).stackMem = s.stackMem := rfl
@[simp] theorem State.withTierMem_caseMem (s : State) (x) : (s.withTierMem x).caseMem = s.caseMem := rfl
@[simp] theorem State.withTierMem_hostMem (s : State) (x) : (s.withTierMem x).hostMem = s.hostMem := rfl
@[simp] theorem State.withTierMem_tierMem (s : State) (x) : (s.withTierMem x).tierMem = x := rfl
@[simp] theorem State.withTierMem_tierPoison (s : State) (x) : (s.withTierMem x).tierPoison = s.tierPoison := rfl
@[simp] theorem State.withTierMem_chans (s : State) (x) : (s.withTierMem x).chans = s.chans := rfl
@[simp] theorem State.withTierMem_dieClks (s : State) (x) : (s.withTierMem x).dieClks = s.dieClks := rfl
@[simp] theorem State.withTierMem_parts (s : State) (x) : (s.withTierMem x).parts = s.parts := rfl
@[simp] theorem State.withTierMem_scus (s : State) (x) : (s.withTierMem x).scus = s.scus := rfl
@[simp] theorem State.withTierMem_reqs (s : State) (x) : (s.withTierMem x).reqs = s.reqs := rfl
@[simp] theorem State.withTierMem_links (s : State) (x) : (s.withTierMem x).links = s.links := rfl
@[simp] theorem State.withTierMem_landing (s : State) (x) : (s.withTierMem x).landing = s.landing := rfl
@[simp] theorem State.withTierMem_groups (s : State) (x) : (s.withTierMem x).groups = s.groups := rfl
@[simp] theorem State.withTierMem_mirror (s : State) (x) : (s.withTierMem x).mirror = s.mirror := rfl
@[simp] theorem State.withTierMem_integ (s : State) (x) : (s.withTierMem x).integ = s.integ := rfl
@[simp] theorem State.withTierMem_fw (s : State) (x) : (s.withTierMem x).fw = s.fw := rfl
@[simp] theorem State.withTierMem_keep (s : State) (x) : (s.withTierMem x).keep = s.keep := rfl
@[simp] theorem State.withTierMem_power (s : State) (x) : (s.withTierMem x).power = s.power := rfl
@[simp] theorem State.withTierMem_boot (s : State) (x) : (s.withTierMem x).boot = s.boot := rfl
@[simp] theorem State.withTierMem_halt (s : State) (x) : (s.withTierMem x).halt = s.halt := rfl
@[simp] theorem State.withTierMem_tap (s : State) (x) : (s.withTierMem x).tap = s.tap := rfl
@[simp] theorem State.withTierMem_host (s : State) (x) : (s.withTierMem x).host = s.host := rfl
@[simp] theorem State.withTierMem_turns (s : State) (x) : (s.withTierMem x).turns = s.turns := rfl
@[simp] theorem State.withTierMem_hamper (s : State) (x) : (s.withTierMem x).hamper = s.hamper := rfl
@[simp] theorem State.withTierMem_self (s : State) : s.withTierMem s.tierMem = s := rfl
@[simp] theorem State.withTierMem_withTierMem_twice (s : State) (x y) : (s.withTierMem x).withTierMem y = s.withTierMem y := rfl

/-! ### withTierPoison -/

@[simp] theorem State.withTierPoison_pending (s : State) (x) : (s.withTierPoison x).pending = s.pending := rfl
@[simp] theorem State.withTierPoison_free (s : State) (x) : (s.withTierPoison x).free = s.free := rfl
@[simp] theorem State.withTierPoison_time (s : State) (x) : (s.withTierPoison x).time = s.time := rfl
@[simp] theorem State.withTierPoison_regs (s : State) (x) : (s.withTierPoison x).regs = s.regs := rfl
@[simp] theorem State.withTierPoison_clusters (s : State) (x) : (s.withTierPoison x).clusters = s.clusters := rfl
@[simp] theorem State.withTierPoison_flags (s : State) (x) : (s.withTierPoison x).flags = s.flags := rfl
@[simp] theorem State.withTierPoison_stackMem (s : State) (x) : (s.withTierPoison x).stackMem = s.stackMem := rfl
@[simp] theorem State.withTierPoison_caseMem (s : State) (x) : (s.withTierPoison x).caseMem = s.caseMem := rfl
@[simp] theorem State.withTierPoison_hostMem (s : State) (x) : (s.withTierPoison x).hostMem = s.hostMem := rfl
@[simp] theorem State.withTierPoison_tierMem (s : State) (x) : (s.withTierPoison x).tierMem = s.tierMem := rfl
@[simp] theorem State.withTierPoison_tierPoison (s : State) (x) : (s.withTierPoison x).tierPoison = x := rfl
@[simp] theorem State.withTierPoison_chans (s : State) (x) : (s.withTierPoison x).chans = s.chans := rfl
@[simp] theorem State.withTierPoison_dieClks (s : State) (x) : (s.withTierPoison x).dieClks = s.dieClks := rfl
@[simp] theorem State.withTierPoison_parts (s : State) (x) : (s.withTierPoison x).parts = s.parts := rfl
@[simp] theorem State.withTierPoison_scus (s : State) (x) : (s.withTierPoison x).scus = s.scus := rfl
@[simp] theorem State.withTierPoison_reqs (s : State) (x) : (s.withTierPoison x).reqs = s.reqs := rfl
@[simp] theorem State.withTierPoison_links (s : State) (x) : (s.withTierPoison x).links = s.links := rfl
@[simp] theorem State.withTierPoison_landing (s : State) (x) : (s.withTierPoison x).landing = s.landing := rfl
@[simp] theorem State.withTierPoison_groups (s : State) (x) : (s.withTierPoison x).groups = s.groups := rfl
@[simp] theorem State.withTierPoison_mirror (s : State) (x) : (s.withTierPoison x).mirror = s.mirror := rfl
@[simp] theorem State.withTierPoison_integ (s : State) (x) : (s.withTierPoison x).integ = s.integ := rfl
@[simp] theorem State.withTierPoison_fw (s : State) (x) : (s.withTierPoison x).fw = s.fw := rfl
@[simp] theorem State.withTierPoison_keep (s : State) (x) : (s.withTierPoison x).keep = s.keep := rfl
@[simp] theorem State.withTierPoison_power (s : State) (x) : (s.withTierPoison x).power = s.power := rfl
@[simp] theorem State.withTierPoison_boot (s : State) (x) : (s.withTierPoison x).boot = s.boot := rfl
@[simp] theorem State.withTierPoison_halt (s : State) (x) : (s.withTierPoison x).halt = s.halt := rfl
@[simp] theorem State.withTierPoison_tap (s : State) (x) : (s.withTierPoison x).tap = s.tap := rfl
@[simp] theorem State.withTierPoison_host (s : State) (x) : (s.withTierPoison x).host = s.host := rfl
@[simp] theorem State.withTierPoison_turns (s : State) (x) : (s.withTierPoison x).turns = s.turns := rfl
@[simp] theorem State.withTierPoison_hamper (s : State) (x) : (s.withTierPoison x).hamper = s.hamper := rfl
@[simp] theorem State.withTierPoison_self (s : State) : s.withTierPoison s.tierPoison = s := rfl
@[simp] theorem State.withTierPoison_withTierPoison_twice (s : State) (x y) : (s.withTierPoison x).withTierPoison y = s.withTierPoison y := rfl

/-! ### withChans -/

@[simp] theorem State.withChans_pending (s : State) (x) : (s.withChans x).pending = s.pending := rfl
@[simp] theorem State.withChans_free (s : State) (x) : (s.withChans x).free = s.free := rfl
@[simp] theorem State.withChans_time (s : State) (x) : (s.withChans x).time = s.time := rfl
@[simp] theorem State.withChans_regs (s : State) (x) : (s.withChans x).regs = s.regs := rfl
@[simp] theorem State.withChans_clusters (s : State) (x) : (s.withChans x).clusters = s.clusters := rfl
@[simp] theorem State.withChans_flags (s : State) (x) : (s.withChans x).flags = s.flags := rfl
@[simp] theorem State.withChans_stackMem (s : State) (x) : (s.withChans x).stackMem = s.stackMem := rfl
@[simp] theorem State.withChans_caseMem (s : State) (x) : (s.withChans x).caseMem = s.caseMem := rfl
@[simp] theorem State.withChans_hostMem (s : State) (x) : (s.withChans x).hostMem = s.hostMem := rfl
@[simp] theorem State.withChans_tierMem (s : State) (x) : (s.withChans x).tierMem = s.tierMem := rfl
@[simp] theorem State.withChans_tierPoison (s : State) (x) : (s.withChans x).tierPoison = s.tierPoison := rfl
@[simp] theorem State.withChans_chans (s : State) (x) : (s.withChans x).chans = x := rfl
@[simp] theorem State.withChans_dieClks (s : State) (x) : (s.withChans x).dieClks = s.dieClks := rfl
@[simp] theorem State.withChans_parts (s : State) (x) : (s.withChans x).parts = s.parts := rfl
@[simp] theorem State.withChans_scus (s : State) (x) : (s.withChans x).scus = s.scus := rfl
@[simp] theorem State.withChans_reqs (s : State) (x) : (s.withChans x).reqs = s.reqs := rfl
@[simp] theorem State.withChans_links (s : State) (x) : (s.withChans x).links = s.links := rfl
@[simp] theorem State.withChans_landing (s : State) (x) : (s.withChans x).landing = s.landing := rfl
@[simp] theorem State.withChans_groups (s : State) (x) : (s.withChans x).groups = s.groups := rfl
@[simp] theorem State.withChans_mirror (s : State) (x) : (s.withChans x).mirror = s.mirror := rfl
@[simp] theorem State.withChans_integ (s : State) (x) : (s.withChans x).integ = s.integ := rfl
@[simp] theorem State.withChans_fw (s : State) (x) : (s.withChans x).fw = s.fw := rfl
@[simp] theorem State.withChans_keep (s : State) (x) : (s.withChans x).keep = s.keep := rfl
@[simp] theorem State.withChans_power (s : State) (x) : (s.withChans x).power = s.power := rfl
@[simp] theorem State.withChans_boot (s : State) (x) : (s.withChans x).boot = s.boot := rfl
@[simp] theorem State.withChans_halt (s : State) (x) : (s.withChans x).halt = s.halt := rfl
@[simp] theorem State.withChans_tap (s : State) (x) : (s.withChans x).tap = s.tap := rfl
@[simp] theorem State.withChans_host (s : State) (x) : (s.withChans x).host = s.host := rfl
@[simp] theorem State.withChans_turns (s : State) (x) : (s.withChans x).turns = s.turns := rfl
@[simp] theorem State.withChans_hamper (s : State) (x) : (s.withChans x).hamper = s.hamper := rfl
@[simp] theorem State.withChans_self (s : State) : s.withChans s.chans = s := rfl
@[simp] theorem State.withChans_withChans_twice (s : State) (x y) : (s.withChans x).withChans y = s.withChans y := rfl

/-! ### withDieClks -/

@[simp] theorem State.withDieClks_pending (s : State) (x) : (s.withDieClks x).pending = s.pending := rfl
@[simp] theorem State.withDieClks_free (s : State) (x) : (s.withDieClks x).free = s.free := rfl
@[simp] theorem State.withDieClks_time (s : State) (x) : (s.withDieClks x).time = s.time := rfl
@[simp] theorem State.withDieClks_regs (s : State) (x) : (s.withDieClks x).regs = s.regs := rfl
@[simp] theorem State.withDieClks_clusters (s : State) (x) : (s.withDieClks x).clusters = s.clusters := rfl
@[simp] theorem State.withDieClks_flags (s : State) (x) : (s.withDieClks x).flags = s.flags := rfl
@[simp] theorem State.withDieClks_stackMem (s : State) (x) : (s.withDieClks x).stackMem = s.stackMem := rfl
@[simp] theorem State.withDieClks_caseMem (s : State) (x) : (s.withDieClks x).caseMem = s.caseMem := rfl
@[simp] theorem State.withDieClks_hostMem (s : State) (x) : (s.withDieClks x).hostMem = s.hostMem := rfl
@[simp] theorem State.withDieClks_tierMem (s : State) (x) : (s.withDieClks x).tierMem = s.tierMem := rfl
@[simp] theorem State.withDieClks_tierPoison (s : State) (x) : (s.withDieClks x).tierPoison = s.tierPoison := rfl
@[simp] theorem State.withDieClks_chans (s : State) (x) : (s.withDieClks x).chans = s.chans := rfl
@[simp] theorem State.withDieClks_dieClks (s : State) (x) : (s.withDieClks x).dieClks = x := rfl
@[simp] theorem State.withDieClks_parts (s : State) (x) : (s.withDieClks x).parts = s.parts := rfl
@[simp] theorem State.withDieClks_scus (s : State) (x) : (s.withDieClks x).scus = s.scus := rfl
@[simp] theorem State.withDieClks_reqs (s : State) (x) : (s.withDieClks x).reqs = s.reqs := rfl
@[simp] theorem State.withDieClks_links (s : State) (x) : (s.withDieClks x).links = s.links := rfl
@[simp] theorem State.withDieClks_landing (s : State) (x) : (s.withDieClks x).landing = s.landing := rfl
@[simp] theorem State.withDieClks_groups (s : State) (x) : (s.withDieClks x).groups = s.groups := rfl
@[simp] theorem State.withDieClks_mirror (s : State) (x) : (s.withDieClks x).mirror = s.mirror := rfl
@[simp] theorem State.withDieClks_integ (s : State) (x) : (s.withDieClks x).integ = s.integ := rfl
@[simp] theorem State.withDieClks_fw (s : State) (x) : (s.withDieClks x).fw = s.fw := rfl
@[simp] theorem State.withDieClks_keep (s : State) (x) : (s.withDieClks x).keep = s.keep := rfl
@[simp] theorem State.withDieClks_power (s : State) (x) : (s.withDieClks x).power = s.power := rfl
@[simp] theorem State.withDieClks_boot (s : State) (x) : (s.withDieClks x).boot = s.boot := rfl
@[simp] theorem State.withDieClks_halt (s : State) (x) : (s.withDieClks x).halt = s.halt := rfl
@[simp] theorem State.withDieClks_tap (s : State) (x) : (s.withDieClks x).tap = s.tap := rfl
@[simp] theorem State.withDieClks_host (s : State) (x) : (s.withDieClks x).host = s.host := rfl
@[simp] theorem State.withDieClks_turns (s : State) (x) : (s.withDieClks x).turns = s.turns := rfl
@[simp] theorem State.withDieClks_hamper (s : State) (x) : (s.withDieClks x).hamper = s.hamper := rfl
@[simp] theorem State.withDieClks_self (s : State) : s.withDieClks s.dieClks = s := rfl
@[simp] theorem State.withDieClks_withDieClks_twice (s : State) (x y) : (s.withDieClks x).withDieClks y = s.withDieClks y := rfl

/-! ### withParts -/

@[simp] theorem State.withParts_pending (s : State) (x) : (s.withParts x).pending = s.pending := rfl
@[simp] theorem State.withParts_free (s : State) (x) : (s.withParts x).free = s.free := rfl
@[simp] theorem State.withParts_time (s : State) (x) : (s.withParts x).time = s.time := rfl
@[simp] theorem State.withParts_regs (s : State) (x) : (s.withParts x).regs = s.regs := rfl
@[simp] theorem State.withParts_clusters (s : State) (x) : (s.withParts x).clusters = s.clusters := rfl
@[simp] theorem State.withParts_flags (s : State) (x) : (s.withParts x).flags = s.flags := rfl
@[simp] theorem State.withParts_stackMem (s : State) (x) : (s.withParts x).stackMem = s.stackMem := rfl
@[simp] theorem State.withParts_caseMem (s : State) (x) : (s.withParts x).caseMem = s.caseMem := rfl
@[simp] theorem State.withParts_hostMem (s : State) (x) : (s.withParts x).hostMem = s.hostMem := rfl
@[simp] theorem State.withParts_tierMem (s : State) (x) : (s.withParts x).tierMem = s.tierMem := rfl
@[simp] theorem State.withParts_tierPoison (s : State) (x) : (s.withParts x).tierPoison = s.tierPoison := rfl
@[simp] theorem State.withParts_chans (s : State) (x) : (s.withParts x).chans = s.chans := rfl
@[simp] theorem State.withParts_dieClks (s : State) (x) : (s.withParts x).dieClks = s.dieClks := rfl
@[simp] theorem State.withParts_parts (s : State) (x) : (s.withParts x).parts = x := rfl
@[simp] theorem State.withParts_scus (s : State) (x) : (s.withParts x).scus = s.scus := rfl
@[simp] theorem State.withParts_reqs (s : State) (x) : (s.withParts x).reqs = s.reqs := rfl
@[simp] theorem State.withParts_links (s : State) (x) : (s.withParts x).links = s.links := rfl
@[simp] theorem State.withParts_landing (s : State) (x) : (s.withParts x).landing = s.landing := rfl
@[simp] theorem State.withParts_groups (s : State) (x) : (s.withParts x).groups = s.groups := rfl
@[simp] theorem State.withParts_mirror (s : State) (x) : (s.withParts x).mirror = s.mirror := rfl
@[simp] theorem State.withParts_integ (s : State) (x) : (s.withParts x).integ = s.integ := rfl
@[simp] theorem State.withParts_fw (s : State) (x) : (s.withParts x).fw = s.fw := rfl
@[simp] theorem State.withParts_keep (s : State) (x) : (s.withParts x).keep = s.keep := rfl
@[simp] theorem State.withParts_power (s : State) (x) : (s.withParts x).power = s.power := rfl
@[simp] theorem State.withParts_boot (s : State) (x) : (s.withParts x).boot = s.boot := rfl
@[simp] theorem State.withParts_halt (s : State) (x) : (s.withParts x).halt = s.halt := rfl
@[simp] theorem State.withParts_tap (s : State) (x) : (s.withParts x).tap = s.tap := rfl
@[simp] theorem State.withParts_host (s : State) (x) : (s.withParts x).host = s.host := rfl
@[simp] theorem State.withParts_turns (s : State) (x) : (s.withParts x).turns = s.turns := rfl
@[simp] theorem State.withParts_hamper (s : State) (x) : (s.withParts x).hamper = s.hamper := rfl
@[simp] theorem State.withParts_self (s : State) : s.withParts s.parts = s := rfl
@[simp] theorem State.withParts_withParts_twice (s : State) (x y) : (s.withParts x).withParts y = s.withParts y := rfl

/-! ### withScus -/

@[simp] theorem State.withScus_pending (s : State) (x) : (s.withScus x).pending = s.pending := rfl
@[simp] theorem State.withScus_free (s : State) (x) : (s.withScus x).free = s.free := rfl
@[simp] theorem State.withScus_time (s : State) (x) : (s.withScus x).time = s.time := rfl
@[simp] theorem State.withScus_regs (s : State) (x) : (s.withScus x).regs = s.regs := rfl
@[simp] theorem State.withScus_clusters (s : State) (x) : (s.withScus x).clusters = s.clusters := rfl
@[simp] theorem State.withScus_flags (s : State) (x) : (s.withScus x).flags = s.flags := rfl
@[simp] theorem State.withScus_stackMem (s : State) (x) : (s.withScus x).stackMem = s.stackMem := rfl
@[simp] theorem State.withScus_caseMem (s : State) (x) : (s.withScus x).caseMem = s.caseMem := rfl
@[simp] theorem State.withScus_hostMem (s : State) (x) : (s.withScus x).hostMem = s.hostMem := rfl
@[simp] theorem State.withScus_tierMem (s : State) (x) : (s.withScus x).tierMem = s.tierMem := rfl
@[simp] theorem State.withScus_tierPoison (s : State) (x) : (s.withScus x).tierPoison = s.tierPoison := rfl
@[simp] theorem State.withScus_chans (s : State) (x) : (s.withScus x).chans = s.chans := rfl
@[simp] theorem State.withScus_dieClks (s : State) (x) : (s.withScus x).dieClks = s.dieClks := rfl
@[simp] theorem State.withScus_parts (s : State) (x) : (s.withScus x).parts = s.parts := rfl
@[simp] theorem State.withScus_scus (s : State) (x) : (s.withScus x).scus = x := rfl
@[simp] theorem State.withScus_reqs (s : State) (x) : (s.withScus x).reqs = s.reqs := rfl
@[simp] theorem State.withScus_links (s : State) (x) : (s.withScus x).links = s.links := rfl
@[simp] theorem State.withScus_landing (s : State) (x) : (s.withScus x).landing = s.landing := rfl
@[simp] theorem State.withScus_groups (s : State) (x) : (s.withScus x).groups = s.groups := rfl
@[simp] theorem State.withScus_mirror (s : State) (x) : (s.withScus x).mirror = s.mirror := rfl
@[simp] theorem State.withScus_integ (s : State) (x) : (s.withScus x).integ = s.integ := rfl
@[simp] theorem State.withScus_fw (s : State) (x) : (s.withScus x).fw = s.fw := rfl
@[simp] theorem State.withScus_keep (s : State) (x) : (s.withScus x).keep = s.keep := rfl
@[simp] theorem State.withScus_power (s : State) (x) : (s.withScus x).power = s.power := rfl
@[simp] theorem State.withScus_boot (s : State) (x) : (s.withScus x).boot = s.boot := rfl
@[simp] theorem State.withScus_halt (s : State) (x) : (s.withScus x).halt = s.halt := rfl
@[simp] theorem State.withScus_tap (s : State) (x) : (s.withScus x).tap = s.tap := rfl
@[simp] theorem State.withScus_host (s : State) (x) : (s.withScus x).host = s.host := rfl
@[simp] theorem State.withScus_turns (s : State) (x) : (s.withScus x).turns = s.turns := rfl
@[simp] theorem State.withScus_hamper (s : State) (x) : (s.withScus x).hamper = s.hamper := rfl
@[simp] theorem State.withScus_self (s : State) : s.withScus s.scus = s := rfl
@[simp] theorem State.withScus_withScus_twice (s : State) (x y) : (s.withScus x).withScus y = s.withScus y := rfl

/-! ### withReqs -/

@[simp] theorem State.withReqs_pending (s : State) (x) : (s.withReqs x).pending = s.pending := rfl
@[simp] theorem State.withReqs_free (s : State) (x) : (s.withReqs x).free = s.free := rfl
@[simp] theorem State.withReqs_time (s : State) (x) : (s.withReqs x).time = s.time := rfl
@[simp] theorem State.withReqs_regs (s : State) (x) : (s.withReqs x).regs = s.regs := rfl
@[simp] theorem State.withReqs_clusters (s : State) (x) : (s.withReqs x).clusters = s.clusters := rfl
@[simp] theorem State.withReqs_flags (s : State) (x) : (s.withReqs x).flags = s.flags := rfl
@[simp] theorem State.withReqs_stackMem (s : State) (x) : (s.withReqs x).stackMem = s.stackMem := rfl
@[simp] theorem State.withReqs_caseMem (s : State) (x) : (s.withReqs x).caseMem = s.caseMem := rfl
@[simp] theorem State.withReqs_hostMem (s : State) (x) : (s.withReqs x).hostMem = s.hostMem := rfl
@[simp] theorem State.withReqs_tierMem (s : State) (x) : (s.withReqs x).tierMem = s.tierMem := rfl
@[simp] theorem State.withReqs_tierPoison (s : State) (x) : (s.withReqs x).tierPoison = s.tierPoison := rfl
@[simp] theorem State.withReqs_chans (s : State) (x) : (s.withReqs x).chans = s.chans := rfl
@[simp] theorem State.withReqs_dieClks (s : State) (x) : (s.withReqs x).dieClks = s.dieClks := rfl
@[simp] theorem State.withReqs_parts (s : State) (x) : (s.withReqs x).parts = s.parts := rfl
@[simp] theorem State.withReqs_scus (s : State) (x) : (s.withReqs x).scus = s.scus := rfl
@[simp] theorem State.withReqs_reqs (s : State) (x) : (s.withReqs x).reqs = x := rfl
@[simp] theorem State.withReqs_links (s : State) (x) : (s.withReqs x).links = s.links := rfl
@[simp] theorem State.withReqs_landing (s : State) (x) : (s.withReqs x).landing = s.landing := rfl
@[simp] theorem State.withReqs_groups (s : State) (x) : (s.withReqs x).groups = s.groups := rfl
@[simp] theorem State.withReqs_mirror (s : State) (x) : (s.withReqs x).mirror = s.mirror := rfl
@[simp] theorem State.withReqs_integ (s : State) (x) : (s.withReqs x).integ = s.integ := rfl
@[simp] theorem State.withReqs_fw (s : State) (x) : (s.withReqs x).fw = s.fw := rfl
@[simp] theorem State.withReqs_keep (s : State) (x) : (s.withReqs x).keep = s.keep := rfl
@[simp] theorem State.withReqs_power (s : State) (x) : (s.withReqs x).power = s.power := rfl
@[simp] theorem State.withReqs_boot (s : State) (x) : (s.withReqs x).boot = s.boot := rfl
@[simp] theorem State.withReqs_halt (s : State) (x) : (s.withReqs x).halt = s.halt := rfl
@[simp] theorem State.withReqs_tap (s : State) (x) : (s.withReqs x).tap = s.tap := rfl
@[simp] theorem State.withReqs_host (s : State) (x) : (s.withReqs x).host = s.host := rfl
@[simp] theorem State.withReqs_turns (s : State) (x) : (s.withReqs x).turns = s.turns := rfl
@[simp] theorem State.withReqs_hamper (s : State) (x) : (s.withReqs x).hamper = s.hamper := rfl
@[simp] theorem State.withReqs_self (s : State) : s.withReqs s.reqs = s := rfl
@[simp] theorem State.withReqs_withReqs_twice (s : State) (x y) : (s.withReqs x).withReqs y = s.withReqs y := rfl

/-! ### withLinks -/

@[simp] theorem State.withLinks_pending (s : State) (x) : (s.withLinks x).pending = s.pending := rfl
@[simp] theorem State.withLinks_free (s : State) (x) : (s.withLinks x).free = s.free := rfl
@[simp] theorem State.withLinks_time (s : State) (x) : (s.withLinks x).time = s.time := rfl
@[simp] theorem State.withLinks_regs (s : State) (x) : (s.withLinks x).regs = s.regs := rfl
@[simp] theorem State.withLinks_clusters (s : State) (x) : (s.withLinks x).clusters = s.clusters := rfl
@[simp] theorem State.withLinks_flags (s : State) (x) : (s.withLinks x).flags = s.flags := rfl
@[simp] theorem State.withLinks_stackMem (s : State) (x) : (s.withLinks x).stackMem = s.stackMem := rfl
@[simp] theorem State.withLinks_caseMem (s : State) (x) : (s.withLinks x).caseMem = s.caseMem := rfl
@[simp] theorem State.withLinks_hostMem (s : State) (x) : (s.withLinks x).hostMem = s.hostMem := rfl
@[simp] theorem State.withLinks_tierMem (s : State) (x) : (s.withLinks x).tierMem = s.tierMem := rfl
@[simp] theorem State.withLinks_tierPoison (s : State) (x) : (s.withLinks x).tierPoison = s.tierPoison := rfl
@[simp] theorem State.withLinks_chans (s : State) (x) : (s.withLinks x).chans = s.chans := rfl
@[simp] theorem State.withLinks_dieClks (s : State) (x) : (s.withLinks x).dieClks = s.dieClks := rfl
@[simp] theorem State.withLinks_parts (s : State) (x) : (s.withLinks x).parts = s.parts := rfl
@[simp] theorem State.withLinks_scus (s : State) (x) : (s.withLinks x).scus = s.scus := rfl
@[simp] theorem State.withLinks_reqs (s : State) (x) : (s.withLinks x).reqs = s.reqs := rfl
@[simp] theorem State.withLinks_links (s : State) (x) : (s.withLinks x).links = x := rfl
@[simp] theorem State.withLinks_landing (s : State) (x) : (s.withLinks x).landing = s.landing := rfl
@[simp] theorem State.withLinks_groups (s : State) (x) : (s.withLinks x).groups = s.groups := rfl
@[simp] theorem State.withLinks_mirror (s : State) (x) : (s.withLinks x).mirror = s.mirror := rfl
@[simp] theorem State.withLinks_integ (s : State) (x) : (s.withLinks x).integ = s.integ := rfl
@[simp] theorem State.withLinks_fw (s : State) (x) : (s.withLinks x).fw = s.fw := rfl
@[simp] theorem State.withLinks_keep (s : State) (x) : (s.withLinks x).keep = s.keep := rfl
@[simp] theorem State.withLinks_power (s : State) (x) : (s.withLinks x).power = s.power := rfl
@[simp] theorem State.withLinks_boot (s : State) (x) : (s.withLinks x).boot = s.boot := rfl
@[simp] theorem State.withLinks_halt (s : State) (x) : (s.withLinks x).halt = s.halt := rfl
@[simp] theorem State.withLinks_tap (s : State) (x) : (s.withLinks x).tap = s.tap := rfl
@[simp] theorem State.withLinks_host (s : State) (x) : (s.withLinks x).host = s.host := rfl
@[simp] theorem State.withLinks_turns (s : State) (x) : (s.withLinks x).turns = s.turns := rfl
@[simp] theorem State.withLinks_hamper (s : State) (x) : (s.withLinks x).hamper = s.hamper := rfl
@[simp] theorem State.withLinks_self (s : State) : s.withLinks s.links = s := rfl
@[simp] theorem State.withLinks_withLinks_twice (s : State) (x y) : (s.withLinks x).withLinks y = s.withLinks y := rfl

/-! ### withLanding -/

@[simp] theorem State.withLanding_pending (s : State) (x) : (s.withLanding x).pending = s.pending := rfl
@[simp] theorem State.withLanding_free (s : State) (x) : (s.withLanding x).free = s.free := rfl
@[simp] theorem State.withLanding_time (s : State) (x) : (s.withLanding x).time = s.time := rfl
@[simp] theorem State.withLanding_regs (s : State) (x) : (s.withLanding x).regs = s.regs := rfl
@[simp] theorem State.withLanding_clusters (s : State) (x) : (s.withLanding x).clusters = s.clusters := rfl
@[simp] theorem State.withLanding_flags (s : State) (x) : (s.withLanding x).flags = s.flags := rfl
@[simp] theorem State.withLanding_stackMem (s : State) (x) : (s.withLanding x).stackMem = s.stackMem := rfl
@[simp] theorem State.withLanding_caseMem (s : State) (x) : (s.withLanding x).caseMem = s.caseMem := rfl
@[simp] theorem State.withLanding_hostMem (s : State) (x) : (s.withLanding x).hostMem = s.hostMem := rfl
@[simp] theorem State.withLanding_tierMem (s : State) (x) : (s.withLanding x).tierMem = s.tierMem := rfl
@[simp] theorem State.withLanding_tierPoison (s : State) (x) : (s.withLanding x).tierPoison = s.tierPoison := rfl
@[simp] theorem State.withLanding_chans (s : State) (x) : (s.withLanding x).chans = s.chans := rfl
@[simp] theorem State.withLanding_dieClks (s : State) (x) : (s.withLanding x).dieClks = s.dieClks := rfl
@[simp] theorem State.withLanding_parts (s : State) (x) : (s.withLanding x).parts = s.parts := rfl
@[simp] theorem State.withLanding_scus (s : State) (x) : (s.withLanding x).scus = s.scus := rfl
@[simp] theorem State.withLanding_reqs (s : State) (x) : (s.withLanding x).reqs = s.reqs := rfl
@[simp] theorem State.withLanding_links (s : State) (x) : (s.withLanding x).links = s.links := rfl
@[simp] theorem State.withLanding_landing (s : State) (x) : (s.withLanding x).landing = x := rfl
@[simp] theorem State.withLanding_groups (s : State) (x) : (s.withLanding x).groups = s.groups := rfl
@[simp] theorem State.withLanding_mirror (s : State) (x) : (s.withLanding x).mirror = s.mirror := rfl
@[simp] theorem State.withLanding_integ (s : State) (x) : (s.withLanding x).integ = s.integ := rfl
@[simp] theorem State.withLanding_fw (s : State) (x) : (s.withLanding x).fw = s.fw := rfl
@[simp] theorem State.withLanding_keep (s : State) (x) : (s.withLanding x).keep = s.keep := rfl
@[simp] theorem State.withLanding_power (s : State) (x) : (s.withLanding x).power = s.power := rfl
@[simp] theorem State.withLanding_boot (s : State) (x) : (s.withLanding x).boot = s.boot := rfl
@[simp] theorem State.withLanding_halt (s : State) (x) : (s.withLanding x).halt = s.halt := rfl
@[simp] theorem State.withLanding_tap (s : State) (x) : (s.withLanding x).tap = s.tap := rfl
@[simp] theorem State.withLanding_host (s : State) (x) : (s.withLanding x).host = s.host := rfl
@[simp] theorem State.withLanding_turns (s : State) (x) : (s.withLanding x).turns = s.turns := rfl
@[simp] theorem State.withLanding_hamper (s : State) (x) : (s.withLanding x).hamper = s.hamper := rfl
@[simp] theorem State.withLanding_self (s : State) : s.withLanding s.landing = s := rfl
@[simp] theorem State.withLanding_withLanding_twice (s : State) (x y) : (s.withLanding x).withLanding y = s.withLanding y := rfl

/-! ### withGroups -/

@[simp] theorem State.withGroups_pending (s : State) (x) : (s.withGroups x).pending = s.pending := rfl
@[simp] theorem State.withGroups_free (s : State) (x) : (s.withGroups x).free = s.free := rfl
@[simp] theorem State.withGroups_time (s : State) (x) : (s.withGroups x).time = s.time := rfl
@[simp] theorem State.withGroups_regs (s : State) (x) : (s.withGroups x).regs = s.regs := rfl
@[simp] theorem State.withGroups_clusters (s : State) (x) : (s.withGroups x).clusters = s.clusters := rfl
@[simp] theorem State.withGroups_flags (s : State) (x) : (s.withGroups x).flags = s.flags := rfl
@[simp] theorem State.withGroups_stackMem (s : State) (x) : (s.withGroups x).stackMem = s.stackMem := rfl
@[simp] theorem State.withGroups_caseMem (s : State) (x) : (s.withGroups x).caseMem = s.caseMem := rfl
@[simp] theorem State.withGroups_hostMem (s : State) (x) : (s.withGroups x).hostMem = s.hostMem := rfl
@[simp] theorem State.withGroups_tierMem (s : State) (x) : (s.withGroups x).tierMem = s.tierMem := rfl
@[simp] theorem State.withGroups_tierPoison (s : State) (x) : (s.withGroups x).tierPoison = s.tierPoison := rfl
@[simp] theorem State.withGroups_chans (s : State) (x) : (s.withGroups x).chans = s.chans := rfl
@[simp] theorem State.withGroups_dieClks (s : State) (x) : (s.withGroups x).dieClks = s.dieClks := rfl
@[simp] theorem State.withGroups_parts (s : State) (x) : (s.withGroups x).parts = s.parts := rfl
@[simp] theorem State.withGroups_scus (s : State) (x) : (s.withGroups x).scus = s.scus := rfl
@[simp] theorem State.withGroups_reqs (s : State) (x) : (s.withGroups x).reqs = s.reqs := rfl
@[simp] theorem State.withGroups_links (s : State) (x) : (s.withGroups x).links = s.links := rfl
@[simp] theorem State.withGroups_landing (s : State) (x) : (s.withGroups x).landing = s.landing := rfl
@[simp] theorem State.withGroups_groups (s : State) (x) : (s.withGroups x).groups = x := rfl
@[simp] theorem State.withGroups_mirror (s : State) (x) : (s.withGroups x).mirror = s.mirror := rfl
@[simp] theorem State.withGroups_integ (s : State) (x) : (s.withGroups x).integ = s.integ := rfl
@[simp] theorem State.withGroups_fw (s : State) (x) : (s.withGroups x).fw = s.fw := rfl
@[simp] theorem State.withGroups_keep (s : State) (x) : (s.withGroups x).keep = s.keep := rfl
@[simp] theorem State.withGroups_power (s : State) (x) : (s.withGroups x).power = s.power := rfl
@[simp] theorem State.withGroups_boot (s : State) (x) : (s.withGroups x).boot = s.boot := rfl
@[simp] theorem State.withGroups_halt (s : State) (x) : (s.withGroups x).halt = s.halt := rfl
@[simp] theorem State.withGroups_tap (s : State) (x) : (s.withGroups x).tap = s.tap := rfl
@[simp] theorem State.withGroups_host (s : State) (x) : (s.withGroups x).host = s.host := rfl
@[simp] theorem State.withGroups_turns (s : State) (x) : (s.withGroups x).turns = s.turns := rfl
@[simp] theorem State.withGroups_hamper (s : State) (x) : (s.withGroups x).hamper = s.hamper := rfl
@[simp] theorem State.withGroups_self (s : State) : s.withGroups s.groups = s := rfl
@[simp] theorem State.withGroups_withGroups_twice (s : State) (x y) : (s.withGroups x).withGroups y = s.withGroups y := rfl

/-! ### withMirror -/

@[simp] theorem State.withMirror_pending (s : State) (x) : (s.withMirror x).pending = s.pending := rfl
@[simp] theorem State.withMirror_free (s : State) (x) : (s.withMirror x).free = s.free := rfl
@[simp] theorem State.withMirror_time (s : State) (x) : (s.withMirror x).time = s.time := rfl
@[simp] theorem State.withMirror_regs (s : State) (x) : (s.withMirror x).regs = s.regs := rfl
@[simp] theorem State.withMirror_clusters (s : State) (x) : (s.withMirror x).clusters = s.clusters := rfl
@[simp] theorem State.withMirror_flags (s : State) (x) : (s.withMirror x).flags = s.flags := rfl
@[simp] theorem State.withMirror_stackMem (s : State) (x) : (s.withMirror x).stackMem = s.stackMem := rfl
@[simp] theorem State.withMirror_caseMem (s : State) (x) : (s.withMirror x).caseMem = s.caseMem := rfl
@[simp] theorem State.withMirror_hostMem (s : State) (x) : (s.withMirror x).hostMem = s.hostMem := rfl
@[simp] theorem State.withMirror_tierMem (s : State) (x) : (s.withMirror x).tierMem = s.tierMem := rfl
@[simp] theorem State.withMirror_tierPoison (s : State) (x) : (s.withMirror x).tierPoison = s.tierPoison := rfl
@[simp] theorem State.withMirror_chans (s : State) (x) : (s.withMirror x).chans = s.chans := rfl
@[simp] theorem State.withMirror_dieClks (s : State) (x) : (s.withMirror x).dieClks = s.dieClks := rfl
@[simp] theorem State.withMirror_parts (s : State) (x) : (s.withMirror x).parts = s.parts := rfl
@[simp] theorem State.withMirror_scus (s : State) (x) : (s.withMirror x).scus = s.scus := rfl
@[simp] theorem State.withMirror_reqs (s : State) (x) : (s.withMirror x).reqs = s.reqs := rfl
@[simp] theorem State.withMirror_links (s : State) (x) : (s.withMirror x).links = s.links := rfl
@[simp] theorem State.withMirror_landing (s : State) (x) : (s.withMirror x).landing = s.landing := rfl
@[simp] theorem State.withMirror_groups (s : State) (x) : (s.withMirror x).groups = s.groups := rfl
@[simp] theorem State.withMirror_mirror (s : State) (x) : (s.withMirror x).mirror = x := rfl
@[simp] theorem State.withMirror_integ (s : State) (x) : (s.withMirror x).integ = s.integ := rfl
@[simp] theorem State.withMirror_fw (s : State) (x) : (s.withMirror x).fw = s.fw := rfl
@[simp] theorem State.withMirror_keep (s : State) (x) : (s.withMirror x).keep = s.keep := rfl
@[simp] theorem State.withMirror_power (s : State) (x) : (s.withMirror x).power = s.power := rfl
@[simp] theorem State.withMirror_boot (s : State) (x) : (s.withMirror x).boot = s.boot := rfl
@[simp] theorem State.withMirror_halt (s : State) (x) : (s.withMirror x).halt = s.halt := rfl
@[simp] theorem State.withMirror_tap (s : State) (x) : (s.withMirror x).tap = s.tap := rfl
@[simp] theorem State.withMirror_host (s : State) (x) : (s.withMirror x).host = s.host := rfl
@[simp] theorem State.withMirror_turns (s : State) (x) : (s.withMirror x).turns = s.turns := rfl
@[simp] theorem State.withMirror_hamper (s : State) (x) : (s.withMirror x).hamper = s.hamper := rfl
@[simp] theorem State.withMirror_self (s : State) : s.withMirror s.mirror = s := rfl
@[simp] theorem State.withMirror_withMirror_twice (s : State) (x y) : (s.withMirror x).withMirror y = s.withMirror y := rfl

/-! ### withInteg -/

@[simp] theorem State.withInteg_pending (s : State) (x) : (s.withInteg x).pending = s.pending := rfl
@[simp] theorem State.withInteg_free (s : State) (x) : (s.withInteg x).free = s.free := rfl
@[simp] theorem State.withInteg_time (s : State) (x) : (s.withInteg x).time = s.time := rfl
@[simp] theorem State.withInteg_regs (s : State) (x) : (s.withInteg x).regs = s.regs := rfl
@[simp] theorem State.withInteg_clusters (s : State) (x) : (s.withInteg x).clusters = s.clusters := rfl
@[simp] theorem State.withInteg_flags (s : State) (x) : (s.withInteg x).flags = s.flags := rfl
@[simp] theorem State.withInteg_stackMem (s : State) (x) : (s.withInteg x).stackMem = s.stackMem := rfl
@[simp] theorem State.withInteg_caseMem (s : State) (x) : (s.withInteg x).caseMem = s.caseMem := rfl
@[simp] theorem State.withInteg_hostMem (s : State) (x) : (s.withInteg x).hostMem = s.hostMem := rfl
@[simp] theorem State.withInteg_tierMem (s : State) (x) : (s.withInteg x).tierMem = s.tierMem := rfl
@[simp] theorem State.withInteg_tierPoison (s : State) (x) : (s.withInteg x).tierPoison = s.tierPoison := rfl
@[simp] theorem State.withInteg_chans (s : State) (x) : (s.withInteg x).chans = s.chans := rfl
@[simp] theorem State.withInteg_dieClks (s : State) (x) : (s.withInteg x).dieClks = s.dieClks := rfl
@[simp] theorem State.withInteg_parts (s : State) (x) : (s.withInteg x).parts = s.parts := rfl
@[simp] theorem State.withInteg_scus (s : State) (x) : (s.withInteg x).scus = s.scus := rfl
@[simp] theorem State.withInteg_reqs (s : State) (x) : (s.withInteg x).reqs = s.reqs := rfl
@[simp] theorem State.withInteg_links (s : State) (x) : (s.withInteg x).links = s.links := rfl
@[simp] theorem State.withInteg_landing (s : State) (x) : (s.withInteg x).landing = s.landing := rfl
@[simp] theorem State.withInteg_groups (s : State) (x) : (s.withInteg x).groups = s.groups := rfl
@[simp] theorem State.withInteg_mirror (s : State) (x) : (s.withInteg x).mirror = s.mirror := rfl
@[simp] theorem State.withInteg_integ (s : State) (x) : (s.withInteg x).integ = x := rfl
@[simp] theorem State.withInteg_fw (s : State) (x) : (s.withInteg x).fw = s.fw := rfl
@[simp] theorem State.withInteg_keep (s : State) (x) : (s.withInteg x).keep = s.keep := rfl
@[simp] theorem State.withInteg_power (s : State) (x) : (s.withInteg x).power = s.power := rfl
@[simp] theorem State.withInteg_boot (s : State) (x) : (s.withInteg x).boot = s.boot := rfl
@[simp] theorem State.withInteg_halt (s : State) (x) : (s.withInteg x).halt = s.halt := rfl
@[simp] theorem State.withInteg_tap (s : State) (x) : (s.withInteg x).tap = s.tap := rfl
@[simp] theorem State.withInteg_host (s : State) (x) : (s.withInteg x).host = s.host := rfl
@[simp] theorem State.withInteg_turns (s : State) (x) : (s.withInteg x).turns = s.turns := rfl
@[simp] theorem State.withInteg_hamper (s : State) (x) : (s.withInteg x).hamper = s.hamper := rfl
@[simp] theorem State.withInteg_self (s : State) : s.withInteg s.integ = s := rfl
@[simp] theorem State.withInteg_withInteg_twice (s : State) (x y) : (s.withInteg x).withInteg y = s.withInteg y := rfl

/-! ### withFw -/

@[simp] theorem State.withFw_pending (s : State) (x) : (s.withFw x).pending = s.pending := rfl
@[simp] theorem State.withFw_free (s : State) (x) : (s.withFw x).free = s.free := rfl
@[simp] theorem State.withFw_time (s : State) (x) : (s.withFw x).time = s.time := rfl
@[simp] theorem State.withFw_regs (s : State) (x) : (s.withFw x).regs = s.regs := rfl
@[simp] theorem State.withFw_clusters (s : State) (x) : (s.withFw x).clusters = s.clusters := rfl
@[simp] theorem State.withFw_flags (s : State) (x) : (s.withFw x).flags = s.flags := rfl
@[simp] theorem State.withFw_stackMem (s : State) (x) : (s.withFw x).stackMem = s.stackMem := rfl
@[simp] theorem State.withFw_caseMem (s : State) (x) : (s.withFw x).caseMem = s.caseMem := rfl
@[simp] theorem State.withFw_hostMem (s : State) (x) : (s.withFw x).hostMem = s.hostMem := rfl
@[simp] theorem State.withFw_tierMem (s : State) (x) : (s.withFw x).tierMem = s.tierMem := rfl
@[simp] theorem State.withFw_tierPoison (s : State) (x) : (s.withFw x).tierPoison = s.tierPoison := rfl
@[simp] theorem State.withFw_chans (s : State) (x) : (s.withFw x).chans = s.chans := rfl
@[simp] theorem State.withFw_dieClks (s : State) (x) : (s.withFw x).dieClks = s.dieClks := rfl
@[simp] theorem State.withFw_parts (s : State) (x) : (s.withFw x).parts = s.parts := rfl
@[simp] theorem State.withFw_scus (s : State) (x) : (s.withFw x).scus = s.scus := rfl
@[simp] theorem State.withFw_reqs (s : State) (x) : (s.withFw x).reqs = s.reqs := rfl
@[simp] theorem State.withFw_links (s : State) (x) : (s.withFw x).links = s.links := rfl
@[simp] theorem State.withFw_landing (s : State) (x) : (s.withFw x).landing = s.landing := rfl
@[simp] theorem State.withFw_groups (s : State) (x) : (s.withFw x).groups = s.groups := rfl
@[simp] theorem State.withFw_mirror (s : State) (x) : (s.withFw x).mirror = s.mirror := rfl
@[simp] theorem State.withFw_integ (s : State) (x) : (s.withFw x).integ = s.integ := rfl
@[simp] theorem State.withFw_fw (s : State) (x) : (s.withFw x).fw = x := rfl
@[simp] theorem State.withFw_keep (s : State) (x) : (s.withFw x).keep = s.keep := rfl
@[simp] theorem State.withFw_power (s : State) (x) : (s.withFw x).power = s.power := rfl
@[simp] theorem State.withFw_boot (s : State) (x) : (s.withFw x).boot = s.boot := rfl
@[simp] theorem State.withFw_halt (s : State) (x) : (s.withFw x).halt = s.halt := rfl
@[simp] theorem State.withFw_tap (s : State) (x) : (s.withFw x).tap = s.tap := rfl
@[simp] theorem State.withFw_host (s : State) (x) : (s.withFw x).host = s.host := rfl
@[simp] theorem State.withFw_turns (s : State) (x) : (s.withFw x).turns = s.turns := rfl
@[simp] theorem State.withFw_hamper (s : State) (x) : (s.withFw x).hamper = s.hamper := rfl
@[simp] theorem State.withFw_self (s : State) : s.withFw s.fw = s := rfl
@[simp] theorem State.withFw_withFw_twice (s : State) (x y) : (s.withFw x).withFw y = s.withFw y := rfl

/-! ### withKeep -/

@[simp] theorem State.withKeep_pending (s : State) (x) : (s.withKeep x).pending = s.pending := rfl
@[simp] theorem State.withKeep_free (s : State) (x) : (s.withKeep x).free = s.free := rfl
@[simp] theorem State.withKeep_time (s : State) (x) : (s.withKeep x).time = s.time := rfl
@[simp] theorem State.withKeep_regs (s : State) (x) : (s.withKeep x).regs = s.regs := rfl
@[simp] theorem State.withKeep_clusters (s : State) (x) : (s.withKeep x).clusters = s.clusters := rfl
@[simp] theorem State.withKeep_flags (s : State) (x) : (s.withKeep x).flags = s.flags := rfl
@[simp] theorem State.withKeep_stackMem (s : State) (x) : (s.withKeep x).stackMem = s.stackMem := rfl
@[simp] theorem State.withKeep_caseMem (s : State) (x) : (s.withKeep x).caseMem = s.caseMem := rfl
@[simp] theorem State.withKeep_hostMem (s : State) (x) : (s.withKeep x).hostMem = s.hostMem := rfl
@[simp] theorem State.withKeep_tierMem (s : State) (x) : (s.withKeep x).tierMem = s.tierMem := rfl
@[simp] theorem State.withKeep_tierPoison (s : State) (x) : (s.withKeep x).tierPoison = s.tierPoison := rfl
@[simp] theorem State.withKeep_chans (s : State) (x) : (s.withKeep x).chans = s.chans := rfl
@[simp] theorem State.withKeep_dieClks (s : State) (x) : (s.withKeep x).dieClks = s.dieClks := rfl
@[simp] theorem State.withKeep_parts (s : State) (x) : (s.withKeep x).parts = s.parts := rfl
@[simp] theorem State.withKeep_scus (s : State) (x) : (s.withKeep x).scus = s.scus := rfl
@[simp] theorem State.withKeep_reqs (s : State) (x) : (s.withKeep x).reqs = s.reqs := rfl
@[simp] theorem State.withKeep_links (s : State) (x) : (s.withKeep x).links = s.links := rfl
@[simp] theorem State.withKeep_landing (s : State) (x) : (s.withKeep x).landing = s.landing := rfl
@[simp] theorem State.withKeep_groups (s : State) (x) : (s.withKeep x).groups = s.groups := rfl
@[simp] theorem State.withKeep_mirror (s : State) (x) : (s.withKeep x).mirror = s.mirror := rfl
@[simp] theorem State.withKeep_integ (s : State) (x) : (s.withKeep x).integ = s.integ := rfl
@[simp] theorem State.withKeep_fw (s : State) (x) : (s.withKeep x).fw = s.fw := rfl
@[simp] theorem State.withKeep_keep (s : State) (x) : (s.withKeep x).keep = x := rfl
@[simp] theorem State.withKeep_power (s : State) (x) : (s.withKeep x).power = s.power := rfl
@[simp] theorem State.withKeep_boot (s : State) (x) : (s.withKeep x).boot = s.boot := rfl
@[simp] theorem State.withKeep_halt (s : State) (x) : (s.withKeep x).halt = s.halt := rfl
@[simp] theorem State.withKeep_tap (s : State) (x) : (s.withKeep x).tap = s.tap := rfl
@[simp] theorem State.withKeep_host (s : State) (x) : (s.withKeep x).host = s.host := rfl
@[simp] theorem State.withKeep_turns (s : State) (x) : (s.withKeep x).turns = s.turns := rfl
@[simp] theorem State.withKeep_hamper (s : State) (x) : (s.withKeep x).hamper = s.hamper := rfl
@[simp] theorem State.withKeep_self (s : State) : s.withKeep s.keep = s := rfl
@[simp] theorem State.withKeep_withKeep_twice (s : State) (x y) : (s.withKeep x).withKeep y = s.withKeep y := rfl

/-! ### withPower -/

@[simp] theorem State.withPower_pending (s : State) (x) : (s.withPower x).pending = s.pending := rfl
@[simp] theorem State.withPower_free (s : State) (x) : (s.withPower x).free = s.free := rfl
@[simp] theorem State.withPower_time (s : State) (x) : (s.withPower x).time = s.time := rfl
@[simp] theorem State.withPower_regs (s : State) (x) : (s.withPower x).regs = s.regs := rfl
@[simp] theorem State.withPower_clusters (s : State) (x) : (s.withPower x).clusters = s.clusters := rfl
@[simp] theorem State.withPower_flags (s : State) (x) : (s.withPower x).flags = s.flags := rfl
@[simp] theorem State.withPower_stackMem (s : State) (x) : (s.withPower x).stackMem = s.stackMem := rfl
@[simp] theorem State.withPower_caseMem (s : State) (x) : (s.withPower x).caseMem = s.caseMem := rfl
@[simp] theorem State.withPower_hostMem (s : State) (x) : (s.withPower x).hostMem = s.hostMem := rfl
@[simp] theorem State.withPower_tierMem (s : State) (x) : (s.withPower x).tierMem = s.tierMem := rfl
@[simp] theorem State.withPower_tierPoison (s : State) (x) : (s.withPower x).tierPoison = s.tierPoison := rfl
@[simp] theorem State.withPower_chans (s : State) (x) : (s.withPower x).chans = s.chans := rfl
@[simp] theorem State.withPower_dieClks (s : State) (x) : (s.withPower x).dieClks = s.dieClks := rfl
@[simp] theorem State.withPower_parts (s : State) (x) : (s.withPower x).parts = s.parts := rfl
@[simp] theorem State.withPower_scus (s : State) (x) : (s.withPower x).scus = s.scus := rfl
@[simp] theorem State.withPower_reqs (s : State) (x) : (s.withPower x).reqs = s.reqs := rfl
@[simp] theorem State.withPower_links (s : State) (x) : (s.withPower x).links = s.links := rfl
@[simp] theorem State.withPower_landing (s : State) (x) : (s.withPower x).landing = s.landing := rfl
@[simp] theorem State.withPower_groups (s : State) (x) : (s.withPower x).groups = s.groups := rfl
@[simp] theorem State.withPower_mirror (s : State) (x) : (s.withPower x).mirror = s.mirror := rfl
@[simp] theorem State.withPower_integ (s : State) (x) : (s.withPower x).integ = s.integ := rfl
@[simp] theorem State.withPower_fw (s : State) (x) : (s.withPower x).fw = s.fw := rfl
@[simp] theorem State.withPower_keep (s : State) (x) : (s.withPower x).keep = s.keep := rfl
@[simp] theorem State.withPower_power (s : State) (x) : (s.withPower x).power = x := rfl
@[simp] theorem State.withPower_boot (s : State) (x) : (s.withPower x).boot = s.boot := rfl
@[simp] theorem State.withPower_halt (s : State) (x) : (s.withPower x).halt = s.halt := rfl
@[simp] theorem State.withPower_tap (s : State) (x) : (s.withPower x).tap = s.tap := rfl
@[simp] theorem State.withPower_host (s : State) (x) : (s.withPower x).host = s.host := rfl
@[simp] theorem State.withPower_turns (s : State) (x) : (s.withPower x).turns = s.turns := rfl
@[simp] theorem State.withPower_hamper (s : State) (x) : (s.withPower x).hamper = s.hamper := rfl
@[simp] theorem State.withPower_self (s : State) : s.withPower s.power = s := rfl
@[simp] theorem State.withPower_withPower_twice (s : State) (x y) : (s.withPower x).withPower y = s.withPower y := rfl

/-! ### withBoot -/

@[simp] theorem State.withBoot_pending (s : State) (x) : (s.withBoot x).pending = s.pending := rfl
@[simp] theorem State.withBoot_free (s : State) (x) : (s.withBoot x).free = s.free := rfl
@[simp] theorem State.withBoot_time (s : State) (x) : (s.withBoot x).time = s.time := rfl
@[simp] theorem State.withBoot_regs (s : State) (x) : (s.withBoot x).regs = s.regs := rfl
@[simp] theorem State.withBoot_clusters (s : State) (x) : (s.withBoot x).clusters = s.clusters := rfl
@[simp] theorem State.withBoot_flags (s : State) (x) : (s.withBoot x).flags = s.flags := rfl
@[simp] theorem State.withBoot_stackMem (s : State) (x) : (s.withBoot x).stackMem = s.stackMem := rfl
@[simp] theorem State.withBoot_caseMem (s : State) (x) : (s.withBoot x).caseMem = s.caseMem := rfl
@[simp] theorem State.withBoot_hostMem (s : State) (x) : (s.withBoot x).hostMem = s.hostMem := rfl
@[simp] theorem State.withBoot_tierMem (s : State) (x) : (s.withBoot x).tierMem = s.tierMem := rfl
@[simp] theorem State.withBoot_tierPoison (s : State) (x) : (s.withBoot x).tierPoison = s.tierPoison := rfl
@[simp] theorem State.withBoot_chans (s : State) (x) : (s.withBoot x).chans = s.chans := rfl
@[simp] theorem State.withBoot_dieClks (s : State) (x) : (s.withBoot x).dieClks = s.dieClks := rfl
@[simp] theorem State.withBoot_parts (s : State) (x) : (s.withBoot x).parts = s.parts := rfl
@[simp] theorem State.withBoot_scus (s : State) (x) : (s.withBoot x).scus = s.scus := rfl
@[simp] theorem State.withBoot_reqs (s : State) (x) : (s.withBoot x).reqs = s.reqs := rfl
@[simp] theorem State.withBoot_links (s : State) (x) : (s.withBoot x).links = s.links := rfl
@[simp] theorem State.withBoot_landing (s : State) (x) : (s.withBoot x).landing = s.landing := rfl
@[simp] theorem State.withBoot_groups (s : State) (x) : (s.withBoot x).groups = s.groups := rfl
@[simp] theorem State.withBoot_mirror (s : State) (x) : (s.withBoot x).mirror = s.mirror := rfl
@[simp] theorem State.withBoot_integ (s : State) (x) : (s.withBoot x).integ = s.integ := rfl
@[simp] theorem State.withBoot_fw (s : State) (x) : (s.withBoot x).fw = s.fw := rfl
@[simp] theorem State.withBoot_keep (s : State) (x) : (s.withBoot x).keep = s.keep := rfl
@[simp] theorem State.withBoot_power (s : State) (x) : (s.withBoot x).power = s.power := rfl
@[simp] theorem State.withBoot_boot (s : State) (x) : (s.withBoot x).boot = x := rfl
@[simp] theorem State.withBoot_halt (s : State) (x) : (s.withBoot x).halt = s.halt := rfl
@[simp] theorem State.withBoot_tap (s : State) (x) : (s.withBoot x).tap = s.tap := rfl
@[simp] theorem State.withBoot_host (s : State) (x) : (s.withBoot x).host = s.host := rfl
@[simp] theorem State.withBoot_turns (s : State) (x) : (s.withBoot x).turns = s.turns := rfl
@[simp] theorem State.withBoot_hamper (s : State) (x) : (s.withBoot x).hamper = s.hamper := rfl
@[simp] theorem State.withBoot_self (s : State) : s.withBoot s.boot = s := rfl
@[simp] theorem State.withBoot_withBoot_twice (s : State) (x y) : (s.withBoot x).withBoot y = s.withBoot y := rfl

/-! ### withHalt -/

@[simp] theorem State.withHalt_pending (s : State) (x) : (s.withHalt x).pending = s.pending := rfl
@[simp] theorem State.withHalt_free (s : State) (x) : (s.withHalt x).free = s.free := rfl
@[simp] theorem State.withHalt_time (s : State) (x) : (s.withHalt x).time = s.time := rfl
@[simp] theorem State.withHalt_regs (s : State) (x) : (s.withHalt x).regs = s.regs := rfl
@[simp] theorem State.withHalt_clusters (s : State) (x) : (s.withHalt x).clusters = s.clusters := rfl
@[simp] theorem State.withHalt_flags (s : State) (x) : (s.withHalt x).flags = s.flags := rfl
@[simp] theorem State.withHalt_stackMem (s : State) (x) : (s.withHalt x).stackMem = s.stackMem := rfl
@[simp] theorem State.withHalt_caseMem (s : State) (x) : (s.withHalt x).caseMem = s.caseMem := rfl
@[simp] theorem State.withHalt_hostMem (s : State) (x) : (s.withHalt x).hostMem = s.hostMem := rfl
@[simp] theorem State.withHalt_tierMem (s : State) (x) : (s.withHalt x).tierMem = s.tierMem := rfl
@[simp] theorem State.withHalt_tierPoison (s : State) (x) : (s.withHalt x).tierPoison = s.tierPoison := rfl
@[simp] theorem State.withHalt_chans (s : State) (x) : (s.withHalt x).chans = s.chans := rfl
@[simp] theorem State.withHalt_dieClks (s : State) (x) : (s.withHalt x).dieClks = s.dieClks := rfl
@[simp] theorem State.withHalt_parts (s : State) (x) : (s.withHalt x).parts = s.parts := rfl
@[simp] theorem State.withHalt_scus (s : State) (x) : (s.withHalt x).scus = s.scus := rfl
@[simp] theorem State.withHalt_reqs (s : State) (x) : (s.withHalt x).reqs = s.reqs := rfl
@[simp] theorem State.withHalt_links (s : State) (x) : (s.withHalt x).links = s.links := rfl
@[simp] theorem State.withHalt_landing (s : State) (x) : (s.withHalt x).landing = s.landing := rfl
@[simp] theorem State.withHalt_groups (s : State) (x) : (s.withHalt x).groups = s.groups := rfl
@[simp] theorem State.withHalt_mirror (s : State) (x) : (s.withHalt x).mirror = s.mirror := rfl
@[simp] theorem State.withHalt_integ (s : State) (x) : (s.withHalt x).integ = s.integ := rfl
@[simp] theorem State.withHalt_fw (s : State) (x) : (s.withHalt x).fw = s.fw := rfl
@[simp] theorem State.withHalt_keep (s : State) (x) : (s.withHalt x).keep = s.keep := rfl
@[simp] theorem State.withHalt_power (s : State) (x) : (s.withHalt x).power = s.power := rfl
@[simp] theorem State.withHalt_boot (s : State) (x) : (s.withHalt x).boot = s.boot := rfl
@[simp] theorem State.withHalt_halt (s : State) (x) : (s.withHalt x).halt = x := rfl
@[simp] theorem State.withHalt_tap (s : State) (x) : (s.withHalt x).tap = s.tap := rfl
@[simp] theorem State.withHalt_host (s : State) (x) : (s.withHalt x).host = s.host := rfl
@[simp] theorem State.withHalt_turns (s : State) (x) : (s.withHalt x).turns = s.turns := rfl
@[simp] theorem State.withHalt_hamper (s : State) (x) : (s.withHalt x).hamper = s.hamper := rfl
@[simp] theorem State.withHalt_self (s : State) : s.withHalt s.halt = s := rfl
@[simp] theorem State.withHalt_withHalt_twice (s : State) (x y) : (s.withHalt x).withHalt y = s.withHalt y := rfl

/-! ### withTap -/

@[simp] theorem State.withTap_pending (s : State) (x) : (s.withTap x).pending = s.pending := rfl
@[simp] theorem State.withTap_free (s : State) (x) : (s.withTap x).free = s.free := rfl
@[simp] theorem State.withTap_time (s : State) (x) : (s.withTap x).time = s.time := rfl
@[simp] theorem State.withTap_regs (s : State) (x) : (s.withTap x).regs = s.regs := rfl
@[simp] theorem State.withTap_clusters (s : State) (x) : (s.withTap x).clusters = s.clusters := rfl
@[simp] theorem State.withTap_flags (s : State) (x) : (s.withTap x).flags = s.flags := rfl
@[simp] theorem State.withTap_stackMem (s : State) (x) : (s.withTap x).stackMem = s.stackMem := rfl
@[simp] theorem State.withTap_caseMem (s : State) (x) : (s.withTap x).caseMem = s.caseMem := rfl
@[simp] theorem State.withTap_hostMem (s : State) (x) : (s.withTap x).hostMem = s.hostMem := rfl
@[simp] theorem State.withTap_tierMem (s : State) (x) : (s.withTap x).tierMem = s.tierMem := rfl
@[simp] theorem State.withTap_tierPoison (s : State) (x) : (s.withTap x).tierPoison = s.tierPoison := rfl
@[simp] theorem State.withTap_chans (s : State) (x) : (s.withTap x).chans = s.chans := rfl
@[simp] theorem State.withTap_dieClks (s : State) (x) : (s.withTap x).dieClks = s.dieClks := rfl
@[simp] theorem State.withTap_parts (s : State) (x) : (s.withTap x).parts = s.parts := rfl
@[simp] theorem State.withTap_scus (s : State) (x) : (s.withTap x).scus = s.scus := rfl
@[simp] theorem State.withTap_reqs (s : State) (x) : (s.withTap x).reqs = s.reqs := rfl
@[simp] theorem State.withTap_links (s : State) (x) : (s.withTap x).links = s.links := rfl
@[simp] theorem State.withTap_landing (s : State) (x) : (s.withTap x).landing = s.landing := rfl
@[simp] theorem State.withTap_groups (s : State) (x) : (s.withTap x).groups = s.groups := rfl
@[simp] theorem State.withTap_mirror (s : State) (x) : (s.withTap x).mirror = s.mirror := rfl
@[simp] theorem State.withTap_integ (s : State) (x) : (s.withTap x).integ = s.integ := rfl
@[simp] theorem State.withTap_fw (s : State) (x) : (s.withTap x).fw = s.fw := rfl
@[simp] theorem State.withTap_keep (s : State) (x) : (s.withTap x).keep = s.keep := rfl
@[simp] theorem State.withTap_power (s : State) (x) : (s.withTap x).power = s.power := rfl
@[simp] theorem State.withTap_boot (s : State) (x) : (s.withTap x).boot = s.boot := rfl
@[simp] theorem State.withTap_halt (s : State) (x) : (s.withTap x).halt = s.halt := rfl
@[simp] theorem State.withTap_tap (s : State) (x) : (s.withTap x).tap = x := rfl
@[simp] theorem State.withTap_host (s : State) (x) : (s.withTap x).host = s.host := rfl
@[simp] theorem State.withTap_turns (s : State) (x) : (s.withTap x).turns = s.turns := rfl
@[simp] theorem State.withTap_hamper (s : State) (x) : (s.withTap x).hamper = s.hamper := rfl
@[simp] theorem State.withTap_self (s : State) : s.withTap s.tap = s := rfl
@[simp] theorem State.withTap_withTap_twice (s : State) (x y) : (s.withTap x).withTap y = s.withTap y := rfl

/-! ### withHost -/

@[simp] theorem State.withHost_pending (s : State) (x) : (s.withHost x).pending = s.pending := rfl
@[simp] theorem State.withHost_free (s : State) (x) : (s.withHost x).free = s.free := rfl
@[simp] theorem State.withHost_time (s : State) (x) : (s.withHost x).time = s.time := rfl
@[simp] theorem State.withHost_regs (s : State) (x) : (s.withHost x).regs = s.regs := rfl
@[simp] theorem State.withHost_clusters (s : State) (x) : (s.withHost x).clusters = s.clusters := rfl
@[simp] theorem State.withHost_flags (s : State) (x) : (s.withHost x).flags = s.flags := rfl
@[simp] theorem State.withHost_stackMem (s : State) (x) : (s.withHost x).stackMem = s.stackMem := rfl
@[simp] theorem State.withHost_caseMem (s : State) (x) : (s.withHost x).caseMem = s.caseMem := rfl
@[simp] theorem State.withHost_hostMem (s : State) (x) : (s.withHost x).hostMem = s.hostMem := rfl
@[simp] theorem State.withHost_tierMem (s : State) (x) : (s.withHost x).tierMem = s.tierMem := rfl
@[simp] theorem State.withHost_tierPoison (s : State) (x) : (s.withHost x).tierPoison = s.tierPoison := rfl
@[simp] theorem State.withHost_chans (s : State) (x) : (s.withHost x).chans = s.chans := rfl
@[simp] theorem State.withHost_dieClks (s : State) (x) : (s.withHost x).dieClks = s.dieClks := rfl
@[simp] theorem State.withHost_parts (s : State) (x) : (s.withHost x).parts = s.parts := rfl
@[simp] theorem State.withHost_scus (s : State) (x) : (s.withHost x).scus = s.scus := rfl
@[simp] theorem State.withHost_reqs (s : State) (x) : (s.withHost x).reqs = s.reqs := rfl
@[simp] theorem State.withHost_links (s : State) (x) : (s.withHost x).links = s.links := rfl
@[simp] theorem State.withHost_landing (s : State) (x) : (s.withHost x).landing = s.landing := rfl
@[simp] theorem State.withHost_groups (s : State) (x) : (s.withHost x).groups = s.groups := rfl
@[simp] theorem State.withHost_mirror (s : State) (x) : (s.withHost x).mirror = s.mirror := rfl
@[simp] theorem State.withHost_integ (s : State) (x) : (s.withHost x).integ = s.integ := rfl
@[simp] theorem State.withHost_fw (s : State) (x) : (s.withHost x).fw = s.fw := rfl
@[simp] theorem State.withHost_keep (s : State) (x) : (s.withHost x).keep = s.keep := rfl
@[simp] theorem State.withHost_power (s : State) (x) : (s.withHost x).power = s.power := rfl
@[simp] theorem State.withHost_boot (s : State) (x) : (s.withHost x).boot = s.boot := rfl
@[simp] theorem State.withHost_halt (s : State) (x) : (s.withHost x).halt = s.halt := rfl
@[simp] theorem State.withHost_tap (s : State) (x) : (s.withHost x).tap = s.tap := rfl
@[simp] theorem State.withHost_host (s : State) (x) : (s.withHost x).host = x := rfl
@[simp] theorem State.withHost_turns (s : State) (x) : (s.withHost x).turns = s.turns := rfl
@[simp] theorem State.withHost_hamper (s : State) (x) : (s.withHost x).hamper = s.hamper := rfl
@[simp] theorem State.withHost_self (s : State) : s.withHost s.host = s := rfl
@[simp] theorem State.withHost_withHost_twice (s : State) (x y) : (s.withHost x).withHost y = s.withHost y := rfl

/-! ### withTurns -/

@[simp] theorem State.withTurns_pending (s : State) (x) : (s.withTurns x).pending = s.pending := rfl
@[simp] theorem State.withTurns_free (s : State) (x) : (s.withTurns x).free = s.free := rfl
@[simp] theorem State.withTurns_time (s : State) (x) : (s.withTurns x).time = s.time := rfl
@[simp] theorem State.withTurns_regs (s : State) (x) : (s.withTurns x).regs = s.regs := rfl
@[simp] theorem State.withTurns_clusters (s : State) (x) : (s.withTurns x).clusters = s.clusters := rfl
@[simp] theorem State.withTurns_flags (s : State) (x) : (s.withTurns x).flags = s.flags := rfl
@[simp] theorem State.withTurns_stackMem (s : State) (x) : (s.withTurns x).stackMem = s.stackMem := rfl
@[simp] theorem State.withTurns_caseMem (s : State) (x) : (s.withTurns x).caseMem = s.caseMem := rfl
@[simp] theorem State.withTurns_hostMem (s : State) (x) : (s.withTurns x).hostMem = s.hostMem := rfl
@[simp] theorem State.withTurns_tierMem (s : State) (x) : (s.withTurns x).tierMem = s.tierMem := rfl
@[simp] theorem State.withTurns_tierPoison (s : State) (x) : (s.withTurns x).tierPoison = s.tierPoison := rfl
@[simp] theorem State.withTurns_chans (s : State) (x) : (s.withTurns x).chans = s.chans := rfl
@[simp] theorem State.withTurns_dieClks (s : State) (x) : (s.withTurns x).dieClks = s.dieClks := rfl
@[simp] theorem State.withTurns_parts (s : State) (x) : (s.withTurns x).parts = s.parts := rfl
@[simp] theorem State.withTurns_scus (s : State) (x) : (s.withTurns x).scus = s.scus := rfl
@[simp] theorem State.withTurns_reqs (s : State) (x) : (s.withTurns x).reqs = s.reqs := rfl
@[simp] theorem State.withTurns_links (s : State) (x) : (s.withTurns x).links = s.links := rfl
@[simp] theorem State.withTurns_landing (s : State) (x) : (s.withTurns x).landing = s.landing := rfl
@[simp] theorem State.withTurns_groups (s : State) (x) : (s.withTurns x).groups = s.groups := rfl
@[simp] theorem State.withTurns_mirror (s : State) (x) : (s.withTurns x).mirror = s.mirror := rfl
@[simp] theorem State.withTurns_integ (s : State) (x) : (s.withTurns x).integ = s.integ := rfl
@[simp] theorem State.withTurns_fw (s : State) (x) : (s.withTurns x).fw = s.fw := rfl
@[simp] theorem State.withTurns_keep (s : State) (x) : (s.withTurns x).keep = s.keep := rfl
@[simp] theorem State.withTurns_power (s : State) (x) : (s.withTurns x).power = s.power := rfl
@[simp] theorem State.withTurns_boot (s : State) (x) : (s.withTurns x).boot = s.boot := rfl
@[simp] theorem State.withTurns_halt (s : State) (x) : (s.withTurns x).halt = s.halt := rfl
@[simp] theorem State.withTurns_tap (s : State) (x) : (s.withTurns x).tap = s.tap := rfl
@[simp] theorem State.withTurns_host (s : State) (x) : (s.withTurns x).host = s.host := rfl
@[simp] theorem State.withTurns_turns (s : State) (x) : (s.withTurns x).turns = x := rfl
@[simp] theorem State.withTurns_hamper (s : State) (x) : (s.withTurns x).hamper = s.hamper := rfl
@[simp] theorem State.withTurns_self (s : State) : s.withTurns s.turns = s := rfl
@[simp] theorem State.withTurns_withTurns_twice (s : State) (x y) : (s.withTurns x).withTurns y = s.withTurns y := rfl

/-! ### withHamper -/

@[simp] theorem State.withHamper_pending (s : State) (x) : (s.withHamper x).pending = s.pending := rfl
@[simp] theorem State.withHamper_free (s : State) (x) : (s.withHamper x).free = s.free := rfl
@[simp] theorem State.withHamper_time (s : State) (x) : (s.withHamper x).time = s.time := rfl
@[simp] theorem State.withHamper_regs (s : State) (x) : (s.withHamper x).regs = s.regs := rfl
@[simp] theorem State.withHamper_clusters (s : State) (x) : (s.withHamper x).clusters = s.clusters := rfl
@[simp] theorem State.withHamper_flags (s : State) (x) : (s.withHamper x).flags = s.flags := rfl
@[simp] theorem State.withHamper_stackMem (s : State) (x) : (s.withHamper x).stackMem = s.stackMem := rfl
@[simp] theorem State.withHamper_caseMem (s : State) (x) : (s.withHamper x).caseMem = s.caseMem := rfl
@[simp] theorem State.withHamper_hostMem (s : State) (x) : (s.withHamper x).hostMem = s.hostMem := rfl
@[simp] theorem State.withHamper_tierMem (s : State) (x) : (s.withHamper x).tierMem = s.tierMem := rfl
@[simp] theorem State.withHamper_tierPoison (s : State) (x) : (s.withHamper x).tierPoison = s.tierPoison := rfl
@[simp] theorem State.withHamper_chans (s : State) (x) : (s.withHamper x).chans = s.chans := rfl
@[simp] theorem State.withHamper_dieClks (s : State) (x) : (s.withHamper x).dieClks = s.dieClks := rfl
@[simp] theorem State.withHamper_parts (s : State) (x) : (s.withHamper x).parts = s.parts := rfl
@[simp] theorem State.withHamper_scus (s : State) (x) : (s.withHamper x).scus = s.scus := rfl
@[simp] theorem State.withHamper_reqs (s : State) (x) : (s.withHamper x).reqs = s.reqs := rfl
@[simp] theorem State.withHamper_links (s : State) (x) : (s.withHamper x).links = s.links := rfl
@[simp] theorem State.withHamper_landing (s : State) (x) : (s.withHamper x).landing = s.landing := rfl
@[simp] theorem State.withHamper_groups (s : State) (x) : (s.withHamper x).groups = s.groups := rfl
@[simp] theorem State.withHamper_mirror (s : State) (x) : (s.withHamper x).mirror = s.mirror := rfl
@[simp] theorem State.withHamper_integ (s : State) (x) : (s.withHamper x).integ = s.integ := rfl
@[simp] theorem State.withHamper_fw (s : State) (x) : (s.withHamper x).fw = s.fw := rfl
@[simp] theorem State.withHamper_keep (s : State) (x) : (s.withHamper x).keep = s.keep := rfl
@[simp] theorem State.withHamper_power (s : State) (x) : (s.withHamper x).power = s.power := rfl
@[simp] theorem State.withHamper_boot (s : State) (x) : (s.withHamper x).boot = s.boot := rfl
@[simp] theorem State.withHamper_halt (s : State) (x) : (s.withHamper x).halt = s.halt := rfl
@[simp] theorem State.withHamper_tap (s : State) (x) : (s.withHamper x).tap = s.tap := rfl
@[simp] theorem State.withHamper_host (s : State) (x) : (s.withHamper x).host = s.host := rfl
@[simp] theorem State.withHamper_turns (s : State) (x) : (s.withHamper x).turns = s.turns := rfl
@[simp] theorem State.withHamper_hamper (s : State) (x) : (s.withHamper x).hamper = x := rfl
@[simp] theorem State.withHamper_self (s : State) : s.withHamper s.hamper = s := rfl
@[simp] theorem State.withHamper_withHamper_twice (s : State) (x y) : (s.withHamper x).withHamper y = s.withHamper y := rfl

end Sys2Proof.Machine
end

