-- ==== Sys2Proof/Laws/Ops.lean ====
section
/-! SUPPORT. What the shared operations can do: registers and their fields, the units, event records and log
records, signals; and that each keeps the memories in canonical form. -/

namespace Sys2Proof.Machine

/-! ### Bit fields -/

theorem testBit_bf {n : Nat} (w : BitVec n) (hi lo i : Nat) :
    (bf w hi lo).testBit i = (decide (i < hi - lo + 1) && w.getLsbD (lo + i)) := by
  simp [bf, Nat.testBit_mod_two_pow, Nat.testBit_shiftRight, BitVec.getLsbD]

theorem getLsbD_setBf (w : W64) (hi lo v i : Nat) :
    (setBf w hi lo v).getLsbD i =
      if i < 64 ∧ lo ≤ i ∧ i - lo < hi - lo + 1 then v.testBit (i - lo) else w.getLsbD i := by
  have hm : (2 ^ (hi - lo + 1) - 1) <<< lo = (2 ^ (hi - lo + 1) - 1) * 2 ^ lo := Nat.shiftLeft_eq _ _
  simp only [setBf, BitVec.getLsbD_or, BitVec.getLsbD_and, BitVec.getLsbD_not, BitVec.getLsbD_ofNat,
    Nat.testBit_shiftLeft, Nat.testBit_mod_two_pow, Nat.testBit_two_pow_sub_one]
  by_cases h64 : i < 64
  · by_cases hl : lo ≤ i
    · by_cases hr : i - lo < hi - lo + 1
      · simp [h64, hl, hr]
      · simp [h64, hl, hr]
    · simp [h64, hl]
  · simp [h64, BitVec.getLsbD_of_ge w i (by omega)]

/-- A field that is written reads as the value's low bits. -/
theorem bf_setBf_same (w : W64) (hi lo v : Nat) (h : hi < 64) (hl : lo ≤ hi) :
    bf (setBf w hi lo v) hi lo = v % 2 ^ (hi - lo + 1) := by
  apply Nat.eq_of_testBit_eq
  intro i
  rw [testBit_bf, getLsbD_setBf, Nat.testBit_mod_two_pow]
  by_cases hi' : i < hi - lo + 1
  · have : lo + i < 64 := by omega
    simp [hi', this]
  · simp [hi']

/-- Writing a field leaves every disjoint field. -/
theorem bf_setBf_other (w : W64) (hi lo v hi' lo' : Nat) (hl : lo ≤ hi) (hl' : lo' ≤ hi') (h : hi < lo' ∨ hi' < lo) :
    bf (setBf w hi lo v) hi' lo' = bf w hi' lo' := by
  apply Nat.eq_of_testBit_eq
  intro i
  rw [testBit_bf, testBit_bf, getLsbD_setBf]
  by_cases hi' : i < hi' - lo' + 1
  · have : ¬ (lo' + i < 64 ∧ lo ≤ lo' + i ∧ lo' + i - lo < hi - lo + 1) := by omega
    rw [if_neg this]
  · simp [hi']

/-! ### Registers -/

theorem State.setReg_eq (s : State) (k : Nat) (v : W64) : s.setReg k v = s.withRegs (regPut s.regs k v) := rfl

@[simp] theorem State.reg_setReg_same (s : State) (k : Nat) (v : W64) : (s.setReg k v).reg k = v := by
  simp [State.reg, State.setReg, regGet, regPut]

theorem State.reg_setReg_other (s : State) (k j : Nat) (v : W64) (h : j ≠ k) : (s.setReg k v).reg j = s.reg j := by
  simp [State.reg, State.setReg, regGet, regPut, sget_sset, h]

theorem State.reg_setReg (s : State) (k j : Nat) (v : W64) :
    (s.setReg k v).reg j = if j = k then v else s.reg j := by
  split
  · next h => rw [h, s.reg_setReg_same]
  · next h => exact s.reg_setReg_other k j v h

theorem State.reg_setFld_same (s : State) (k hi lo v : Nat) : (s.setFld k hi lo v).reg k = setBf (s.reg k) hi lo v :=
  s.reg_setReg_same k _

theorem State.reg_setFld_other (s : State) (k j hi lo v : Nat) (h : j ≠ k) : (s.setFld k hi lo v).reg j = s.reg j :=
  s.reg_setReg_other k j _ h

theorem State.fld_setFld_same (s : State) (k hi lo v : Nat) (h : hi < 64) (hl : lo ≤ hi) :
    (s.setFld k hi lo v).fld k hi lo = v % 2 ^ (hi - lo + 1) := by
  rw [State.fld, s.reg_setFld_same, bf_setBf_same _ _ _ _ h hl]

theorem State.fld_setFld_other (s : State) (k hi lo v hi' lo' : Nat) (hl : lo ≤ hi) (hl' : lo' ≤ hi')
    (h : hi < lo' ∨ hi' < lo) : (s.setFld k hi lo v).fld k hi' lo' = s.fld k hi' lo' := by
  rw [State.fld, s.reg_setFld_same, bf_setBf_other _ _ _ _ _ _ hl hl' h]; rfl

/-- A register operation changes the registers alone. -/
theorem State.setFld_frame (s : State) (k hi lo v : Nat) : ∃ r, s.setFld k hi lo v = s.withRegs r := ⟨_, rfl⟩

theorem State.setBit_frame (s : State) (k i : Nat) (b : Bool) : ∃ r, s.setBit k i b = s.withRegs r := ⟨_, rfl⟩

theorem State.incFld_frame (s : State) (k hi lo n : Nat) : ∃ r, s.incFld k hi lo n = s.withRegs r := ⟨_, rfl⟩

/-- A role is shown in MIR_STAT, and ends a promotion unless it is SHADOW (R364). -/
theorem State.setRole_frame (s : State) (r : Nat) : ∃ m x, s.setRole r = (s.withMirror m).withRegs x := by
  unfold State.setRole
  split
  · exact ⟨s.mirror, _, rfl⟩
  · exact ⟨_, _, rfl⟩

theorem State.setRole_role (s : State) (r : Nat) (h : r < 8) : (s.setRole r).role = r := by
  rw [State.setRole, State.role, State.fld_setFld_same _ _ _ _ _ (by decide) (by decide)]
  exact Nat.mod_eq_of_lt h

/-- Register updates one after another change the registers alone. -/
theorem foldl_withRegs {β : Type} (f : State → β → State) (hf : ∀ s x, ∃ r,
    f s x = s.withRegs r) (l : List β) (s : State) :
    ∃ r, l.foldl f s = s.withRegs r := by
  induction l generalizing s with
  | nil => exact ⟨s.regs, rfl⟩
  | cons x t ih =>
    obtain ⟨r, h⟩ := hf s x
    obtain ⟨r', h'⟩ := ih (f s x)
    exact ⟨r', by rw [List.foldl_cons, h', h]; rfl⟩

theorem ite_frame (b : Bool) (t u : State) {s : State} (ht : ∃ r, t = s.withRegs r) (hu : ∃ r, u = s.withRegs r) :
    ∃ r, (if b = true then t else u) = s.withRegs r := by
  cases b
  · exact hu
  · exact ht

/-- Counting an event changes the counters of Table 18.4 alone. -/
theorem State.perf_frame (s : State) (ev p : Nat) (c : Option Nat) (n : Nat) : ∃ r, s.perf ev p c n = s.withRegs r := by
  apply ite_frame _ _ _ ⟨s.regs, rfl⟩
  apply foldl_withRegs
  intro s j
  exact ite_frame _ _ _ ⟨_, rfl⟩ ⟨s.regs, rfl⟩

/-! ### Units -/

@[simp] theorem State.cluster_setCluster (s : State) (c j : Nat) (x : Cluster) :
    (s.setCluster c x).cluster j = if j = c then x else s.cluster j := sget_sset _ _ _ _ _

@[simp] theorem State.cluster_modCluster (s : State) (c j : Nat) (f : Cluster → Cluster) :
    (s.modCluster c f).cluster j = if j = c then f (s.cluster c) else s.cluster j := sget_sset _ _ _ _ _

@[simp] theorem State.chan_setChan (s : State) (k j : Nat) (x : Chan) :
    (s.setChan k x).chan j = if j = k then x else s.chan j := sget_sset _ _ _ _ _

@[simp] theorem State.chan_modChan (s : State) (k j : Nat) (f : Chan → Chan) :
    (s.modChan k f).chan j = if j = k then f (s.chan k) else s.chan j := sget_sset _ _ _ _ _

@[simp] theorem State.dieClk_setDieClk (s : State) (d j : Nat) (x : DieClk) :
    (s.setDieClk d x).dieClk j = if j = d then x else s.dieClk j := sget_sset _ _ _ _ _

@[simp] theorem State.part_setPart (s : State) (p j : Nat) (x : Part) :
    (s.setPart p x).part j = if j = p then x else s.part j := sget_sset _ _ _ _ _

@[simp] theorem State.part_modPart (s : State) (p j : Nat) (f : Part → Part) :
    (s.modPart p f).part j = if j = p then f (s.part p) else s.part j := sget_sset _ _ _ _ _

@[simp] theorem State.scu_setScu (s : State) (p j : Nat) (x : ScuPart) :
    (s.setScu p x).scu j = if j = p then x else s.scu j := sget_sset _ _ _ _ _

@[simp] theorem State.scu_modScu (s : State) (p j : Nat) (f : ScuPart → ScuPart) :
    (s.modScu p f).scu j = if j = p then f (s.scu p) else s.scu j := sget_sset _ _ _ _ _

@[simp] theorem State.req_setReq (s : State) (r j : Nat) (x : Req) :
    (s.setReq r x).req j = if j = r then x else s.req j := sget_sset _ _ _ _ _

@[simp] theorem State.req_modReq (s : State) (r j : Nat) (f : Req → Req) :
    (s.modReq r f).req j = if j = r then f (s.req r) else s.req j := sget_sset _ _ _ _ _

@[simp] theorem State.link_setLink (s : State) (l j : Nat) (x : Link) :
    (s.setLink l x).link j = if j = l then x else s.link j := sget_sset _ _ _ _ _

@[simp] theorem State.link_modLink (s : State) (l j : Nat) (f : Link → Link) :
    (s.modLink l f).link j = if j = l then f (s.link l) else s.link j := sget_sset _ _ _ _ _

@[simp] theorem State.group_setGroup (s : State) (k j : Nat) (x : WGroup) :
    (s.setGroup k x).group j = if j = k then x else s.group j := sget_sset _ _ _ _ _

/-- A slot is kept in its partition alone. -/
theorem State.setSlot_frame (s : State) (p n : Nat) (x : Option SlotRun) : ∃ q, s.setSlot p n x = s.withParts q :=
  ⟨_, rfl⟩

theorem State.modSlot_frame (s : State) (p n : Nat) (f : SlotRun → SlotRun) : ∃ q, s.modSlot p n f = s.withParts q := by
  unfold State.modSlot
  split
  · exact ⟨_, rfl⟩
  · exact ⟨s.parts, rfl⟩

theorem State.modSlot_slot (s : State) (p n : Nat) (f : SlotRun → SlotRun) (r : SlotRun) (h : s.slot p n = some r) :
    (s.modSlot p n f).slot p n = some (f r) := by
  unfold State.modSlot
  rw [h]
  simp [State.setSlot, State.slot]

/-! ### Records of the event and log rings -/

/-- A record written to a ring changes registers and host memory alone, and host memory keeps its form. -/
theorem State.ringPut_frame (s : State) (kb kh ks : Nat) (ws : List W64) :
    ∃ b r h, s.ringPut kb kh ks ws = (b, (s.withRegs r).withHostMem h)
      ∧ (Memory.wf s.hostMem = true → Memory.wf h = true) := by
  unfold State.ringPut
  simp only
  split
  · exact ⟨_, (s.incFld ks 63 32).regs, s.hostMem, rfl, id⟩
  · exact ⟨_, (s.setFld ks 15 0 _).regs, _, rfl, mput_wf _ _⟩

/-- What posting a record can change: registers, host memory, and the MSI-X sends. -/
theorem State.postAt_frame (s : State) (f : Nat) (w0 : W64) (t : Nat) (w2 : W64) (st : Nat) :
    ∃ r h o, s.postAt f w0 t w2 st = ((s.withRegs r).withHostMem h).withHost o
      ∧ (Memory.wf s.hostMem = true → Memory.wf h = true) := by
  obtain ⟨b, r, h, e, hw⟩ := s.ringPut_frame (rEbase f) (rEhead f) (rEstat f)
    [w0, BitVec.ofNat 64 t, w2, BitVec.ofNat 64 st]
  unfold State.postAt
  rw [e]
  cases b
  · exact ⟨r, h, s.host, rfl, hw⟩
  · exact ⟨r, h, _, rfl, hw⟩

theorem State.post_frame (s : State) (p type body : Nat) (w2 : W64) (st : Nat) :
    ∃ r h o, s.post p type body w2 st = ((s.withRegs r).withHostMem h).withHost o
      ∧ (Memory.wf s.hostMem = true → Memory.wf h = true) := s.postAt_frame _ _ _ _ _

theorem State.pfev_frame (s : State) (block p : Nat) :
    ∃ r h o, s.pfev block p = ((s.withRegs r).withHostMem h).withHost o
      ∧ (Memory.wf s.hostMem = true → Memory.wf h = true) := s.postAt_frame _ _ _ _ _

theorem State.postFault_frame (s : State) (c e i t k : Nat) :
    ∃ r h o, s.postFault c e i t k = ((s.withRegs r).withHostMem h).withHost o
      ∧ (Memory.wf s.hostMem = true → Memory.wf h = true) := by
  unfold State.postFault
  split
  · exact s.postAt_frame _ _ _ _ _
  · split
    · exact s.postAt_frame _ _ _ _ _
    · exact ⟨s.regs, s.hostMem, s.host, rfl, id⟩

theorem State.postHostFault_frame (s : State) (p k a : Nat) :
    ∃ r h o, s.postHostFault p k a = ((s.withRegs r).withHostMem h).withHost o
      ∧ (Memory.wf s.hostMem = true → Memory.wf h = true) := s.post_frame _ _ _ _ _

theorem State.logRecord_frame (s : State) (k c sev tp : Nat) (a b : W64) :
    ∃ r h o, s.logRecord k c sev tp a b = ((s.withRegs r).withHostMem h).withHost o
      ∧ (Memory.wf s.hostMem = true → Memory.wf h = true) := by
  obtain ⟨x, r, h, e, hw⟩ := s.ringPut_frame rFwLogbase rFwLoghead rFwLogstat
    [s.nowWord, BitVec.ofNat 64 (k * 2 ^ 60 + c * 2 ^ 55 + sev * 2 ^ 53 + tp * 2 ^ 32), a, b]
  rw [State.logRecord, e]
  cases x
  · exact ⟨r, h, s.host, rfl, hw⟩
  · exact ⟨r, h, _, rfl, hw⟩

theorem State.logError_frame (s : State) (k c : Nat) :
    ∃ r h o n, s.logError k c = (((s.withRegs r).withHostMem h).withHost o).withFree n
      ∧ (Memory.wf s.hostMem = true → Memory.wf h = true) := by
  unfold State.logError
  split
  · exact ⟨s.regs, s.hostMem, s.host, s.free, rfl, id⟩
  · obtain ⟨r, h, o, e, hw⟩ := s.logRecord_frame k c 2 ((Config.freeWord s.free 0).toNat % 1024)
      (Config.freeWord s.free 1) (Config.freeWord s.free 2)
    exact ⟨r, h, o, s.free + 1, by simp only [e], hw⟩

/-- A ring that takes or loses a record changes no register but the one of its TAIL and LOST. -/
theorem State.ringPut_reg (s : State) (kb kh ks j : Nat) (ws : List W64) (h : j ≠ ks) :
    (s.ringPut kb kh ks ws).2.reg j = s.reg j := by
  unfold State.ringPut
  simp only
  split
  · exact State.reg_setFld_other _ _ _ _ _ _ h
  · exact State.reg_setFld_other _ _ _ _ _ _ h

/-- A log record changes no register but the log ring's TAIL and LOST. -/
theorem State.logRecord_reg (s : State) (k c sev tp j : Nat) (x y : W64) (h : j ≠ rFwLogstat) :
    (s.logRecord k c sev tp x y).reg j = s.reg j := by
  have hr := s.ringPut_reg rFwLogbase rFwLoghead rFwLogstat j
    [s.nowWord, BitVec.ofNat 64 (k * 2 ^ 60 + c * 2 ^ 55 + sev * 2 ^ 53 + tp * 2 ^ 32), x, y] h
  rw [State.logRecord]
  rcases e : s.ringPut rFwLogbase rFwLoghead rFwLogstat
    [s.nowWord, BitVec.ofNat 64 (k * 2 ^ 60 + c * 2 ^ 55 + sev * 2 ^ 53 + tp * 2 ^ 32), x, y] with ⟨b, t⟩
  rw [e] at hr
  cases b
  · exact hr
  · exact hr

/-- Logging an error changes no register but the log ring's TAIL and LOST. -/
theorem State.logError_reg (s : State) (k c j : Nat) (h : j ≠ rFwLogstat) : (s.logError k c).reg j = s.reg j := by
  unfold State.logError
  split
  · rfl
  · simp only [State.reg, State.withFree_regs]
    simpa only [State.reg] using s.logRecord_reg k c 2 _ j _ _ h

/-- A heartbeat changes the mirror port, where MIR is up, and FAULT_N where the module has failed. -/
theorem State.sendHeartbeat_frame (s : State) (fenced failed : Bool) :
    ∃ m p, s.sendHeartbeat fenced failed = (s.withMirror m).withPower p := by
  refine ⟨(s.sendHeartbeat fenced failed).mirror, (s.sendHeartbeat fenced failed).power, ?_⟩
  unfold State.sendHeartbeat
  cases failed <;> simp only [Bool.false_eq_true, if_false, if_true] <;> split <;> rfl

theorem State.moduleFail_frame (s : State) :
    ∃ m p r h o n, s.moduleFail = (((((s.withMirror m).withPower p).withRegs r).withHostMem h).withHost o).withFree n
      ∧ (Memory.wf s.hostMem = true → Memory.wf h = true) := by
  obtain ⟨m, p, e⟩ := s.sendHeartbeat_frame false true
  obtain ⟨m', r, e'⟩ := ((s.withMirror m).withPower p).setRole_frame roleFenced
  obtain ⟨r', h, o, n, e'', hw⟩ := ((((s.withMirror m).withPower p).withMirror m').withRegs r).logError_frame coreSec 0
  exact ⟨m', p, r', h, o, n, by rw [State.moduleFail, e, e', e'']; rfl, hw⟩

/-- The module that has failed is fenced (R365). -/
theorem State.moduleFail_role (s : State) : s.moduleFail.role = roleFenced := by
  unfold State.moduleFail State.role State.fld
  rw [State.logError_reg _ _ _ _ (by decide)]
  exact State.setRole_role _ _ (by decide)

/-! ### Signals -/

theorem State.setFlagAt_frame (s : State) (d n : Nat) (v : Bool) (who : Nat) (cs : List Nat) : ∃ x,
    s.setFlagAt d n v who cs = s.withFlags x := by
  simp only [State.setFlagAt]
  split <;> exact ⟨_, rfl⟩

theorem State.setFlag_frame (s : State) (d n : Nat) (v : Bool) (who : Nat) : ∃ x,
    s.setFlag d n v who = s.withFlags x := s.setFlagAt_frame d n v who _

theorem State.setFlag_val (s : State) (d n : Nat) (v : Bool) (who : Nat) : ((s.setFlag d n v who).flag d n).val = v := by
  simp only [State.setFlag, State.setFlagAt]
  split
  · next h => simpa [State.flag, sget_sset] using h
  · simp [State.flag]

/-- A signal changes the cluster's counters or the flags alone. -/
theorem State.signal_frame (s : State) (c e : Nat) (w : IWord) (t b : Nat) :
    ∃ x y, s.signal c e w t b = (s.withClusters x).withFlags y := by
  unfold State.signal
  split
  · exact ⟨(s.modCluster c (fun x => x.sycAdd (bf w.sigT 5 0) e t)).clusters, s.flags, rfl⟩
  · simp only
    split
    · obtain ⟨y, h⟩ := s.setFlagAt_frame (flagTarget w.sigT).1 (flagTarget w.sigT).2 true c (s.cycsAt c b t)
      exact ⟨s.clusters, y, h⟩
    · exact ⟨s.clusters, s.flags, rfl⟩
  · exact ⟨s.clusters, s.flags, rfl⟩

/-! ### The canonical form of memories -/

theorem State.memWf_iff (s : State) : s.memWf = true ↔
    Memory.wf s.stackMem = true ∧ Memory.wf s.caseMem = true ∧ Memory.wf s.hostMem = true ∧ Memory.wf s.tierMem = true
      ∧ ∀ e ∈ s.clusters, e.2.memWf = true := by
  simp [State.memWf, and_assoc]

theorem Cluster.memWf_iff (x : Cluster) : x.memWf = true ↔
    Memory.wf x.tiles = true ∧ Memory.wf x.store = true ∧ Memory.wf x.imem = true := by
  simp [Cluster.memWf, and_assoc]

theorem mem_sins {α : Type} (m : SMap α) (k : Nat) (v : α) (e : Nat × α) (h : e ∈ sins m k v) : e = (k, v) ∨ e ∈ m := by
  induction m with
  | nil => simpa [sins] using h
  | cons x t ih =>
    obtain ⟨k', v'⟩ := x
    unfold sins at h
    split at h
    · simpa using h
    · split at h
      · rcases List.mem_cons.mp h with h | h
        · exact .inl h
        · exact .inr (List.mem_cons_of_mem _ h)
      · rcases List.mem_cons.mp h with h | h
        · exact .inr (h ▸ List.mem_cons_self ..)
        · rcases ih h with h | h
          · exact .inl h
          · exact .inr (List.mem_cons_of_mem _ h)

theorem mem_sset {α : Type} [DecidableEq α] (d : α) (m : SMap α) (k : Nat) (v : α) (e : Nat × α)
    (h : e ∈ sset d m k v) : e = (k, v) ∨ e ∈ m := by
  unfold sset at h
  split at h
  · exact .inr (List.mem_of_mem_filter h)
  · exact mem_sins m k v e h

theorem sget_mem_or {α : Type} (d : α) (m : SMap α) (k : Nat) : sget d m k = d ∨ (k, sget d m k) ∈ m := by
  induction m with
  | nil => exact .inl rfl
  | cons x t ih =>
    obtain ⟨k', v'⟩ := x
    unfold sget
    split
    · next h => subst h; exact .inr (List.mem_cons_self ..)
    · rcases ih with h | h
      · exact .inl h
      · exact .inr (List.mem_cons_of_mem _ h)

/-- A cluster of a state in canonical form has its memories in canonical form. -/
theorem State.cluster_memWf {s : State} (h : s.memWf = true) (c : Nat) : (s.cluster c).memWf = true := by
  rcases sget_mem_or {} s.clusters c with e | e
  · rw [State.cluster, e]; rfl
  · exact (s.memWf_iff.mp h).2.2.2.2 _ e

theorem State.setCluster_memWf {s : State} (c : Nat) (x : Cluster) (h : s.memWf = true) (hx : x.memWf = true) :
    (s.setCluster c x).memWf = true := by
  rw [State.memWf_iff] at h ⊢
  refine ⟨h.1, h.2.1, h.2.2.1, h.2.2.2.1, ?_⟩
  intro e he
  rcases mem_sset _ _ _ _ _ he with he | he
  · rw [he]; exact hx
  · exact h.2.2.2.2 e he

theorem State.modCluster_memWf {s : State} (c : Nat) (f : Cluster → Cluster)
    (hf : ∀ x, x.memWf = true → (f x).memWf = true) (h : s.memWf = true) : (s.modCluster c f).memWf = true :=
  State.setCluster_memWf c _ h (hf _ (State.cluster_memWf h c))

/-- An operation that leaves every memory leaves their form. -/
theorem State.memWf_congr {s t : State} (h : s.memWf = true) (h1 : t.stackMem = s.stackMem) (h2 : t.caseMem = s.caseMem)
    (h3 : t.hostMem = s.hostMem) (h4 : t.tierMem = s.tierMem) (h5 : t.clusters = s.clusters) : t.memWf = true := by
  simpa [State.memWf, h1, h2, h3, h4, h5] using h

theorem State.withHostMem_memWf {s : State} {m : Mem} (h : s.memWf = true) (hm : Memory.wf m = true) :
    (s.withHostMem m).memWf = true := by
  rw [State.memWf_iff] at h ⊢
  exact ⟨h.1, h.2.1, hm, h.2.2.2⟩

theorem State.withStackMem_memWf {s : State} {m : Mem} (h : s.memWf = true) (hm : Memory.wf m = true) :
    (s.withStackMem m).memWf = true := by
  rw [State.memWf_iff] at h ⊢
  exact ⟨hm, h.2⟩

theorem State.withCaseMem_memWf {s : State} {m : Mem} (h : s.memWf = true) (hm : Memory.wf m = true) :
    (s.withCaseMem m).memWf = true := by
  rw [State.memWf_iff] at h ⊢
  exact ⟨h.1, hm, h.2.2⟩

theorem State.withTierMem_memWf {s : State} {m : Mem} (h : s.memWf = true) (hm : Memory.wf m = true) :
    (s.withTierMem m).memWf = true := by
  rw [State.memWf_iff] at h ⊢
  exact ⟨h.1, h.2.1, h.2.2.1, hm, h.2.2.2.2⟩

theorem State.postAt_memWf {s : State} (f : Nat) (w0 : W64) (t : Nat) (w2 : W64) (st : Nat) (h : s.memWf = true) :
    (s.postAt f w0 t w2 st).memWf = true := by
  obtain ⟨r, m, o, e, hw⟩ := s.postAt_frame f w0 t w2 st
  rw [e]
  exact State.withHostMem_memWf (s := s.withRegs r) h (hw (s.memWf_iff.mp h).2.2.1)

theorem State.postFault_memWf {s : State} (c e i t k : Nat) (h : s.memWf = true) : (s.postFault c e i t k).memWf = true := by
  obtain ⟨r, m, o, e, hw⟩ := s.postFault_frame c e i t k
  rw [e]
  exact State.withHostMem_memWf (s := s.withRegs r) h (hw (s.memWf_iff.mp h).2.2.1)

theorem State.logRecord_memWf {s : State} (k c sev tp : Nat) (a b : W64) (h : s.memWf = true) :
    (s.logRecord k c sev tp a b).memWf = true := by
  obtain ⟨r, m, o, e, hw⟩ := s.logRecord_frame k c sev tp a b
  rw [e]
  exact State.withHostMem_memWf (s := s.withRegs r) h (hw (s.memWf_iff.mp h).2.2.1)

theorem State.perf_memWf {s : State} (ev p : Nat) (c : Option Nat) (n : Nat) (h : s.memWf = true) :
    (s.perf ev p c n).memWf = true := by
  obtain ⟨r, e⟩ := s.perf_frame ev p c n
  rw [e]; exact h

theorem State.signal_memWf {s : State} (c e : Nat) (w : IWord) (t b : Nat) (h : s.memWf = true) :
    (s.signal c e w t b).memWf = true := by
  unfold State.signal
  split
  · exact State.modCluster_memWf c _ (fun _ hx => hx) h
  · simp only
    split
    · obtain ⟨y, hy⟩ := s.setFlagAt_frame (flagTarget w.sigT).1 (flagTarget w.sigT).2 true c (s.cycsAt c b t)
      rw [hy]; exact h
    · exact h
  · exact h

theorem State.withMem_memWf {s : State} (sp : Space) (m : Mem) (h : s.memWf = true) (hm : Memory.wf m = true) :
    (s.withMem sp m).memWf = true := by
  cases sp with
  | stack => exact State.withStackMem_memWf h hm
  | case => exact State.withCaseMem_memWf h hm
  | store c =>
    refine State.modCluster_memWf c _ (fun x hx => ?_) h
    rw [Cluster.memWf_iff] at hx ⊢
    exact ⟨hx.1, hm, hx.2.2⟩

theorem State.memOf_wf {s : State} (sp : Space) (h : s.memWf = true) : Memory.wf (s.memOf sp) = true := by
  cases sp with
  | stack => exact (s.memWf_iff.mp h).1
  | case => exact (s.memWf_iff.mp h).2.1
  | store c => exact ((s.cluster c).memWf_iff.mp (State.cluster_memWf h c)).2.1

/-! ### Host errors -/

/-- The state but for what a host error can reach: clusters, memories, flags, requests, registers and the model's own
free choices. -/
def State.beyondErrors (s : State) : State :=
  { s with
    free := 0, clusters := [], stackMem := [], caseMem := [], flags := [], reqs := [], regs := [], hostMem := [] }

theorem State.beyondErrors_withFree (s : State) (x) : (s.withFree x).beyondErrors = s.beyondErrors := rfl
theorem State.beyondErrors_withClusters (s : State) (x) : (s.withClusters x).beyondErrors = s.beyondErrors := rfl
theorem State.beyondErrors_withStackMem (s : State) (x) : (s.withStackMem x).beyondErrors = s.beyondErrors := rfl
theorem State.beyondErrors_withCaseMem (s : State) (x) : (s.withCaseMem x).beyondErrors = s.beyondErrors := rfl
theorem State.beyondErrors_withFlags (s : State) (x) : (s.withFlags x).beyondErrors = s.beyondErrors := rfl
theorem State.beyondErrors_withReqs (s : State) (x) : (s.withReqs x).beyondErrors = s.beyondErrors := rfl
theorem State.beyondErrors_withRegs (s : State) (x) : (s.withRegs x).beyondErrors = s.beyondErrors := rfl
theorem State.beyondErrors_withHostMem (s : State) (x) : (s.withHostMem x).beyondErrors = s.beyondErrors := rfl

theorem State.beyondErrors_withMem (s : State) (sp : Space) (m : Mem) : (s.withMem sp m).beyondErrors = s.beyondErrors := by
  cases sp
  · exact s.beyondErrors_withStackMem m
  · exact s.beyondErrors_withCaseMem m
  · exact s.beyondErrors_withClusters _

theorem State.beyondErrors_modCluster (s : State) (b : Bool) (c : Nat) (f : Cluster → Cluster) :
    (if b = true then s.modCluster c f else s).beyondErrors = s.beyondErrors := by
  cases b
  · rfl
  · exact s.beyondErrors_withClusters _

theorem State.beyondErrors_setReg (s : State) (k : Nat) (v : W64) : (s.setReg k v).beyondErrors = s.beyondErrors :=
  s.beyondErrors_withRegs _

theorem State.beyondErrors_setFld (s : State) (k hi lo v : Nat) : (s.setFld k hi lo v).beyondErrors = s.beyondErrors :=
  s.beyondErrors_setReg _ _

theorem State.beyondErrors_setFlag (s : State) (d n : Nat) (v : Bool) (who : Nat) :
    (s.setFlag d n v who).beyondErrors = s.beyondErrors := by
  obtain ⟨x, e⟩ := s.setFlag_frame d n v who
  rw [e]; exact s.beyondErrors_withFlags x

/-- A host error in a ring changes the ring's registers and host memory alone. -/
theorem State.spoilRing_frame (s : State) (f n k : Nat) : (s.spoilRing f n k).beyondErrors = s.beyondErrors := by
  unfold State.spoilRing
  simp only
  split
  · exact s.beyondErrors_setFld _ _ _ _
  · exact s.beyondErrors_setFld _ _ _ _
  · exact s.beyondErrors_setFld _ _ _ _
  · exact s.beyondErrors_withHostMem _

/-- What a host error can change. -/
theorem State.spoil_frame (s : State) (p n k : Nat) : (s.spoil p n k).beyondErrors = s.beyondErrors := by
  unfold State.spoil
  simp only
  split
  · split
    · exact s.beyondErrors_withMem _ _
    · exact rfl
  · exact s.beyondErrors_modCluster _ _ _
  · exact s.beyondErrors_modCluster _ _ _
  · exact s.beyondErrors_modCluster _ _ _
  · exact s.beyondErrors_modCluster _ _ _
  · split
    · exact s.beyondErrors_setFlag _ _ _ _
    · exact rfl
  · split
    · exact rfl
    · exact s.beyondErrors_withReqs _
  · exact s.beyondErrors_setReg _ _
  · exact s.beyondErrors_setFld _ _ _ _
  · exact s.beyondErrors_setFld _ _ _ _
  · exact s.spoilRing_frame _ _ _

theorem State.withRegs_memWf {s : State} (x) (h : s.memWf = true) : (s.withRegs x).memWf = true := h
theorem State.withReqs_memWf {s : State} (x) (h : s.memWf = true) : (s.withReqs x).memWf = true := h
theorem State.withFlags_memWf {s : State} (x) (h : s.memWf = true) : (s.withFlags x).memWf = true := h
theorem Cluster.sycs_memWf {x : Cluster} (y) (h : x.memWf = true) : ({ x with sycs := y } : Cluster).memWf = true := h
theorem Cluster.banks_memWf {x : Cluster} (y) (h : x.memWf = true) : ({ x with banks := y } : Cluster).memWf = true := h
theorem Cluster.tiles_memWf {x : Cluster} (a : Nat) (b : Byte) (h : x.memWf = true) :
    ({ x with tiles := mset x.tiles a b } : Cluster).memWf = true := by
  rw [Cluster.memWf_iff] at h ⊢
  exact ⟨mset_wf _ _ h.1, h.2⟩
theorem Cluster.imem_memWf {x : Cluster} (a : Nat) (b : Byte) (h : x.memWf = true) :
    ({ x with imem := mset x.imem a b } : Cluster).memWf = true := by
  rw [Cluster.memWf_iff] at h ⊢
  exact ⟨h.1, h.2.1, mset_wf _ _ h.2.2⟩

theorem State.setFld_memWf {s : State} (k hi lo v : Nat) (h : s.memWf = true) : (s.setFld k hi lo v).memWf = true :=
  State.withRegs_memWf _ h

theorem State.spoilRing_memWf {s : State} (f n k : Nat) (h : s.memWf = true) : (s.spoilRing f n k).memWf = true := by
  unfold State.spoilRing
  simp only
  split
  · exact State.setFld_memWf _ _ _ _ h
  · exact State.setFld_memWf _ _ _ _ h
  · exact State.setFld_memWf _ _ _ _ h
  · exact State.withHostMem_memWf h (mset_wf _ _ (s.memWf_iff.mp h).2.2.1)

theorem State.setFlag_memWf {s : State} (d n : Nat) (v : Bool) (who : Nat) (h : s.memWf = true) :
    (s.setFlag d n v who).memWf = true := by
  obtain ⟨x, e⟩ := s.setFlag_frame d n v who
  rw [e]; exact State.withFlags_memWf x h

/-- A host error keeps the memories canonical. -/
theorem State.spoil_memWf {s : State} (p n k : Nat) (h : s.memWf = true) : (s.spoil p n k).memWf = true := by
  have own : ∀ (b : Bool) (c : Nat) (f : Cluster → Cluster), (∀ x, x.memWf = true → (f x).memWf = true) →
      (if b = true then s.modCluster c f else s).memWf = true := by
    intro b c f hf
    cases b
    · exact h
    · exact State.modCluster_memWf c f hf h
  unfold State.spoil
  simp only
  split
  · split
    · exact State.withMem_memWf _ _ h (mset_wf _ _ (State.memOf_wf _ h))
    · exact h
  · exact own _ _ _ (fun x hx => Cluster.tiles_memWf _ _ hx)
  · exact own _ _ _ (fun x hx => Cluster.imem_memWf _ _ hx)
  · exact own _ _ _ (fun x hx => Cluster.sycs_memWf _ hx)
  · exact own _ _ _ (fun x hx => Cluster.banks_memWf _ hx)
  · split
    · exact State.setFlag_memWf _ _ _ _ h
    · exact h
  · split
    · exact h
    · exact State.withReqs_memWf _ h
  · exact State.withRegs_memWf _ h
  · exact State.setFld_memWf _ _ _ _ h
  · exact State.setFld_memWf _ _ _ _ h
  · exact State.spoilRing_memWf _ _ _ h

/-- What holds after no free value and after each one more holds of a host error. -/
theorem foldl_keeps {β : Type} (P : State → Prop) (f : State → β → State) (hf : ∀ s x, P s → P (f s x)) (l : List β)
    (s : State) (h : P s) : P (l.foldl f s) := by
  induction l generalizing s with
  | nil => exact h
  | cons x t ih => exact ih _ (hf s x h)

theorem State.unpredictable_memWf {s : State} (p : Nat) (h : s.memWf = true) : (s.unpredictable p).memWf = true :=
  foldl_keeps (fun t => t.memWf = true) _ (fun _ _ hs => State.spoil_memWf p _ _ hs) _ _ h

/-- A host error of a partition reaches no other unit of the module (R13, R391). -/
theorem State.unpredictable_frame (s : State) (p : Nat) : (s.unpredictable p).beyondErrors = s.beyondErrors :=
  foldl_keeps (fun t => t.beyondErrors = s.beyondErrors) _ (fun t _ hs => (t.spoil_frame p _ _).trans hs) _ _
    (s.beyondErrors_withFree _)

end Sys2Proof.Machine
end

