-- ==== Sys2Proof/WellFormed.lean ====
section
/-! DEFINITION. When a command's operands are ones the manual allows. exec gives every command a meaning, well
formed or not; these checks say which commands the surroundings can send. -/

namespace Sys2Proof.WellFormed

/-- OPC of a full-tile VE form, which ROW_FORM carries over (R126). -/
def rowOpc (opc : BitVec 8) : Bool := decide (0x20 ≤ opc.toNat) && decide (opc.toNat ≤ 0x3F)

/-- A galley entry, a mirrored one too, is 64 bytes (R383). -/
def entry (e : List W64) : Bool := e.length == 8

/-- A frame's payload is whole 64-byte units, at most 64 of them (Table 12.6), and the bits of it that belong to elements
are told of all its bytes or of none. -/
def frame (f : Frame) : Bool :=
  decide (f.payload.length ≤ 4096) && f.payload.length % 64 == 0 && (f.mask.isEmpty || f.mask.length == f.payload.length)

/-- A host access lies in the 1 TiB aperture, or in the 8 MiB of instruction memory of a virtual function, and is
not empty (R374). -/
def access (f : FnId) (imem : Bool) (addr len : Nat) : Bool :=
  decide (0 < len) && (if imem then f.val != 0 && decide (0x800000 ≤ addr) && decide (addr + len ≤ 0x1000000)
    else decide (addr + len ≤ 2 ^ 40))

/-- A register lies on an 8-byte boundary, and a half is written with a 32-bit value (R12). -/
def register (f : FnId) (off : BitVec 25) (wd : Width) (v : W64) : Bool :=
  off.toNat % 8 == 0 && (f.val == 0 || decide (off.toNat < 2 ^ 24)) && (wd == .w64 || decide (v.toNat < 2 ^ 32))

/-- All thirteen sensors are read (R445). -/
def readings (raws : List Int) : Bool := raws.length == 13

/-- A bring-up plan fixes at most the five timed stages, and its links train at a generation that exists. -/
def plan (b : BootPlan) : Bool :=
  decide (b.durations.length ≤ 5) && b.linksUp.all (fun u => decide (1 ≤ u.2.1) && decide (u.2.1 ≤ 3))

/-- Training ends with a generation that exists, if a rate trained (Table 12.2). -/
def training (t : Training) : Bool := !t.up || t.gen != 0

/-- BYPASS has its own code, or one that Table 20.4 gives no other instruction. -/
def bypass (code : BitVec 8) : Bool := !(List.contains [0x01, 0x02, 0x03, 0x04, 0x05, 0x10, 0x11, 0x12] code.toNat)

/-- An idle set carries a 64-bit time (R336). -/
def idle (time : Nat) : Bool := decide (time < 2 ^ 64)

/-- A role is one of the five of R353. -/
def heartbeat (h : Heartbeat) : Bool := decide (h.role.toNat ≤ 4) && decide (h.time < 2 ^ 64)

/-- What the partner sends: whole entries, bytes within the aperture, and pages of 2 MiB of which only bytes that are
not 0 are listed (R356, R369). -/
def mirror : MirrorMsg → Bool
  | .galley _ e => entry e
  | .doorbell _ _ => true
  | .write p a bs => access ⟨p.val + 1, by omega⟩ false a bs.length
  | .page _ bs poison => bs.all (fun b => decide (b.1 < 2 ^ 21) && b.2 != 0) && poison.all (fun u => decide (u < 2 ^ 21))
  | .serving _ _ reqs _ => reqs.all (fun r => decide (r.1 < 16384))
  | .complete _ => true
  | .lagged _ _ => true

/-- A command's operands are ones the manual allows. -/
def instr : Instr → Bool
  | .rowForm _ opc _ => rowOpc opc
  | .submit _ e => entry e
  | .cancel _ e => entry e
  | .pause _ e => entry e
  | .resume _ e => entry e
  | .tierCopy _ e => entry e
  | .mirrorInput m => mirror m
  | .writeFrame _ f => frame f
  | .wgannFrame _ f => frame f
  | .rfinalFrame _ f => frame f
  | .rel _ f => frame f
  | .nak _ f => frame f
  | .credit _ f => frame f
  | .haltFrame _ f => frame f
  | .unknownOpcodeFrame _ f => frame f
  | .hostRead f imem a n => access f imem a n
  | .hostWrite f imem a bs => access f imem a bs.length
  | .registerWrite f off wd v => register f off wd v
  | .sensorRead raws _ => readings raws
  | .powerOn b => plan b
  | .linkTrained _ t => training t
  | .idleOrderedSet _ time _ _ _ _ => idle time
  | .heartbeatReceive h => heartbeat h
  | .unlock r => r.length == 64
  | .bypass code _ => bypass code
  | .nop .. | .endStream .. | .loop .. | .zacc .. | .anchor .. | .mma .. | .mmaz .. | .mmax .. | .mmaxz ..
  | .drain .. | .drainz .. | .vadd .. | .vsub .. | .vmul .. | .vfma .. | .vmax .. | .vmin .. | .vabs ..
  | .vneg .. | .vand .. | .vor .. | .vxor .. | .vshl .. | .vshr .. | .vmov .. | .vsel .. | .vcmpeq ..
  | .vcmplt .. | .vcmple .. | .vexp2 .. | .vrcp .. | .vrsq .. | .vcvt .. | .vredrSum .. | .vredrMax ..
  | .vredrMin .. | .vredcSum .. | .vredcMax .. | .vredcMin .. | .compress .. | .compressAppend .. | .expand ..
  | .expandAppend .. | .rsum .. | .rmax .. | .rmin .. | .rssum .. | .rsmax .. | .rsmin .. | .load ..
  | .store .. | .fdef .. | .nbcmd .. | .rwrite .. | .wgann .. | .rfinal .. | .flgclr .. | .copy ..
  | .transpose .. | .permute .. | .convert .. | .dieslice .. | .gather .. | .scatter .. | .scatterAdd ..
  | .instructionIssue .. | .staticCompletion .. | .mvCompletion .. | .impositionComplete .. | .nbNop ..
  | .fence .. | .nbEnd .. | .ldv .. | .stv .. | .ldq .. | .sti .. | .zst .. | .dot .. | .axpy .. | .vmac ..
  | .nbVadd .. | .nbVmul .. | .nbVmax .. | .vcmp .. | .sta .. | .exp2 .. | .osm .. | .scale .. | .cvt ..
  | .att .. | .send .. | .fin .. | .szero .. | .bcast .. | .putc .. | .nbListArrived .. | .nbListComplete ..
  | .writeLanded .. | .rfinalRelease .. | .sendStagingAccept .. | .frameBoundary .. | .slotStart ..
  | .stepComplete .. | .modeswDuty .. | .modeswToMemory .. | .modeswToProcessor .. | .recodeInPlace ..
  | .modeswDone .. | .swapDuty .. | .maintDuty .. | .dutyLenExpiry .. | .bkgd .. | .overrun ..
  | .stepWatchdog .. | .sendWindowOpen .. | .windowClose .. | .ttCommit .. | .ttSrcWrite .. | .epochPulse ..
  | .refLost .. | .linkLost .. | .fallback .. | .locked .. | .refresh .. | .refreshEnd .. | .throttleRefresh ..
  | .linkEnable .. | .retrain .. | .restore .. | .trainRetry .. | .lanesLost .. | .laneFail .. | .ackTimeout ..
  | .vc0Release .. | .wgtmo .. | .qwinExpiry .. | .heartbeatSend .. | .heartbeatAck .. | .leaseExpiry ..
  | .heartbeatMiss .. | .setroleJoining .. | .setroleSolo .. | .rsync .. | .cutover .. | .rsyncComplete ..
  | .digest .. | .compositionRecord .. | .clusterFail .. | .apply .. | .release .. | .applyDone ..
  | .releaseDone .. | .galleyDoorbell .. | .galleyNop .. | .copyDone .. | .hostEbaseWrite ..
  | .eventInterrupt .. | .perstN .. | .scuEnable .. | .compose .. | .prefixHash .. | .variantSwapDone ..
  | .scrubBurst .. | .rowCopyDone .. | .lapLimit .. | .siteSplit .. | .keepWrite .. | .keepWriteDone ..
  | .fwUpd .. | .clusterMove .. | .schSwitch .. | .pwrSwitch .. | .secSwitch .. | .trialTimeout ..
  | .horizonExpiry .. | .dramCalibration .. | .linkTrim .. | .memoryTest .. | .sensorTest ..
  | .oscCompensationTest .. | .clusterSelfTest .. | .droop .. | .vminStop .. | .frequencyStop ..
  | .clockRestart .. | .gradeChange .. | .fullChLower .. | .oscCompensation .. | .compensationPoint ..
  | .inputOvervoltage .. | .inputLoss .. | .timeStageLimit .. | .haltGo .. | .haltResume .. | .proofGo ..
  | .scanOutDone .. | .trcAuditBufWrite .. | .trcTbufWrite .. | .idcode .. | .samplePreload ..
  | .extest .. | .extestPulse .. | .extestTrain .. | .jtagHalt .. | .proofrd .. | .trstN ..
  | .i3cPrivateWrite .. | .i3cPrivateRead .. | .nbCommandDone .. | .impositionTurn .. | .tierMoveDone ..
  | .promotionDone .. | .updateStored .. | .healthyReport .. | .droopRecovery .. | .selfTestDone ..
  | .tierPortTrained .. | .idleSetSend .. | .i3cDynamicAddress .. => true

end Sys2Proof.WellFormed
end

