-- ==== Sys2Proof/Tests/Slice0.lean ====
section
/-! SUPPORT. Tests: ill-formed commands refused, single steps on small states with results worked out by hand from
the chapters, and for every obligation with hypotheses a state and operands that meet them, clause by clause. -/

namespace Sys2Proof.Tests

set_option Elab.async false

open Sys2Proof Sys2Proof.Machine

/-- A check of the next state. -/
def after (o : Host.Outcome State Fault Refusal) (f : State → Bool) : Bool :=
  match o with
  | .next t => f t
  | _ => false

/-- A powered module, READY and SOLO, partition 0 in force with cluster 0, flags 0 to 15 of C-die 0, channel 0, case
slice 0 and link 0. -/
def up : State :=
  ((((State.reset.withPower { alive := true, input := true }).setFld rHostBoot 63 61 7).setFld rMirStat 63 61 0).setBit
    (rPart 0) 63 true).withParts [(0, { tmpl := { ctl := 1, flg := 1, links := 1, rq := 1, chmap := [0x80], slmap := [0x80] }
                                        frame := some 0, actLen := 1000 })]

/-- The same with a step of slot 0 running on cluster 0, its streams of ME0, VE and MV live; at address 0 of its store
the descriptor of a forme of 16 elements in one dimension. -/
def eng : State := up.withClusters [(0, { run := some (0, 0), store := [(14, 0x40), (16, 0x10)]
                                          streams := [(0, { live := true }), (4, { live := true }),
                                              (6, { live := true })] })]


/-- State.plainWrites as a check. -/
def plain (s : State) : Bool :=
  s.integ.errs == [] && !s.tripped && s.mirror.copied == [] && allSites.all (fun t => !s.fbit (siteReg t + 16) 63)

theorem plain_plainWrites (s : State) (h : plain s = true) : s.plainWrites := by
  simp only [plain, Bool.and_eq_true, beq_iff_eq, List.all_eq_true, Bool.not_eq_true'] at h
  exact ⟨⟨h.1.1.1, h.1.1.2⟩, h.1.2, h.2⟩

theorem noMirror (s : State) (h : ∀ p, p < 16 → s.mirrored p = false) (p : Nat) : s.mirrored p = false := by
  by_cases hp : p < 16
  · exact h p hp
  · exact BitVec.getLsbD_of_ge _ _ (by omega)
/-! ### Witnesses: engines -/

theorem witness_StepRunsFrontCommand : (up.withPending [.idcode]).pending = .idcode :: [] := rfl

theorem witness_EmptyQueueTicks : State.reset.pending = [] ∧ State.reset.power.alive = false := by decide

/-- With power, and nothing but the clocks in progress. -/
theorem witness_EmptyQueueTicks_still : up.still ∧ up.pending = [] ∧ up.power.alive = true ∧ up.time.err = 0
    ∧ up.clockRuns 31 = true ∧ State.reset.clockRuns 0 = false := by
  unfold State.still
  decide +kernel

theorem witness_StepKeepsMemoriesCanonical :
    State.reset.memWf = true ∧ after (step (State.reset.withPending [.idcode])) (fun _ => true) = true := by
  decide +kernel

theorem witness_EngineInstructionIssues :
    (issueOf (.mma 0 0 {}) = some (0, 0, 0x12, {}) ∧ (0x12 : Nat) ≠ opcEnd ∧ (0x12 : Nat) ≠ opcLoop
      ∧ eng.mayIssue 0 0 {} ∧ eng.quiet 0)
    ∧ (issueOf (.vadd 0 {}) = some (0, 4, 0x20, {}) ∧ eng.mayIssue 0 4 {})
    ∧ issueOf (.nop 0 0 {}) = some (0, 0, opcNop, {}) := by
  unfold State.mayIssue State.quiet
  decide +kernel

/-- A word of each group of operations that runs: element-wise on FP32 and on INT16, a conversion to BF16, a
reduction, and the matrix engine's on BF16, FP32, INT8 and E4M3. -/
theorem witness_EngineResults :
    (veRuns 0x20 {} = true ∧ Fmt.ofCode ({} : IWord).opf.toNat = some .fp32 ∧ Fmt.intWidth .fp32 = none
      ∧ veRuns 0x2C { opf := 14 } = true ∧ Fmt.intWidth .int16 = some 16 ∧ veRuns 0x36 {} = true
      ∧ veRuns 0x2D { opf := 12 } = true ∧ veRuns 0x37 { opnd := 0x10 } = true
        ∧ Fmt.ofCode (opnd ({ opnd := 0x10 } : IWord) 7 4) = some .bf16)
    ∧ (veRuns 0x38 {} = true ∧ veRuns 0x3D {} = true ∧ veIsRow 0x3D = false ∧ veRuns 0x40 {} = true
      ∧ veRuns 0x43 {} = true
      ∧ inRows 0x20 5 127 ∧ veIsRow 0x20 = false)
    ∧ (ruRuns 0x50 {} = true ∧ ruRuns 0x56 { opf := 1 } = true)
    ∧ (meRuns 0x10 {} = true ∧ meRuns 0x11 {} = true ∧ meRuns 0x12 {} = true ∧ meRuns 0x13 { opf := 1 } = true
      ∧ meRuns 0x12 { opf := 8 } = true ∧ meRuns 0x15 { opf := 3 } = true ∧ meRuns 0x19 {} = true) := by
  unfold inRows
  decide +kernel

/-- The empty instruction memory's words are NOPs. -/
theorem witness_nextWord : eng.nextWordIs 0 0 opcNop {} ∧ eng.nextWordIs 0 engMv opcNop {} := by
  unfold State.nextWordIs
  decide +kernel

/-- The same with two bits wrong in the first word of its kernel. -/
def badWord : State := eng.withInteg { errs := [(imemKey 0 0, { flips := [(0, 3, 0, false)] })] }

theorem witness_EndAndLoopSteerTheStream : eng.mayIssue 0 6 {} ∧ eng.quiet 0 ∧ (eng.cluster 0).tracked.length < 32
    ∧ eng.mayIssue 0 4 { sigK := 1 } ∧ (eng.cluster 0).run = some (0, 0)
    ∧ ((eng.setSlot 0 0 (some { kernel := 0, start := 0, len := 9, clusters := [0], waiting := [], phase := .step })).slot 0 0).isSome = true
    ∧ (badWord.imemBad 0 (badWord.stream 0 4).pc = true ∧ badWord.mayIssue 0 4 {} ∧ badWord.quiet 0
      ∧ (badWord.cluster 0).tracked.length < 32) := by
  unfold State.mayIssue State.quiet
  decide +kernel

/-- A wait for a counter at 1. -/
def waits : IWord := { w0K := 1, base := 1 }

theorem witness_UnmetConditionHoldsTheEngine :
    issueOf (.vadd 0 waits) = some (0, 4, 0x20, waits) ∧ eng.quiet 0 ∧ (eng.stream 0 4).acq = none
      ∧ ∀ n, ((eng.atCyc 0 n).condHolds 0 waits.w0K waits.w0T waits (eng.stream 0 4).iter
        && (eng.atCyc 0 n).condHolds 0 waits.w1K waits.w1T waits (eng.stream 0 4).iter) = false := by
  refine ⟨rfl, ?_, by decide +kernel, fun _ => rfl⟩
  unfold State.quiet
  decide +kernel

/-- One instruction of VE in flight, due. -/
def flying : Flight :=
  { eng := 4, opc := 0x20, w := {}, idx := 0, it := 0, issueNs := 0, issueCc := 0, readEnd := 0, due := 0, reads := [], span := []
    src := [], bankIn := none, bankOut := none, out := [], counts := [], fault := none, cin := 0, met := [] }

theorem witness_StaticCompletionWritesResults :
    let s := eng.modCluster 0 (fun x => { x with flight := [flying] })
    (s.cluster 0).flight = [flying] ∧ flying.eng = 4 ∧ flying.due ≤ (s.cluster 0).cyc ∧ flying.fault = none
      ∧ flying.early = none ∧ (s.cluster 0).mvDue = none ∧ ({ flying with w := { sigK := 1 } } : Flight).w.sigK = 1
      ∧ (let w : IWord := { sigK := 2, sigT := 15 }
         w.sigK = 2 ∧ s.flagGranted 0 (bf w.sigT 8 8) (bf w.sigT 7 0) = true) := by
  decide +kernel

/-- A change of a flag of C-die 0 that no cluster has counted a cycle since. -/
def changed : FlagChange := ⟨true, List.replicate 32 0⟩

/-- A counter at its limit and one below, with a signal of the cycle before. -/
theorem witness_SignalsAndFlagsAreSeen_counter :
    (let x : Cluster := { sycs := [(3, 7)], sycFresh := [(3, 5)], cyc := 5 }
     (∀ e ∈ x.sycFresh, e.1 = 3 → e.2 ≤ 5) ∧ sget 0 x.sycs 3 < 2 ^ 32 - 1 ∧ (5 : Nat) < 5 + 2)
    ∧ sget 0 ({ sycs := [(3, 2 ^ 32 - 1)] } : Cluster).sycs 3 = 2 ^ 32 - 1 := by
  decide

/-- An MV operation that completes and signals, at its own row and with the list it fetched. -/
theorem witness_SignalsAndFlagsAreSeen_mv :
    let o : MvOp := { seq := 0, opc := 0x6C, w := { sigK := 1 }, idx := 0, it := 0, issueNs := 0, clearFlag := some (0, 15) }
    let s := eng.modCluster 0 (fun x => { x with mv := [o] })
    (s.cluster 0).mv = [o] ∧ o.done = false
      ∧ after (exec (.mvCompletion 0 0) (s.muted 0 o)) (fun t => (t.cluster 0).mv.isEmpty) = true := by
  decide +kernel

theorem witness_SignalsAndFlagsAreSeen :
    ({ sigK := 3 } : IWord).sigK = 3 ∧ ({ sigK := 1 } : IWord).sigK = 1
      ∧ ({ sigK := 2, sigT := 15 } : IWord).sigK = 2 ∧ up.flagGranted 0 0 15 = true ∧ up.flagGranted 0 0 16 = false
      ∧ ((up.atCyc 0 11).sees 0 0 changed = false ∧ (up.atCyc 0 12).sees 0 0 changed = true
        ∧ (up.atCyc 16 39).sees 16 0 changed = false ∧ (up.atCyc 16 40).sees 16 0 changed = true)
      ∧ (let s := up.withFlags [(0, { changes := [changed] })]
         (s.flag 0 0).changes = [] ++ changed :: [] ∧ s.sees 0 0 changed = false
           ∧ ∀ h ∈ ((s.atCyc 0 12).flag 0 0).changes, (s.atCyc 0 12).sees 0 0 h = true) := by
  decide +kernel

/-- An imposition operation of 16 elements copied from one place of the stacks to another. -/
def imp : ImpOp :=
  { seq := 0, idx := 0, code := impCopy, nop := false, fault := none, part := 0, d0 := 0, d1 := 0
    src := { w1 := 1 <<< 54, w2 := 16 }, dst := { w0 := 0x4000, w1 := 1 <<< 54, w2 := 16 }, ix := {}, ssc := {}, dsc := {}
    ranges := [], pos := 0, total := none, slot := 0 }

/-- An engine word of cluster 0's MV stream that passes its checks. -/
def goes (s : State) (i : Instr) (opc : Nat) (w : IWord) : Bool :=
  match issueOf i, s.planMv 0 0 0 opc w (s.mvOpOf 0 opc w) (s.stream 0 engMv).iter with
  | some (0, 6, o, v), (.op q [], _, _, m) => o == opc && v == w && !s.mvHeldBy 0 opc w q m && !q.done && q.fault.isNone
      && !s.flagFault 0 w && decide ((s.cluster 0).tracked.length < 32)
          && decide (((s.cluster 0).share (opnd w 19 18)).length < 8)
  | _, _ => false

/-- The plan of an MV instruction of cluster 0 is to do nothing. -/
def runsNop (s : State) (opc : Nat) (w : IWord) : Bool :=
  match s.planMv 0 0 0 opc w (s.mvOpOf 0 opc w) (s.stream 0 engMv).iter with
  | (.nop, _, _, _) => true
  | _ => false

/-- The plan of an MV instruction of cluster 0 is to fault with code k. -/
def faults (s : State) (opc : Nat) (w : IWord) (k : Nat) : Bool :=
  match s.planMv 0 0 0 opc w (s.mvOpOf 0 opc w) (s.stream 0 engMv).iter with
  | (.op o [j], none, none, none) => o == s.mvOpOf 0 opc w && j == k
  | _ => false

theorem witness_MvInstructionIssues : eng.mayIssue 0 engMv {} ∧ eng.quiet 0 ∧ eng.integ.errs = []
    ∧ (eng.cluster 0).run = some (0, 0) ∧ goes eng (.fdef 0 {}) 0x62 {} = true
      ∧ goes eng (.flgclr 0 { opnd := 15 }) 0x6C { opnd := 15 } = true
    ∧ goes (eng.setChan 0 { state := .processor }) (.nbcmd 0 {}) 0x66 {} = true
      ∧ goes eng (.copy 0 {}) 0x64 (impWord impCopy {}) = true
    ∧ (issueOf (.load 0 {}) = some (0, engMv, 0x60, {}) ∧ runsNop eng 0x60 {} = true)
    ∧ (issueOf (.endStream 0 6 {}) = some (0, engMv, opcEnd, {}) ∧ runsNop eng opcEnd {} = true ∧ opcEnd ≠ opcLoop)
    ∧ (eng.mvFull 0 0x62 {} = false ∧ eng.mvStale 0 0 0x62 {} (eng.mvOpOf 0 0x62 {}) = false)
    ∧ (let s := eng.modCluster 0 (fun x => { x with shares := [(0, [{ imp with ranges := List.replicate 32 ⟨false, 0, 1, true⟩ }])] })
       s.mayIssue 0 engMv {} ∧ s.quiet 0 ∧ 32 ≤ (s.cluster 0).tracked.length) := by
  unfold State.mayIssue State.quiet
  decide +kernel

/-- The mover ready: formes of 16 elements of the stacks in handles 0 and 1, of 16 INT32 numbers in handle 2 and a
die-sliced one in handle 3; group 1 routed over link 0; at 64 and 128 of the store two descriptors, each from handle 0,
with an identity PERM, to handle 1 by handle 2, and to handle 3. -/
def mover : State :=
  (eng.modCluster 0 (fun x => { x with
    formes := [(0, some imp.src), (1, some imp.dst), (2, some { imp.src with w1 := imp.src.w1 ||| 10 <<< 60 }),
      (3, some { imp.dst with w1 := imp.dst.w1 ||| 2 <<< 58 })]
    store := [(14, 0x40), (16, 0x10), (68, 0x08), (69, 0x10), (72, 0x88), (73, 0xC6), (74, 0x02), (133, 0x30)] })).setReg
      (rRoute 0 1) (3 <<< 62)

/-- What MvInstructionIssues asks of an imposition operation at word w. -/
def impRuns (y : Instr × Nat) (w : IWord) : Bool :=
  let x := mover.cluster 0
  let ds := mover.descWords 0 w
  let d0 := wordAt ds 0
  match x.forme (descSrc d0), x.forme (descDst d0) with
  | some a, some b =>
    !impNop 0 y.2 d0 (wordAt ds 1) (some a) (some b) (x.forme (descIdx d0)) (x.forme (descSsc d0)) (x.forme (descDsc d0))
      && !impOverlap y.2 d0 (wordAt ds 1) a b && decide (w.imm.toNat % 64 = 0)
          && decide ((x.share (opnd w 19 18)).length < 8)
  | _, _ => false

theorem witness_MvInstructionIssues_forms :
    (mover.mayIssue 0 engMv {} ∧ (mover.cluster 0).flight = [] ∧ (mover.cluster 0).mvDue = none
      ∧ (mover.cluster 0).tracked = [] ∧ (mover.cluster 0).run = some (0, 0) ∧ mover.integ.errs = []
      ∧ mover.flagFault 0 {} = false ∧ (mover.cluster 0).mvQueue < 32)
    ∧ ((mover.cluster 0).forme 0 = some imp.src ∧ imp.src.space ≠ 2 ∧ mover.staleForme 0 imp.src = false
      ∧ ((imp.src.blockBytes 0).all (fun bb => (mover.formeXl 0 imp.src bb.addr).any mover.lineOk)) = true)
    ∧ mover.formeFault (mover.tmpl 0) (Forme.ofWords (mover.descWords 0 {})) = none
    ∧ ((mover.tmpl 0).chans.contains 0 = true ∧ ((mover.setChan 0 { state := .processor }).chan 0).state = .processor)
    ∧ (mover.remote 0 0 = none ∧ mover.remote 0 1 = some (3 <<< 62 : W64)
      ∧ (mover.tmpl 0).hasLink (bf (3 <<< 62 : W64) 61 56) = true
      ∧ (mover.cluster 0).openGroups = [] ∧ mover.flagGranted 0 0 15 = true)
    ∧ ((impForms 0 {}).all (fun y => impRuns y { imm := 64 } || y.2 == impDieslice)) = true
    ∧ impRuns (.dieslice 0 { imm := 128 }, impDieslice) { imm := 128 } = true := by
  unfold State.mayIssue
  decide +kernel

theorem witness_MvFaultsAreCheckedAndReported :
    (({ imm := 63 } : IWord).imm.toNat % 64 ≠ 0 ∧ opnd ({} : IWord) 17 14 < 8 ∧ ({} : IWord).imm.toNat % 64 = 0)
    ∧ ((eng.tmpl 0).chans.contains 1 = false ∧ (eng.tmpl 0).chans.contains 0 = true ∧ (eng.chan 0).state ≠ .processor)
    ∧ (eng.flagGranted 0 0 16 = false ∧ eng.flagGranted 0 0 15 = true ∧ (eng.cluster 0).forme 0 = none)
    ∧ (issueOf (.fdef 0 { imm := 1 }) = some (0, engMv, 0x62, { imm := 1 }) ∧ eng.mayIssue 0 engMv { imm := 1 }
      ∧ eng.quiet 0
      ∧ eng.integ.errs = [] ∧ eng.flagFault 0 { imm := 1 } = false ∧ (eng.cluster 0).run = some (0, 0)
      ∧ (eng.cluster 0).tracked.length < 32
      ∧ faults eng 0x62 { imm := 1 } fltAlign = true)
    ∧ (let s := eng.modCluster 0 (fun x => { x with mv := List.replicate 32 (eng.mvOpOf 0 0x62 {}) })
       s.mayIssue 0 engMv {} ∧ (s.cluster 0).flight = [] ∧ goes s (.fdef 0 {}) 0x62 {} = true ∧ 32 ≤ (s.cluster 0).mvQueue
         ∧ (s.cluster 0).mvDue = none ∧ (s.tmpl 0).hasCluster 0 = true) := by
  unfold State.mayIssue State.quiet
  decide +kernel

/-! ### Witnesses: mover and imposition engines -/

/-- The MV stream with one operation in flight. -/
def moving (o : MvOp) : State := eng.modCluster 0 (fun x => { x with mv := [o] })

/-- An operation in flight with code opc. -/
def mvo (opc : Nat) : MvOp := { seq := 0, opc := opc, w := {}, idx := 0, it := 0, issueNs := 0 }

/-- A byte for a memory of C-die 0, and one for C-die 1. -/
def near : PWrite := ⟨.stack, 5, 0xFF, 7⟩
def far : PWrite := ⟨.stack, 4 * stackBytes, 0xFF, 7⟩

/-- What MvCompletionDoesItsWork asks of every operation. -/
def inFlight (o : MvOp) : Bool :=
  let s := moving o
  (s.cluster 0).mv == [o] && (s.cluster 0).flight == [] && (s.cluster 0).run == some (0, 0) && s.clockRuns 0 && !o.done
    && o.list.isNone && o.imp.isNone && o.link.isNone && o.w.sigK == 0 && s.calm o.places && !s.mirrored 0 && plain s

theorem witness_MvCompletionDoesItsWork :
    (let o := { mvo 0x60 with loads := [⟨0, 0xFF, none, 9, 0xFF⟩, ⟨1, 0xFF, some (.stack, 3), 0, 0x0F⟩] }
     inFlight o = true ∧ (moving o).byteAt .stack 3 = 0)
    ∧ (let o := { mvo 0x61 with writes := [near], tsrc := [(4, 0xFF)] }
       let s := (moving o).modCluster 0 (fun x => { x with tiles := [(4, 7)] })
       inFlight o = true ∧ o.tsrc.length = o.writes.length ∧ tileByte (s.cluster 0).tiles (4, 0xFF) = near.val
         ∧ dieOfSpace near.sp near.addr = 0 / 16)
    ∧ (let o := { mvo 0x68 with writes := [far], tsrc := [(4, 0xFF)], group := some 15 }
       inFlight o = true ∧ o.group.isSome = true ∧ dieOfSpace far.sp far.addr ≠ 0 / 16)
    ∧ inFlight { mvo 0x69 with group := some 15, announce := some 0 } = true
    ∧ (inFlight { mvo 0x6A with group := some 0, finalFlag := some (1, 255, false) } = true
      ∧ (eng.group (groupKey 0 0 0)).held = none)
    ∧ inFlight { mvo 0x6C with clearFlag := some (0, 15) } = true
    ∧ ((moving { mvo 0x61 with writes := [near] }).setChan 0 { refreshing := some 0 }).calm { mvo 0x61 with writes := [near] }.places = false := by
  decide +kernel

theorem witness_ImpositionEnginesTakeTurns :
    State.reset.clockRuns 16 = false
    ∧ (let s := up.withTurns [(11, 64)]
       (s.dieClk 0).cyc < sget 0 s.turns (8 + 3) ∧ sget 0 s.turns (8 + 3) ≤ ((s.setDieClk 0 { cyc := 64 }).dieClk 0).cyc)
    ∧ (up.clockRuns 16 = true ∧ sget 0 up.turns (8 + 7) ≤ (up.dieClk 1).cyc ∧ ∀ j, j < 16 →
      (up.cluster (16 + j)).share 3 = [])
    ∧ (let s := up.modCluster 15 (fun x => { x with shares := [(3, [imp])] })
       ((s.withTurns [(3, 15)]).cluster (15 % 16)).share 3 = [imp])
    ∧ (let o := { imp with total := some 2, pos := 1 }
       let s := (moving (mvo 0x64)).modCluster 0 (fun x => { x with shares := [(0, [o])] })
       (s.cluster 0).share 0 = [o] ∧ s.clockRuns 0 = true ∧ o.fault = none ∧ (mvo 0x64).seq = o.seq
           ∧ (mvo 0x64).fault = none
         ∧ (mvo 0x64).w.sigK = 0 ∧ o.pos < 2 ∧ 2 ≤ o.pos + 1)
    ∧ (imp.total = none ∧ imp.nop = false ∧ up.impFault imp = none ∧ imp.code ≤ impDieslice
      ∧ impIdentity imp.code 0 0 imp.src imp.src = true ∧ up.impFault { imp with dst := imp.src } = none
      ∧ up.impFault { imp with fault := some fltOverlap } = some fltOverlap) := by
  decide +kernel

theorem witness_ImpositionMoves :
    (let o := { imp with total := some 1 }
     plain up = true ∧ o.code ≤ impDieslice ∧ o.total = some (o.pos + 1) ∧ up.unitWaits o = false)
    ∧ (imp.dst.has (15, [0, 0, 0, 0, 0]) = true ∧ imp.dst.has (16, [0, 0, 0, 0, 0]) = false
      ∧ ((15, [0, 0, 0, 0, 0]), some (15, [0, 0, 0, 0, 0])) ∈ unitElems imp 0
      ∧ ((15, [0, 0, 0, 0, 0]), none) ∈ unitElems { imp with src := { imp.src with w2 := 15 } } 0)
    ∧ (movesCodes imp = true ∧ imp.src.fmt = imp.dst.fmt ∧ scaledDst imp = false ∧ imp.dst.fmt ≠ .zb8
      ∧ imp.dst.distinct = true ∧ imp.dst.padFill = false) := by
  decide +kernel

theorem witness_ImpositionMoves_placed : up.unitPlaced imp 0 := by
  unfold State.unitPlaced State.located State.plainReads
  decide +kernel

/-- A conversion to E4M3 with a scale forme, and one to ZB8. -/
def scaling : ImpOp :=
  { imp with code := impConvert, d0 := 1 <<< 12, dst := { imp.dst with w1 := imp.dst.w1 ||| 3 <<< 60 }
             dsc := { imp.dst with w0 := 0x8000, w1 := imp.dst.w1 ||| 13 <<< 60 } }
def toZb8 : ImpOp := { imp with code := impConvert, dst := { imp.dst with w1 := imp.dst.w1 ||| 12 <<< 60, w2 := 240 } }

theorem witness_ImpositionMoves_converts :
    (movesCodes scaling = false ∧ scaledDst scaling = true ∧ scaling.dst.fmt = .e4m3 ∧ scaling.dsc.fmt = .e8m0
      ∧ scaling.dsc.has (scaleIdx (0, [0, 0, 0, 0, 0])) = true
      ∧ (scaling.dsc.elemAddrs (scaleIdx (0, [0, 0, 0, 0, 0]))).all (fun a => (up.formeXl 0 scaling.dsc a).isSome) = true)
    ∧ (movesCodes toZb8 = false ∧ scaledDst toZb8 = false ∧ toZb8.dst.fmt = .zb8 ∧ toZb8.dst.size 0 % 240 = 0) := by
  decide +kernel

/-- A SCATTERADD of one row onto one that held 1.0's pattern. -/
def adding : ImpOp :=
  { imp with code := impScatterAdd, codes := List.replicate 16 (some (3, 0)), prior := List.replicate 16 (1, 0) }

theorem witness_ImpositionMoves_rows :
    adding.dst.fmt = adding.src.fmt ∧ (15 : Nat) < unitLen ∧ 0 * unitLen + 15 < adding.dst.size 0
      ∧ ((List.range (adding.dst.size 0)).all (fun y => (adding.dst.elemAddrs (y, [0, 0, 0, 0, 0])).all (fun a =>
          (up.formeXl 0 adding.dst a).isSome))) = true
      ∧ adding.codes.length = adding.dst.size 0 ∧ adding.codes.getD (0 * unitLen + 15) none = some (3, 0)
      ∧ 3 < 2 ^ adding.dst.fmt.bits ∧ roundsEach adding.dst.fmt = true ∧ adding.prior.length = adding.dst.size 0
      ∧ (adding.dst.size 1 : Int) ≤ 1 := by
  decide +kernel

theorem witness_WritesLandAndFinalsRelease :
    (let s := up.withLanding [{ part := 0, slot := 0, cluster := 0, writes := [near], group := some 5 }]
     s.landing[0]?.isSome = true ∧ s.mirrored 0 = false ∧ plain s = true ∧ s.calm (placesOf [near]) = true
         ∧ (s.setChan 0 { refreshing := some 0 }).calm (placesOf [near]) = false)
    ∧ (up.group (groupKey 0 31 15)).ready = false
    ∧ (let h : HeldFinal := { writes := [near], die := 0, flag := 3, granted := true, part := 0, slot := none, since := 0 }
       let s := up.setGroup (groupKey 0 31 15) { count := 2, announced := some 2, held := some h }
       s.group (groupKey 0 31 15) = { count := (s.group (groupKey 0 31 15)).count, announced := some 2, held := some h }
         ∧ 2 ≤ (s.group (groupKey 0 31 15)).count ∧ plain s = true ∧ s.mirrored h.part = false ∧ h.whole = true
         ∧ s.calm (placesOf h.writes) = true ∧ (∀ q ∈ h.writes, s.lineOk (q.sp, q.addr) = true)
         ∧ (s.setChan 0 { refreshing := some 0 }).calm (s.group (groupKey 0 31 15)).places = false)
    ∧ (let h : HeldFinal := { writes := [near], die := 0, flag := 3, granted := true, part := 0, slot := none, since := 0 }
       let s := up.setGroup (groupKey 48 31 15) { count := 2, announced := some 2, held := some h }
       s.group (groupKey (47 + 1) 31 15) = { count := (s.group (groupKey (47 + 1) 31 15)).count, announced := some 2, held := some h }
         ∧ 2 ≤ (s.group (groupKey (47 + 1) 31 15)).count ∧ h.slot = none ∧ s.sends 47 = false) := by
  decide +kernel

/-! ### Witnesses: near-bank processing -/

/-- A near-bank command of operation op on bank 0 and all dies, LEN 1, VB 1. -/
def nbBytes (op : Byte) : List Byte := [0, 0, 0, 0, 0, 0, 0, 0, 0, 1, 1, 0, 0, 0, 4, op]

/-- A list of one such command in two lines, arrived. -/
def nbList (op : Byte) : NbList :=
  { cluster := 0, seq := 0, part := 0, addr := 0, len := 2, arrived := true, bytes := nbBytes op ++ List.replicate 112 0 }

/-- Channel 0 in processor mode with the list at its head. -/
def near0 (l : NbList) : State := up.setChan 0 { state := .processor, lists := [l], wlimit := 1 }

/-- The rows of Table 8.9 for channel 0 of stack 0. -/
def nbRows : List Instr :=
  [.nbNop 0 0, .fence 0 0, .nbEnd 0 0, .ldv 0 0, .stv 0 0, .ldq 0 0, .sti 0 0, .zst 0 0, .dot 0 0, .axpy 0 0, .vmac 0 0,
   .nbVadd 0 0, .nbVmul 0 0, .nbVmax 0 0, .vcmp 0 0, .sta 0 0, .exp2 0 0, .osm 0 0, .scale 0 0, .cvt 0 0, .att 0 0,
       .send 0 0,
   .fin 0 0, .szero 0 0, .bcast 0 0, .putc 0 0]

/-- The command of a row may start, within its limits. -/
def nbReady (i : Instr) : Bool :=
  match nbOf i with
  | some (0, op) =>
    let l := nbList (BitVec.ofNat 8 op)
    let s := near0 l
    !s.frozen && (s.chan 0).state.runs && (s.chan 0).refreshing.isNone && (s.chan 0).lists == [l] && l.arrived
      && !l.ended && l.cmd.op == op && l.mayStart l.cmd && (!l.cmd.isBurst || s.powerAllows 0 l l.cmd)
      && l.cmd.inLimits l (s.storeTop l.cluster) && (op == 7 || op == 0x20 || l.cmd.dies == List.range 16)
  | _ => false

theorem witness_NearBankCommandsStartOrWait :
    nbRows.all nbReady = true
    ∧ ((nbList 4).cmd.time false ≠ (0, 0) ∧ (nbList 1).cmd.time false = (0, 0) ∧ ChState.toMemory.runs = true
      ∧ ChState.memory.runs = false)
    ∧ (nbOf (.ldv 7 15) = some (127, 4) ∧ (up.chan 127).lists = [])
    ∧ ((near0 { nbList 4 with arrived := false }).chan 0).lists = [{ nbList 4 with arrived := false }]
    ∧ (let s := (near0 (nbList 4)).modChan 0 (fun ch => { ch with bursts := [⟨0, 0, none, [], none⟩] })
       (nbList 4).cmd.isBurst = true ∧ (nbList 4).mayStart (nbList 4).cmd = true
         ∧ s.powerAllows 0 (nbList 4) (nbList 4).cmd = false) := by
  decide +kernel

theorem witness_NearBankComputes : nbRows.all nbReady = true ∧ up.integ.errs = [] ∧ up.integ.retired = []
    ∧ 15 ∈ (nbList 4).cmd.dies := by
  decide +kernel

theorem witness_NearBankStores :
    nbReady (.stv 0 0) = true ∧ nbReady (.sta 0 0) = true ∧ nbReady (.sti 0 0) = true ∧ up.mirror.copied = []
        ∧ (∀ p, (near0 (nbList 5)).mirrored p = false)
    ∧ (let s := near0 (nbList 5)
       (s.chan 0).dirty.length + (nbList 5).cmd.len ≤ (s.chan 0).wlimit)
    ∧ (let s := (near0 (nbList 5)).modChan 0 (fun ch => { ch with dirty := [9000] })
       (s.chan 0).wlimit ≤ (s.chan 0).dirty.length
         ∧ ∀ u, u < (nbList 5).cmd.len → (s.chan 0).dirty.contains (segOf 0 ((nbList 5).cmd.off + 32 * u)) = false) := by
  refine ⟨by decide +kernel, by decide +kernel, by decide +kernel, by decide +kernel, noMirror _ (by decide +kernel),
    by decide +kernel, ?_⟩
  decide +kernel

/-- A command that runs and holds the stack bus, STI's with its rows, and one that does not. -/
def onBus : NbRun :=
  { bank := some 0, slot := none, onBus := true, next := 5, due := 16, isPutc := false, puts := [], burst := none }
def stiRun : NbRun := { onBus with next := 300, row := 7, lastRow := 8 }
def offBus : NbRun :=
  { bank := some 0, slot := none, onBus := false, next := 0, due := 16, isPutc := true, puts := [⟨.store 0, 1, 0xFF, 2⟩], burst := none }

/-- The module at fabric time t. -/
def atNs (s : State) (t : Nat) : State := s.withTime { s.time with ns := t }

/-- Stack 1, channel 2, with a mode switch to do. -/
def switching (st : ChState) : State := up.setChan (chanKey 1 2) { state := st, switch := some (7, none), dirty := [3] }

theorem witness_ModeSwitchAndRefresh :
    (((switching .toProcessor).chan (chanKey 1 2)).switch = some (7, none) ∧ (switching .toProcessor).frozen = false
      ∧ ((switching .toProcessor).chan (chanKey 1 2)).refreshing = none ∧ up.integ.errs = [] ∧ up.integ.retired = []
      ∧ up.integ.waitRows = [] ∧ ((switching .toProcessor).chan (chanKey 1 2)).lists = []
      ∧ ((switching .toProcessor).chan (chanKey 1 2)).state = .toProcessor
      ∧ (switching .toProcessor).lineBusy (chanKey 1 2) = false
      ∧ ((switching .toMemory).chan (chanKey 1 2)).state = .toMemory
        ∧ ((switching .recoding).chan (chanKey 1 2)).state = .recoding)
    ∧ (let s := (switching .toMemory).modChan (chanKey 1 2) (fun ch => { ch with lists := [nbList 4] })
       (s.chan (chanKey 1 2)).lists ≠ [] ∧ (s.chan (chanKey 1 2)).switch = some (7, none))
    ∧ (let l := { nbList 4 with running := [onBus, offBus] }
       let s := atNs (near0 l) 3900
       (s.chan (chanKey 0 0)).lists = [l] ∧ s.frozen = false ∧ (s.chan (chanKey 0 0)).refreshing = none
           ∧ s.power.alive = true
         ∧ s.now % 3900 = 240 * 0 + 20 * 0 ∧ ∀ r ∈ { nbList 4 with running := [{ onBus with due := 70000 }, offBus] }.running,
           r.onBus = true → 0 < r.next → 16 * s.now < r.due)
    ∧ (let s := (up.withTime { ns := 3740 }).setBit rThmStat 17 true
       (s.chan (chanKey 7 15)).lists = [] ∧ (s.chan (chanKey 7 15)).bursts = [] ∧ (s.chan (chanKey 7 15)).switch = none
         ∧ (s.chan (chanKey 7 15)).refreshing = none ∧ s.power.alive = true ∧ s.now % 3900 = 240 * 15 + 20 * 7
         ∧ s.fbit rThmStat (10 + 7) = true ∧ (s.withTime { ns := 1790 }).now % 3900 = (240 * 15 + 20 * 7 + 1950) % 3900)
    ∧ (up.fbit rThmStat (10 + 7) = false ∧ up.now % 3900 ≠ 240 * 15 + 20 * 7)
    ∧ (let s := (up.withTime { ns := 350 }).setChan 0 { refreshing := some 0 }
       (s.chan 0).refreshing = some 0 ∧ 0 + 350 ≤ s.now ∧ (s.withTime { ns := 349 }).now < 0 + 350) := by
  decide +kernel

/-- A list that has its turn and has not arrived. -/
def turned : NbList := { nbList 4 with turn := some 0, arrived := false }

theorem witness_NearBankListsRunAndEnd :
    (let s := (near0 turned).withTime { ns := 1 }
     (s.chan (chanKey 0 0)).lists = [turned] ∧ s.frozen = false ∧ turned.turn = some 0 ∧ turned.arrived = false
       ∧ (s.chan (chanKey 0 0)).state.runs = true ∧ 0 + 5 * turned.len ≤ 16 * s.now ∧ s.integ.errs = [])
    ∧ ((nbList 4).ended = false ∧ { nbList 2 with ended := true, running := [onBus] }.running ≠ [])
    ∧ (let l := { nbList 2 with ended := true }
       let s := (moving (mvo 0x66)).setChan 0 { state := .processor, lists := [l, nbList 4] }
       (s.chan 0).lists = [l, nbList 4] ∧ l.running = [] ∧ l.addrSt = false ∧ l.ueSt = false ∧ l.wbSt = false
         ∧ (s.cluster l.cluster).mv = [mvo 0x66] ∧ (mvo 0x66).seq = l.seq ∧ (mvo 0x66).w.sigK = 0)
    ∧ (let l := { nbList 4 with running := [onBus, offBus] }
       let s := (near0 l).withTime { ns := 1 }
       l.running[0]? = some onBus ∧ l.running[1]? = some offBus ∧ (s.chan 0).refreshing = none
         ∧ 16 * (near0 l).now < onBus.due ∧ onBus.due ≤ 16 * s.now ∧ onBus.onBus = true ∧ 0 < onBus.next
         ∧ offBus.due ≤ 16 * s.now ∧ offBus.onBus = false ∧ onBus.row = 0 ∧ stiRun.row ≠ 0 ∧ stiRun.onBus = true
           ∧ 0 < stiRun.next
         ∧ plain s = true ∧ ∀ p, p < 16 → s.mirrored p = false) := by
  decide +kernel

/-! ### Witnesses: time and timetables -/

theorem witness_EpochPulseLoadsOnce :
    up.timeSrc ≠ 1
    ∧ (let s := (up.setReg rTtSrc 1).setBit rTtStatus 0 true
       s.timeSrc = 1 ∧ s.power.alive = true ∧ s.mayLoad = false ∧ s.time.altInUse = false ∧ s.slews = true)
    ∧ (let s := ((up.setReg rTtSrc 1).setBit rTtStatus 0 true).withTime { altInUse := true }
       s.timeSrc = 1 ∧ s.mayLoad = false ∧ s.time.altInUse = true)
    ∧ (let s := up.setReg rTtSrc 1
       s.timeSrc = 1 ∧ s.power.alive = true ∧ s.mayLoad = true) := by
  decide +kernel

/-- Time from link 47, with link 5 as the other one. -/
def byLink : State := up.setReg rTtSrc (5 <<< 26 ||| 47 <<< 18 ||| 2)

theorem witness_TimeSourceChangesAndLosses :
    (up.fld rHostBoot 63 61 ≠ 5 ∧ bf (0 : W64) 1 0 = 0)
    ∧ ((up.setReg rTtSrc 1).timeSrc = 1 ∧ (up.setReg rTtSrc 1).time.altInUse = false ∧ up.timeSrc ≠ 1)
    ∧ (byLink.timeLink = some 47 ∧ up.timeLink ≠ some 47 ∧ byLink.lkState 47 ≠ 2
      ∧ (let s := byLink.setFld (rLst 47) 63 62 2
         s.lkState 47 = 2 ∧ (atNs s 9999).now < (s.link 47).pAt + 10000 ∧ (s.link 47).pAt + 10000 ≤ (atNs s 10000).now))
    ∧ (let s := (byLink.setFld (rLst 5) 63 62 2).setBit (rLst 5) 55 true
       s.time.altInUse = false ∧ s.fld (rLst (s.fld rTtSrc 31 26)) 63 62 = 2
           ∧ s.fbit (rLst (s.fld rTtSrc 31 26)) 55 = true
         ∧ s.fld rTtSrc 31 26 ≠ 47)
    ∧ (up.fbit rTtStatus 7 = false ∧ up.holdNs ≤ up.fld rTtHold 31 16
      ∧ up.fld rTtHold 31 16 < (up.withTime { hold := 2001 * 10 ^ 9 }).holdNs) := by
  decide +kernel

/-- Partition 0 with a commit pending of a frame of 20 µs. -/
def pendingCommit : State := (up.setFld (rTtFrame 0) 48 32 20).setBit (rTtFrame 0) 61 true

theorem witness_CommitActsAtTheBoundary :
    (pendingCommit.fbit (rTtFrame 0) 61 = true ∧ pendingCommit.commitCode 0 = 0)
    ∧ (let s := pendingCommit.setFld (rTtFrame 0) 48 32 19
       s.fbit (rTtFrame 0) 61 = true ∧ s.commitCode 0 ≠ 0)
    ∧ (let s := (up.setFld (rTtFrame 1) 48 32 20).setBit (rTtFrame 1) 61 true
       s.ready = true ∧ s.fbit (rTtFrame 1) 61 = true ∧ (s.part 1).frame ≠ some s.now ∧ (s.part 1).actLen = 0
           ∧ 20 ≤ s.fld (rTtFrame 1) 48 32 ∧ s.fld (rTtFrame 1) 48 32 ≤ 100000
             ∧ s.fld (rTtFrame 1) 16 0 < s.fld (rTtFrame 1) 48 32
           ∧ isFrameStart s.now (s.fld (rTtFrame 1) 48 32) (s.fld (rTtFrame 1) 16 0) = true ∧ s.now % 1000 = 0
           ∧ (s.setFld (rTtFrame 1) 48 32 19).fld (rTtFrame 1) 48 32 < 20
         ∧ s.fbit rTtStatus 7 = false ∧ s.pendingOut 0 = none ∧ s.pendingOut 1 = none ∧ s.reg (rScu 1 + 8) = 0
         ∧ (∀ l, l < 48 → (s.tmpl 1).hasLink l = false)
         ∧ isFrameStart s.now ((s.setPart 1 { actLen := 1000 }).part 1).actLen 0 = true) := by
  decide +kernel

/-- Partition 1 with the longest frame and the last phase. -/
def framed : State := (up.setPart 1 { actLen := 100000, actPhase := 99999 }).setBit (rTtFrame 1) 63 true

theorem witness_FrameBeginsAtItsInstant :
    (isFrameStart (atNs framed 99998999).now (framed.part 1).actLen (framed.part 1).actPhase = false
        ∧ (framed.part 1).actLen ≠ 0 ∧ State.reset.ready = false)
    ∧ (let s := atNs framed 99999000
       s.ready = true ∧ isFrameStart s.now (s.part 1).actLen (s.part 1).actPhase = true ∧ (s.part 1).frame ≠ some s.now
         ∧ s.fbit rTtStatus 7 = false ∧ s.fbit (rTtFrame 1) 61 = false ∧ s.pendingOut 0 = none
         ∧ s.pendingOut 1 = none ∧ s.reg (rScu 1 + 8) = 0 ∧ ∀ l, l < 48 → (s.tmpl 1).hasLink l = false) := by
  decide +kernel

/-- Slot 63 of partition 0 valid from 10 ns on cluster 0, its timetable enabled. -/
def slotted : State :=
  ((up.setReg (rSlot 0 63 0 + activeBank) (1 <<< 63 ||| 100 <<< 24 ||| 1)).setReg (rSlot 0 63 1 + activeBank) 1).setBit
    (rTtFrame 0) 63 true

/-- A step of slot n that started at t, of 1 ms. -/
def runAt (n t : Nat) : SlotRun := { kernel := n, start := t, len := 1000000, w1 := 1, clusters := [0], waiting := [], phase := .step }

theorem witness_SlotStartsItsStep :
    (let s := atNs slotted 14
     let e := s.slotEntry 0 63 true
     (s.part 0).frame = some 0 ∧ s.fbit (rTtFrame 0) 63 = true ∧ e.valid = true ∧ s.ready = true ∧ s.validPart 0 = true
       ∧ 0 + e.start ≤ s.now ∧ s.now ≤ 0 + e.start + 4 ∧ (s.part 0).slots = [] ∧ s.halted = false ∧ s.mirrored 0 = false
       ∧ e.kernel ≠ 0xFF ∧ s.fbit (rScu 0 + 8) 63 = false ∧ e.cnt = 0)
    ∧ (slotted.withInteg { errs := [(imemKey 0 0, { flips := [(0, 3, 0, false)] })] }).imageUnread 0
        (slotted.slotEntry 0 63 true).kernel = true
    ∧ slotted.imageUnread 0 (slotted.slotEntry 0 63 true).kernel = false
    ∧ ((up.part 1).frame = none ∧ (up.slotEntry 0 0 true).valid = false
      ∧ (atNs slotted 9).now < 0 + (slotted.slotEntry 0 63 true).start
      ∧ 0 + (slotted.slotEntry 0 63 true).start + 4 < (atNs slotted 15).now)
    ∧ (let s := (atNs slotted 14).setSlot 0 5 (some (runAt 5 0))
       let e := s.slotEntry 0 63 true
       s.slot 0 63 = none ∧ s.slot 0 (63 + 64) = none ∧ (5, runAt 5 0) ∈ s.runs 0 ∧ 5 % 64 ≠ 63 ∧ s.ready = true
           ∧ s.validPart 0 = true ∧ (runAt 5 0).start ≤ s.now
         ∧ s.now < (runAt 5 0).start + (runAt 5 0).len ∧ (runAt 5 0).entry.clusters &&& e.clusters ≠ 0) := by
  decide +kernel

/-- Partition 0 with a run of slot 5. -/
def running (r : SlotRun) : State := up.setSlot 0 5 (some r)

theorem witness_StepsCompleteOrOverrun :
    (let s := running (runAt 5 0)
     s.findRun 0 5 (fun r => r.phase == .step) = some (5, runAt 5 0) ∧ s.slot 0 5 = some (runAt 5 0)
       ∧ (∀ c ∈ (runAt 5 0).clusters, (s.cluster c).flight = [] ∧ (s.cluster c).mvDue = none) ∧ s.halted = false
       ∧ (∀ c ∈ (runAt 5 0).clusters, (s.cluster c).quiet = true) ∧ s.unlanded 0 5 = false ∧ s.now < s.leadAt (runAt 5 0)
       ∧ s.mirrored 0 = false ∧ ∀ e ∈ s.runs 0, e.2.waiting = [])
    ∧ (let s := (running (runAt 5 0)).withLanding [{ part := 0, slot := 5, cluster := 0, writes := [], group := none }]
       s.unlanded 0 5 = true)
    ∧ (let r := { runAt 5 0 with overrun := true }
       (running r).slot 0 5 = some r ∧ r.overrun = true ∧ r.entry.modesw = false ∧ r.step = none)
    ∧ (let s := atNs (running (runAt 5 0)) 999800
       s.findRun 0 5 (fun r => r.working) = some (5, runAt 5 0) ∧ s.leadAt (runAt 5 0) ≤ s.now
         ∧ s.now < (runAt 5 0).start + (s.part 0).actLen * 1000 + (runAt 5 0).haltedNs
         ∧ (atNs s 999799).now < s.leadAt (runAt 5 0)
         ∧ (runAt 5 0).start + (s.part 0).actLen * 1000 + (runAt 5 0).haltedNs ≤ (atNs s 1000000).now) := by
  decide +kernel

/-- A run whose step is complete, with duty bits w2. -/
def dutiesOf (ph : Phase) (w2 : W64) : SlotRun := { runAt 5 0 with phase := ph, w2 := w2, dutyStart := some 100 }

theorem witness_DutiesRunInTheirTime :
    (let s := up.setReg (rMsw 7 1 15) (2 <<< 62)
     bf (s.reg (rMsw (127 / 16) 1 (127 % 16))) 63 62 = 2 ∧ (s.chan 127).state = .memory)
    ∧ (let s := (up.setReg (rMsw 0 0 0) (1 <<< 62)).setChan 0 { state := .processor }
       bf (s.reg (rMsw 0 0 0)) 63 62 = 1 ∧ (s.chan 0).state = .processor
         ∧ bf ((s.setReg (rMsw 0 0 0) (3 <<< 62)).reg (rMsw 0 0 0)) 63 62 = 3 ∧ bf (up.reg (rMsw 0 0 0)) 63 62 = 0)
    ∧ (let r := dutiesOf .modesw (1 <<< 60)
       let s := (running r).setReg (rMsw 0 0 0) (2 <<< 62)
       s.findRun 0 5 (fun r => r.phase == .modesw && !r.switching) = some (5, r) ∧ s.slot 0 5 = some r ∧ s.halted = false
         ∧ (s.tmpl 0).chans.filter (s.switches r.entry.mswIdx) = [0]
         ∧ ((running r).tmpl 0).chans.filter ((running r).switches r.entry.mswIdx) = []
         ∧ (s.tmpl 0).clusters.testBit 0 = true ∧ (s.setBit rTrcHstat 63 true).halted = true)
    ∧ (let s := atNs (up.setChan 17 { state := .toProcessor, switch := some (7, some 500) }) 500
       (s.chan (chanKey 1 1)).switch = some (7, some 500) ∧ s.frozen = false ∧ 500 ≤ s.now
         ∧ (atNs s 499).now < 500)
    ∧ (let r := dutiesOf .duties (1 <<< 62 ||| 3 <<< 24)
       let s := atNs (running r) 130
       s.findRun 0 5 (fun r => r.phase == .duties && r.entry.maint && !s.swapLeft 0 r) = some (5, r)
         ∧ s.findRun 0 5 (fun r => r.phase == .duties || r.phase == .maint) = some (5, r) ∧ r.dutyStart = some 100
         ∧ 100 + r.entry.dutyLen ≤ s.now ∧ (atNs s 129).now < 100 + r.entry.dutyLen)
    ∧ (let r := dutiesOf .duties (1 <<< 61 ||| 3 <<< 24)
       let s := (running r).setScu 0 { swap := some (63, 3, 1) }
       s.findRun 0 5 (fun r => r.phase == .duties && r.entry.swap) = some (5, r) ∧ (s.scu 0).swap = some (63, 3, 0 + 1))
    ∧ (let r := dutiesOf .background (1 <<< 63)
       let s := (((running r).setFld rMirRsync 63 62 1).setFld rMirStat 60 59 1).withMirror { copyMap := [9] }
       s.findRun 0 5 (fun r => r.entry.bkgd && s.dutiesIdle 0 r) = some (5, r) ∧ s.now < s.leadAt r
         ∧ s.mirror.copyMap.filter s.pageFree = [9] ∧ s.plainReads
         ∧ s.fld rMirRsync 63 62 = 1 ∧ s.mirUp = true ∧ s.leadAt r ≤ (atNs s 999800).now) := by
  decide +kernel

/-- In the state that those duties ask for, no slot runs that acted on a channel, and no channel is under refresh or
calibration. -/
theorem noneActed (k : Nat) (ch : Chan) (t : Nat) (p : Nat) : (atNs (up.setChan k ch) t).runs p = [] := by
  have h : (atNs (up.setChan k ch) t).part p = up.part p := rfl
  unfold State.runs
  rw [h]
  by_cases hp : p = 0
  · subst hp; rfl
  · have h' : up.part p = {} := by
      show sget {} [(0, up.part 0)] p = {}
      simp [sget, Ne.symm hp]
    rw [h']; rfl

theorem allCalm (r : SlotRun) (x : ScuPart) (k : Nat) : (((running r).setScu 0 x).chan k).refreshing = none
    ∧ ((running r).setScu 0 x).calibrating k = false := ⟨rfl, rfl⟩

/-! ### Witnesses: fabric links -/

/-- Link 0 up with partner Norbin, one credit each way on each channel. -/
def linked : State :=
  (((up.setFld (rLst 0) 63 62 2).setFld (rLst 0) 61 60 3).setBit (rLctl 0) 63 true).setLink 0
    { rxCred1 := 1, rxCred2 := 1, txCred1 := 1, txCred2 := 1 }

/-- A lane group up whose spare lane is wired and free. -/
def spared : State :=
  (List.range 8).foldl (fun (s : State) k => (((s.setFld (rLst k) 63 62 2).setFld (rLst k) 61 60 3).setBit (rLctl k) 60
    true).modLink k (fun x => { x with spareWired := some true })) up

theorem witness_LinksTrainAndSpareLanes :
    (up.fbit (rLctl 47) 63 = false ∧ linked.fbit (rLctl 0) 63 = true ∧ up.lkState 47 ≠ 1 ∧ up.lkState 47 ≠ 2)
    ∧ (let s := linked.setFld (rLst 0) 63 62 1
       s.lkState 0 = 1 ∧ (s.link 0).sendQ = [] ∧ (s.link 0).unacked = [] ∧ (s.link 0).winQ = [] ∧ (s.link 0).outQ = []
         ∧ 1 < min (s.maxGen 0) (s.link 0).tryGen
         ∧ min ((s.modLink 0 (fun x => { x with tryGen := 1 })).maxGen 0) ((s.modLink 0 (fun x => { x with tryGen := 1 })).link 0).tryGen ≤ 1)
    ∧ (let s := (up.setBit (rLctl 47) 63 true).setLink 47 { downAt := 5 }
       s.fbit (rLctl 47) 63 = true ∧ s.lkState 47 = 0 ∧ (s.link 47).downAt + 100000000 ≤ (atNs s 100000005).now
         ∧ (atNs s 100000004).now < (s.link 47).downAt + 100000000)
    ∧ (linked.lkState 0 = 2 ∧ ∀ told, linked.spareFree 0 told = false)
    ∧ (spared.lkState 0 = 2 ∧ ∀ told, spared.spareFree 0 told = true)
    ∧ (let s := linked.modLink 0 (fun x => { x with sparing := some (1, 9) })
       (s.link 0).sparing = some ((1 : Fin 4).val, 9) ∧ 9 ≤ (atNs s 9).now)
    ∧ (let s := up.withKeep { words := [(0, 7)] }
       s.power.input = true ∧ s.fld rMirStat 60 59 = 0 ∧ s.keepWord 0 ≠ 0 ∧ (7 : W64) = s.keepWord 0
           ∧ up.keepWord 0 = 0
         ∧ (8 : W64) ≠ s.keepWord 0) := by
  refine ⟨?_, ?_, ?_, ⟨by decide +kernel, fun told => ?_⟩, ⟨by decide +kernel, fun told => ?_⟩, ?_, ?_⟩
  · decide +kernel
  · decide +kernel
  · decide +kernel
  · have h : spareGroup 0 = [0, 1, 2, 3] := by decide +kernel
    unfold State.spareFree
    rw [h, List.all_cons, show (linked.lkState 0 != lkDown && linked.fbit (rLctl 0) 60) = false by decide +kernel]
    rfl
  · have h : spareGroup 0 = [0, 1, 2, 3] := by decide +kernel
    have w : ∀ j ∈ [0, 1, 2, 3], (spared.link j).spareWired = some true := by decide +kernel
    show spared.spareFree 0 told = true
    unfold State.spareFree
    rw [h, List.all_eq_true]
    intro j hj
    rw [w j hj]
    have v : ∀ j ∈ [0, 1, 2, 3], (spared.lkState j != lkDown && spared.fbit (rLctl j) 60 && !spared.fbit (rLst j) 58
        && (spared.link j).sparing.isNone && (true && spared.fld (rLst j) 61 60 == 3)) = true := by decide +kernel
    exact v j hj
  · decide +kernel
  · decide +kernel

/-- A header that acknowledges nothing yet. -/
def hdr (opc vc : Nat) : Hdr := { opc := opc, vc := vc, ack := 65535, ack0 := 65535 }

theorem crc_frame (h : Hdr) (bs : List Byte) : frameCrcOk (h.frame bs) = true := by
  simp [frameCrcOk, Hdr.frame]

/-- State.inSequence of a frame of this module's making as a check. -/
def inSeq (s : State) (l : Nat) (h : Hdr) (bs : List Byte) : Bool :=
  let g := frameHdr (h.frame bs)
  s.linkUp l && decide (g.vc ≠ 3) && knownOpc g.opc && !badHeader g (h.frame bs)
    && (!g.numbered || decide (seqPlace g.seq (if g.vc = 0 then (s.link l).rxNext0 else (s.link l).rxNext) = 0)
      && decide (0 < (s.link l).rxCred1) && decide (0 < (s.link l).rxCred2))
    && !(s.takeAcks l g).1

theorem inSeq_inSequence (s : State) (l : Nat) (h : Hdr) (bs : List Byte) (t : inSeq s l h bs = true) :
    s.inSequence l (h.frame bs) := by
  simp only [inSeq, Bool.and_eq_true, Bool.or_eq_true, decide_eq_true_eq, Bool.not_eq_true'] at t
  obtain ⟨⟨⟨⟨⟨h1, h3⟩, h4⟩, h5⟩, h6⟩, h7⟩ := t
  refine ⟨h1, crc_frame h bs, h3, h4, h5, fun hn => ?_, h7⟩
  rcases h6 with h6 | ⟨⟨ha, hb⟩, hc⟩
  · rw [hn] at h6
    exact absurd h6 (by decide)
  · exact ⟨ha, fun _ => hb, fun _ => hc⟩

/-- State.rxLands of a frame's payload as a check. -/
def landsNow (s : State) (l : Nat) (f : Frame) : Bool :=
  let h := frameHdr f
  let ls := s.placesFrom h.tpart h.space h.addr f.payload.length
  s.validPart h.tpart && (s.tmpl h.tpart).hasLink l
    && (!(s.tmpl h.tpart).full || (s.tmpl h.tpart).inRegion h.space h.addr (h.addr + f.payload.length))
    && ls.length == f.payload.length && ls.all s.lineOk && s.calm ls

theorem landsNow_rxLands (s : State) (l : Nat) (f : Frame) (t : landsNow s l f = true) :
    s.rxLands l (frameHdr f) f.payload.length := by
  simp only [landsNow, Bool.and_eq_true, Bool.or_eq_true, Bool.not_eq_true', beq_iff_eq, List.all_eq_true] at t
  obtain ⟨⟨⟨⟨⟨h1, h2⟩, h3⟩, h4⟩, h5⟩, h6⟩ := t
  exact ⟨h1, h2, fun h => h3.resolve_left (by simp [h]), h4, h5, h6⟩

/-- A run of slot 5 from 1,000 ns with a receive window over link 0 from 1,100 to 1,300 ns for 128 bytes, at 1,100 ns. -/
def receiving : State :=
  atNs (linked.setSlot 0 5 (some { runAt 5 1000 with wins := [(3, { w0 := 3 <<< 62 ||| 20 <<< 24 ||| 10, w1 := 128 })] })) 1100

/-- The receive window of opening t, as found under a test. -/
def recvFound (s : State) (t : Nat) (f : WinAt → Bool) : Bool :=
  match s.rxWindow 0 t with
  | some (w, true) => f w
  | _ => false

theorem witness_FramesActOrAreDiscarded_window :
    (let h := { hdr opcWrite 0 with len := 1, addr := 0x40, wopen := 1100 }
     let f := h.frame (List.replicate 64 9)
     inSeq receiving 0 h (List.replicate 64 9) = true ∧ (frameHdr f).vc = 0 ∧ (frameHdr f).opc = opcWrite
         ∧ (frameHdr f).late = false
       ∧ (frameHdr f).wfmt = 0 ∧ (frameHdr f).wopen = 1100 ∧ plain receiving = true ∧ landsNow receiving 0 f = true)
    ∧ recvFound receiving 1100 (fun w => decide (w.opening ≤ receiving.now + receiving.guard 0)
        && decide (receiving.now ≤ w.close + receiving.guard 0) && decide (w.run.bytes + 64 < w.e.bytes)) = true
    ∧ recvFound (receiving.modWin 0 5 3 (fun r => { r with bytes := 64 })) 1100 (fun w =>
        decide (w.run.bytes + 64 = w.e.bytes) && decide (w.run.bytes < w.e.bytes)) = true := by
  decide +kernel

theorem witness_FramesActOrAreDiscarded :
    (inSeq linked 0 (hdr opcWgann 2) [] = true ∧ (frameHdr ((hdr opcWgann 2).frame [])).vc ≠ 0
      ∧ (linked.group (groupKey 1 0 0)).held = none ∧ (linked.link 0).rxQ = [] ∧ linked.plainReads
      ∧ (linked.link 0).pFallback = false)
    ∧ (let f := { hdr opcWrite 1 with len := 1, addr := 0x40 }.frame (List.replicate 64 9)
       let h := frameHdr f
       inSeq linked 0 { hdr opcWrite 1 with len := 1, addr := 0x40 } (List.replicate 64 9) = true ∧ h.opc = opcWrite
           ∧ h.late = false ∧ h.wfmt = 0 ∧ linked.unscheduled 0 = false ∧ plain linked = true
         ∧ landsNow linked 0 f = true)
    ∧ (let f := { hdr opcRfinal 2 with len := 1, addr := 0x40, arg := 15 }.frame (List.replicate 64 9)
       let h := frameHdr f
       inSeq linked 0 { hdr opcRfinal 2 with len := 1, addr := 0x40, arg := 15 } (List.replicate 64 9) = true
           ∧ h.opc = opcRfinal ∧ h.wfmt = 0 ∧ (linked.tmpl h.tpart).hasFlag 0 15 = true
         ∧ landsNow linked 0 f = true ∧ (linked.group (groupKey 1 h.cluster h.group)).held = none)
    ∧ (let f := { hdr opcRel 2 with arg := 15 * 32 + 31 }.frame []
       let s := linked.modCluster 31 (fun x => { x with openGroups := [15] })
       inSeq s 0 { hdr opcRel 2 with arg := 15 * 32 + 31 } [] = true ∧ (frameHdr f).opc = opcRel
         ∧ (s.cluster ((frameHdr f).arg % 32)).openGroups.contains ((frameHdr f).arg / 32 % 16) = true)
    ∧ (let f := (hdr opcWrite 1).frame []
       up.linkUp 47 = false ∧ linked.linkUp 0 = true ∧ (frameHdr f).opc = opcWrite ∧ (frameHdr f).vc ≠ 3
         ∧ badHeader (frameHdr f) f = false
         ∧ seqPlace (frameHdr ({ hdr opcWrite 1 with seq := 65535 }.frame [])).seq (linked.link 0).rxNext = 1)
    ∧ (let f := (hdr 0x7F 2).frame []
       knownOpc (frameHdr f).opc = false ∧ (frameHdr f).vc ≠ 3) := by
  decide +kernel

/-- The CRC of 32 zero bytes is not 0. -/
theorem witness_FramesActOrAreDiscarded_crc : frameCrcOk {} = false := by decide +kernel

theorem witness_CreditsAndNumbers :
    (inSeq linked 0 { hdr opcCredit 0 with cred1 := 255, cred2 := 1 } [] = true ∧ (linked.link 0).sendQ = []
      ∧ (linked.link 0).winQ = [] ∧ (linked.link 0).outQ = [] ∧ (linked.link 0).rxQ = [] ∧ linked.plainReads
      ∧ (frameHdr ({ hdr opcCredit 0 with cred1 := 255, cred2 := 1 }.frame [])).opc = opcCredit)
    ∧ (inSeq linked 0 (hdr opcWgann 2) [] = true ∧ (linked.group (groupKey 1 0 0)).held = none ∧ linked.sends 0 = true
      ∧ linked.txIdle 0 = true ∧ linked.quietBefore 0 = false)
    ∧ (let s := linked.setLink 0 { rxCred1 := 1, rxCred2 := 1, txNext := 1 }
       let g := { hdr opcNak 2 with ack := 0, arg := nakXlate }.frame []
       inSeq s 0 { hdr opcNak 2 with ack := 0, arg := nakXlate } [] = true ∧ (frameHdr g).opc = opcNak
           ∧ (frameHdr g).vc ≠ 0 ∧ (frameHdr g).arg % 256 = nakXlate
         ∧ s.partOf 0 = some 0 ∧ ((s.link 0).txNext + 131071 - (frameHdr g).arg / 65536 % 65536) % 65536 < 32768)
    ∧ (let f := { hdr opcRel 2 with cluster := 1 }.frame []
       let s := linked.modLink 0 (fun x => { x with sendQ := [f], inCells := 1 })
       s.sends 0 = true ∧ s.txIdle 0 = true ∧ s.quietBefore 0 = false ∧ s.needing = []
         ∧ (∀ e ∈ s.links, e.2.sendQ.length = e.2.inCells) ∧ s.plainReads ∧ (s.link 0).winQ = [] ∧ (s.link 0).outQ = []
         ∧ (s.link 0).sendQ = [f] ∧ f.payload = [] ∧ (frameHdr f).vc = 2 ∧ (frameHdr f).numbered = true
         ∧ carriesData (frameHdr f) = false ∧ 0 < (s.link 0).txCred2) := by
  decide +kernel

theorem witness_LinkTimersAndIdleSets :
    (let s := (atNs linked 10007).modLink 0 (fun x => { x with unacked := [(hdr opcRel 2).frame []], ackAt := 7, resends := 15 })
     s.linkUp 0 = true ∧ (s.link 0).unacked ≠ [] ∧ (s.link 0).unacked0 = [] ∧ (s.link 0).winQ = [] ∧ (s.link 0).outQ = []
       ∧ (s.link 0).sendQ = [] ∧ (s.link 0).ackAt + 10000 ≤ s.now ∧ (s.link 0).resends < 16
       ∧ (atNs s 10006).now < (s.link 0).ackAt + 10000
         ∧ 16 ≤ ((s.modLink 0 (fun x => { x with resends := 16 })).link 0).resends)
    ∧ (let s := (atNs linked 10000).modLink 0 (fun x => { x with unacked0 := [(hdr opcWrite 0).frame []], sparing := some (0, 20000) })
       s.linkUp 0 = true ∧ (s.link 0).ackAt + 10000 ≤ s.now ∧ (s.link 0).resends < 16 ∧ s.fld (rLst 0) 61 60 ≠ 1
         ∧ s.sends 0 = false ∧ (s.link 0).unacked0 ≠ [])
    ∧ (linked.fld (rLst 0) 61 60 ≠ 1 ∧ (linked.setFld (rLst 0) 61 60 1).fld (rLst 0) 61 60 = 1
      ∧ linked.winsOn 0 false = [])
    ∧ (let d := linked.fld rQthr 47 32 * 1000
       (linked.link 0).qStart + d ≤ (atNs linked d).now ∧ 0 < d ∧ (atNs linked (d - 1)).now < (linked.link 0).qStart + d)
    ∧ (let h : HeldFinal := { writes := [], die := 0, flag := 3, granted := true, part := 0, slot := none, since := 9 }
       let s := linked.setGroup (groupKey 48 31 15) { count := 2, held := some h }
       (linked.group (groupKey 48 31 15)).held = none ∧ (s.group (groupKey 48 31 15)).held = some h
         ∧ h.timed = true ∧ ({ h with timed := false } : HeldFinal).timed = false
           ∧ (atNs s 1000008).now < h.since + 1000000 ∧ h.since + 1000000 ≤ (atNs s 1000009).now)
    ∧ (up.lkState 47 < 2 ∧ 2 ≤ linked.lkState 0 ∧ up.linkUp 47 = false ∧ linked.linkUp 0 = true
      ∧ (3 : BitVec 3).toNat ≤ 3)
    ∧ (let s := (linked.setReg rTtSrc 2).setBit rTtStatus 0 true
       s.timeLink = some 0 ∧ s.mayLoad = false ∧ s.slews = true
         ∧ ((5 + s.owd 0 : Nat) - (s.now : Int)).natAbs ≤ 1000 + s.leadNs)
    ∧ (let s := (linked.setReg rTtSrc 2).setFld rHostBoot 63 61 5
       s.locked = false ∧ s.timeSrc = 2 ∧ s.fld rTtSrc 23 18 = 0 ∧ s.mayLoad = true ∧ s.linkUp 0 = true)
    ∧ (let s := (linked.setReg rTtSrc 2).modLink 0 (fun x => { x with badSets := 2 })
       s.timeLink = some 0 ∧ 2 ≤ (s.link 0).badSets ∧ 3 < (4 : BitVec 3).toNat) := by
  decide +kernel

/-- A run of slot 5 with a send window over link 0 from 100 ns, for 200 ns. -/
def windowed (w : WinRun) : State :=
  linked.setSlot 0 5 (some { runAt 5 1000 with wins := [(95, { w with w0 := 1 <<< 63 ||| 20 <<< 24 ||| 10 })] })

/-- Its window, as found under a test. -/
def winFound (s : State) (ok : WinRun → Bool) (f : WinAt → Bool) : Bool :=
  match s.winRunOf 0 5 95 ok with
  | some w => f w
  | none => false

/-- A WRITE of the window's data. -/
def winData : Frame := { hdr opcWrite 0 with wopen := 1100 }.frame []

/-- The window is about to open, with that frame waiting in it. -/
def opening : State := (atNs (windowed {}) 1100).modLink 0 (fun x => { x with winQ := [winData] })

/-- A remote operation in flight with frames fs, its step that of the window's slot. -/
def staging (fs : List Frame) : State :=
  (windowed {}).modCluster 0 (fun x => { x with mv := [{ mvo 0x68 with link := some 0, frames := fs }], run := some (0, 5) })

/-- The window that its data goes to. -/
def picked (s : State) (n : Nat) (f : WinAt → Bool) : Bool :=
  match pickWin (s.sendWins 0 0) n with
  | some w => f w
  | none => false

theorem witness_WindowsAndStaging :
    winFound (windowed {}) (fun r => !r.opened) (fun w =>
      decide (w.opening = 1100) && decide (w.e.link = 0)
          && decide ((atNs (windowed {}) 1099).now + (windowed {}).owd 0 < w.opening)
        && decide (w.opening ≤ (atNs (windowed {}) 1100).now + (windowed {}).owd 0) && (windowed {}).linkUp 0
        && !(windowed {}).unscheduled 0 && ((windowed {}).link 0).winQ.isEmpty && ((windowed {}).link 0).sendQ.isEmpty
        && ((windowed {}).link 0).outQ.isEmpty) = true
    ∧ ((windowed {}).setFld (rLst 0) 63 62 0).linkUp 0 = false
    ∧ (let u := opening.modWin 0 5 95 (fun r => { r with opened := true, unsched := false })
       opening.unscheduled 0 = false ∧ opening.linkUp 0 = true ∧ u.sends 0 = true ∧ u.txIdle 0 = true ∧ u.needing = []
         ∧ (∀ e ∈ u.links, e.2.sendQ.length = e.2.inCells) ∧ opening.plainReads ∧ (opening.link 0).winQ = [winData]
         ∧ (opening.link 0).outQ = [] ∧ (opening.link 0).sendQ = [] ∧ u.vc0Next 0 = some (0, winData))
    ∧ winFound (windowed { opened := true }) (fun r => !r.closed) (fun w =>
      decide (w.close = 1300) && decide (w.close + (windowed {}).guard 0 ≤ (atNs (windowed {}) 1310).now)
        && decide ((atNs (windowed {}) 1309).now < w.close + (windowed {}).guard 0) && !(windowed {}).mirrored 0) = true
    ∧ (let s := ((windowed {}).setBit rMirCtl 48 true).setRole roleShadow
       s.mirrored 0 = true ∧ s.role = roleShadow)
    ∧ (let o := { mvo 0x68 with link := some 0, frames := [winData] }
       let s := (staging [winData]).modLink 0 (fun x => { x with sparing := some (0, 9) })
       (s.cluster 0).mv = [o] ∧ (s.cluster 0).flight = [] ∧ (s.cluster 0).mvDue = none ∧ o.done = false
           ∧ s.clockRuns 0 = true
         ∧ o.w.sigK = 0 ∧ o.remote = none ∧ o.sent = [] ∧ (s.cluster 0).staged + frameBytes [winData] ≤ 65536
         ∧ 65536 < ((s.modCluster 0 (fun x => { x with staged := 65537 })).cluster 0).staged + frameBytes [winData]
         ∧ (frameHdr winData).opc = opcWrite ∧ s.mayTransmit 0 = true ∧ s.sends 0 = false
         ∧ picked s winData.payload.length (fun w => !w.run.closed && !w.run.opened) = true
         ∧ (frameHdr ((hdr opcWgann 2).frame [])).opc ≠ opcWrite
         ∧ ((staging []).link 0).winQ = [] ∧ ((staging []).link 0).sendQ = [] ∧ ((staging []).link 0).outQ = []) := by
  decide +kernel

/-! ### Witnesses: the mirror pair and serving -/

/-- Partition 0 alone mirrored, in role r, and MIR up. -/
def paired (r : Nat) : State := ((up.setBit rMirCtl 48 true).setRole r).setFld rMirStat 60 59 1

theorem onlyFirst (r : Nat) (h : ∀ q, 1 ≤ q → q < 16 → (paired r).mirrored q = false) (q : Nat) (hq : q ≠ 0) :
    (paired r).mirrored q = false := by
  by_cases h16 : q < 16
  · exact h q (by omega) h16
  · exact BitVec.getLsbD_of_ge _ _ (by omega)

theorem witness_RolesChangeByTheirTable :
    up.role = roleSolo ∧ State.reset.role = roleFenced ∧ ((up.setRole roleShadow).role ≠ roleSolo
        ∧ (up.setRole roleShadow).role ≠ roleFenced)
    ∧ (let s := ((paired roleShadow).setBit rMirStat (32 + 0) true).withMirror { promoting := some 7 }
       s.role = roleShadow ∧ s.mirror.promoting.isSome = true ∧ s.mirrored 0 = true ∧ s.fbit rMirStat (32 + 0) = true
           ∧ s.links = []) := by
  decide +kernel

theorem witness_HeartbeatsAndLease :
    (up.role = roleSolo ∧ up.mirUp = false ∧ (up.setRole roleJoining).role = roleJoining ∧ up.mirror.promoting = none
      ∧ up.role ≠ rolePrimary ∧ (paired roleSolo).role = roleSolo ∧ (paired roleSolo).mirUp = true)
    ∧ ((paired rolePrimary).role = rolePrimary ∧ (paired rolePrimary).mirUp = true)
    ∧ ((paired roleShadow).role = roleShadow ∧ (paired roleShadow).mirUp = true)
    ∧ (let s := (paired roleShadow).withMirror { lastRx := some 3, acked := some 3 }
       let d := s.hbMiss * s.hbPeriod
       s.mirror.lastRx = some 3 ∧ 3 + d ≤ (atNs s (3 + d)).now ∧ (atNs s (2 + d)).now < 3 + d)
    ∧ (let s := ((paired rolePrimary).withMirror { acked := some 3, sent := [⟨5, 1, false, false⟩] })
       let d := (s.hbMiss - 1) * s.hbPeriod
       s.mirror.sent.any (fun h => h.time == 5) = true ∧ s.mirror.sent.any (fun h => h.time == 4) = false
         ∧ 0 < d ∧ (atNs s (2 + d)).now < s.mirror.acked.getD 0 + d ∧ s.mirror.acked.getD 0 + d ≤ (atNs s (3 + d)).now
         ∧ s.partOf 0 = some 0 ∧ s.mirrored 0 = true) := by
  decide +kernel

theorem witness_ResynchronisationPhases :
    (up.role = roleSolo ∧ State.reset.role ≠ roleSolo ∧ State.reset.role ≠ rolePrimary ∧ up.fld rMirRsync 63 62 ≠ 1)
    ∧ ((paired roleSolo).mirrored 0 = true ∧ (paired roleSolo).validPart 0 = true ∧ ((paired roleSolo).tmpl 0).pages ≠ [])
    ∧ (let s := ((up.setFld rMirRsync 63 62 1).setFld rMirCtl 15 0 1).withMirror { copyMap := [9] }
       s.fld rMirRsync 63 62 = 1 ∧ s.mirror.copyMap.length ≤ s.fld rMirCtl 15 0
         ∧ (s.setFld rMirCtl 15 0 0).fld rMirCtl 15 0 < s.mirror.copyMap.length ∧ s.role = roleSolo
           ∧ s.mirror.copyMap ≠ [])
    ∧ (let s := (paired roleSolo).setFld rMirRsync 63 62 2
       s.role = roleSolo ∧ s.fld rMirRsync 63 62 = 2 ∧ s.mirror.copyMap = [] ∧ s.mirror.only = none
           ∧ s.mirror.waitSync = [] ∧ s.mirUp = true ∧ ((s.withMirror s.mirror).setFld rMirStat 60 59 0).mirUp = false)
    ∧ ((paired roleSolo).runs 0 = [] ∧ ∀ q, 1 ≤ q → q < 16 → (paired roleSolo).mirrored q = false)
    ∧ ((up.setRole roleJoining).role = roleJoining ∧ (up.setRole roleJoining).mirror.handed = []
      ∧ (up.withHost { up.host with waits := [.page 9 [] []] }).host.waits.any HostAcc.isPage = true)
    ∧ (let s := (paired roleJoining).withMirror { handed := [none, some 0] }
       s.role = roleJoining ∧ s.host.waits.any HostAcc.isPage = false ∧ s.mirror.handed = none :: [some 0]
           ∧ s.mirrored 0 = true ∧ s.validPart 0 = true) := by
  decide +kernel

theorem witness_DigestsAndCompositionRecords :
    (up.mirrored 0 = false ∧ (paired roleJoining).role ≠ rolePrimary ∧ (paired roleJoining).role ≠ roleShadow
      ∧ ((paired roleShadow).setBit rMirStat (32 + 0) true).fbit rMirStat (32 + 0) = true)
    ∧ ((paired rolePrimary).digested 0 = true ∧ (paired roleShadow).digested 0 = true
      ∧ ((paired rolePrimary).scu 0).digests.lookup 7 = none)
    ∧ (let s := ((paired rolePrimary).setScu 0 { digests := [(7, 5)] }).setFld rMirCtl 47 46 2
       s.digested 0 = true ∧ (s.scu 0).digests = [(7, 5)] ∧ (5 : W64) ≠ 6 ∧ s.role = rolePrimary
           ∧ (s.scu 0).records.length ≤ s.fld rMirCtl 31 24)
    ∧ (let s := (paired roleShadow).setFld rMirCtl 31 24 1
       s.role = roleShadow ∧ s.mirrored 0 = true ∧ s.fbit rMirStat (32 + 0) = false
         ∧ (s.scu 0).records.length + 1 ≤ s.fld rMirCtl 31 24
         ∧ (s.setFld rMirCtl 31 24 0).fld rMirCtl 31 24 < ((paired roleShadow).scu 0).records.length + 1
           ∧ up.digested 0 = false)
    ∧ (∀ q, 1 ≤ q → q < 16 → (paired rolePrimary).mirrored q = false)
    ∧ ∀ q, 1 ≤ q → q < 16 → (paired roleShadow).mirrored q = false := by
  decide +kernel

theorem witness_ClusterFailureTakesTheSpare :
    (up.integ.failedClusters.filter (fun f => f.1 == (1 : Fin 2).val) = [] ∧ up.clmapOut 1 ≠ 15 ∧ up.clmapOut 1 = 16)
    ∧ (let s := (paired roleSolo).withInteg { failedClusters := [(1, 16)] }
       (s.integ.failedClusters.filter (fun f => f.1 == 1)).any (fun f => f.2 == 16) = true
         ∧ s.integ.failedClusters.filter (fun f => f.1 == 1) ≠ []
         ∧ (s.integ.failedClusters.filter (fun f => f.1 == 1)).any (fun f => f.2 == 0) = false ∧ s.mirUp = true) := by
  decide +kernel

theorem witness_EnableAndPromptHashing :
    up.fbit (rScu 0) 63 = false ∧ (up.setBit (rScu 15) 63 true).fbit (rScu 15) 63 = true
    ∧ (16383 : Nat) ∉ (up.scu 0).hashing
    ∧ (let s := (up.setScu 0 { hashing := [16383] }).setReq 16383 { w0 := 1 <<< 60 }
       (16383 : BitVec 14).toNat ∈ (s.scu 0).hashing ∧ (s.req 16383).state = rqQueued ∧ s.plainReads) := by
  decide +kernel

theorem witness_CompositionMakesAStep :
    (up.scu 15).due = false
    ∧ (let s := (up.setScu 0 { due := true }).setBit (rScu 0) 63 true
       (s.scu 0).due = true ∧ (s.scu 0).composed = none ∧ s.fbit (rScu 0) 63 = true ∧ s.halted = false ∧ s.ready = true
         ∧ s.validPart 0 = true ∧ s.mirrored 0 = false ∧ s.reqs = [] ∧ (s.scu 0).acts = [] ∧ (s.scu 0).swap = none
         ∧ ∀ m ∈ (s.scu 0).moves, m.landed = false)
    ∧ (let s := (up.setScu 0 { due := true, acts := [(2, 0)] }).setBit (rScu 0) 63 true
       let ended := s.setReq 0 { w0 := 2 <<< 60 ||| 1 <<< 35 }
       let live := s.setReq 0 { w0 := 3 <<< 60 }
       0 ∈ ended.ranked 0 ∧ (ended.req 0).state = rqRunning ∧ (ended.req 0).reason ≠ 0
         ∧ 0 ∈ live.ranked 0 ∧ (live.req 0).live = true ∧ (live.req 0).reason = 0 ∧ (live.scu 0).acts = [(2, 0)])
    ∧ (let s := (paired roleFenced)
       s.mirrored 0 = true ∧ s.role = roleFenced) := by
  decide +kernel

/-- A page being copied in from the tier, or out to it. -/
def pageMove (inward : Bool) : PageMove :=
  { req := 0, layer := 1, page := 2, addr := 0, staging := 0, tier := 0, inward := inward, step := none, ready := !inward }

/-- The least tier port 0 can hold, up. -/
def tiered (s : State) : State := s.setReg (rTier 0) (1 <<< 62 ||| 2 <<< 60 ||| 1)

theorem witness_CopiesOfVariantsAndPagesEnd :
    (let s := up.setScu 0 { due := true, swap := some (63, 5, 0) }
     (s.scu 0).due = true ∧ s.halted = false ∧ s.mirrored 0 = false ∧ (s.scu 0).swap = some (63, 5, 0))
    ∧ ((up.scu 0).due = false ∧ ((up.scu 0).moves.filter (·.copying))[0]? = none)
    ∧ (∀ r ∈ [roleSolo, roleShadow],
       let s := tiered ((paired r).setScu 0 { moves := [pageMove true, pageMove false] })
       ((s.scu 0).moves.filter (·.copying))[0]? = some (pageMove true)
         ∧ ((s.scu 0).moves.filter (·.copying))[1]? = some (pageMove false)
         ∧ (s.scu 0).moves.find? (fun y => y.name == (pageMove true).name) = some (pageMove true)
         ∧ (s.scu 0).moves.find? (fun y => y.name == (pageMove false).name) = some (pageMove false)
         ∧ s.tierUp (s.tierSlotAddr 0 0) 65536 = true ∧ (s.tmpl 0).pageBytes = 65536 ∧ plain s = true
         ∧ s.mirrored 0 = true ∧ s.role = r) := by
  decide +kernel

/-- A page has no more places than bytes. -/
theorem stagePlaces_le (s : State) (p k : Nat) : (s.stagePlaces p k).length ≤ (s.tmpl p).pageBytes :=
  (List.length_filterMap_le _ _).trans (by simp)

/-- A tier port that takes n bytes takes fewer. -/
theorem tierUp_le (s : State) (a m n : Nat) (h : m ≤ n) (t : s.tierUp a n = true) : s.tierUp a m = true := by
  simp only [State.tierUp, Bool.and_eq_true, decide_eq_true_eq] at t ⊢
  exact ⟨t.1, by omega⟩

/-! ### Witnesses: the host interface -/

/-- A galley entry of command n for request 0. -/
def entryOf (n : Nat) : List W64 := [BitVec.ofNat 64 (n * 2 ^ 56), 0, 0, 0, 0, 0, 0, 0]

/-- The same for a request outside partition 0's range. -/
def entryOut (n : Nat) : List W64 := [BitVec.ofNat 64 (n * 2 ^ 56 + 1), 0, 0, 0, 0, 0, 0, 0]

/-- A doorbell of function 1 waits at the host port. -/
def held : State := up.withHost { up.host with waits := [.bell 0 0] }

theorem witness_GalleyCommandsAct :
    (up.mirrored 0 = false ∧ up.validPart 0 = true ∧ up.fnWaits (0 + 1) = false ∧ up.validPart 15 = false
      ∧ held.fnWaits (0 + 1) = true ∧ held.validPart 0 = true)
    ∧ (∀ n, 1 ≤ n → n ≤ 5 → bf (wordAt (entryOf n) 0) 63 56 = n ∧ up.indexOk 0 (entryOf n) = true
        ∧ bf (wordAt (entryOut n) 0) 63 56 = n ∧ up.indexOk 0 (entryOut n) = false)
    ∧ (up.req (entIndex (entryOf 1))).live = false
    ∧ ((up.setReq 0 { w0 := 1 <<< 60 }).req (entIndex (entryOf 1))).live = true
    ∧ (up.tmpl 0).hasCluster 1 = false ∧ (up.tmpl 0).hasReq 1 = false := by
  refine ⟨by decide +kernel, ?_, by decide +kernel, by decide +kernel, by decide +kernel⟩
  intro n h1 h5
  have h : n = 1 ∨ n = 2 ∨ n = 3 ∨ n = 4 ∨ n = 5 := by omega
  rcases h with rfl | rfl | rfl | rfl | rfl <;> decide +kernel

/-- Partition 0 with a galley of four entries. -/
def galley : State := up.modPart 0 (fun q => { q with tmpl := { q.tmpl with ctl := 4 <<< 32 ||| 1 } })

theorem witness_DoorbellReadsTheGalley :
    (galley.host.up = true ∧ galley.validPart 0 = true ∧ galley.fnWaits (0 + 1) = false ∧ galley.mirrored 0 = false
      ∧ (galley.tmpl 0).depth ≤ (4 : BitVec 10).toNat ∧ (3 : BitVec 10).toNat < (galley.tmpl 0).depth
      ∧ galley.fld (rGhead 1) 9 0 < (galley.tmpl 0).depth
      ∧ ∀ k, k < (galley.tmpl 0).depth → bf (wordAt (galley.galleyEntry 0 k) 0) 63 56 ≠ 1)
    ∧ (held.host.up = true ∧ held.validPart 0 = true ∧ held.mirrored 0 = false ∧ held.fnWaits (0 + 1) = true)
    ∧ (let s := (galley.setReg (rGalley 0 3) (1 <<< 56)).setFld (rGhead 1) 9 0 3
       s.fld (rGhead 1) 9 0 = 3 ∧ 3 < (s.tmpl 0).depth ∧ (0 : BitVec 10).toNat = (3 + 1) % (s.tmpl 0).depth
           ∧ 1 < (s.tmpl 0).depth
         ∧ bf (wordAt (s.galleyEntry 0 3) 0) 63 56 = 1 ∧ s.indexOk 0 (s.galleyEntry 0 3) = true
         ∧ (s.req (entIndex (s.galleyEntry 0 3))).live = false)
    ∧ ((galley.withHost { up := false }).host.up = false ∧ galley.validPart 15 = false) := by
  decide +kernel

/-- Where the n bytes from a of function 1 lie. -/
def locs (s : State) (a n : Nat) : List (Option (Space × Nat)) := (List.range n).map (fun i => s.apLoc 1 (a + i))

theorem witness_HostAccessesMemory :
    (up.host.up = true ∧ up.power.input = true ∧ up.fnValid 1 = true ∧ up.fnValid 16 = false ∧ up.ready = true
        ∧ up.barOpen = true
      ∧ (State.reset.withPower { input := true }).fnValid 0 = true
        ∧ (State.reset.withPower { input := true }).ready = false
      ∧ State.reset.power.input = false ∧ (up.withHost { up := false }).host.up = false)
    ∧ (up.plainReads ∧ up.apFault 1 (locs up 0 2) = none ∧ plain up = true ∧ up.role ≠ rolePrimary
      ∧ up.mayServe (.read 1 0 ((locs up 0 2).filterMap id)) = true ∧ up.mayServe (.write 1 0 [1,
        2] ((locs up 0 2).filterMap id)) = true
      ∧ up.apFault 1 (locs up 0x1FFFFF 2) = some (fltXlate, some 0)
      ∧ (up.setChan 0 { state := .processor }).apFault 1 (locs up 0 2) = some (fltChmode, some 0))
    ∧ (up.stepsUsing ((locs up 0 2).filterMap id) = [] ∧ up.ownedBy [0, 0] 1 = false)
    ∧ (∀ s ∈ [held, up.setChan 0 { refreshing := some 900 }], s.apFault 1 (locs s 0 2) = none
        ∧ s.mayServe (.read 1 0 ((locs s 0 2).filterMap id)) = false
        ∧ s.mayServe (.write 1 0 [1, 2] ((locs s 0 2).filterMap id)) = false)
    ∧ (∀ i, i < 2 → (up.imemLoc 1 (0x83FFFE + i)).isSome = true) ∧ up.imemLoc 1 0x840000 = none
    ∧ (let s := (up.setReg (rSlot 0 0 0 + activeBank) (1 <<< 63)).setReg (rSlot 0 0 1 + activeBank) 1
       s.imemLoc 1 0x800000 = some (0, 0) ∧ mget (s.cluster 0).imem 0 ≠ 1 ∧ 0 ∈ s.liveKernels 0 0
           ∧ (s.cluster 0).kernelByte 0 0 = true
         ∧ (s.tmpl (1 - 1)).hasCluster 1 = false) := by
  decide +kernel

theorem noKernels : ∀ c, c < 32 → up.liveKernels 0 c = [] := by
  decide +kernel

theorem witness_HostPortEvents :
    (up.fnValid 16 = false ∧ up.fnValid 0 = true)
    ∧ (let s := atNs (up.setFld (rEstat 1) 15 0 1) 10000
       s.host.up = true ∧ s.fld (rEhead 1) 15 0 ≠ s.fld (rEstat 1) 15 0 ∧ sget 0 s.host.msixAt 1 + 10000 ≤ s.now
         ∧ (atNs s 9999).now < sget 0 s.host.msixAt 1 + 10000)
    ∧ ((up.setFld (rTier 2) 61 60 1).fld (rTier 2) 61 60 = 1 ∧ up.fld (rTier 2) 61 60 ≠ 1)
    ∧ (let s := (paired roleShadow).withParts galley.parts
       s.role = roleShadow ∧ s.follows 0 = true ∧ bf (wordAt (entryOf 2) 0) 63 56 = 2 ∧ s.indexOk 0 (entryOf 2) = true
         ∧ s.fnWaits (0 + 1) = false ∧ s.galleyHead 0 < (s.tmpl 0).depth ∧ plain s = true
           ∧ s.apFault (0 + 1) (locs s 0 2) = none
         ∧ s.mayServe (.write (0 + 1) 0 [1, 2] ((locs s 0 2).filterMap id)) = true
         ∧ s.stepsUsing ((locs s 0 2).filterMap id) = [])
    ∧ (let s := paired roleJoining
       s.mayServe (.page 0 [] []) = true ∧ (s.setChan 0 { refreshing := some 900 }).mayServe (.page 0 [] []) = false)
    ∧ (up.role ≠ roleShadow ∧ up.role ≠ roleJoining ∧ up.follows 0 = false)
    ∧ (let s := paired roleJoining
       s.role = roleJoining ∧ Memory.wf s.stackMem = true ∧ (0xFFFFF : Nat) < 2 ^ 20
         ∧ ∀ b ∈ [((0x1FFFFF : Nat), (7 : Byte))], b.1 < 2 ^ 21) := by
  decide +kernel

theorem witness_TemplatesApplyAndRelease :
    (up.ready = true ∧ up.busyPart 15 = false ∧ (up.setBit (rPart 15) 60 true).busyPart 15 = true)
    ∧ (let s := (up.setFld rHostBoot 63 61 6).withBoot { running := true }
       s.ready = false ∧ s.boot.running = true ∧ s.busyPart 15 = false)
    ∧ (let s := (up.setFld (rPart 1) 31 0 1).setReg (rPart 1 + 8) 0
       s.applyCode 1 (s.templateOf 1) = 2 ∧ (s.templateOf 1).clusters ≠ 0
         ∧ (s.setFld (rPart 1) 31 0 2).applyCode 1 ((s.setFld (rPart 1) 31 0 2).templateOf 1) = 0)
    ∧ (up.applyCode 0 (up.templateOf 0) = 0 ∧ (up.templateOf 0).clusters = 0)
    ∧ ((up.part 1).taking = none ∧ up.stage ≠ 6)
    ∧ (let s := up.setPart 1 { taking := some { ctl := 2, chmap := [0x81] } }
       (s.part 1).taking = some { ctl := 2, chmap := [0x81] } ∧ (s.part 1).releasing = false ∧ s.validPart 1 = false
         ∧ ((s.modPart 1 (fun q => { q with releasing := true })).part 1).releasing = true
         ∧ 1 ∈ ({ ctl := 2, chmap := [0x81] } : Template).chans ∧ chanOfPa (2 ^ 21) = 1
         ∧ ({ ctl := 2, chmap := [0x81] } : Template).twice = false ∧ s.integ.waitRows = [])
    ∧ (let t0 : Template := { ctl := 3, flg := 3, rq := 2, chmap := [0x80, 0x81], slmap := [0x80, 0x81] }
       let s := up.modPart 0 (fun q => { q with taking := some t0 })
       t0.twice = false ∧ s.validPart 0 = true ∧ t0.hasCluster 1 = true ∧ (s.tmpl 0).hasCluster 1 = false
         ∧ 1 ∈ t0.chans ∧ 1 ∉ (s.tmpl 0).chans ∧ 1 ∈ t0.slices ∧ 1 ∉ (s.tmpl 0).slices
         ∧ 16 * 0 + 31 / 16 ∈ t0.groups ∧ 16 * 0 + 31 / 16 ∉ (s.tmpl 0).groups
         ∧ t0.rqBase + t0.rqCount = 2 ∧ ¬ 1 < (s.tmpl 0).rqBase + (s.tmpl 0).rqCount ∧ Memory.wf s.caseMem = true) := by
  decide +kernel

/-- A TIERCOPY of one line between tier address 0 and partition address 0. -/
def copyOf (toTier : Bool) : TierJob := { toTier := toTier, sp := false, taddr := 0, paddr := 0, len := 64, cookie := 7 }

theorem witness_TierCopiesMoveTheirBytes :
    (let e : List W64 := [5 <<< 56, 0, 0, 1, 7, 0, 0, 0]
     let s := up.modPart 0 (fun q => { q with tmpl := { q.tmpl with tier := 1 } })
     bf (wordAt e 0) 63 56 = 5 ∧ s.validPart 0 = true ∧ s.fnWaits (0 + 1) = false ∧ s.mirrored 0 = false
       ∧ bf (s.tmpl 0).tier 63 32 * 2 ^ 30 ≤ (copyOf false).taddr
       ∧ (copyOf false).taddr + 64 ≤ 0 + bf (s.tmpl 0).tier 31 0 * 2 ^ 30 ∧ (s.placesFrom 0 0 0 64).length = 64
       ∧ bf (up.tmpl 0).tier 31 0 * 2 ^ 30 < (copyOf false).taddr + 64
       ∧ (s.placesFrom 0 0 (2 ^ 21) 64).length ≠ 64)
    ∧ ((up.part 0).copies[0]? = none)
    ∧ (let s := tiered (up.modPart 0 (fun q => { q with copies := [copyOf true, copyOf false] }))
       (s.part 0).copies[0]? = some (copyOf true) ∧ (s.part 0).copies[1]? = some (copyOf false) ∧ s.halted = false
           ∧ plain s = true
         ∧ s.tierUp 0 64 = true
         ∧ (let ls := s.placesFrom 0 0 0 64
            ls.length = 64 ∧ s.calm ls = true ∧ ls.all s.lineOk = true)
         ∧ (let u := s.setChan 0 { refreshing := some 900 }
            (u.placesFrom 0 0 0 64).length = 64 ∧ u.calm (u.placesFrom 0 0 0 64) = false)
         ∧ (s.placesFrom 0 0 (2 ^ 21) 64).length ≠ 64) := by
  decide +kernel

theorem witness_AccessCodesGovernWrites :
    (∀ f ∈ fTtStatus, f.lo ≤ f.hi ∧ f.hi < 64) ∧ (∃ f ∈ fTtSrc, f.acc = .rw ∧ f.lo ≤ 31 ∧ 31 ≤ f.hi)
    ∧ ((∃ f ∈ fTtStatus, f.acc = .w1c ∧ f.lo ≤ 3 ∧ 3 ≤ f.hi) ∧ ¬ ∃ f ∈ fTtStatus, f.acc = .rw ∧ f.lo ≤ 3 ∧ 3 ≤ f.hi)
    ∧ (¬ ∃ f ∈ fTtStatus, (f.acc = .rw ∨ f.acc = .w1c) ∧ f.lo ≤ 7 ∧ 7 ≤ f.hi)
    ∧ (∃ f ∈ fTtStatus, f.lo < 32 ∧ f.acc ≠ .rw ∧ f.acc ≠ .ro) ∧ ∃ f ∈ fTtFrame, 32 ≤ f.hi ∧ f.acc ≠ .rw
      ∧ f.acc ≠ .ro := by
  decide

theorem witness_RegisterWritesActAsTheirRows :
    (State.reset.barOpen = false ∧ up.barOpen = true ∧ up.keep.all.length < 16)
    ∧ ((layoutPf 0x1FFFFF8).isEmpty = true ∧ (layoutPf 0x41008).isEmpty = false ∧ 0x41008 % 0x1000 ≠ 0)
    ∧ ((0x1F000 : BitVec 25).toNat = rPart 15 ∧ (0x30000 : BitVec 25).toNat = rTtFrame 15)
    ∧ (rTtFrame 15 + 0x200 ≤ (0x30FF8 : BitVec 25).toNat ∧ (0x30FF8 : BitVec 25).toNat < rTtFrame 15 + 0x1000
      ∧ (up.setBit (rTtView 15) 0 true).fbit (rTtView 15) 0 = true)
    ∧ ((0xC0000 : BitVec 25).toNat = rMirCtl ∧ bit (1 <<< 43 : W64) 42 = false ∧ bf (2 <<< 43 : W64) 45 43 = 2)
    ∧ ((0x210 : BitVec 25).toNat = rEbase 0 % 2 ^ 32 ∧ (0x10 : BitVec 25).toNat = rEbase 16 % 2 ^ 32)
    ∧ (up.validPart 15 = false ∧ up.validPart 0 = true ∧ 0x1000 ≤ (0x17F8 : BitVec 25).toNat
      ∧ (0x17F8 : BitVec 25).toNat < 0x1800)
    ∧ (((running (runAt 5 0)).findRun 0 ((0x10A0 - 0x1000) / 32) (fun r => r.phase == .step
      && r.step.isNone)).isSome = true
      ∧ (up.findRun 0 63 (fun r => r.phase == .step && r.step.isNone)).isSome = false)
    ∧ (let s := up.setFld (rEstat 1) 15 0 3
       let n := ringSize (s.reg (rEbase 1))
       bf (3 : W64) 15 0 < n ∧ (bf (3 : W64) 15 0 + n - 0 % n) % n ≤ (s.fld (rEstat 1) 15 0 + n - 0 % n) % n
         ∧ s.fld (rEhead 1) 15 0 = 0 ∧ (s.fld (rEstat 1) 15 0 + n - 0 % n) % n < (bf (4 : W64) 15 0 + n - 0 % n) % n
         ∧ n ≤ bf (64 : W64) 15 0)
    ∧ ((0x10003 : BitVec 25).toNat % 8 ≠ 0 ∧ up.galleyHeld 0 ((0x10008 - 0x10000) / 64) = false
      ∧ (galley.setFld (rGtail 1) 9 0 1).galleyHeld 0 (((0x10038 : BitVec 25).toNat - 0x10000) / 64) = true
      ∧ (galley.setFld (rGtail 1) 9 0 1).galleyHeld 0 (((0x10040 : BitVec 25).toNat - 0x10000) / 64) = false
      ∧ galley.validPart 0 = true ∧ (galley.tmpl (1 - 1)).hasCluster 1 = false) := by
  decide +kernel

theorem witness_BringUpRunsItsStages :
    (up.power.input = true ∧ State.reset.power.input = false ∧ State.reset.timeSrc = 0 ∧ State.reset.time.altInUse = false
      ∧ (State.reset.setReg rTtSrc 1).timeSrc ≠ 0)
    ∧ (0 < ({ durations := [1] } : BootPlan).durations.getD 0 0
      ∧ ({ supplyOk := false } : BootPlan).durations.getD 0 0 = 0)
    ∧ (up.locked = false ∧ up.mayLock = true ∧ up.power.alive = true ∧ up.stage ≠ 5)
    ∧ (let s := (up.setFld rHostBoot 63 61 5).withBoot { running := true, elapsed := 2000000000 }
       s.stage = 5 ∧ s.boot.running = true ∧ s.boot.applyQ = [] ∧ s.bootTemplates = [] ∧ s.anyBusy = false
           ∧ s.locked = false
         ∧ s.mayLock = true ∧ s.boot.limitAt + 2000000000 ≤ s.boot.elapsed
         ∧ 1999999999 < s.boot.limitAt + 2000000000)
    ∧ (up.keep.queue = [] ∧ alwaysOn rMirCtl = true ∧ rMirCtl ≠ rMirStat
      ∧ rMirCtl ≠ rMirRsync ∧ alwaysOn (rPart 0) = false ∧ (∀ j, j < 4 → rPart 0 ≠ rFwImg j)) := by
  decide +kernel

/-! ### Witnesses: integrity, firmware, power, halt, test access and sampling -/

/-- The scrubber of stack channel 127 at line pos, its window's scrubbing enabled. -/
def scrubbing (pos : Nat) : State :=
  (up.setBit (rEcfg 7) 0 true).withInteg { scrub := [(127, { pos := pos, lapAt := some 5 })] }

theorem witness_ScrubbingAndRetirement :
    (Site.pair (.chan 7 15) = (0, 127) ∧ Site.pair (.case 1) = (1, 1) ∧ Site.pair (.store 31) = (2, 31)
      ∧ State.reset.power.alive = false ∧ up.tripped = false ∧ (up.setBit rThmStat 63 true).tripped = true)
    ∧ (let s := scrubbing (72 * 2 ^ 20 - 64)
       let sc : Scrub := sget {} s.integ.scrub (scrubKey (0, 127))
       s.power.alive = true ∧ s.power.input = true ∧ s.fbit (rEcfg (siteWin (0, 127))) 0 = true
         ∧ s.fbit (siteReg (0, 127) + 24) 63 = false ∧ s.siteIdle (0, 127) sc.pos = true ∧ s.plainReads
         ∧ sc.pos < siteLines (0, 127) ∧ siteLines (0, 127) ≤ sc.pos + 64
         ∧ (sget {} (scrubbing (72 * 2 ^ 20 - 128)).integ.scrub (scrubKey (0, 127)) : Scrub).pos + 64 < siteLines (0,
           127))
    ∧ (let s := scrubbing 0
       let d := s.lapMax (0, 127)
       (sget {} s.integ.scrub 127 : Scrub).lapAt = some 5 ∧ (atNs s (5 + d)).now - 5 ≤ s.lapMax (0, 127)
         ∧ s.lapMax (0, 127) < (atNs s (6 + d)).now - 5 ∧ s.fbit (siteReg (0, 127) + 8) 0 = false
         ∧ (s.setBit (siteReg (0, 127) + 8) 0 true).fbit (siteReg (0, 127) + 8) 0 = true)
    ∧ (let s := up.withInteg { copying := [(127, (1 <<< 60 : W64))] }
       s.integ.copying.find? (fun e => e.1 == chanKey 7 15) = some (127, (1 <<< 60 : W64))
           ∧ (s.chan (chanKey 7 15)).state = .memory
         ∧ s.siteIdle (0, chanKey 7 15) 0 = true ∧ up.integ.copying.find? (fun e => e.1 == chanKey 7 15) = none
         ∧ ((s.setChan 127 { state := .processor }).chan (chanKey 7 15)).state ≠ .memory) := by
  decide +kernel

theorem witness_KeepWritesAndTrials :
    (hostKeepWord 1 = false ∧ hostKeepWord 2 = true ∧ hostKeepWord 7 = true ∧ hostKeepWord 8 = false
        ∧ hostKeepWord 0 = true)
    ∧ (let s := up.withKeep { counts := [(2, 1000000)], queue := List.replicate 15 (7, 3) }
       s.keepWorn 2 = true ∧ s.keepWorn 7 = false ∧ s.keep.all.length < 16 ∧ s.keep.waiting = [] ∧ (∃ e ∈ s.keep.all,
           e.1 = 7)
         ∧ s.keepStored 7 = 0 ∧ s.keepStored 7 ≠ 1 ∧ s.keepWorn 0 = false ∧ s.keepStored 0 = 0 ∧ 0 ∉ s.keep.bad
         ∧ (∀ e ∈ s.keep.all, e.1 ≠ 0) ∧ coreSec ∉ s.fw.started)
    ∧ (let s := up.withKeep { queue := List.replicate 16 (7, 3) }
       s.keepWriteDone.keepWorn 2 = false ∧ s.keep.all.length = 16)
    ∧ (let s := up.withKeep { queue := List.replicate 16 (7, 3), waiting := [(2, 5)] }
       s.keep.all = (7, 3) :: (List.replicate 15 (7, 3) ++ [(2, 5)]) ∧ s.keepStored 7 ≠ 3
         ∧ (s.withKeep { s.keep with words := [(7, 3)] }).keepStored 7 = 3 ∧ 7 ∉ s.keep.bad)
    ∧ (let s := up.withFw { images := [(1, { ok := false }), (2, { ok := false }), (4, { ok := false }), (5, { ok := false })] }
       s.slotPasses 0 0 = true ∧ s.slotPasses 0 1 = false ∧ s.slotPasses 1 0 = false ∧ s.slotPasses 1 1 = true
         ∧ s.slotPasses 2 0 = false ∧ s.slotPasses 2 (1 - 0) = false)
    ∧ (up.keep.all = [] ∧ ((up.withKeep { queue := [(2, 1)], counts := [(2, 999999)] }).keepWorn 2 = false)
      ∧ (up.withKeep { queue := [(2, 1)], counts := [(2, 1000000)] }).keepWorn 2 = true)
    ∧ (let s := up.withFw { trialAt := [(3, 6)] }
       sget 0 up.fw.trialAt 3 = 0 ∧ sget 0 s.fw.trialAt 3 ≠ 0
           ∧ (atNs s 1000000004).now < sget 0 s.fw.trialAt 3 - 1 + 1000000000
         ∧ sget 0 s.fw.trialAt 3 - 1 + 1000000000 ≤ (atNs s 1000000005).now) := by
  decide +kernel

/-- An image of 511 bytes never passes; whether a longer one does is the implementation's (Config.imageVerifies). -/
theorem witness_UpdatesAreVerified :
    (bit (0 : W64) 63 = false ∧ bit (1 <<< 63 : W64) 63 = true ∧ up.updPhase = 0 ∧ up.secWaits = false
      ∧ ((up.setPhase 4).updPhase ≠ 0 ∧ (up.setPhase 4).updPhase ≠ 5 ∧ (up.setPhase 4).updPhase ≠ 6)
      ∧ (up.withFw { switching := some (coreSec, 0) }).secWaits = true)
    ∧ up.fw.upd = none
    ∧ ∀ u : FwUpd, u.len = 511 →
        ¬ (Config.imageVerifies (u.fetched.getD (mbytes up.hostMem u.addr u.len)) = true ∧ 512 ≤ u.len) := by
  exact ⟨by decide +kernel, by decide +kernel, fun u h c => by omega⟩

theorem witness_LiveSwitchesKeepTheirOrder :
    (let s := (up.withFw { switching := some (coreSch, 0) }).setBit (rTtFrame 0) 63 true
     s.fw.switching = some (coreSch, 0) ∧ s.atBoundary = true ∧ (∀ p, p < 16 → (s.scu p).hashing = [])
         ∧ up.atBoundary = false)
    ∧ ((up.withFw { switching := some (corePwr, 0) }).fw.switching = some (corePwr, 0)
      ∧ (up.setBit rClkCtl 63 true).fbit rClkCtl 63 = true ∧ (up.setBit rClkCtl 63 false).fbit rClkCtl 63 = false)
    ∧ (let s := (up.withFw { switching := some (coreSec, 0), waits := [(true, (1 <<< 63 : W64))] }).withTap { waiting := [([1], [2])] }
       s.fw.switching = some (coreSec, 0) ∧ s.fw.waits = [(true, (1 <<< 63 : W64))] ∧ bit (1 <<< 63 : W64) 63 = true
         ∧ (s.withFw { s.fw with waits := [] }).fw.waits = [] ∧ up.tap.waiting = [])
    ∧ (let s := (up.withFw { switching := some (coreCc, 0), walk := [31, 0], walkAt := 9 }).setPhase 4
       s.fw.switching = some (coreCc, 0) ∧ s.fw.walk.find? (fun c => c / 16 == 1) = some 31 ∧ s.partOf 31 = none
         ∧ (s.cluster 31).run = none ∧ s.pendingOut 1 = none ∧ s.outFailed 1 = false ∧ s.fw.walk.filter (· != 31) ≠ []
         ∧ (let u := s.withInteg { failedClusters := [(1, 16)] }
            u.outFailed 1 = true ∧ u.pendingOut 1 = none)
         ∧ s.updPhase = 4 ∧ s.fw.walkAt + s.horizon ≤ (atNs s (9 + s.horizon)).now ∧ s.fw.queue = []
         ∧ (atNs s (8 + s.horizon)).now < s.fw.walkAt + s.horizon ∧ 0 < s.horizon)
    ∧ (let s := (framed.setBit (rTtFrame 0) 63 true).withFw { switching := some (coreCc, 0), walk := [0] }
       s.fw.walk.find? (fun c => c / 16 == 0) = some 0 ∧ s.partOf 0 = some 0 ∧ s.atBoundary = true
           ∧ s.slotOwns 0 s.now 30000 = false
         ∧ (s.cluster 0).run = none ∧ s.pendingOut 0 = none ∧ s.fw.walk.filter (· != 0) = [])
    ∧ (let s := eng.withFw { switching := some (coreCc, 0), walk := [0] }
       s.fw.walk.find? (fun c => c / 16 == 0) = some 0 ∧ (s.cluster 0).run.isSome = true ∧ s.fw.walk.filter (· != 0) = []
         ∧ s.fw.walk.find? (fun c => c / 16 == 1) = none)
    ∧ ((up.withInteg { pendOut := [(1, some 3)] }).pendingOut 1).isSome = true := by
  decide +kernel

/-- A waiting request for kind k and target t, in a MAINT duty that leaves it the time. -/
def testing (k t : Nat) (run : Bool) : State :=
  ((running { dutiesOf .maint (1 <<< 62 ||| 0xFFFFFF <<< 24) with dutyStart := some 0 }).setBit (rTtFrame 0) 63 true).withFw
    { queue := [{ kind := k, target := t, queuedAt := 0, running := run, deferred := false }] }

/-- The test of row i may run, for a request that stands first. -/
def testReady (s : State) (i : Instr) : Bool :=
  match testOf i, s.fw.queue with
  | some (k, hit), [q] => q.kind == k && hit q.target && !q.running && s.testAllowed i
  | _, _ => false

theorem witness_SelfTestsRunAndReport :
    testReady (testing 1 127 false) (.dramCalibration 7 15) = true
        ∧ testReady (testing 1 0 false) (.dramCalibration 0 0) = true
    ∧ testReady (testing 2 47 false) (.linkTrim 47 0) = true ∧ testReady (testing 3 127 false) (.memoryTest 7 15) = true
    ∧ testReady (testing 4 0 false) .sensorTest = true
    ∧ testReady ((testing 5 0 false).setBit rTtStatus 5 true) (.oscCompensationTest 0) = true
    ∧ testReady (testing 6 1 false) (.clusterSelfTest 1) = true
      ∧ (testing 3 0 false).testAllowed (.memoryTest 0 0) = false
    ∧ (up.testAllowed (.dramCalibration 7 15) = true ∧ up.testAllowed (.linkTrim 47 0) = true ∧ up.fw.queue = []
      ∧ (testing 1 127 true).testAllowed (.dramCalibration 7 15) = true
      ∧ (testing 1 127 true).fw.queue = [{ kind := 1, target := 127, queuedAt := 0, running := true, deferred := false }]
      ∧ up.testAllowed (.memoryTest 7 15) = true)
    ∧ (let s := (testing 2 47 false).withKeep { pwrAt := [(64 + 47, 1)] }
       sget 0 s.keep.pwrAt (64 + 47) = 1 ∧ ¬ (1 + 600000000000 ≤ s.now + 1) ∧ sget 0 up.keep.pwrAt (64 + 47) = 0
         ∧ 1 + 600000000000 ≤ (atNs s 600000000000).now + 1)
    ∧ (up.fw.queue[0]? = none ∧ (testing 4 0 false).fw.queue[0]?.map (·.running) = some false
      ∧ ∀ k, 1 ≤ k → k ≤ 6 → (testing k 0 true).fw.queue[0]?.map (fun q => (q.running, q.kind,
        q.startedAt)) = some (true, k, 0)
          ∧ (atNs (testing k 0 true) (testNs k - 1)).now < 0 + testNs k
            ∧ 0 + testNs k ≤ (atNs (testing k 0 true) (testNs k)).now)
    ∧ ((up.setSensor 12 { broken := true }).sensor 12).broken = true ∧ (0x1000 : BitVec 13).getLsbD 12 = true := by
  refine ⟨by decide +kernel, by decide +kernel, by decide +kernel, by decide +kernel, by decide +kernel,
      by decide +kernel,
    by decide +kernel, by decide +kernel, by decide +kernel, by decide +kernel, ⟨by decide +kernel, by decide +kernel,
        ?_⟩,
    by decide +kernel, by decide +kernel⟩
  intro k h1 h6
  have h : k = 1 ∨ k = 2 ∨ k = 3 ∨ k = 4 ∨ k = 5 ∨ k = 6 := by omega
  rcases h with rfl | rfl | rfl | rfl | rfl | rfl <;> decide +kernel

theorem witness_SensorsThrottleAndTrip :
    (State.reset.supplied = false ∧ up.supplied = true ∧ up.mirUp = false ∧ (paired rolePrimary).mirUp = true
      ∧ (paired rolePrimary).supplied = true)
    ∧ ((up.sensorsAfter (List.replicate 13 1839) 0).all (fun x => decide (x.inForce < 1840) && !x.broken)) = true
    ∧ ((up.sensorsAfter (List.replicate 13 1840) 0).all (fun x => decide (1840 ≤ x.inForce))) = true
    ∧ ((up.sensorsAfter (List.replicate 13 2401) 0).all (fun x => decide (2400 < x.reading) && x.broken)) = true
    ∧ ((up.sensorsAfter (List.replicate 13 (-640)) 0).all (fun x => !x.broken)) = true
    ∧ ((up.setSensor 12 { broken := true }).sensor 12).broken = true := by
  decide +kernel

/-- Every cluster of C-die 1 under full stretch. -/
def stretched : State := up.withClusters ((List.range 16).map (fun j => (16 + j, { stretch := fullStretch })))

theorem witness_ClocksStretchStopAndRestart :
    (State.reset.supplied = false ∧ up.supplied = true ∧ up.cThrottled (31 / 16) = false)
    ∧ ((∀ j, j < 16 → (up.cluster (16 + j)).stretch ≠ fullStretch)
      ∧ (∀ j, j < 16 → (stretched.cluster (16 * 1 + j)).stretch = fullStretch) ∧ stretched.supplied = true
      ∧ sget none stretched.power.stops 1 = none)
    ∧ (let s := (up.withPower { stops := [(1, some (.frequency, 5))] }).withBoot { elapsed := 1005 }
       sget none s.power.stops 1 = some (.frequency, 5) ∧ 5 + 1000 ≤ s.boot.elapsed
         ∧ (s.withBoot { elapsed := 1004 }).boot.elapsed < 5 + 1000)
    ∧ (sget 0 up.power.pwrStretch (31 / 16) ≤ fullStretch ∧ (16 : Nat) / 16 ≠ 15 / 16) := by
  decide +kernel

/-- Grade 2 under a cap of 500 W with a margin of 20, GMAX 5. -/
def graded : State := (up.setReg rClkCtl (1 <<< 63 ||| 5 <<< 60 ||| 500 <<< 16 ||| 20)).setFld rClkGrade 63 61 2

theorem witness_GradesAndCompensation :
    (graded.fbit rClkCtl 63 = true ∧ graded.power.gradeAt = 0 ∧ graded.grade = 2 ∧ graded.fld rClkCtl 62 60 = 5
      ∧ graded.fld rClkCtl 31 16 < 501 ∧ graded.throttled = false
        ∧ 479 + graded.fld rClkCtl 7 0 < graded.fld rClkCtl 31 16
      ∧ graded.fld rClkCtl 31 16 ≤ 480 + graded.fld rClkCtl 7 0 ∧ (up.setBit rClkCtl 63 false).fbit rClkCtl 63 = false
      ∧ (graded.setFld rClkCtl 62 60 1).fld rClkCtl 62 60 < graded.grade
        ∧ (graded.setBit rThmStat 17 true).throttled = true ∧ graded.power.throttleAt = none
        ∧ (let s := graded.withPower { graded.power with throttleAt := some 4 }
           s.power.throttleAt = some 4 ∧ (atNs s 10000003).now < 4 + 10000000))
    ∧ (let s := up.withPower { alive := true, input := true, lower := [7] }
       7 ∈ s.power.lower ∧ s.mayLower 7 = true ∧ s.supplied = true ∧ 7 ∉ up.power.lower)
    ∧ (up.compValid = false
      ∧ (let s := up.withKeep { words := [(32, 1 <<< 63 ||| 1 <<< 56), (33, 400 <<< 48 ||| 7)] }
         s.supplied = true ∧ s.compValid = true ∧ s.compPoints ≠ []))
    ∧ (let s := (up.setBit rTtStatus 5 true).withPower { alive := true, input := true, lastComp := some 4 }
       s.supplied = true ∧ s.locked = true ∧ s.power.lastComp = some 4 ∧ (atNs s 600000000003).now < 4 + 600000000000
         ∧ 4 + 600000000000 ≤ (atNs s 600000000004).now ∧ s.fw.queue = [])
    ∧ (let s := (testing 5 0 false).setBit rTtStatus 5 true
       s.testAllowed (.oscCompensationTest 7) = true ∧ up.testAllowed (.oscCompensationTest 7) = false
         ∧ (∀ e ∈ s.pointWrites 7, sget 0 s.keep.pwrAt e.1 = 0)
         ∧ (let u := s.withKeep { pwrAt := [(33, 1)] }
            (33 ∈ (u.pointWrites 7).map (·.1)) ∧ sget 0 u.keep.pwrAt 33 = 1 ∧ ¬ 1 + 600000000000 ≤ u.now + 1))
    ∧ (graded.supplied = true ∧ State.reset.supplied = false ∧ graded.fw.switching = none
      ∧ (graded.withFw { switching := some (corePwr, 0) }).fw.switching = some (corePwr, 0)) := by
  decide +kernel

theorem witness_HaltsLatchAndResume :
    (up.halted = false ∧ (up.setBit rTrcHstat 63 true).halted = true ∧ up.tap.unlocked = false
      ∧ (up.withTap { unlocked := true }).tap.unlocked = true ∧ up.scanning = false
        ∧ (up.setBit rTrcProof 62 true).scanning = true)
    ∧ (let f := { hdr opcHalt 0 with ack := 0 }.frame []
       (frameHdr f).vc ≠ 3 ∧ (frameHdr f).opc = opcHalt ∧ badHeader (frameHdr f) f = false ∧ frameCrcOk f = true
         ∧ (up.setFld rMirStat 60 59 1).fld rMirStat 60 59 ≠ 0 ∧ up.fld rMirStat 60 59 = 0 ∧ linked.linkUp 0 = true
         ∧ linked.halted = false) := by
  refine ⟨by decide +kernel, by decide +kernel, by decide +kernel, by decide +kernel, crc_frame _ _, ?_⟩
  decide +kernel

theorem witness_ProofsAndRecordBuffers :
    (let s := up.setBit rTrcHstat 63 true
     s.halted = true ∧ s.scanning = false ∧ s.partOfSlice (s.fld rTrcProof 4 0) = none
       ∧ (s.partOfSlice ((s.setFld rTrcProof 4 0 0).fld rTrcProof 4 0)).isSome = true)
    ∧ up.halted = false
    ∧ (let s := (up.setBit rTrcProof 62 true).withHalt { slice := 31 }
       s.scanning = true ∧ s.partOfSlice s.halt.slice = none
         ∧ (s.partOfSlice (s.withHalt { slice := 0 }).halt.slice).isSome = true) := by
  decide +kernel

theorem witness_TestAccessAndManagement :
    (State.reset.stage < 3 ∧ 3 ≤ up.stage ∧ up.fbit rHostBoot 60 = false ∧ up.tap.unlocked = false)
    ∧ (let s := up.withTap { unlocked := true }
       s.tap.unlocked = true ∧ s.scanning = false ∧ s.plainReads ∧ (0xFFFFFFC : W64).toNat + 4 * 1 ≤ 2 ^ 28)
    ∧ (mgmtWritable rHostBoot = false ∧ mgmtWritable (BitVec.ofNat 32 rThmStat).toNat = true)
    ∧ ((up.withTap { i3cOffset := rMirStat }).tap.i3cOffset = rMirStat ∧ reservedRange 0x120000 = true
      ∧ reservedRange 0xFFFFF8 = true
      ∧ (0x120000 : Nat) ≤ 0x200000 ∧ reservedRange 0x200000 = false ∧ reservedRange 0x1000000 = false)
    ∧ (let s := (up.withTap { challenge := [1] }).withFw { started := [coreSec], switching := some (coreSec, 0) }
       s.tap.challenge.isEmpty = false ∧ s.fw.started.contains coreSec = true ∧ s.secWaits = true
         ∧ (s.withFw { started := [coreSec] }).secWaits = false) := by
  decide +kernel

theorem witness_SamplingTakesTheLargest :
    (∀ y ∈ penalised { counts := [(1, 3)] } [one, vzero], isNan y = false)
    ∧ (penalised { counts := [(1, 3)] } [one, vzero]).all isNegInf = false
    ∧ vlt vzero (bfVal ({} : Req).w6 63 48) = false ∧ bf ({ w6 := 1 } : Req).w6 10 0 = 1
    ∧ ((penalised {} [negInf]).all isNegInf = true ∧ ∀ y ∈ penalised {} [negInf], isNan y = false)
    ∧ ∀ e ∈ ({ counts := [(1, 3)] } : Req).counts, e.1 ≠ 0 := by
  decide +kernel

/-! ### Ill-formed commands -/

theorem test_ill_rowForm : WellFormed.instr (.rowForm 0 0x40 {}) = false := by decide
theorem test_ill_entry : WellFormed.instr (.submit 0 [0]) = false := by decide
theorem test_ill_mirrorEntry : WellFormed.instr (.mirrorInput (.galley 0 [])) = false := by decide
theorem test_ill_frame : WellFormed.instr (.writeFrame 0 { payload := [0] }) = false
    ∧ WellFormed.instr (.writeFrame 0 { mask := [0xFF] }) = false := by
  decide
theorem test_ill_bypass : WellFormed.instr (.bypass 0x01 []) = false ∧ WellFormed.instr (.bypass 0x20 []) = true := by
  decide
theorem test_ill_access : WellFormed.instr (.hostRead 1 false (2 ^ 40) 1) = false
    ∧ WellFormed.instr (.hostRead 0 true 0x800000 1) = false := by
  decide
theorem test_ill_register : WellFormed.instr (.registerWrite 0 4 .w64 0) = false
    ∧ WellFormed.instr (.registerWrite 1 0x1000000 .w64 0) = false
      ∧ WellFormed.instr (.registerWrite 0 8 .lo32 (1 <<< 32)) = false := by
  decide
theorem test_ill_readings : WellFormed.instr (.sensorRead [0] 0) = false := by decide
theorem test_ill_plan : WellFormed.instr (.powerOn { durations := [1, 1, 1, 1, 1, 1] }) = false
    ∧ WellFormed.instr (.powerOn { linksUp := [(0, 0, 5)] }) = false := by decide
theorem test_ill_training : WellFormed.instr (.linkTrained (some 0) { up := true, gen := 0, roundTrip := 0, spareWired := false }) = false := by decide
theorem test_ill_idle : WellFormed.instr (.idleOrderedSet 0 (2 ^ 64) 0 0 false false) = false := by decide
theorem test_ill_heartbeat : WellFormed.instr (.heartbeatReceive ⟨0, 5, false, false⟩) = false := by decide
theorem test_ill_unlock : WellFormed.instr (.unlock []) = false := by decide
theorem test_well_formed : WellFormed.instr (.rowForm 0 0x3F {}) = true ∧ WellFormed.instr (.submit 0 (entryOf 1)) = true
    ∧ WellFormed.instr (.registerWrite 1 0xFFFFF8 .hi32 0xFFFFFFFF) = true := by decide

/-! ### Single steps, expected results by hand -/

/-- No word spells a command: the table gives none bits. -/
theorem test_no_words : decodeTableWord 32 5 = none ∧ State.reset.withFetchWord 32 5 = State.reset := by decide +kernel

theorem test_queue_order : after (step (up.withPending [.idcode, .trstN])) (fun t => t.pending == [.trstN]
    && t.tap.tdo.length == 32) = true := by
  decide +kernel

/-- A tick counts 1 ns and two cycles of 500 ps (R33, R464). -/
theorem test_tick : after (step up) (fun t => t.now == 1 && (t.cluster 31).cyc == 2) = true := by decide +kernel

/-- 1 + 1 is 2; 1 + 2^-8 is a tie in bf16, and goes to the even 1 (R145). -/
theorem test_round : encode .bf16 (vadd one one) = 0x4000 ∧ encode .bf16 (vadd one (.fin false 1 (-8))) = 0x3F80
    ∧ encode .bf16 (vadd one (.fin false 3 (-8))) = 0x3F82 := by decide +kernel

/-- The check value of CRC-32 with the IEEE 802.3 polynomial over the digits 1 to 9 (R335). -/
theorem test_crc32 : crc32 [0x31, 0x32, 0x33, 0x34, 0x35, 0x36, 0x37, 0x38, 0x39] = 0xCBF43926 := by decide +kernel

/-- Table 8.1: address bits 24 to 21 pick the channel, 29 to 25 the bank, and 72 GiB make a stack. -/
theorem test_stack_map : chanOfPa (7 * stackBytes + 15 * 2 ^ 21) = 127 ∧ bankOfPa (31 * 2 ^ 25) = 31
    ∧ rowOfPa (2 ^ 30 + 2 ^ 14) = 129 := by
  decide +kernel

/-- A LOOP of 5 bounded to 3 opens a level of 3 (R97). -/
theorem test_loop : after (exec (.loop 0 4 { imm := 3 <<< 16 ||| 5, opnd := 1 <<< 8 }) eng)
    (fun t => ((t.stream 0 4).loops.map (·.count)) == [3]) = true := by decide +kernel

theorem test_end : after (exec (.endStream 0 4 {}) eng) (fun t => !(t.stream 0 4).live
    && (t.stream 0 0).live) = true := by decide +kernel

/-- FLGCLR completes and clears its flag (Table 4.12). -/
theorem test_flgclr :
    (let s := (moving { mvo 0x6C with clearFlag := some (0, 15) }).withFlags [(15, { val := true })]
     after (exec (.mvCompletion 0 0) s) (fun t => !(t.flag 0 15).val
         && (t.cluster 0).mv.isEmpty)) = true := by decide +kernel

/-- SZERO empties its merge slot (R242). -/
theorem test_szero : after (exec (.szero 0 0) ((near0 (nbList 0x2A)).modChan 0 (fun ch => { ch with slots := [(0, { sum := 5 })] })))
    (fun t => t.mslot 0 0 == {}) = true := by decide +kernel

/-- A commit of a 20 µs frame takes effect at a frame boundary (R49). -/
theorem test_commit : after (exec (.frameBoundary 0) (pendingCommit.modPart 0 (fun q => { q with frame := none })))
    (fun t => (t.part 0).actLen == 20 && !t.fbit (rTtFrame 0) 61) = true := by decide +kernel

/-- A slot that starts clears the counters of its cluster and names its step there (R75). -/
theorem test_slotStart : after (exec (.slotStart 0 63) (atNs slotted 10)) (fun t => (t.cluster 0).run == some (0,
    63)) = true := by
  decide +kernel

theorem test_linkEnable : after (exec (.linkEnable 47) up) (fun t => t.lkState 47 == 1
    && t.fbit (rLctl 47) 63) = true := by decide +kernel

/-- SETROLE 1 makes a SOLO module JOINING (Table 13.1). -/
theorem test_setrole : after (exec .setroleJoining up) (fun t => t.role == roleJoining) = true := by decide +kernel

/-- SUBMIT fills its entry and makes it QUEUED (R292). -/
theorem test_submit : after (exec (.submit 0 (entryOf 1)) up) (fun t => (t.req 0).state == rqQueued
    && (t.scu 0).seq == 1) = true := by
  decide +kernel

/-- What the host writes it reads (R374, R381). -/
theorem test_host_write : after (exec (.hostWrite 1 false 5 [9]) up)
    (fun t => after (exec (.hostRead 1 false 4 2) t) (fun u => u.host.bytes == [0, 9])) = true := by decide +kernel

/-- A keep write waits, then persists and counts once (R429, R431). -/
theorem test_keep : after (exec (.keepWrite 2 7) up)
    (fun t => t.keepStored 2 == 0 && after (exec .keepWriteDone t) (fun u => u.keepStored 2 == 7
        && u.keepCount 2 == 1)) = true := by
  decide +kernel

/-- An overvoltage trips the module (R450), where it has its supply. -/
theorem test_trip : after (exec .inputOvervoltage up) (fun t => t.fbit rThmStat 63 && t.role == roleFenced) = true
    ∧ after (exec .inputOvervoltage State.reset) (fun t => !t.fbit rThmStat 63) = true := by decide +kernel

/-- RESUME ends a halt, but not while a scan-out runs (R458). -/
theorem test_resume : after (exec .haltResume (up.setBit rTrcHstat 63 true)) (fun t => !t.halted) = true
    ∧ after (exec .haltResume ((up.setBit rTrcHstat 63 true).setBit rTrcProof 62 true)) (fun t => t.halted) = true := by
  decide +kernel

/-- IDCODE shifts out 0x30576567, least bit first (Table 20.4). -/
theorem test_idcode : after (exec .idcode up) (fun t => t.tap.tdo.take 8 == [true, true, true, false, false, true,
    true, false]) = true := by
  decide +kernel

/-- A command with its INDEX outside the partition's range is discarded with a record (R385). -/
theorem test_discard : after (exec (.cancel 0 (entryOut 2)) up)
    (fun t => t.fld (rEstat 1) 15 0 == 1 && (t.scu 0).acts == []) = true := by decide +kernel

end Sys2Proof.Tests
end

section

namespace Sys2Proof.Machine

/-! ### The block: its queue and its commands (R13, R15) -/

/-- A step takes the command at the front of the queue. -/
theorem step_of_pending {s : State} {i : Instr} {rest : List Instr} (h : s.pending = i :: rest) :
    step s = exec i (s.withPending rest) := by
  simp [step, State.takeCommand, h]

/-- SLOT_START is the one row that is not written as a single next state: it finds nothing to start, it begins its
slot, or it begins it over a slot that still owns a cluster. -/
theorem execSlotStart_completes (p : PartId) (n : SlotId) (s : State) : ∃ t, execSlotStart p n s = .next t := by
  unfold execSlotStart
  split
  · exact ⟨_, rfl⟩
  · dsimp only
    split
    · exact ⟨_, rfl⟩
    · split <;> exact ⟨_, rfl⟩

/-- Every command completes, in every state. -/
theorem exec_completes (i : Instr) (s : State) : ∃ t, exec i s = .next t := by
  cases i
  case slotStart p n => exact execSlotStart_completes p n s
  all_goals exact ⟨_, rfl⟩

/-- Settles O1: by the definition of a step, and by cases on the rows. -/
theorem stepRunsFrontCommand : Obligations.StepRunsFrontCommand := by
  unfold Obligations.StepRunsFrontCommand
  exact ⟨fun _ _ _ => step_of_pending, exec_completes⟩

/-! ### The state after reset (R10) -/

/-- A register file that lists nothing holds each register's Reset column. -/
theorem regGet_nil (k : Nat) : regGet [] k = resetWord (layoutOf k) := by simp [regGet, sget]

/-- No byte of a memory is listed after reset. -/
theorem byteAt_reset (sp : Space) (a : Nat) : State.reset.byteAt sp a = 0 := by
  cases sp <;> rfl

/-- Settles O48: the reset state lists no register, no channel and no byte. -/
theorem resetStateIsAsTabled : Obligations.ResetStateIsAsTabled := by
  unfold Obligations.ResetStateIsAsTabled
  exact ⟨regGet_nil, by decide, fun _ => rfl, byteAt_reset, by decide, rfl, rfl⟩

/-! ### Access codes (R9, R11, R12) -/

theorem getLsbD_fmask (hi lo i : Nat) :
    (fmask hi lo).getLsbD i = (decide (i < 64) && decide (lo ≤ i) && decide (i - lo < hi - lo + 1)) := by
  simp only [fmask, BitVec.getLsbD_ofNat, Nat.testBit_shiftLeft, Nat.testBit_two_pow_sub_one, ge_iff_le,
    Bool.and_assoc]

/-- Bit i belongs to a field of access code a. -/
def inAcc (fs : List Fld) (a : Access) (i : Nat) : Prop := ∃ f ∈ fs, f.acc = a ∧ f.lo ≤ i ∧ i ≤ f.hi

theorem getLsbD_accFold (fs : List Fld) (a : Access) (i : Nat) (hi : i < 64) (hf : ∀ f ∈ fs, f.lo ≤ f.hi) (m : W64) :
    (fs.foldl (fun w f => if f.acc = a then w ||| fmask f.hi f.lo else w) m).getLsbD i = true
      ↔ m.getLsbD i = true ∨ inAcc fs a i := by
  induction fs generalizing m with
  | nil => simp [inAcc]
  | cons f fs ih =>
    have hlo : f.lo ≤ f.hi := hf f List.mem_cons_self
    have hbit : (fmask f.hi f.lo).getLsbD i = true ↔ f.lo ≤ i ∧ i ≤ f.hi := by
      simp only [getLsbD_fmask, Bool.and_eq_true, decide_eq_true_eq]; omega
    have hin : inAcc (f :: fs) a i ↔ (f.acc = a ∧ f.lo ≤ i ∧ i ≤ f.hi) ∨ inAcc fs a i := by simp [inAcc]
    rw [List.foldl_cons, ih (fun g hg => hf g (List.mem_cons_of_mem _ hg)), hin]
    by_cases ha : f.acc = a
    · simp [ha, hbit, or_assoc]
    · simp [ha]

/-- The mask of an access code holds the bits of its fields. -/
theorem getLsbD_accMask {fs : List Fld} (hf : ∀ f ∈ fs, f.lo ≤ f.hi) (a : Access) {i : Nat} (hi : i < 64) :
    (accMask fs a).getLsbD i = true ↔ inAcc fs a i := by
  rw [accMask, getLsbD_accFold fs a i hi hf]; simp

/-- A whole write, bit by bit: RW bits are taken, W1C bits cleared by ones, the others kept. -/
theorem getLsbD_writeWord_w64 (fs : List Fld) (old v : W64) {i : Nat} (hi : i < 64) :
    (writeWord fs old .w64 v).getLsbD i =
      (if (accMask fs .rw).getLsbD i then v.getLsbD i
        else old.getLsbD i && !((accMask fs .w1c).getLsbD i && v.getLsbD i)) := by
  have hm : (halfMask .w64).getLsbD i = true := by simp [halfMask, getLsbD_fmask, hi]
  simp only [writeWord, writeActs, decide_true, Bool.true_or, if_true, BitVec.getLsbD_or, BitVec.getLsbD_and,
    BitVec.getLsbD_not, hi, hm, reduceCtorEq, if_false, Bool.true_and, Bool.and_true]
  cases (accMask fs .rw).getLsbD i <;> simp

/-- A half write leaves the bits outside its half. -/
theorem getLsbD_writeWord_outside (fs : List Fld) (old v : W64) (wd : Width) {i : Nat} (hi : i < 64)
    (hm : (halfMask wd).getLsbD i = false) : (writeWord fs old wd v).getLsbD i = old.getLsbD i := by
  unfold writeWord
  split
  · simp only [BitVec.getLsbD_or, BitVec.getLsbD_and, BitVec.getLsbD_not, hi, hm]; simp
  · rfl

/-- A half write whose half holds a bit of a field that is neither RW nor RO changes nothing. -/
theorem writeWord_blocked {fs : List Fld} {f : Fld} (hf : f ∈ fs) (old v : W64) {wd : Width} (hwd : wd ≠ .w64) {i : Nat}
    (hm : (halfMask wd).getLsbD i = true) (hb : (fmask f.hi f.lo).getLsbD i = true) (hrw : f.acc ≠ .rw)
    (hro : f.acc ≠ .ro) : writeWord fs old wd v = old := by
  have hne : halfMask wd &&& fmask f.hi f.lo ≠ 0 := by
    intro h
    have hbit : (halfMask wd &&& fmask f.hi f.lo).getLsbD i = true := by simp [hm, hb]
    simp [h] at hbit
  have hacts : writeActs fs wd = false := by
    simp only [writeActs, Bool.or_eq_false_iff, decide_eq_false_iff_not, List.all_eq_false]
    exact ⟨hwd, f, hf, by simpa [hrw, hro] using hne⟩
  simp [writeWord, hacts]

/-- Settles O45: the masks of a write hold exactly the bits of the fields with their access code. -/
theorem accessCodesGovernWrites : Obligations.AccessCodesGovernWrites := by
  unfold Obligations.AccessCodesGovernWrites
  intro fs old v hfs
  have hlo : ∀ f ∈ fs, f.lo ≤ f.hi := fun f hf => (hfs f hf).1
  refine ⟨fun i hi => ?_, fun i hi => ?_, fun i h32 hi => ?_, ?_, ?_⟩
  · have hrw := getLsbD_accMask hlo .rw hi
    have hw1c := getLsbD_accMask hlo .w1c hi
    rw [getLsbD_writeWord_w64 fs old v hi]
    refine ⟨fun h => ?_, fun h hn => ?_, fun h => ?_⟩
    · rw [if_pos (hrw.mpr h)]
    · rw [if_neg (fun e => hn (hrw.mp e)), hw1c.mpr h, Bool.true_and]
    · have hno : ¬ inAcc fs .rw i := fun ⟨f, hf, ha, hr⟩ => h ⟨f, hf, .inl ha, hr⟩
      have hnc : (accMask fs .w1c).getLsbD i = false :=
        Bool.eq_false_iff.mpr (fun e => (hw1c.mp e).elim (fun f ⟨hf, ha, hr⟩ => h ⟨f, hf, .inr ha, hr⟩))
      rw [if_neg (fun e => hno (hrw.mp e)), hnc]; simp
  · exact getLsbD_writeWord_outside fs old v .hi32 (by omega) (by simp [halfMask, getLsbD_fmask]; omega)
  · exact getLsbD_writeWord_outside fs old v .lo32 hi (by simp [halfMask, getLsbD_fmask]; omega)
  · rintro ⟨f, hf, h32, hrw, hro⟩
    have hr := hfs f hf
    exact writeWord_blocked hf old v (by decide) (i := f.lo) (by simp [halfMask, getLsbD_fmask]; omega)
      (by simp [getLsbD_fmask]; omega) hrw hro
  · rintro ⟨f, hf, h32, hrw, hro⟩
    have hr := hfs f hf
    exact writeWord_blocked hf old v (by decide) (i := f.hi) (by simp [halfMask, getLsbD_fmask]; omega)
      (by simp [getLsbD_fmask]; omega) hrw hro

end Sys2Proof.Machine
end

section

namespace Sys2Proof.Machine

/-! ### What a host error of a partition reaches (R13, R391) -/

/-- Between s and t nothing differs but what partition p holds, as far as clusters, request entries and the serving
state go; its template in force is the same. -/
structure StaysWithin (s t : State) (p : Nat) : Prop where
  tmpl : t.tmpl p = s.tmpl p
  cluster : ∀ c, (s.tmpl p).hasCluster c = false → t.cluster c = s.cluster c
  req : ∀ j, (s.tmpl p).hasReq j = false → t.req j = s.req j
  scu : ∀ q, q ≠ p → t.scu q = s.scu q

theorem StaysWithin.refl (s : State) (p : Nat) : StaysWithin s s p := ⟨rfl, fun _ _ => rfl, fun _ _ => rfl, fun _ _ => rfl⟩

theorem StaysWithin.trans {s t u : State} {p : Nat} (h : StaysWithin s t p) (h' : StaysWithin t u p) : StaysWithin s u p where
  tmpl := h'.tmpl.trans h.tmpl
  cluster c hc := (h'.cluster c (h.tmpl ▸ hc)).trans (h.cluster c hc)
  req j hj := (h'.req j (h.tmpl ▸ hj)).trans (h.req j hj)
  scu q hq := (h'.scu q hq).trans (h.scu q hq)

/-- What leaves clusters, request entries, serving state and templates stays within every partition. -/
theorem StaysWithin.of_eq {s t : State} (p : Nat) (hc : t.clusters = s.clusters) (hr : t.reqs = s.reqs)
    (hs : t.scus = s.scus) (hp : t.parts = s.parts) : StaysWithin s t p where
  tmpl := by simp [State.tmpl, State.part, hp]
  cluster c _ := by simp [State.cluster, hc]
  req j _ := by simp [State.req, hr]
  scu q _ := by simp [State.scu, hs]

theorem StaysWithin.modCluster {s : State} {p c : Nat} (f : Cluster → Cluster) (h : (s.tmpl p).hasCluster c = true) :
    StaysWithin s (s.modCluster c f) p where
  tmpl := rfl
  cluster j hj := by rw [State.cluster_modCluster, if_neg (by rintro rfl; simp [h] at hj)]
  req _ _ := rfl
  scu _ _ := rfl

theorem StaysWithin.setReq {s : State} {p i : Nat} (r : Req) (h : (s.tmpl p).hasReq i = true) :
    StaysWithin s (s.setReq i r) p where
  tmpl := rfl
  cluster _ _ := rfl
  req j hj := by rw [State.req_setReq, if_neg (by rintro rfl; simp [h] at hj)]
  scu _ _ := rfl

theorem StaysWithin.modScu (s : State) (p : Nat) (f : ScuPart → ScuPart) : StaysWithin s (s.modScu p f) p where
  tmpl := rfl
  cluster _ _ := rfl
  req _ _ := rfl
  scu q hq := by rw [State.scu_modScu, if_neg hq]

theorem StaysWithin.setFld (s : State) (p k hi lo v : Nat) : StaysWithin s (s.setFld k hi lo v) p :=
  .of_eq p rfl rfl rfl rfl

/-- Every place that partition p's translation gives lies in a memory of its own, or in a shared one. -/
theorem State.xl_store {s : State} {p sp c a c' x : Nat} (h : s.xl p sp c a = some (.store c', x)) :
    (s.tmpl p).hasCluster c' = true := by
  unfold State.xl at h
  dsimp only at h
  split at h
  · simp at h
  · simp at h
  · split at h
    · next hc => cases h; simp only [Bool.and_eq_true] at hc; exact hc.1
    · cases h
  · cases h

theorem StaysWithin.withMem_xl {s : State} {p sp c a x : Nat} {sp' : Space} (m : Mem)
    (h : s.xl p sp c a = some (sp', x)) : StaysWithin s (s.withMem sp' m) p := by
  cases sp' with
  | stack => exact .of_eq p rfl rfl rfl rfl
  | case => exact .of_eq p rfl rfl rfl rfl
  | store c' => exact .modCluster (fun x => { x with store := m }) (State.xl_store h)

theorem StaysWithin.spoilRing (s : State) (p f n k : Nat) : StaysWithin s (s.spoilRing f n k) p := by
  unfold State.spoilRing
  dsimp only
  split <;> exact .of_eq p rfl rfl rfl rfl

theorem StaysWithin.setFlag (s : State) (p d n : Nat) (v : Bool) (who : Nat) : StaysWithin s (s.setFlag d n v who) p := by
  obtain ⟨x, e⟩ := s.setFlag_frame d n v who
  rw [e]; exact .of_eq p rfl rfl rfl rfl

/-- A free value of a host error falls within the offending partition. -/
theorem StaysWithin.spoil (s : State) (p n k : Nat) : StaysWithin s (s.spoil p n k) p := by
  have own : ∀ (c : Nat) (f : Cluster → Cluster),
      StaysWithin s (if (s.tmpl p).hasCluster c = true then s.modCluster c f else s) p := by
    intro c f
    split
    · next h => exact .modCluster f h
    · exact .refl s p
  unfold State.spoil
  dsimp only
  split
  · split
    · next h => exact .withMem_xl _ h
    · exact .refl s p
  · exact own _ _
  · exact own _ _
  · exact own _ _
  · exact own _ _
  · split
    · exact .setFlag s p _ _ _ _
    · exact .refl s p
  · split
    · exact .refl s p
    · next h =>
      have := Nat.mod_lt (Config.freeWord n (8 * k + 3)).toNat (Nat.pos_of_ne_zero h)
      exact .setReq _ (by simp only [Template.hasReq, Bool.and_eq_true, decide_eq_true_eq]; omega)
  · exact .of_eq p rfl rfl rfl rfl
  · exact .setFld s p _ _ _ _
  · exact .setFld s p _ _ _ _
  · exact .spoilRing s p _ _ _

/-- A host error stays within the offending partition. -/
theorem StaysWithin.unpredictable (s : State) (p : Nat) : StaysWithin s (s.unpredictable p) p :=
  foldl_keeps (fun t => StaysWithin s t p) _ (fun t k h => h.trans (.spoil t p s.free (k + 1))) _ _
    (.of_eq p rfl rfl rfl rfl)

@[simp] theorem State.unpredictable_parts (s : State) (p : Nat) : (s.unpredictable p).parts = s.parts :=
  (congrArg State.parts (s.unpredictable_frame p) :)
@[simp] theorem State.unpredictable_scus (s : State) (p : Nat) : (s.unpredictable p).scus = s.scus :=
  (congrArg State.scus (s.unpredictable_frame p) :)
@[simp] theorem State.unpredictable_links (s : State) (p : Nat) : (s.unpredictable p).links = s.links :=
  (congrArg State.links (s.unpredictable_frame p) :)
@[simp] theorem State.unpredictable_mirror (s : State) (p : Nat) : (s.unpredictable p).mirror = s.mirror :=
  (congrArg State.mirror (s.unpredictable_frame p) :)
@[simp] theorem State.unpredictable_pending (s : State) (p : Nat) : (s.unpredictable p).pending = s.pending :=
  (congrArg State.pending (s.unpredictable_frame p) :)

/-! ### What a posted record writes (R386) -/

theorem ringSize_le (base : W64) : ringSize base ≤ 2 ^ 16 := Nat.pow_le_pow_right (by decide) (by omega)

theorem ringSize_pos (base : W64) : 0 < ringSize base := Nat.pow_pos (by decide)

theorem State.incFld_fld_same (s : State) (k hi lo n : Nat) (h : hi < 64) (hl : lo ≤ hi) :
    (s.incFld k hi lo n).fld k hi lo = satTo (hi - lo + 1) (s.fld k hi lo + n) := by
  rw [State.incFld, State.fld_setFld_same _ _ _ _ _ h hl, satTo]
  have := Nat.two_pow_pos (hi - lo + 1)
  exact Nat.mod_eq_of_lt (by omega)

/-- A ring that is shut counts the record in LOST. -/
theorem State.ringPut_shut {s : State} {f : Nat} (ws : List W64) (h : s.ringShut f) :
    s.ringPut (rEbase f) (rEhead f) (rEstat f) ws = (false, s.incFld (rEstat f) 63 32) := by
  simp only [State.ringPut]
  rw [if_pos (h.imp id (by simp +contextual))]

/-- A ring that is open takes the record at TAIL, which moves on. -/
theorem State.ringPut_open {s : State} {f : Nat} (ws : List W64) (h : ¬ s.ringShut f) :
    s.ringPut (rEbase f) (rEhead f) (rEstat f) ws
      = (s.fld (rEstat f) 15 0 == s.fld (rEhead f) 15 0,
          (s.withHostMem (mput s.hostMem (bf (s.reg (rEbase f)) 63 12 * 4096 + 32 * s.fld (rEstat f) 15 0)
            (bytesOf ws))).setFld (rEstat f) 15 0 ((s.fld (rEstat f) 15 0 + 1) % ringSize (s.reg (rEbase f)))) := by
  simp only [State.ringPut]
  rw [if_neg (fun e => h (e.imp id (by simp +contextual)))]

/-- Posting a record puts it into the ring, and differs in ring and interrupts alone. -/
theorem State.postAt_recordPosted (s : State) (f : Nat) (w0 : W64) (time : Nat) (w2 : W64) (step : Nat) :
    recordPosted s (s.postAt f w0 time w2 step) f [w0, BitVec.ofNat 64 time, w2, BitVec.ofNat 64 step] := by
  constructor
  · intro h
    have hlt := Nat.mod_lt (s.fld (rEstat f) 15 0 + 1) (ringSize_pos (s.reg (rEbase f)))
    have hle := ringSize_le (s.reg (rEbase f))
    simp only [State.postAt, s.ringPut_open _ h]
    have hfld := State.fld_setFld_same (s.withHostMem (mput s.hostMem (bf (s.reg (rEbase f)) 63 12 * 4096
      + 32 * s.fld (rEstat f) 15 0) (bytesOf [w0, BitVec.ofNat 64 time, w2, BitVec.ofNat 64 step]))) (rEstat f) 15 0
      ((s.fld (rEstat f) 15 0 + 1) % ringSize (s.reg (rEbase f))) (by decide) (by decide)
    rw [Nat.mod_eq_of_lt (by omega : (s.fld (rEstat f) 15 0 + 1) % ringSize (s.reg (rEbase f)) < _)] at hfld
    split
    · exact ⟨rfl, hfld⟩
    · exact ⟨rfl, hfld⟩
  · intro h
    simp only [State.postAt, s.ringPut_shut _ h]
    exact ⟨rfl, s.incFld_fld_same _ _ _ _ (by decide) (by decide)⟩

theorem State.postAt_reg (s : State) (f : Nat) (w0 : W64) (time : Nat) (w2 : W64) (step k : Nat) (h : k ≠ rEstat f) :
    (s.postAt f w0 time w2 step).reg k = s.reg k := by
  have hr := s.ringPut_reg (rEbase f) (rEhead f) (rEstat f) k
    [w0, BitVec.ofNat 64 time, w2, BitVec.ofNat 64 step] h
  unfold State.postAt
  rcases e : s.ringPut (rEbase f) (rEhead f) (rEstat f)
    [w0, BitVec.ofNat 64 time, w2, BitVec.ofNat 64 step] with ⟨b, t⟩
  rw [e] at hr
  cases b <;> exact hr

theorem State.postAt_onlyRecords (s : State) (f : Nat) (w0 : W64) (time : Nat) (w2 : W64) (step : Nat)
    {fs : List Nat} (hf : f ∈ fs) : onlyRecords s (s.postAt f w0 time w2 step) fs := by
  obtain ⟨r, h, o, e, -⟩ := s.postAt_frame f w0 time w2 step
  exact ⟨by rw [e]; rfl, fun k hk => s.postAt_reg f w0 time w2 step k (hk f hf)⟩

theorem onlyRecords.refl (s : State) (fs : List Nat) : onlyRecords s s fs := ⟨rfl, fun _ _ => rfl⟩

/-! ### Galley commands (R292 to R295, R383 to R385) -/

/-- Without a pair nothing is forwarded. -/
theorem State.forward_of_not_mirrored {s : State} {p : Nat} (h : s.mirrored p = false) (x : MirrorMsg) :
    s.forward p x = s := by simp [State.forward, h]

theorem State.galleyRow_other {s : State} {p cmd : Nat} {e : List W64}
    (h : bf (wordAt e 0) 63 56 ≠ cmd ∨ s.validPart p = false) : s.galleyRow p cmd e = s := by
  rw [State.galleyRow, if_neg]
  rintro ⟨h1, h2⟩
  exact h.elim (fun h => h h1) (by simp [h2])

theorem State.galleyRow_waits {s : State} {p cmd : Nat} {e : List W64} (h : bf (wordAt e 0) 63 56 = cmd)
    (hv : s.validPart p = true) (hw : s.fnWaits (p + 1) = true) : s.galleyRow p cmd e = s.hostWait (.command p e) := by
  rw [State.galleyRow, if_pos ⟨h, hv⟩, if_pos hw]

theorem State.galleyRow_runs {s : State} {p cmd : Nat} {e : List W64} (h : bf (wordAt e 0) 63 56 = cmd)
    (hv : s.validPart p = true) (hw : s.fnWaits (p + 1) = false) (hm : s.mirrored p = false) :
    s.galleyRow p cmd e = s.galleyDo p e := by
  rw [State.galleyRow, if_pos ⟨h, hv⟩, hw, State.galleyArrive, State.forward_of_not_mirrored hm]
  exact if_neg Bool.false_ne_true

/-- The galley's rows with their CMD (Table 14.5). -/
def galleyRows (p : PartId) (e : List W64) : List (Instr × Nat) :=
  [(.submit p e, 1), (.cancel p e, 2), (.pause p e, 3), (.resume p e, 4), (.tierCopy p e, 5)]

theorem exec_galleyRow {p : PartId} {e : List W64} {i : Instr} {n : Nat} (h : (i, n) ∈ galleyRows p e) (s : State) :
    exec i s = .next (s.galleyRow p.val n e) ∧ 1 ≤ n := by
  simp only [galleyRows, List.mem_cons, Prod.mk.injEq, List.not_mem_nil, or_false] at h
  rcases h with ⟨rfl, rfl⟩ | ⟨rfl, rfl⟩ | ⟨rfl, rfl⟩ | ⟨rfl, rfl⟩ | ⟨rfl, rfl⟩ <;> exact ⟨rfl, by decide⟩

theorem State.galleyDo_nop {s : State} {p : Nat} {e : List W64} (h : bf (wordAt e 0) 63 56 = 0) : s.galleyDo p e = s := by
  simp [State.galleyDo, h]

theorem State.galleyDo_submit {s : State} {p : Nat} {e : List W64} (h : bf (wordAt e 0) 63 56 = 1) :
    s.galleyDo p e = s.submit p e := by simp [State.galleyDo, h]

theorem State.galleyDo_control {s : State} {p n : Nat} {e : List W64} (h : bf (wordAt e 0) 63 56 = n) (h2 : 2 ≤ n)
    (h4 : n ≤ 4) : s.galleyDo p e = s.control2 p n e := by
  simp [State.galleyDo, h, h4, show n ≠ 0 by omega, show n ≠ 1 by omega]

theorem State.submit_badIndex {s : State} {p : Nat} {e : List W64} (h : s.indexOk p e = false) :
    s.submit p e = s.badCommand p e := by
  rw [State.submit, h]
  exact if_pos rfl

/-- A command with its INDEX outside the range is discarded, whether SUBMIT or a control action. -/
theorem State.galleyDo_badIndex {s : State} {p n : Nat} {e : List W64} (h : bf (wordAt e 0) 63 56 = n) (h1 : 1 ≤ n)
    (h4 : n ≤ 4) (hi : s.indexOk p e = false) : s.galleyDo p e = s.badCommand p e := by
  obtain rfl | h2 : n = 1 ∨ 2 ≤ n := by omega
  · rw [State.galleyDo_submit h, State.submit_badIndex hi]
  · rw [State.galleyDo_control h h2 h4, State.control2, hi]
    exact if_pos rfl

/-- The record of a discarded command whose INDEX is outside the range. -/
theorem State.badCommand_record {s : State} {p : Nat} {e : List W64} (hi : s.indexOk p e = false) :
    onlyRecords s (s.badCommand p e) [p + 1]
      ∧ recordPosted s (s.badCommand p e) (p + 1) [evWord 6 p (5 * 2 ^ 46 + entIndex e * 2 ^ 32), s.nowWord,
          BitVec.ofNat 64 (bf (wordAt e 1) 31 0), 0] := by
  have h : s.badCommand p e = s.postAt (p + 1) (evWord 6 p (5 * 2 ^ 46 + entIndex e * 2 ^ 32)) s.now
      (BitVec.ofNat 64 (bf (wordAt e 1) 31 0)) 0 := by
    simp [State.badCommand, State.post, hi]
  rw [h]
  exact ⟨s.postAt_onlyRecords _ _ _ _ _ (by simp), s.postAt_recordPosted _ _ _ _ _⟩

/-- Nothing but request entries and serving states differs. -/
def servingOnly (s t : State) : Prop := ∃ r x, t = (s.withReqs r).withScus x

theorem servingOnly.trans {s t u : State} (h : servingOnly s t) (h' : servingOnly t u) : servingOnly s u := by
  obtain ⟨r, x, rfl⟩ := h
  obtain ⟨r', x', rfl⟩ := h'
  exact ⟨r', x', rfl⟩

theorem servingOnly.eq {s t : State} (h : servingOnly s t) : t = (s.withReqs t.reqs).withScus t.scus := by
  obtain ⟨r, x, rfl⟩ := h
  rfl

theorem servingOnly.refl (s : State) : servingOnly s s := ⟨s.reqs, s.scus, rfl⟩

theorem servingOnly.modScu (s : State) (p : Nat) (f : ScuPart → ScuPart) : servingOnly s (s.modScu p f) :=
  ⟨s.reqs, _, rfl⟩

theorem servingOnly.setReq (s : State) (i : Nat) (r : Req) : servingOnly s (s.setReq i r) := ⟨(s.setReq i r).reqs, s.scus, rfl⟩

/-- A freed request gives back its pages and stash blocks: request i and the serving state of its partition change, of
which the order of the requests, the hashings and the control actions stay. -/
structure FreesReq (s t : State) (p i : Nat) : Prop where
  frame : servingOnly s t
  scu : ∀ q, q ≠ p → t.scu q = s.scu q
  req : ∀ j, j ≠ i → t.req j = s.req j
  seq : (t.scu p).seq = (s.scu p).seq
  hashing : (t.scu p).hashing = (s.scu p).hashing
  acts : (t.scu p).acts = (s.scu p).acts

theorem FreesReq.trans {s t u : State} {p i : Nat} (h : FreesReq s t p i) (h' : FreesReq t u p i) : FreesReq s u p i where
  frame := h.frame.trans h'.frame
  scu q hq := (h'.scu q hq).trans (h.scu q hq)
  req j hj := (h'.req j hj).trans (h.req j hj)
  seq := h'.seq.trans h.seq
  hashing := h'.hashing.trans h.hashing
  acts := h'.acts.trans h.acts

theorem FreesReq.refl (s : State) (p i : Nat) : FreesReq s s p i := ⟨.refl s, fun _ _ => rfl, fun _ _ => rfl, rfl, rfl, rfl⟩

theorem FreesReq.modScu (s : State) (p i : Nat) (f : ScuPart → ScuPart) (h : ∀ x, (f x).seq = x.seq ∧
    (f x).hashing = x.hashing ∧ (f x).acts = x.acts) : FreesReq s (s.modScu p f) p i where
  frame := .modScu s p f
  scu q hq := by rw [State.scu_modScu, if_neg hq]
  req _ _ := rfl
  seq := by rw [State.scu_modScu, if_pos rfl, (h _).1]
  hashing := by rw [State.scu_modScu, if_pos rfl, (h _).2.1]
  acts := by rw [State.scu_modScu, if_pos rfl, (h _).2.2]

theorem FreesReq.modReq (s : State) (p i : Nat) (f : Req → Req) : FreesReq s (s.modReq i f) p i where
  frame := .setReq s i _
  scu _ _ := rfl
  req j hj := by rw [State.req_modReq, if_neg hj]
  seq := rfl
  hashing := rfl
  acts := rfl

theorem FreesReq.foldl {β : Type} {p i : Nat} (f : State → β → State) (hf : ∀ s x, FreesReq s (f s x) p i) (l : List β)
    (s : State) : FreesReq s (l.foldl f s) p i :=
  foldl_keeps (fun t => FreesReq s t p i) f (fun t x h => h.trans (hf t x)) l s (.refl s p i)

theorem State.freeReq_frees (s : State) (p i : Nat) : FreesReq s (s.freeReq p i) p i := by
  unfold State.freeReq
  dsimp only
  split
  · exact .modScu s p i _ (fun x => ⟨rfl, rfl, rfl⟩)
  · refine FreesReq.trans ?_ (.modReq _ p i _)
    refine FreesReq.trans ?_ (.foldl _ ?_ _ _)
    refine FreesReq.trans ?_ (.foldl _ ?_ _ _)
    · exact .modScu s p i _ (fun x => ⟨rfl, rfl, rfl⟩)
    · intro s x
      split
      · exact .modScu s p i _ (fun x => ⟨rfl, rfl, rfl⟩)
      · exact .refl s p i
    · intro s b
      unfold State.stashFree
      split
      · exact .refl s p i
      · exact .modScu s p i _ (fun x => ⟨rfl, rfl, rfl⟩)

/-- The entry that SUBMIT fills (R293). -/
def submitted (p seq : Nat) (e : List W64) : Req :=
  let w := wordAt e
  { w0 := BitVec.ofNat 64 (rqQueued * 2 ^ 60 + bf (w 0) 55 53 * 2 ^ 57 + bf (w 0) 52 51 * 2 ^ 51
      + bf (w 0) 50 45 * 2 ^ 45 + bf (w 1) 31 0)
    w1 := BitVec.ofNat 64 (seq % 2 ^ 32 * 2 ^ 32)
    w2 := BitVec.ofNat 64 (bf (w 1) 63 32 * 2 ^ 32)
    w3 := BitVec.ofNat 64 (bf (w 2) 63 32 * 2 ^ 32)
    w4 := w 3
    w5 := w 4
    w6 := w 5 &&& 0xFFFFFFFFFFFF07FF
    w7 := w 6 &&& 0xFFFFFFFFFFFF0000
    part := p }

/-- SUBMIT fills its entry, takes the next SEQ and queues the prompt's hashing. -/
structure Submits (s t : State) (p : Nat) (e : List W64) : Prop where
  entry : t.req (entIndex e) = submitted p (s.scu p).seq e
  others : ∀ j, j ≠ entIndex e → t.req j = s.req j
  seq : (t.scu p).seq = (s.scu p).seq + 1
  hashing : (t.scu p).hashing = (s.scu p).hashing ++ [entIndex e]
  acts : (t.scu p).acts = (s.scu p).acts.filter (fun a => a.2 != entIndex e)
  scu : ∀ q, q ≠ p → t.scu q = s.scu q
  frame : servingOnly s t

@[simp] theorem State.scu_setReq (s : State) (i p : Nat) (r : Req) : (s.setReq i r).scu p = s.scu p := rfl
@[simp] theorem State.req_modScu (s : State) (p i : Nat) (f : ScuPart → ScuPart) : (s.modScu p f).req i = s.req i := rfl

/-- SUBMIT frees what its entry held, then fills it. -/
theorem State.submitFill_eq (s : State) (p : Nat) (e : List W64) :
    s.submitFill p e = (((s.freeReq p (entIndex e)).modScu p (fun x => { x with
      acts := x.acts.filter (fun a => a.2 != entIndex e) })).setReq (entIndex e) (submitted p (s.scu p).seq e)).modScu p
      (fun x => { x with seq := (s.scu p).seq + 1, hashing := x.hashing ++ [entIndex e] }) := by
  unfold State.submitFill submitted
  dsimp only
  rw [State.scu_modScu, if_pos rfl, (s.freeReq_frees p (entIndex e)).seq]

theorem State.submitFill_submits (s : State) (p : Nat) (e : List W64) : Submits s (s.submitFill p e) p e := by
  rw [State.submitFill_eq]
  obtain ⟨frame, scu, req, -, hashing, acts⟩ := s.freeReq_frees p (entIndex e)
  exact {
    entry := (State.req_setReq _ _ _ _).trans (if_pos rfl)
    others := fun j hj => ((State.req_setReq _ _ _ _).trans (if_neg hj)).trans (req j hj)
    seq := by rw [State.scu_modScu, if_pos rfl]
    hashing := by rw [State.scu_modScu, if_pos rfl, State.scu_setReq, State.scu_modScu, if_pos rfl, hashing]
    acts := by rw [State.scu_modScu, if_pos rfl, State.scu_setReq, State.scu_modScu, if_pos rfl, acts]
    scu := fun q hq => by rw [State.scu_modScu, if_neg hq, State.scu_setReq, State.scu_modScu, if_neg hq, scu q hq]
    frame := ((frame.trans (.modScu _ _ _)).trans (.setReq _ _ _)).trans (.modScu _ _ _) }

end Sys2Proof.Machine
end

section

namespace Sys2Proof.Machine

/-- A field is narrower than its width. -/
theorem bf_lt {n : Nat} (w : BitVec n) (hi lo : Nat) : bf w hi lo < 2 ^ (hi - lo + 1) :=
  Nat.mod_lt _ (Nat.two_pow_pos _)

theorem bf_ofNat (x hi lo : Nat) (hhi : hi < 64) (hlo : lo ≤ hi) :
    bf (BitVec.ofNat 64 x) hi lo = x / 2 ^ lo % 2 ^ (hi - lo + 1) := by
  apply Nat.eq_of_testBit_eq
  intro i
  rw [testBit_bf, BitVec.getLsbD_ofNat, Nat.testBit_mod_two_pow, Nat.testBit_div_two_pow]
  by_cases h : i < hi - lo + 1
  · have : lo + i < 64 := by omega
    simp [h, this, Nat.add_comm]
  · simp [h]

theorem bit_ofNat (x i : Nat) (hi : i < 64) : bit (BitVec.ofNat 64 x) i = decide (x / 2 ^ i % 2 = 1) := by
  rw [bit, BitVec.getLsbD_ofNat, decide_eq_true hi, Bool.true_and, Nat.testBit_eq_decide_div_mod_eq]

/-- Word 0 of an entry just submitted: QUEUED, with PRIO, DL_POL, VARIANT and TAG of its command and no mark. -/
theorem submitted_word0 (p seq : Nat) (e : List W64) :
    let r := submitted p seq e
    r.state = rqQueued ∧ r.prio = bf (wordAt e 0) 55 53 ∧ r.dlPol = bf (wordAt e 0) 52 51
      ∧ r.variant = bf (wordAt e 0) 50 45 ∧ r.tag = bf (wordAt e 1) 31 0
      ∧ r.hashed = false ∧ r.late = false ∧ r.tiered = false ∧ r.hostp = false ∧ r.reason = 0 := by
  have h1 := bf_lt (wordAt e 0) 55 53
  have h2 := bf_lt (wordAt e 0) 52 51
  have h3 := bf_lt (wordAt e 0) 50 45
  have h4 := bf_lt (wordAt e 1) 31 0
  simp only [submitted, Req.state, Req.prio, Req.dlPol, Req.variant, Req.tag, Req.hashed, Req.late, Req.tiered, Req.hostp,
    Req.reason, rqQueued]
  generalize bf (wordAt e 0) 55 53 = a at *
  generalize bf (wordAt e 0) 52 51 = b at *
  generalize bf (wordAt e 0) 50 45 = c at *
  generalize bf (wordAt e 1) 31 0 = d at *
  simp only [bf_ofNat, bit_ofNat, Nat.reduceLT, Nat.reduceLeDiff, decide_eq_false_iff_not]
  norm_num at *
  omega

/-- Words 1 to 3 of an entry just submitted: SEQ, PLEN and MAXNEW, and no progress. -/
theorem submitted_words (p seq : Nat) (e : List W64) :
    let r := submitted p seq e
    r.seq = seq % 2 ^ 32 ∧ r.pos = 0 ∧ r.plen = bf (wordAt e 1) 63 32 ∧ r.gen = 0 ∧ r.maxNew = bf (wordAt e 2) 63 32 := by
  have h1 := bf_lt (wordAt e 1) 63 32
  have h2 := bf_lt (wordAt e 2) 63 32
  simp only [submitted, Req.seq, Req.pos, Req.plen, Req.gen, Req.maxNew]
  generalize bf (wordAt e 1) 63 32 = a at *
  generalize bf (wordAt e 2) 63 32 = b at *
  simp only [bf_ofNat, Nat.reduceLT, Nat.reduceLeDiff]
  norm_num at *
  omega

/-- SUBMIT stays within its partition. -/
theorem Submits.staysWithin {s t : State} {p : Nat} {e : List W64} (h : Submits s t p e) (hi : s.indexOk p e = true) :
    StaysWithin s t p := by
  have hframe := h.frame
  refine ⟨?_, fun c _ => ?_, fun j hj => h.others j ?_, h.scu⟩
  · obtain ⟨r, x, rfl⟩ := hframe; rfl
  · obtain ⟨r, x, rfl⟩ := hframe; rfl
  · rintro rfl
    have : (s.tmpl p).hasReq (entIndex e) = true := hi
    simp [this] at hj

theorem Submits.parts {s t : State} {p : Nat} {e : List W64} (h : Submits s t p e) : t.parts = s.parts := by
  obtain ⟨r, x, rfl⟩ := h.frame; rfl

/-- SUBMIT to an entry that is not live fills it. -/
theorem State.submit_free {s : State} {p : Nat} {e : List W64} (hi : s.indexOk p e = true)
    (hl : (s.req (entIndex e)).live = false) : s.submit p e = s.submitFill p e := by
  simp [State.submit, hi, hl]

/-- SUBMIT to a live entry, a host error, stays within its partition and changes no run state. -/
theorem State.submit_live {s : State} {p : Nat} {e : List W64} (hi : s.indexOk p e = true)
    (hl : (s.req (entIndex e)).live = true) : StaysWithin s (s.submit p e) p ∧ (s.submit p e).parts = s.parts := by
  have hc : StaysWithin s s.choose.2 p := .of_eq p rfl rfl rfl rfl
  have hfill := s.choose.2.submitFill_submits p e
  have h : s.submit p e = (if s.choose.1 then s.choose.2.submitFill p e else s.choose.2).unpredictable p := by
    simp [State.submit, hi, hl]
  rw [h]
  split
  · exact ⟨(hc.trans (hfill.staysWithin hi)).trans (.unpredictable _ p), by rw [State.unpredictable_parts, hfill.parts]; rfl⟩
  · exact ⟨hc.trans (.unpredictable _ p), by rw [State.unpredictable_parts]; rfl⟩

/-- What SUBMIT makes of a free entry, field by field (Table 11.1). -/
theorem Submits.fields {s t : State} {p : Nat} {e : List W64} (h : Submits s t p e) :
    let r := t.req (entIndex e)
    r.state = rqQueued ∧ r.prio = bf (wordAt e 0) 55 53 ∧ r.dlPol = bf (wordAt e 0) 52 51
      ∧ r.variant = bf (wordAt e 0) 50 45 ∧ r.tag = bf (wordAt e 1) 31 0
      ∧ r.seq = (s.scu p).seq % 2 ^ 32 ∧ r.pos = 0 ∧ r.plen = bf (wordAt e 1) 63 32 ∧ r.gen = 0
      ∧ r.maxNew = bf (wordAt e 2) 63 32 ∧ r.w4 = wordAt e 3 ∧ r.w5 = wordAt e 4 ∧ r.part = p
      ∧ r.hashed = false ∧ r.late = false ∧ r.tiered = false ∧ r.hostp = false ∧ r.reason = 0
      ∧ r.pages = [] ∧ r.stash = [] ∧ r.counts = [] := by
  rw [h.entry]
  obtain ⟨hstate, hprio, hdl, hvar, htag, hhashed, hlate, htier, hhost, hreason⟩ := submitted_word0 p (s.scu p).seq e
  obtain ⟨hseq, hpos, hplen, hgen, hmax⟩ := submitted_words p (s.scu p).seq e
  exact ⟨hstate, hprio, hdl, hvar, htag, hseq, hpos, hplen, hgen, hmax, rfl, rfl, rfl, hhashed, hlate, htier, hhost,
    hreason, rfl, rfl, rfl⟩

/-- Settles O39: each row runs its command, waits or does nothing; then by cases on the command and its entry. -/
theorem galleyCommandsAct : Obligations.GalleyCommandsAct := by
  unfold Obligations.GalleyCommandsAct
  intro p e s
  refine ⟨fun hm hw => ?_, fun i n hin => ?_, fun hcmd hv hw hm hi => ⟨fun hl => ?_, fun hl => ?_⟩⟩
  · change Host.Outcome.next (s.galleyRow p.val 0 []) = _
    by_cases hv : s.validPart p.val = true
    · rw [State.galleyRow_runs (by decide) hv hw hm, State.galleyDo_nop (by decide)]
    · rw [State.galleyRow_other (.inr (by simpa using hv))]
  · obtain ⟨hexec, h1⟩ := exec_galleyRow hin s
    rw [hexec]
    refine ⟨fun h => ?_, fun hcmd hv hw => ?_, fun hcmd h4 hv hw hm hi => ?_, fun hcmd h2 h4 hv hw hm hi => ?_⟩
    · rw [State.galleyRow_other h]
    · rw [State.galleyRow_waits hcmd hv hw]; rfl
    · rw [State.galleyRow_runs hcmd hv hw hm, State.galleyDo_badIndex hcmd h1 h4 hi]
      exact ⟨_, rfl, State.badCommand_record hi⟩
    · rw [State.galleyRow_runs hcmd hv hw hm, State.galleyDo_control hcmd h2 h4]
      simp [State.control2, hi]
  all_goals
    have hexec : exec (.submit p e) s = .next (s.submit p.val e) :=
      congrArg Host.Outcome.next ((State.galleyRow_runs hcmd hv hw hm).trans (State.galleyDo_submit hcmd))
    refine ⟨_, hexec, ?_⟩
  · obtain ⟨hstay, hparts⟩ := State.submit_live hi hl
    exact ⟨hstay.cluster, hstay.req, hstay.scu, hparts⟩
  · rw [State.submit_free hi hl]
    have h := s.submitFill_submits p.val e
    exact ⟨h.fields, h.seq, h.hashing, h.acts, h.others, h.frame.eq⟩

end Sys2Proof.Machine
end

section

namespace Sys2Proof.Machine

/-! ### The doorbell (R290, R383) -/

theorem Template.depth_le (t : Template) : t.depth ≤ 1024 := by
  have := bf_lt t.ctl 41 32
  unfold Template.depth
  dsimp only
  split <;> omega

theorem State.fld_setFld_lt (s : State) (k hi lo v : Nat) (h : hi < 64) (hl : lo ≤ hi) (hv : v < 2 ^ (hi - lo + 1)) :
    (s.setFld k hi lo v).fld k hi lo = v := by rw [s.fld_setFld_same k hi lo v h hl, Nat.mod_eq_of_lt hv]

theorem State.fld_congr {s t : State} {k : Nat} (hi lo : Nat) (h : t.reg k = s.reg k) : t.fld k hi lo = s.fld k hi lo := by
  rw [State.fld, h, State.fld]

@[simp] theorem State.tmpl_setFld (s : State) (k hi lo v p : Nat) : (s.setFld k hi lo v).tmpl p = s.tmpl p := rfl
@[simp] theorem State.req_setFld (s : State) (k hi lo v j : Nat) : (s.setFld k hi lo v).req j = s.req j := rfl

/-- Forwarding an input changes the mirror port alone. -/
theorem State.forward_frame (s : State) (p : Nat) (x : MirrorMsg) : ∃ m, s.forward p x = s.withMirror m := by
  unfold State.forward
  split
  · exact ⟨_, rfl⟩
  · exact ⟨s.mirror, rfl⟩

/-- What a galley command other than SUBMIT can change: the serving state, tier copies and the event ring. -/
structure NoSubmit (s t : State) (p : Nat) : Prop where
  tmpl : t.tmpl p = s.tmpl p
  reg : ∀ k, k ≠ rEstat (p + 1) → t.reg k = s.reg k
  reqs : t.reqs = s.reqs
  clusters : t.clusters = s.clusters
  stackMem : t.stackMem = s.stackMem
  caseMem : t.caseMem = s.caseMem
  scu : ∀ q, q ≠ p → t.scu q = s.scu q

theorem NoSubmit.refl (s : State) (p : Nat) : NoSubmit s s p :=
  ⟨rfl, fun _ _ => rfl, rfl, rfl, rfl, rfl, fun _ _ => rfl⟩

theorem NoSubmit.post (s : State) (p type body : Nat) (w2 : W64) (st : Nat) : NoSubmit s (s.post p type body w2 st) p := by
  have hreg := fun k => s.postAt_reg (p + 1) (evWord type p body) s.now w2 st k
  obtain ⟨r, h, o, e, -⟩ := s.post_frame p type body w2 st
  rw [State.post] at *
  refine ⟨?_, hreg, ?_, ?_, ?_, ?_, ?_⟩ <;> simp [e, State.tmpl, State.part, State.scu]

theorem NoSubmit.modScu (s : State) (p : Nat) (f : ScuPart → ScuPart) : NoSubmit s (s.modScu p f) p :=
  ⟨rfl, fun _ _ => rfl, rfl, rfl, rfl, rfl, fun q hq => by rw [State.scu_modScu, if_neg hq]⟩

theorem NoSubmit.modPart (s : State) (p : Nat) (f : Part → Part) (h : ∀ q, (f q).tmpl = q.tmpl) :
    NoSubmit s (s.modPart p f) p :=
  ⟨by rw [State.tmpl, State.part_modPart, if_pos rfl, h, State.tmpl], fun _ _ => rfl, rfl, rfl, rfl, rfl, fun _ _ => rfl⟩

theorem NoSubmit.staysWithin {s t : State} {p : Nat} (h : NoSubmit s t p) : StaysWithin s t p :=
  ⟨h.tmpl, fun c _ => by simp [State.cluster, h.clusters], fun j _ => by simp [State.req, h.reqs], h.scu⟩

theorem State.badCommand_noSubmit (s : State) (p : Nat) (e : List W64) : NoSubmit s (s.badCommand p e) p := .post ..

theorem State.control2_noSubmit (s : State) (p act : Nat) (e : List W64) : NoSubmit s (s.control2 p act e) p := by
  unfold State.control2
  split
  · exact s.badCommand_noSubmit p e
  · exact .modScu ..

theorem State.tierCopy_noSubmit (s : State) (p : Nat) (e : List W64) : NoSubmit s (s.tierCopy p e) p := by
  unfold State.tierCopy
  dsimp only
  split
  · exact .post ..
  · exact .modPart s p _ (fun _ => rfl)

/-- A galley command other than SUBMIT. -/
theorem State.galleyDo_noSubmit {s : State} {p : Nat} {e : List W64} (h : bf (wordAt e 0) 63 56 ≠ 1) :
    NoSubmit s (s.galleyDo p e) p := by
  unfold State.galleyDo
  dsimp only
  split
  · exact .refl s p
  · split
    · exact s.control2_noSubmit p _ e
    · split
      · exact s.tierCopy_noSubmit p e
      · exact s.badCommand_noSubmit p e

theorem State.submit_staysWithin (s : State) (p : Nat) (e : List W64) : StaysWithin s (s.submit p e) p := by
  cases hi : s.indexOk p e
  · rw [State.submit_badIndex hi]
    exact (s.badCommand_noSubmit p e).staysWithin
  · cases hl : (s.req (entIndex e)).live
    · rw [State.submit_free hi hl]; exact (s.submitFill_submits p e).staysWithin hi
    · exact (State.submit_live hi hl).1

/-- A galley command stays within its partition. -/
theorem State.galleyDo_staysWithin (s : State) (p : Nat) (e : List W64) : StaysWithin s (s.galleyDo p e) p := by
  by_cases h : bf (wordAt e 0) 63 56 = 1
  · rw [State.galleyDo_submit h]; exact s.submit_staysWithin p e
  · exact (State.galleyDo_noSubmit h).staysWithin

theorem State.galleyArrive_staysWithin (s : State) (p : Nat) (e : List W64) : StaysWithin s (s.galleyArrive p e) p := by
  obtain ⟨m, h⟩ := s.forward_frame p (.galley (Fin.ofNat 16 p) e)
  rw [State.galleyArrive, h]
  exact (StaysWithin.of_eq (s := s) (t := s.withMirror m) p rfl rfl rfl rfl).trans (State.galleyDo_staysWithin _ p e)

theorem galleyRead_staysWithin (p d n : Nat) (s : State) : StaysWithin s (galleyRead p d n s) p := by
  induction n generalizing s with
  | zero => exact .refl s p
  | succ n ih => exact (StaysWithin.setFld s p ..).trans ((State.galleyArrive_staysWithin _ p _).trans (ih _))

theorem rGalley_ne_rGhead (p k j : Nat) : rGalley p k + 8 * j ≠ rGhead (p + 1) := by
  simp only [rGalley, rGhead, ringBase, Nat.add_eq_zero_iff, one_ne_zero, and_false, if_false]; omega

theorem rGalley_ne_rEstat (p k j : Nat) : rGalley p k + 8 * j ≠ rEstat (p + 1) := by
  simp only [rGalley, rEstat, ringBase, Nat.add_eq_zero_iff, one_ne_zero, and_false, if_false]; omega

theorem rGalley_ne_rGtail (p k j : Nat) : rGalley p k + 8 * j ≠ rGtail (p + 1) := by
  simp only [rGalley, rGtail, ringBase, Nat.add_eq_zero_iff, one_ne_zero, and_false, if_false]; omega

theorem State.galleyEntry_congr {s t : State} {p k : Nat} (h : ∀ j, t.reg (rGalley p k + 8 * j) = s.reg (rGalley p k + 8 * j)) :
    t.galleyEntry p k = s.galleyEntry p k := by simp [State.galleyEntry, h]

/-- A galley command other than SUBMIT that has been read. -/
theorem State.galleyArrive_noSubmit {s : State} {p : Nat} {e : List W64} (h : bf (wordAt e 0) 63 56 ≠ 1) :
    NoSubmit s (s.galleyArrive p e) p := by
  obtain ⟨m, hm⟩ := s.forward_frame p (.galley (Fin.ofNat 16 p) e)
  rw [State.galleyArrive, hm]
  obtain ⟨tmpl, reg, reqs, clusters, stackMem, caseMem, scu⟩ := State.galleyDo_noSubmit (s := s.withMirror m) (p := p) h
  exact ⟨tmpl, reg, reqs, clusters, stackMem, caseMem, scu⟩

/-- Where none of the entries is a SUBMIT, n of them are read: HEAD moves on by n, and TAIL, request entries, clusters
and memories stay. -/
theorem galleyRead_noSubmit {p d : Nat} (n : Nat) {s : State} (hd : d ≤ 1024) (hh : s.galleyHead p < d)
    (he : ∀ k, k < d → bf (wordAt (s.galleyEntry p k) 0) 63 56 ≠ 1) :
    let t := galleyRead p d n s
    t.galleyHead p = (s.galleyHead p + n) % d ∧ t.reg (rGtail (p + 1)) = s.reg (rGtail (p + 1)) ∧ t.reqs = s.reqs
      ∧ t.clusters = s.clusters ∧ t.stackMem = s.stackMem ∧ t.caseMem = s.caseMem := by
  induction n generalizing s with
  | zero => exact ⟨(Nat.mod_eq_of_lt hh).symm, rfl, rfl, rfl, rfl, rfl⟩
  | succ n ih =>
    have hlt : (s.galleyHead p + 1) % d < d := Nat.mod_lt _ (by omega)
    have hu := State.galleyArrive_noSubmit
      (s := s.setFld (rGhead (p + 1)) 9 0 ((s.galleyHead p + 1) % d)) (p := p) (he (s.galleyHead p % d) (Nat.mod_lt _ (by omega)))
    have hstep : galleyRead p d (n + 1) s = galleyRead p d n ((s.setFld (rGhead (p + 1)) 9 0
      ((s.galleyHead p + 1) % d)).galleyArrive p (s.galleyEntry p (s.galleyHead p % d))) := rfl
    rw [hstep]
    generalize (s.setFld (rGhead (p + 1)) 9 0 ((s.galleyHead p + 1) % d)).galleyArrive p
      (s.galleyEntry p (s.galleyHead p % d)) = u at *
    have hhead : u.galleyHead p = (s.galleyHead p + 1) % d := by
      refine (State.fld_congr 9 0 (hu.reg _ (by simp [rGhead, rEstat]))).trans ?_
      exact State.fld_setFld_lt _ _ _ _ _ (by decide) (by decide) (by omega)
    have hent : ∀ k, u.galleyEntry p k = s.galleyEntry p k := fun k => State.galleyEntry_congr (fun j =>
      (hu.reg _ (rGalley_ne_rEstat p k j)).trans (State.reg_setFld_other _ _ _ _ _ _ (rGalley_ne_rGhead p k j)))
    obtain ⟨i1, i2, i3, i4, i5, i6⟩ := ih (s := u) (by omega) (fun k hk => by rw [hent]; exact he k hk)
    refine ⟨?_, ?_, i3.trans hu.reqs, i4.trans hu.clusters, i5.trans hu.stackMem, i6.trans hu.caseMem⟩
    · rw [i1, hhead, Nat.mod_add_mod]; congr 1; omega
    · rw [i2, hu.reg _ (by simp [rGtail, rEstat]), State.reg_setFld_other _ _ _ _ _ _ (by simp [rGtail, rGhead])]

/-- A doorbell that is taken sets TAIL; it waits behind the accesses of its function, or reads the galley. -/
theorem State.doorbell_taken {s : State} {p tail : Nat} (hu : s.host.up = true) (hv : s.validPart p = true)
    (hm : s.mirrored p = false) :
    s.doorbell p tail = (if s.fnWaits (p + 1) then (s.setFld (rGtail (p + 1)) 9 0 tail).hostWait (.bell p tail)
      else (s.setFld (rGtail (p + 1)) 9 0 tail).galleyTake p tail) := by
  have hk : rMirCtl ≠ rGtail (p + 1) := by
    simp only [rMirCtl, rGtail, ringBase, Nat.add_eq_zero_iff, one_ne_zero, and_false, if_false]; omega
  have hm' : (s.setFld (rGtail (p + 1)) 9 0 tail).mirrored p = false := by
    rw [State.mirrored, State.fbit, State.reg_setFld_other _ _ _ _ _ _ hk]; exact hm
  unfold State.doorbell
  rw [if_neg (by simp [hu, hv])]
  dsimp only
  rw [State.forward_of_not_mirrored hm']
  rfl

theorem State.galleyTake_beyond {s : State} {p tail : Nat} (h : (s.tmpl p).depth ≤ tail) :
    StaysWithin s (s.galleyTake p tail) p := by
  rw [State.galleyTake]
  dsimp only
  rw [if_pos h]
  exact (StaysWithin.of_eq (s := s) (t := s.withFree (s.free + 1)) p rfl rfl rfl rfl).trans
    ((StaysWithin.unpredictable _ p).trans (galleyRead_staysWithin p _ _ _))

theorem State.galleyTake_within {s : State} {p tail : Nat} (h : tail < (s.tmpl p).depth) :
    s.galleyTake p tail = galleyRead p (s.tmpl p).depth
      ((tail + (s.tmpl p).depth - s.galleyHead p % (s.tmpl p).depth) % (s.tmpl p).depth) s := by
  rw [State.galleyTake]
  dsimp only
  rw [if_neg (by omega)]

/-- From place h to place t of a ring of d, and on from h by as much. -/
theorem ring_distance {h t d : Nat} (hh : h < d) (ht : t < d) : (h + (t + d - h % d) % d) % d = t := by
  rw [Nat.mod_eq_of_lt hh, Nat.add_mod_mod, show h + (t + d - h) = t + d by omega, Nat.add_mod_right, Nat.mod_eq_of_lt ht]

theorem ring_next {h d : Nat} (hh : h < d) (hd : 1 < d) : ((h + 1) % d + d - h % d) % d = 1 := by
  rw [Nat.mod_eq_of_lt hh]
  obtain h1 | h1 : h + 1 < d ∨ h + 1 = d := by omega
  · rw [Nat.mod_eq_of_lt h1, show h + 1 + d - h = 1 + d by omega, Nat.add_mod_right, Nat.mod_eq_of_lt hd]
  · rw [h1, Nat.mod_self, show 0 + d - h = 1 by omega, Nat.mod_eq_of_lt hd]

theorem servingOnly.regs {s t : State} (h : servingOnly s t) : t.regs = s.regs := by
  obtain ⟨r, x, rfl⟩ := h
  rfl

/-- SUBMIT to a free entry, as the galley brings it: the entry is QUEUED, and no register changes. -/
theorem State.galleyArrive_submits {s : State} {p : Nat} {e : List W64} (hcmd : bf (wordAt e 0) 63 56 = 1)
    (hi : s.indexOk p e = true) (hl : (s.req (entIndex e)).live = false) :
    ((s.galleyArrive p e).req (entIndex e)).state = rqQueued ∧ (s.galleyArrive p e).regs = s.regs := by
  obtain ⟨m, hm⟩ := s.forward_frame p (.galley (Fin.ofNat 16 p) e)
  have hsub := (s.withMirror m).submitFill_submits p e
  rw [State.galleyArrive, hm, State.galleyDo_submit hcmd, State.submit_free (s := s.withMirror m) hi hl]
  exact ⟨hsub.fields.1, hsub.frame.regs⟩

/-- A doorbell that finds no SUBMIT: HEAD follows to TAIL. -/
theorem State.galleyTake_noSubmit {s : State} {p tail : Nat} (hd : tail < (s.tmpl p).depth)
    (hh : s.galleyHead p < (s.tmpl p).depth)
    (hne : ∀ k, k < (s.tmpl p).depth → bf (wordAt (s.galleyEntry p k) 0) 63 56 ≠ 1) :
    let t := s.galleyTake p tail
    t.galleyHead p = tail ∧ t.reg (rGtail (p + 1)) = s.reg (rGtail (p + 1)) ∧ t.reqs = s.reqs
      ∧ t.clusters = s.clusters ∧ t.stackMem = s.stackMem ∧ t.caseMem = s.caseMem := by
  have h := galleyRead_noSubmit ((tail + (s.tmpl p).depth - s.galleyHead p % (s.tmpl p).depth) % (s.tmpl p).depth)
    (s.tmpl p).depth_le hh hne
  rw [State.galleyTake_within hd]
  rwa [ring_distance hh hd] at h

/-- A doorbell that brings one SUBMIT, to a free entry. -/
theorem State.galleyTake_submits {s : State} {p k : Nat} (hk : s.galleyHead p = k) (hlt : k < (s.tmpl p).depth)
    (h1 : 1 < (s.tmpl p).depth) (hcmd : bf (wordAt (s.galleyEntry p k) 0) 63 56 = 1)
    (hi : s.indexOk p (s.galleyEntry p k) = true) (hl : (s.req (entIndex (s.galleyEntry p k))).live = false) :
    let t := s.galleyTake p ((k + 1) % (s.tmpl p).depth)
    (t.req (entIndex (s.galleyEntry p k))).state = rqQueued ∧ t.galleyHead p = (k + 1) % (s.tmpl p).depth := by
  have hd : (k + 1) % (s.tmpl p).depth < (s.tmpl p).depth := Nat.mod_lt _ (by omega)
  have hle := (s.tmpl p).depth_le
  have hstep : s.galleyTake p ((k + 1) % (s.tmpl p).depth)
      = (s.setFld (rGhead (p + 1)) 9 0 ((k + 1) % (s.tmpl p).depth)).galleyArrive p (s.galleyEntry p k) := by
    rw [State.galleyTake_within hd, hk, ring_next hlt h1]
    simp only [galleyRead, hk, Nat.mod_eq_of_lt hlt]
  obtain ⟨r, hr⟩ := s.setFld_frame (rGhead (p + 1)) 9 0 ((k + 1) % (s.tmpl p).depth)
  obtain ⟨hstate, hregs⟩ := State.galleyArrive_submits (s := s.withRegs r) (p := p) hcmd hi hl
  have hfld := s.fld_setFld_lt (rGhead (p + 1)) 9 0 ((k + 1) % (s.tmpl p).depth) (by decide) (by decide) (by omega)
  rw [hstep, hr]
  refine ⟨hstate, ?_⟩
  rw [State.galleyHead, State.fld, State.reg, hregs]
  rwa [hr] at hfld

/-- TAIL with what was rung, and the galley as it was. -/
theorem State.setTail_galley (s : State) (p : Nat) {tail : Nat} (h : tail < 1024) :
    let t := s.setFld (rGtail (p + 1)) 9 0 tail
    t.fld (rGtail (p + 1)) 9 0 = tail ∧ t.galleyHead p = s.galleyHead p ∧ ∀ k, t.galleyEntry p k = s.galleyEntry p k :=
  ⟨s.fld_setFld_lt _ _ _ _ (by decide) (by decide) h,
    State.fld_congr 9 0 (s.reg_setFld_other _ _ _ _ _ (by simp [rGhead, rGtail])),
    fun k => State.galleyEntry_congr (fun j => s.reg_setFld_other _ _ _ _ _ (rGalley_ne_rGtail p k j))⟩

/-- Settles O40: the doorbell sets TAIL, then waits or reads; what it reads is followed by induction on their number. -/
theorem doorbellReadsTheGalley : Obligations.DoorbellReadsTheGalley := by
  unfold Obligations.DoorbellReadsTheGalley
  intro p tail s
  have hexec : exec (.galleyDoorbell p tail) s = .next (s.doorbell p.val tail.toNat) := rfl
  obtain ⟨r, hr⟩ := s.setFld_frame (rGtail (p.val + 1)) 9 0 tail.toNat
  rw [hexec]
  refine ⟨fun h => ?_, fun hu hv hm hw => ?_, fun hu hv hw hm => ?_⟩
  · rw [State.doorbell, if_pos (by simpa using h)]
  · rw [State.doorbell_taken hu hv hm, if_pos hw]
    have hother := fun k hk => s.reg_setFld_other (rGtail (p.val + 1)) k 9 0 tail.toNat hk
    obtain ⟨htail, -⟩ := s.setTail_galley p.val tail.isLt
    rw [hr] at hother htail ⊢
    exact ⟨_, rfl, htail, rfl, hother, rfl⟩
  · rw [State.doorbell_taken hu hv hm, hw, if_neg Bool.false_ne_true]
    obtain ⟨htail, hhead, hent⟩ := s.setTail_galley p.val tail.isLt
    rw [hr] at htail hhead hent ⊢
    refine ⟨fun hd => ⟨_, rfl, ?_⟩, fun hd hh hne => ⟨_, rfl, ?_⟩, fun k hk hlt ht h1 hcmd hi hl => ⟨_, rfl, ?_⟩⟩
    · obtain ⟨-, hcluster, hreq, hscu⟩ := State.galleyTake_beyond (s := s.withRegs r) (p := p.val) hd
      exact ⟨hcluster, hreq, hscu⟩
    · obtain ⟨h1, h2, h3⟩ := State.galleyTake_noSubmit (s := s.withRegs r) (p := p.val) hd (hhead ▸ hh)
        (fun k hk => by rw [hent]; exact hne k hk)
      exact ⟨h1, (State.fld_congr 9 0 h2).trans htail, h3⟩
    · rw [ht, ← hent k]
      rw [← hent k] at hcmd hi hl
      exact State.galleyTake_submits (s := s.withRegs r) (hhead.trans hk) hlt h1 hcmd hi hl

end Sys2Proof.Machine
end

section

namespace Sys2Proof.Machine

/-! ### A slot that starts on a shadow (R13, R51, R367) -/

/-- A step of slot 5 that began at 0 on cluster 1. -/
def runOfSlot5 : SlotRun :=
  { kernel := 5, start := 0, len := 1000, w1 := 2, clusters := [1], waiting := [], phase := .step }

/-- A READY shadow whose pair holds partition 0, with cluster 1 and link 0, while partition 1 has cluster 0. Slot 63 of
partition 0 is due on cluster 1, which slot 5 still owns. On link 0 waits windowed data of cluster 0, which holds 64
bytes of that cluster's send staging. -/
def shadowWithKeptData : State :=
  (((((((State.reset.setFld rHostBoot 63 61 7).setFld rMirStat 63 61 roleShadow).setBit rMirCtl 48 true).setBit
    (rPart 0) 63 true).setBit (rPart 1) 63 true).setBit (rTtFrame 0) 63 true).setReg (rSlot 0 63 0 + activeBank)
    (1 <<< 63)).setReg (rSlot 0 63 1 + activeBank) 2
  |>.withParts [(0, { tmpl := { ctl := 2, links := 1 }, frame := some 0
                      slots := [(5, some runOfSlot5)] }),
                (1, { tmpl := { ctl := 1 } })]
  |>.withClusters [(0, { staged := 64 })]
  |>.withLinks [(0, { winQ := [{ payload := List.replicate 64 0 }] })]

/-- Starting slot 63 drops the waiting data, and with it the bytes that it held in the staging of cluster 0. -/
theorem slotBegin_unstages_other_partition :
    ((shadowWithKeptData.slotBegin 0 63 0 (shadowWithKeptData.slotEntry 0 63 true)).cluster 0).staged = 0 := by
  decide +kernel

/-- Slot 63 starts there, over slot 5. -/
theorem exec_slotStart_shadowWithKeptData :
    exec (.slotStart 0 63) shadowWithKeptData
      = .next ((shadowWithKeptData.slotBegin 0 63 0 (shadowWithKeptData.slotEntry 0 63 true)).unpredictable 0) := by
  change execSlotStart 0 63 shadowWithKeptData = _
  unfold execSlotStart
  rw [show (shadowWithKeptData.part (0 : PartId).val).frame = some 0 from rfl]
  dsimp only
  rw [if_neg (by decide +kernel), if_pos (by decide +kernel)]
  rfl

/-- Refutes O23: on a shadow a start drops the windowed data that only the slot before kept (R367), and gives back its
bytes of send staging, whichever cluster they are of: here cluster 0 of partition 1 has 64 bytes staged before the start
of slot 63 of partition 0 and none after it. -/
theorem not_slotStartsItsStep : ¬ Obligations.SlotStartsItsStep := by
  unfold Obligations.SlotStartsItsStep
  rintro ⟨-, h⟩
  obtain ⟨-, hstart⟩ := h 0 63 shadowWithKeptData
  obtain ⟨-, hover⟩ := hstart 0 rfl
  obtain ⟨t, r, ht, -, -, hframe⟩ := hover 5 runOfSlot5 (by decide +kernel) (by decide +kernel) (by decide +kernel)
    (by decide +kernel) (by decide +kernel) (by decide +kernel) (by decide +kernel) (by decide +kernel) (by decide +kernel)
    (by decide +kernel) (by decide +kernel) (by decide +kernel)
  rw [exec_slotStart_shadowWithKeptData] at ht
  cases ht
  have hgone := StaysWithin.unpredictable
    (shadowWithKeptData.slotBegin 0 63 0 (shadowWithKeptData.slotEntry 0 63 true)) 0
  have hstaged := congrArg Cluster.staged ((hgone.cluster 0 (by decide +kernel)).symm.trans (hframe 0 (by decide +kernel)))
  rw [slotBegin_unstages_other_partition] at hstaged
  exact absurd hstaged (by decide +kernel)

end Sys2Proof.Machine
end

section

namespace Sys2Proof.Machine

/-! ### REGISTER_WRITE (R9, R12, R376, R377) -/

/-- A keep queue that has room holds no write up (R429). -/
theorem State.keepRoom_of_room {s : State} (h : s.keep.all.length < 16) (n : Nat) : s.keepRoom n = s := by
  cases n with
  | zero => rfl
  | succ n => exact if_pos h

/-- BAR0 that does not answer takes no write. -/
theorem State.registerWrite_closed {s : State} (h : s.barOpen = false) (f off : Nat) (wd : Width) (v : W64) :
    s.registerWrite f off wd v = s := by rw [State.registerWrite, h]; exact if_pos rfl

theorem State.registerWrite_pf {s : State} (h : s.barOpen = true) (off : Nat) (wd : Width) (v : W64) :
    s.registerWrite 0 off wd v = s.pfWrite off wd v := by
  rw [State.registerWrite, h, if_neg (by decide), if_pos rfl]

theorem State.registerWrite_vf {s : State} (h : s.barOpen = true) (p off : Nat) (wd : Width) (v : W64) :
    s.registerWrite (p + 1) off wd v = s.vfWrite p off wd v := by
  rw [State.registerWrite, h, if_neg (by decide), if_neg (by omega)]; rfl

theorem rEbase_pf : rEbase 0 = 0x210 := rfl
theorem rEhead_pf : rEhead 0 = 0x218 := rfl

section
variable {s : State} (hk : s.keep.all.length < 16) {off : Nat} (wd : Width) (v : W64)
include hk

/-- A reserved offset of the physical function takes no write. -/
theorem State.pfWrite_reserved (h : off % 8 ≠ 0 ∨ (layoutPf off).isEmpty = true) : s.pfWrite off wd v = s := by
  unfold State.pfWrite
  dsimp only
  rw [State.keepRoom_of_room hk, if_pos h]

/-- The plain registers of templates, the serving control unit and the thermal block. -/
theorem State.pfWrite_plain (hl : (layoutPf off).isEmpty = false) (h8 : off % 8 = 0) (h0 : off % 0x1000 ≠ 0)
    (h : (0x10000 ≤ off ∧ off < 0x20000) ∨ (0x41000 ≤ off ∧ off < 0x51000) ∨ (0xE0000 ≤ off ∧ off < 0xF0000)) :
    s.pfWrite off wd v = s.plainWrite off wd v := by
  unfold State.pfWrite rTtSrc rMirCtl rClkCtl
  dsimp only
  rw [State.keepRoom_of_room hk, if_neg (by simp [h8, hl]), rEbase_pf, rEhead_pf]
  iterate 14 rw [if_neg (by omega)]

theorem State.pfWrite_part (p : PartId) : s.pfWrite (rPart p.val) wd v = s.partCtlWrite p.val wd v := by
  have hl : ∀ p : PartId, (layoutPf (rPart p.val)).isEmpty = false := by decide
  have hp := p.isLt
  unfold State.pfWrite
  dsimp only
  rw [State.keepRoom_of_room hk, if_neg (not_or.mpr ⟨by unfold rPart; omega, by simp [hl]⟩),
    rEbase_pf, rEhead_pf]
  unfold rPart
  iterate 3 rw [if_neg (by omega)]
  rw [if_pos (by omega)]
  congr 1; omega

/-- The window of a partition's timetable. -/
theorem State.pfWrite_tt (p : PartId) {w : Nat} (hw : w < 0x1000) (h8 : w % 8 = 0)
    (hl : (layoutPf (rTtFrame p.val + w)).isEmpty = false) :
    s.pfWrite (rTtFrame p.val + w) wd v = s.ttWrite p.val w wd v := by
  have hp := p.isLt
  unfold State.pfWrite
  dsimp only
  rw [State.keepRoom_of_room hk, if_neg (not_or.mpr ⟨by unfold rTtFrame; omega, by simp [hl]⟩),
    rEbase_pf, rEhead_pf]
  unfold rTtSrc rTtFrame
  iterate 5 rw [if_neg (by omega)]
  rw [if_pos (by omega)]
  congr 1 <;> omega

theorem State.pfWrite_mirCtl : s.pfWrite rMirCtl wd v = s.mirCtlWrite wd v := by
  unfold State.pfWrite
  dsimp only
  rw [State.keepRoom_of_room hk]
  rfl

theorem State.pfWrite_ebase : s.pfWrite (rEbase 0) wd v = s.ebaseWrite 0 wd v := by
  unfold State.pfWrite
  dsimp only
  rw [State.keepRoom_of_room hk]
  rfl

end

/-- The words of parameter blocks and galley entries are plain (Table 14.1). -/
theorem layoutVf_plain {off : Nat} (h8 : off % 8 = 0)
    (h : (0x1000 ≤ off ∧ off < 0x1800) ∨ (0x10000 ≤ off ∧ off < 0x20000)) : layoutVf off = fPlain := by
  unfold layoutVf
  rw [if_neg (by omega), if_neg (by omega)]
  rcases h with h | h
  · rw [if_pos h]
  · rw [if_neg (by omega), if_pos h]

/-- A virtual function without a valid template takes no write, and no register lies off an 8-byte boundary. -/
theorem State.vfWrite_refused {s : State} {p off : Nat} (wd : Width) (v : W64)
    (h : off % 8 ≠ 0 ∨ s.validPart p = false) : s.vfWrite p off wd v = s :=
  if_pos (by rcases h with h | h <;> simp [h])

section
variable {s : State} {p : Nat} (hv : s.validPart p = true) {off : Nat} (wd : Width) (v : W64)
include hv

theorem State.vfWrite_doorbell (hwd : wd ≠ .hi32) : s.vfWrite p 0 wd v = s.doorbell p (bf v 9 0) := by
  unfold State.vfWrite
  rw [if_neg (by simp [hv]; decide), if_pos rfl, if_neg hwd]

theorem State.vfWrite_ebase : s.vfWrite p 0x10 wd v = s.ebaseWrite (p + 1) wd v := by
  unfold State.vfWrite
  rw [if_neg (by simp [hv]; decide), if_neg (by decide), if_pos rfl]

theorem State.vfWrite_ehead (hwd : wd ≠ .hi32) : s.vfWrite p 0x18 wd v = s.eheadWrite (p + 1) (bf v 15 0) := by
  unfold State.vfWrite
  rw [if_neg (by simp [hv]; decide), if_neg (by decide), if_neg (by decide), if_pos rfl, if_neg hwd]

/-- A write to a parameter block, free or of a step that runs (R291). -/
theorem State.vfWrite_param (h8 : off % 8 = 0) (hlo : 0x1000 ≤ off) (hhi : off < 0x1800) :
    s.vfWrite p off wd v = (if (s.findRun p ((off - 0x1000) / 32) (fun r => r.phase == .step && r.step.isNone)).isSome
      then (s.plainWrite ((p + 1) * 2 ^ 32 + off) wd v).unpredictable p
      else s.plainWrite ((p + 1) * 2 ^ 32 + off) wd v) := by
  unfold State.vfWrite
  rw [if_neg (by simp [hv, h8, layoutVf_plain h8 (.inl ⟨hlo, hhi⟩), fPlain]), if_neg (by omega), if_neg (by omega),
    if_neg (by omega), if_neg (by omega)]
  simp only [hlo, hhi, true_and]

/-- A write to a galley entry, outside HEAD to TAIL or between them. -/
theorem State.vfWrite_galley (h8 : off % 8 = 0) (hlo : 0x10000 ≤ off) (hhi : off < 0x20000) :
    s.vfWrite p off wd v = (if s.galleyHeld p ((off - 0x10000) / 64)
      then (s.plainWrite ((p + 1) * 2 ^ 32 + off) wd v).unpredictable p
      else s.plainWrite ((p + 1) * 2 ^ 32 + off) wd v) := by
  unfold State.vfWrite
  rw [if_neg (by simp [hv, h8, layoutVf_plain h8 (.inr ⟨hlo, hhi⟩), fPlain]), if_neg (by omega), if_neg (by omega),
    if_neg (by omega), if_neg (c := 0x1000 ≤ off ∧ _) (by omega)]
  simp only [hlo, true_and]

end

/-- A head within the records moves HEAD alone. -/
theorem State.eheadWrite_within {s : State} {f h : Nat} (hn : h < ringSize (s.reg (rEbase f)))
    (hle : (h + ringSize (s.reg (rEbase f)) - s.fld (rEhead f) 15 0 % ringSize (s.reg (rEbase f))) % ringSize (s.reg (rEbase f))
      ≤ (s.fld (rEstat f) 15 0 + ringSize (s.reg (rEbase f)) - s.fld (rEhead f) 15 0 % ringSize (s.reg (rEbase f)))
        % ringSize (s.reg (rEbase f))) :
    s.eheadWrite f h = s.setFld (rEhead f) 15 0 h := by
  unfold State.eheadWrite
  dsimp only
  rw [if_neg (by omega)]

/-- A head outside them is a host error of the function's partition. -/
theorem State.eheadWrite_beyond {s : State} {p h : Nat} (hn : ringSize (s.reg (rEbase (p + 1))) ≤ h
      ∨ (s.fld (rEstat (p + 1)) 15 0 + ringSize (s.reg (rEbase (p + 1)))
          - s.fld (rEhead (p + 1)) 15 0 % ringSize (s.reg (rEbase (p + 1)))) % ringSize (s.reg (rEbase (p + 1)))
        < (h + ringSize (s.reg (rEbase (p + 1)))
          - s.fld (rEhead (p + 1)) 15 0 % ringSize (s.reg (rEbase (p + 1)))) % ringSize (s.reg (rEbase (p + 1)))) :
    s.eheadWrite (p + 1) h = (s.setFld (rEhead (p + 1)) 15 0 h).unpredictable p := by
  unfold State.eheadWrite
  dsimp only
  rw [if_pos (by omega)]
  exact if_neg (by omega)

/-- What a host error of a register write spares: the clusters of others, and every unit that is no memory, flag,
request entry or register. -/
def sparesUnits (s t : State) (p : Nat) : Prop :=
  (∀ c, c < 32 → (s.tmpl p).hasCluster c = false → t.cluster c = s.cluster c)
    ∧ t.parts = s.parts ∧ t.scus = s.scus ∧ t.links = s.links ∧ t.mirror = s.mirror ∧ t.pending = s.pending

/-- A host error of partition p after a register was written. -/
theorem sparesUnits_of_setReg (s : State) (p k : Nat) (v : W64) : sparesUnits s ((s.setReg k v).unpredictable p) p := by
  obtain ⟨-, hcluster, -, -⟩ := StaysWithin.unpredictable (s.setReg k v) p
  simp only [sparesUnits, State.unpredictable_parts, State.unpredictable_scus, State.unpredictable_links,
    State.unpredictable_mirror, State.unpredictable_pending]
  exact ⟨fun c _ hc => hcluster c hc, rfl, rfl, rfl, rfl, rfl⟩

/-- The rows of Table 14.6 at a function's own offsets. -/
theorem rEbase_vf (p : Nat) (hp : p < 16) : rEbase (p + 1) % 2 ^ 32 = 0x10 := by
  unfold rEbase ringBase
  rw [if_neg (by omega)]; omega

/-- A write of a ring's base is HOST_EBASE_WRITE, from either kind of function. -/
theorem exec_registerWrite_ebase {s : State} (hb : s.barOpen = true) (hk : s.keep.all.length < 16) (f : FnId)
    (off : BitVec 25) (h : off.toNat = rEbase f.val % 2 ^ 32) (v : W64) :
    exec (.registerWrite f off .w64 v) s = exec (.hostEbaseWrite f v) s := by
  change Host.Outcome.next (s.registerWrite f.val off.toNat .w64 v) = .next (s.ebaseWrite f.val .w64 v)
  obtain ⟨n, hn⟩ := f
  cases n with
  | zero =>
    rw [h, show rEbase (⟨0, hn⟩ : FnId).val % 2 ^ 32 = rEbase 0 from rfl, State.registerWrite_pf hb, State.pfWrite_ebase hk]
  | succ p =>
    rw [h, rEbase_vf p (by omega), State.registerWrite_vf hb]
    cases hv : s.validPart p
    · rw [State.vfWrite_refused _ _ (.inr hv)]
      exact congrArg _ (if_pos (by simp [State.fnValid, hv])).symm
    · rw [State.vfWrite_ebase hv]

/-- The slot area of a timetable's active view takes no write (R49). -/
theorem State.pfWrite_activeView {s : State} (hk : s.keep.all.length < 16) (p : PartId) {off : Nat} (wd : Width) (v : W64)
    (hlo : rTtFrame p.val + 0x200 ≤ off) (hhi : off < rTtFrame p.val + 0x1000) (hview : s.fbit (rTtView p.val) 0 = true) :
    s.pfWrite off wd v = s := by
  by_cases h : off % 8 ≠ 0 ∨ (layoutPf off).isEmpty = true
  · exact State.pfWrite_reserved hk wd v h
  · obtain ⟨h8, hl⟩ := not_or.mp h
    obtain ⟨w, rfl⟩ : ∃ w, off = rTtFrame p.val + w := ⟨off - rTtFrame p.val, by omega⟩
    have hw8 : w % 8 = 0 := by unfold rTtFrame at h8; omega
    rw [State.pfWrite_tt hk wd v p (by omega) hw8 (by simpa using hl), State.ttWrite, if_neg (by omega),
      if_pos ⟨by omega, hview⟩]

/-- COMMIT's register, as its row does (Table 2.9). -/
theorem State.pfWrite_ttFrame {s : State} (hk : s.keep.all.length < 16) (p : PartId) (wd : Width) (v : W64) :
    s.pfWrite (rTtFrame p.val) wd v = s.ttFrameWrite p.val wd v := by
  have hl : ∀ p : PartId, (layoutPf (rTtFrame p.val + 0)).isEmpty = false := by decide
  exact (State.pfWrite_tt hk wd v p (w := 0) (by decide) (by decide) (hl p)).trans (if_pos rfl)

/-- A write whose WO bit acts does what the bit's row does to the register's new fields. -/
theorem next_ite_asks (wd : Width) (v : W64) (i : Nat) (t u : State) :
    (Host.Outcome.next (if asks wd v i then t else u) : Host.Outcome State Fault Refusal)
      = if wd = .w64 ∧ bit v i then .next t else .next u := by
  simp only [asks, Bool.and_eq_true, decide_eq_true_eq]
  split <;> rfl

/-- A whole write of MIR_CTL that asks for no resynchronisation. -/
theorem State.mirCtlWrite_next (s : State) {v : W64} (h : bit v 42 = false) :
    (Host.Outcome.next (s.mirCtlWrite .w64 v) : Host.Outcome State Fault Refusal)
      = if bf v 45 43 = 1 then .next (s.plainWrite rMirCtl .w64 v).setroleJoining
        else if bf v 45 43 = 2 then .next (s.plainWrite rMirCtl .w64 v).setroleSolo
        else .next (s.plainWrite rMirCtl .w64 v) := by
  unfold State.mirCtlWrite
  simp only [asks, h, Bool.and_false, Bool.false_eq_true, if_false, true_and]
  split
  · rfl
  · split <;> rfl

/-- What a write to a virtual function's BAR0 does, register by register (Table 14.1). -/
theorem vfWrites {s : State} (p : PartId) (off : Nat) (wd : Width) (v : W64) (hv : s.validPart p.val = true) :
    let put := s.plainWrite ((p.val + 1) * 2 ^ 32 + off) wd v
    let runs := (s.findRun p.val ((off - 0x1000) / 32) (fun r => r.phase == .step && r.step.isNone)).isSome
    (off % 8 = 0 → 0x1000 ≤ off → off < 0x1800 →
      (runs = false → s.vfWrite p.val off wd v = put)
      ∧ (runs = true → sparesUnits s (s.vfWrite p.val off wd v) p.val))
    ∧ (off % 8 = 0 → 0x10000 ≤ off → off < 0x20000 →
      (s.galleyHeld p.val ((off - 0x10000) / 64) = false → s.vfWrite p.val off wd v = put)
      ∧ (s.galleyHeld p.val ((off - 0x10000) / 64) = true → sparesUnits s (s.vfWrite p.val off wd v) p.val)) := by
  dsimp only
  refine ⟨fun h8 hlo hhi => ?_, fun h8 hlo hhi => ?_⟩
  · rw [State.vfWrite_param hv wd v h8 hlo hhi]
    refine ⟨fun h => ?_, fun h => ?_⟩
    · rw [h, if_neg Bool.false_ne_true]
    · rw [h, if_pos rfl]; exact sparesUnits_of_setReg ..
  · rw [State.vfWrite_galley hv wd v h8 hlo hhi]
    refine ⟨fun h => ?_, fun h => ?_⟩
    · rw [h, if_neg Bool.false_ne_true]
    · rw [h, if_pos rfl]; exact sparesUnits_of_setReg ..

/-- The low ten bits of a word are what a doorbell rings. -/
theorem bf_eq_ofNat_ten (v : W64) : bf v 9 0 = (BitVec.ofNat 10 v.toNat).toNat := by
  simp [bf]

/-- Settles O46: register by register, along the write's own cases. -/
theorem registerWritesActAsTheirRows : Obligations.RegisterWritesActAsTheirRows := by
  unfold Obligations.RegisterWritesActAsTheirRows
  intro f off wd v s
  have hexec : exec (.registerWrite f off wd v) s = .next (s.registerWrite f.val off.toNat wd v) := rfl
  dsimp only
  rw [hexec]
  refine ⟨fun hb => ?_, fun hb hk => ⟨fun hf hl => ?_, fun h8 => ?_, fun hf hl h0 hr => ?_, fun p hf ho => ?_,
    fun p hf ho => ?_, fun p hf hlo hhi hview => ?_, fun hf ho hwd h42 => ?_, fun ho hwd => ?_, fun p hf => ?_⟩⟩
  · rw [State.registerWrite_closed hb]
  · rw [hf, State.registerWrite_pf hb, State.pfWrite_reserved hk wd v (.inr hl)]
  · obtain ⟨n, hn⟩ := f
    cases n with
    | zero => rw [State.registerWrite_pf hb, State.pfWrite_reserved hk wd v (.inl h8)]
    | succ p => rw [State.registerWrite_vf hb, State.vfWrite_refused wd v (.inl h8)]
  · have h8 : off.toNat % 8 = 0 := by
      by_contra h8
      rw [layoutPf, if_pos h8] at hl
      exact absurd hl (by decide)
    rw [hf, State.registerWrite_pf hb, State.pfWrite_plain hk wd v hl h8 h0 hr]
    rfl
  · rw [hf, ho, State.registerWrite_pf hb, State.pfWrite_part hk wd v p]
    exact next_ite_asks ..
  · rw [hf, ho, State.registerWrite_pf hb, State.pfWrite_ttFrame hk p wd v]
    exact next_ite_asks ..
  · rw [hf, State.registerWrite_pf hb, State.pfWrite_activeView hk p wd v hlo hhi hview]
  · subst hwd
    rw [hf, ho, State.registerWrite_pf hb, State.pfWrite_mirCtl hk]
    exact s.mirCtlWrite_next h42
  · subst hwd
    exact exec_registerWrite_ebase hb hk f off ho v
  · rw [hf, State.registerWrite_vf hb, Nat.add_sub_cancel]
    refine ⟨fun hv => ?_, fun hv ho hwd => ?_, fun hv hlo hhi h8 => ?_, fun hv hlo hhi h8 hh => ?_,
      fun hv hlo hhi h8 hh => ?_, fun hv ho hwd => ⟨fun hn hle => ?_, fun hn => ?_⟩⟩
    · rw [State.vfWrite_refused wd v (.inr hv)]
    · rw [ho, State.vfWrite_doorbell hv wd v hwd, bf_eq_ofNat_ten]; rfl
    · obtain ⟨hfree, hruns⟩ := (vfWrites p off.toNat wd v hv).1 h8 hlo hhi
      exact ⟨fun h => congrArg _ (hfree h), fun h => ⟨_, rfl, hruns h⟩⟩
    · exact congrArg _ (((vfWrites p off.toNat wd v hv).2 h8 hlo hhi).1 hh)
    · exact ⟨_, rfl, ((vfWrites p off.toNat wd v hv).2 h8 hlo hhi).2 hh⟩
    · rw [ho, State.vfWrite_ehead hv wd v hwd, State.eheadWrite_within hn hle]
    · rw [ho, State.vfWrite_ehead hv wd v hwd, State.eheadWrite_beyond hn]
      exact ⟨_, rfl, sparesUnits_of_setReg ..⟩

end Sys2Proof.Machine
end

section

namespace Sys2Proof.Machine

/-! ### Memories under masked writes -/

theorem State.memOf_withMem (s : State) (sp sp' : Space) (m : Mem) :
    (s.withMem sp m).memOf sp' = if sp = sp' then m else s.memOf sp' := by
  cases sp with
  | stack => cases sp' <;> rfl
  | case => cases sp' <;> rfl
  | store c => cases sp' with
    | stack => rfl
    | case => rfl
    | store c' =>
      simp only [State.withMem, State.memOf, State.cluster_modCluster, Space.store.injEq, eq_comm (a := c')]
      exact apply_ite Cluster.store ..

theorem mget_mmask (m : Mem) (a j : Nat) (mask v : Byte) :
    mget (mmask m a mask v) j = if a = j then (mget m j &&& ~~~ mask) ||| (v &&& mask) else mget m j := by
  unfold mmask
  split
  · next h => rw [h, mget_mset_same]
  · next h => rw [mget_mset_other _ _ _ _ (Ne.symm h)]

/-- One masked byte. -/
def State.putByte (s : State) (w : PWrite) : State := s.withMem w.sp (mmask (s.memOf w.sp) w.addr w.mask w.val)

theorem State.byteAt_putByte (s : State) (w : PWrite) (sp : Space) (a : Nat) :
    (s.putByte w).byteAt sp a = storedByte [w] sp a (s.byteAt sp a) := by
  simp only [State.putByte, State.byteAt, State.memOf_withMem, storedByte, List.foldl_cons, List.foldl_nil]
  by_cases hsp : w.sp = sp
  · subst hsp; simp [mget_mmask]
  · simp [hsp]

theorem State.byteAt_putBytes (ws : List PWrite) (s : State) (sp : Space) (a : Nat) :
    (ws.foldl State.putByte s).byteAt sp a = storedByte ws sp a (s.byteAt sp a) := by
  induction ws generalizing s with
  | nil => rfl
  | cons w ws ih => rw [List.foldl_cons, ih, State.byteAt_putByte]; rfl

theorem State.putByte_frame (s : State) (w : PWrite) : ∃ c m k,
    s.putByte w = ((s.withClusters c).withStackMem m).withCaseMem k := by
  unfold State.putByte
  rcases w with ⟨_ | _ | c, a, mask, v⟩
  · exact ⟨s.clusters, mmask s.stackMem a mask v, s.caseMem, rfl⟩
  · exact ⟨s.clusters, s.stackMem, mmask s.caseMem a mask v, rfl⟩
  · exact ⟨(s.withMem (.store c) (mmask (s.cluster c).store a mask v)).clusters, s.stackMem, s.caseMem, rfl⟩

theorem State.putBytes_frame (ws : List PWrite) (s : State) : ∃ c m k,
    ws.foldl State.putByte s = ((s.withClusters c).withStackMem m).withCaseMem k := by
  induction ws generalizing s with
  | nil => exact ⟨s.clusters, s.stackMem, s.caseMem, rfl⟩
  | cons w ws ih =>
    obtain ⟨c, m, k, h⟩ := s.putByte_frame w
    obtain ⟨c', m', k', h'⟩ := ih (s.putByte w)
    exact ⟨c', m', k', by rw [List.foldl_cons, h', h]; rfl⟩

/-! ### What counting lines changes -/

/-- Performance counters alone. -/
structure CountsOnly (s t : State) : Prop where
  regs : t = s.withRegs t.regs
  reg : ∀ k, (∀ j, j < 8 → k ≠ rTrcPcnt j) → t.reg k = s.reg k

theorem CountsOnly.refl (s : State) : CountsOnly s s := ⟨rfl, fun _ _ => rfl⟩

theorem CountsOnly.trans {s t u : State} (h : CountsOnly s t) (h' : CountsOnly t u) : CountsOnly s u where
  regs := by rw [h'.regs, h.regs]; rfl
  reg k hk := (h'.reg k hk).trans (h.reg k hk)

theorem State.perf_countsOnly (s : State) (ev p : Nat) (c : Option Nat) (n : Nat) : CountsOnly s (s.perf ev p c n) := by
  unfold State.perf
  split
  · exact .refl s
  · refine List.foldlRecOn (motive := fun t => CountsOnly s t) _ _ (.refl s) fun t ht j hj => ht.trans ?_
    have counted : ∀ b : Bool, CountsOnly t (if b then t.incFld (rTrcPcnt j) 47 0 n else t)
      | false => .refl t
      | true => ⟨rfl, fun k hk => State.reg_setFld_other _ _ _ _ _ _ (hk j (List.mem_range.mp hj))⟩
    exact counted _

theorem State.countLines_countsOnly (s : State) (c : Option Nat) (ls : List (Space × Nat)) :
    CountsOnly s (s.countLines c ls) := by
  unfold State.countLines
  refine List.foldlRecOn (motive := fun a : Option Nat × State => CountsOnly s a.2) _ _ (.refl s) fun a ha l _ => ?_
  split
  · dsimp only
    split
    · exact ha.trans (a.2.perf_countsOnly ..)
    · exact ha
  · exact ha

theorem CountsOnly.tripped {s t : State} (h : CountsOnly s t) : t.tripped = s.tripped := by
  simp only [State.tripped, State.fbit, h.reg rThmStat (by unfold rThmStat rTrcPcnt; omega)]

theorem CountsOnly.byteAt {s t : State} (h : CountsOnly s t) (sp : Space) (a : Nat) : t.byteAt sp a = s.byteAt sp a := by
  rw [h.regs]; cases sp <;> rfl

theorem CountsOnly.integ {s t : State} (h : CountsOnly s t) : t.integ = s.integ := by rw [h.regs]; rfl
theorem CountsOnly.mirror {s t : State} (h : CountsOnly s t) : t.mirror = s.mirror := by rw [h.regs]; rfl

/-! ### Reads and writes of memories without stored errors -/

theorem State.readBytes_plain {s : State} (h : s.plainReads) (ls : List (Space × Nat)) :
    s.readBytes ls = (ls.map (fun l => s.byteAt l.1 l.2), false, s) := by
  obtain ⟨he, ht⟩ := h
  simp [State.readBytes, State.suspectUnits, he, ht, State.byteAt]

theorem rTrcPcnt_ne_flip {t : Nat × Nat} (j : Nat) (_ : j < 8) : siteReg t + 16 ≠ rTrcPcnt j := by
  unfold rTrcPcnt siteReg
  split <;> simp only [rStk] <;> omega

theorem State.applyFlips_none {s : State} (h : ∀ t ∈ allSites, s.fbit (siteReg t + 16) 63 = false) (ws : List PWrite) :
    s.applyFlips ws = s := by
  unfold State.applyFlips
  rw [List.filter_eq_nil_iff.mpr fun t ht => by simp [h t ht]]
  rfl

theorem State.applyFlips_nil (s : State) : s.applyFlips [] = s :=
  List.foldlRecOn (motive := fun t => t = s) _ _ rfl fun _ ht _ _ => ht

theorem State.splitWrite_nil (s : State) : s.splitWrite [] = s := s.applyFlips_nil

/-- Without stored errors, marked pages or armed flips a write is its bytes. -/
theorem State.writeBytes_plain {s : State} (h : s.plainWrites) (ws : List PWrite) :
    s.writeBytes ws = ws.foldl State.putByte s := by
  obtain ⟨⟨he, ht⟩, hm, hf⟩ := h
  by_cases hws : ws.isEmpty
  · rw [List.isEmpty_iff.mp hws]; rfl
  · obtain ⟨c, m, k, e⟩ := State.putBytes_frame ws s
    have hflip : (ws.foldl State.putByte s).applyFlips ws = ws.foldl State.putByte s :=
      State.applyFlips_none (fun t ht => by rw [e]; exact hf t ht) ws
    have hmir : (ws.foldl State.putByte s).mirror.copied = [] := by rw [e]; exact hm
    have hput : ∀ t : State, (fun (s : State) (w : PWrite) => s.withMem w.sp (mmask (s.memOf w.sp) w.addr w.mask w.val)) = State.putByte :=
      fun _ => rfl
    simp [State.writeBytes, hws, he, ht, hput s, hflip, hmir]

end Sys2Proof.Machine

end

section

namespace Sys2Proof.Machine

/-! ### What the memories' own work leaves alone -/

/-- The slots and, of every cluster, the tile registers and the counters are as they were. -/
structure KeepsWork (s t : State) : Prop where
  parts : t.parts = s.parts
  tiles : ∀ c, (t.cluster c).tiles = (s.cluster c).tiles
  sycs : ∀ c, (t.cluster c).sycs = (s.cluster c).sycs

theorem KeepsWork.of_eq {s t : State} (hc : t.clusters = s.clusters) (hp : t.parts = s.parts) : KeepsWork s t where
  parts := hp
  tiles c := by rw [State.cluster, hc]; rfl
  sycs c := by rw [State.cluster, hc]; rfl

theorem KeepsWork.refl (s : State) : KeepsWork s s := .of_eq rfl rfl

theorem KeepsWork.trans {s t u : State} (h : KeepsWork s t) (h' : KeepsWork t u) : KeepsWork s u where
  parts := h'.parts.trans h.parts
  tiles c := (h'.tiles c).trans (h.tiles c)
  sycs c := (h'.sycs c).trans (h.sycs c)

theorem KeepsWork.foldl {β : Type} (f : State → β → State) (hf : ∀ s x, KeepsWork s (f s x)) (l : List β) (s : State) :
    KeepsWork s (l.foldl f s) := foldl_keeps (KeepsWork s) f (fun _ x h => h.trans (hf _ x)) l s (.refl s)

theorem KeepsWork.withMem (s : State) (sp : Space) (m : Mem) : KeepsWork s (s.withMem sp m) := by
  cases sp with
  | stack => exact .of_eq rfl rfl
  | case => exact .of_eq rfl rfl
  | store c =>
    refine ⟨rfl, fun j => ?_, fun j => ?_⟩ <;>
      (simp only [State.withMem, State.cluster_modCluster]; split <;> [subst_vars; skip] <;> rfl)

theorem KeepsWork.putByte (s : State) (w : PWrite) : KeepsWork s (s.putByte w) := .withMem ..

/-- The slots and the clusters are as they were. -/
structure LeavesClusters (s t : State) : Prop where
  clusters : t.clusters = s.clusters
  parts : t.parts = s.parts

theorem LeavesClusters.refl (s : State) : LeavesClusters s s := ⟨rfl, rfl⟩

theorem LeavesClusters.trans {s t u : State} (h : LeavesClusters s t) (h' : LeavesClusters t u) : LeavesClusters s u :=
  ⟨h'.clusters.trans h.clusters, h'.parts.trans h.parts⟩

theorem LeavesClusters.foldl {β : Type} (f : State → β → State) (hf : ∀ s x, LeavesClusters s (f s x)) (l : List β)
    (s : State) : LeavesClusters s (l.foldl f s) :=
  foldl_keeps (LeavesClusters s) f (fun _ x h => h.trans (hf _ x)) l s (.refl s)

theorem LeavesClusters.work {s t : State} (h : LeavesClusters s t) : KeepsWork s t := .of_eq h.clusters h.parts

theorem LeavesClusters.setErr (s : State) (sp : Space) (a : Nat) (e : ErrPat) : LeavesClusters s (s.setErr sp a e) := ⟨rfl, rfl⟩

theorem LeavesClusters.incFld (s : State) (k hi lo n : Nat) : LeavesClusters s (s.incFld k hi lo n) := ⟨rfl, rfl⟩

theorem LeavesClusters.setReg (s : State) (k : Nat) (v : W64) : LeavesClusters s (s.setReg k v) := ⟨rfl, rfl⟩

theorem LeavesClusters.setFld (s : State) (k hi lo v : Nat) : LeavesClusters s (s.setFld k hi lo v) := ⟨rfl, rfl⟩

theorem LeavesClusters.setBit (s : State) (k i : Nat) (b : Bool) : LeavesClusters s (s.setBit k i b) := ⟨rfl, rfl⟩

theorem LeavesClusters.errLog (s : State) (site : Nat × Nat) (kind die loc : Nat) : LeavesClusters s (s.errLog site kind die loc) := by
  unfold State.errLog
  exact (((LeavesClusters.setReg ..).trans (.setReg ..)).trans (.setFld ..)).trans (.incFld ..)

theorem LeavesClusters.pfev (s : State) (b p : Nat) : LeavesClusters s (s.pfev b p) := by
  obtain ⟨r, h, o, e, -⟩ := s.pfev_frame b p
  rw [e]; exact ⟨rfl, rfl⟩

theorem LeavesClusters.moduleFail (s : State) : LeavesClusters s s.moduleFail := by
  obtain ⟨m, p, r, h, o, n, e, -⟩ := s.moduleFail_frame
  rw [e]; exact ⟨rfl, rfl⟩

theorem LeavesClusters.keepQueue (s : State) (w : Nat) (v : W64) : LeavesClusters s (s.keepQueue w v) := by
  unfold State.keepQueue
  split
  · exact .refl s
  · split
    · exact ⟨rfl, rfl⟩
    · exact ⟨rfl, rfl⟩

theorem LeavesClusters.recordRetirement (s : State) (w : RetWord) (n : Nat) : LeavesClusters s (s.recordRetirement w n) := by
  unfold State.recordRetirement
  split
  · exact .keepQueue ..
  · exact ⟨rfl, rfl⟩

theorem LeavesClusters.withInteg (s : State) (i : Integrity) : LeavesClusters s (s.withInteg i) := ⟨rfl, rfl⟩

theorem LeavesClusters.retireRow (s : State) (k die bank row : Nat) : LeavesClusters s (s.retireRow k die bank row) := by
  unfold State.retireRow
  dsimp only
  split
  · exact .refl s
  · split
    · exact .withInteg ..
    · split
      · exact .moduleFail s
      · exact (((LeavesClusters.withInteg ..).trans (.recordRetirement ..)).trans (.errLog ..)).trans (.pfev ..)

theorem LeavesClusters.qualifyRow (s : State) (k die bank row : Nat) : LeavesClusters s (s.qualifyRow k die bank row) := by
  unfold State.qualifyRow
  split
  · exact .retireRow ..
  · exact .withInteg ..

theorem LeavesClusters.noteRowError (s : State) (k die bank row : Nat) : LeavesClusters s (s.noteRowError k die bank row) := by
  unfold State.noteRowError
  dsimp only
  split
  · exact (LeavesClusters.withInteg s _).trans (.qualifyRow ..)
  · exact .withInteg ..

/-- What a read of a unit that is not poisoned counts and logs (R398, R401). -/
def State.countErrors (s : State) (sp : Space) (a : Nat) (u : UnitCheck) : State :=
  if u.bad then
    ((((s.incFld (siteReg (siteOf sp a)) 31 16).errLog (siteOf sp a) (if u.addrDies.isEmpty then 3 else 4)
      (if sp = .stack then (u.badDies ++ u.addrDies).headD 0 else 0) (locOf sp a)).setErr sp a
        { poison := true }).pfev 4 0)
  else u.fixedDies.foldl (fun s d => (s.incFld (siteReg (siteOf sp a)) 63 48).errLog (siteOf sp a) 1
    (if sp = .stack then d else 0) (locOf sp a)) s

/-- The rows that what a read of a stack line found qualifies or counts for (R408). -/
def State.noteRows (s : State) (a : Nat) (u : UnitCheck) : State :=
  let s := u.badDies.foldl (fun s d => s.qualifyRow (chanOfPa a) d (bankOfPa a) (rowOfPa a)) s
  if u.bad then s
  else (u.fixedDies.filter (fun d => !u.badDies.contains d)).foldl
    (fun s d => s.noteRowError (chanOfPa a) d (bankOfPa a) (rowOfPa a)) s

theorem State.noteCheck_eq (s : State) (sp : Space) (a : Nat) (u : UnitCheck) :
    s.noteCheck sp a u = if u.poisoned then (s.incFld (siteReg (siteOf sp a)) 15 0).errLog (siteOf sp a) 5 0 (locOf sp a)
      else if sp = .stack then (s.countErrors sp a u).noteRows a u else s.countErrors sp a u := rfl

theorem LeavesClusters.countErrors (s : State) (sp : Space) (a : Nat) (u : UnitCheck) : LeavesClusters s (s.countErrors sp a u) := by
  unfold State.countErrors
  split
  · exact (LeavesClusters.incFld ..).trans ((LeavesClusters.errLog ..).trans ((LeavesClusters.setErr ..).trans (.pfev ..)))
  · exact .foldl _ (fun s d => (LeavesClusters.incFld ..).trans (.errLog ..)) _ _

theorem LeavesClusters.noteRows (s : State) (a : Nat) (u : UnitCheck) : LeavesClusters s (s.noteRows a u) := by
  have qualified := LeavesClusters.foldl (fun s d => s.qualifyRow (chanOfPa a) d (bankOfPa a) (rowOfPa a))
    (fun s d => .qualifyRow ..) u.badDies s
  unfold State.noteRows
  dsimp only
  split
  · exact qualified
  · exact qualified.trans (.foldl _ (fun s d => .noteRowError ..) _ _)

theorem LeavesClusters.noteCheck (s : State) (sp : Space) (a : Nat) (u : UnitCheck) : LeavesClusters s (s.noteCheck sp a u) := by
  rw [State.noteCheck_eq]
  split
  · exact (LeavesClusters.incFld ..).trans (.errLog ..)
  · split
    · exact (LeavesClusters.countErrors ..).trans (.noteRows ..)
    · exact .countErrors ..

theorem KeepsWork.takeRaw (s : State) (sp : Space) (u : Nat) (raw : List (Nat × Byte)) : KeepsWork s (s.takeRaw sp u raw) := by
  unfold State.takeRaw
  split
  · exact .refl s
  · exact .withMem ..

theorem KeepsWork.writeUnit (s : State) (ws : List PWrite) (u : Space × Nat) : KeepsWork s (s.writeUnit ws u).2 := by
  unfold State.writeUnit
  dsimp only
  split
  · exact (LeavesClusters.setErr ..).work
  · split
    · exact .refl s
    · split
      · split
        · exact (LeavesClusters.noteCheck ..).work
        · exact (LeavesClusters.noteCheck ..).work.trans ((KeepsWork.takeRaw ..).trans (LeavesClusters.setErr ..).work)
      · split
        · exact (LeavesClusters.noteCheck ..).work
        · exact (LeavesClusters.noteCheck ..).work.trans ((KeepsWork.takeRaw ..).trans (LeavesClusters.setErr ..).work)

theorem KeepsWork.applyFlips (s : State) (ws : List PWrite) : KeepsWork s (s.applyFlips ws) := by
  refine .foldl _ (fun s t => ?_) _ _
  split
  · exact .refl s
  · dsimp only
    exact ((LeavesClusters.setErr ..).trans (.setBit ..)).work

theorem KeepsWork.markPages (s : State) (ps : List Nat) : KeepsWork s (s.markPages ps) := by
  unfold State.markPages
  split
  · exact .refl s
  · exact .of_eq rfl rfl

/-- A write of memory changes no slot, no tile register and no counter. -/
theorem KeepsWork.writeBytes (s : State) (ws : List PWrite) (agent : Bool) : KeepsWork s (s.writeBytes ws agent) := by
  unfold State.writeBytes
  split
  · exact .refl s
  · extract_lets sus
    have checked := List.foldlRecOn (motive := fun a : List (Space × Nat) × State => KeepsWork s a.2) (b := ([], s)) sus
      (fun a u => (if (a.2.writeUnit ws u).1 then a.1 else a.1 ++ [u], (a.2.writeUnit ws u).2)) (.refl s)
      fun a ha u _ => ha.trans (.writeUnit a.2 ws u)
    split
    next drop t e =>
      rw [e] at checked
      extract_lets ws' written flipped
      have flips : KeepsWork s flipped := by
        refine checked.trans ((KeepsWork.foldl State.putByte (fun s w => .putByte s w) ws' t).trans ?_)
        cases agent
        · exact .refl _
        · exact .applyFlips ..
      split
      · exact flips
      · exact flips.trans (.markPages ..)

theorem KeepsWork.countLines (s : State) (c : Option Nat) (ls : List (Space × Nat)) : KeepsWork s (s.countLines c ls) := by
  rw [(s.countLines_countsOnly c ls).regs]
  exact .of_eq rfl rfl

end Sys2Proof.Machine

end

section

namespace Sys2Proof.Machine

/-! ### Answers and records of the host port -/

theorem exec_hostRead (f : FnId) (imem : Bool) (a n : Nat) (s : State) :
    exec (.hostRead f imem a n) s = .next (s.hostRead f.val imem a n) := rfl

theorem exec_hostWrite (f : FnId) (imem : Bool) (a : Nat) (bs : List Byte) (s : State) :
    exec (.hostWrite f imem a bs) s = .next (s.hostWrite f.val imem a bs) := rfl

/-- A record does not change what the port answered. -/
theorem State.postAt_answer (s : State) (f : Nat) (w0 : W64) (t : Nat) (w2 : W64) (st : Nat) :
    (s.postAt f w0 t w2 st).host.bytes = s.host.bytes ∧ (s.postAt f w0 t w2 st).host.ep = s.host.ep := by
  obtain ⟨b, r, h, e, -⟩ := s.ringPut_frame (rEbase f) (rEhead f) (rEstat f)
    [w0, BitVec.ofNat 64 t, w2, BitVec.ofNat 64 st]
  rw [State.postAt, e]
  cases b
  · exact ⟨rfl, rfl⟩
  · exact ⟨rfl, rfl⟩

theorem State.apRecord_answer (s : State) (x : Nat × Option Nat) (a : Nat) :
    (s.apRecord x a).host.bytes = s.host.bytes ∧ (s.apRecord x a).host.ep = s.host.ep := by
  unfold State.apRecord
  split
  · rw [State.postHostFault, State.post]
    exact s.postAt_answer ..
  · exact ⟨rfl, rfl⟩

theorem State.apRecord_onlyRecords {s : State} {x : Nat × Option Nat} (a : Nat) (h : ∀ p, x.2 = some p → p < 16) :
    onlyRecords s (s.apRecord x a) (List.range 17) := by
  unfold State.apRecord
  split
  · next p e =>
    rw [State.postHostFault, State.post]
    exact s.postAt_onlyRecords _ _ _ _ _ (List.mem_range.mpr (Nat.succ_lt_succ (h p e)))
  · exact .refl ..

theorem onlyRecords.of_complete {s t : State} {bs : List Byte} {ep : Bool} {fs : List Nat}
    (h : onlyRecords (s.complete bs ep) t fs) : onlyRecords s t fs := by
  obtain ⟨he, hr⟩ := h
  generalize t.regs = r, t.hostMem = m, t.host = o at he
  exact ⟨by rw [he]; rfl, hr⟩

theorem find?_range_lt {n p : Nat} {q : Nat → Bool} (h : (List.range n).find? q = some p) : p < n :=
  List.mem_range.mp (List.mem_of_find?_eq_some h)

theorem State.ownerOf_lt {s : State} {l : Space × Nat} {p : Nat} (h : s.ownerOf l = some p) : p < 16 := by
  unfold State.ownerOf at h
  split at h
  · exact find?_range_lt h
  · exact find?_range_lt h
  · exact find?_range_lt h

/-- The record of a refused access goes to the ring of one of the sixteen partitions. -/
theorem State.apFault_part {s : State} {f : FnId} {ls : List (Option (Space × Nat))} {x : Nat × Option Nat}
    (h : s.apFault f.val ls = some x) (p : Nat) (hp : x.2 = some p) : p < 16 := by
  have own : ∀ o : Option Nat, (∀ q, o = some q → q < 16) →
      (if f.val = 0 then o else some (f.val - 1)) = some p → p < 16 := by
    intro o ho hq
    split at hq
    · exact ho p hq
    · have := f.isLt
      cases hq; omega
  unfold State.apFault at h
  split at h
  · cases h; exact own none nofun hp
  · split at h
    · cases h; exact own _ (fun _ => State.ownerOf_lt) hp
    · cases h

/-! ### Accesses of BAR2 -/

theorem State.apRead_fault {s : State} {f a n : Nat} {x : Nat × Option Nat}
    (h : s.apFault f ((List.range n).map (fun i => s.apLoc f (a + i))) = some x) :
    s.apRead f a n = (s.complete (List.replicate n 0xFF) false).apRecord x a := by
  simp only [State.apRead, h]

theorem State.apRead_ok {s : State} {f a n : Nat}
    (h : s.apFault f ((List.range n).map (fun i => s.apLoc f (a + i))) = none) :
    s.apRead f a n = if s.mayServe (.read f a (((List.range n).map (fun i => s.apLoc f (a + i))).filterMap id))
      then s.readDone (((List.range n).map (fun i => s.apLoc f (a + i))).filterMap id)
      else s.hostWait (.read f a (((List.range n).map (fun i => s.apLoc f (a + i))).filterMap id)) := by
  simp only [State.apRead, h]

theorem State.readDone_plain {s : State} (h : s.plainReads) (ls : List (Space × Nat)) :
    s.readDone ls = (s.countLines none ls).complete (ls.map (fun x => s.byteAt x.1 x.2)) false := by
  have counted := s.countLines_countsOnly none ls
  have plain : (s.countLines none ls).plainReads := ⟨counted.integ ▸ h.1, counted.tripped.trans h.2⟩
  simp only [State.readDone, State.readBytes_plain plain, counted.byteAt]

theorem State.apWrite_fault {s : State} {f a : Nat} {bs : List Byte} {x : Nat × Option Nat}
    (h : s.apFault f ((List.range bs.length).map (fun i => s.apLoc f (a + i))) = some x) :
    s.apWrite f a bs = s.apRecord x a := by
  simp only [State.apWrite, h]

theorem State.apWrite_ok {s : State} {f a : Nat} {bs : List Byte} {at_ : List (Space × Nat)}
    (h : s.apFault f ((List.range bs.length).map (fun i => s.apLoc f (a + i))) = none)
    (hat : at_ = ((List.range bs.length).map (fun i => s.apLoc f (a + i))).filterMap id) :
    s.apWrite f a bs = if (s.forwardWrite at_ bs).mayServe (.write f a bs at_)
      then (s.forwardWrite at_ bs).writeDone f at_ bs else (s.forwardWrite at_ bs).hostWait (.write f a bs at_) := by
  simp only [State.apWrite, h, hat]

theorem State.forwardWrite_of_role {s : State} (h : s.role ≠ rolePrimary) (ls : List (Space × Nat)) (bs : List Byte) :
    s.forwardWrite ls bs = s := if_pos h

theorem State.forwardWrite_frame (s : State) (ls : List (Space × Nat)) (bs : List Byte) :
    ∃ m, s.forwardWrite ls bs = s.withMirror m := by
  unfold State.forwardWrite
  split
  · exact ⟨s.mirror, rfl⟩
  · exact ⟨_, rfl⟩

/-- The masked bytes of a host write. -/
def hostPuts (ls : List (Space × Nat)) (bs : List Byte) : List PWrite :=
  (List.zip ls bs).map (fun q => ⟨q.1.1, q.1.2, 0xFF, q.2⟩)

/-- A virtual function's write is not split. -/
theorem State.writeDone_vf (s : State) {f : Nat} (hf : f ≠ 0) (ls : List (Space × Nat)) (bs : List Byte) :
    s.writeDone f ls bs = (s.stepsUsing ls).foldl State.unpredictable ((s.countLines none ls).writeBytes (hostPuts ls bs)) := by
  have h0 : (f == 0) = false := beq_false_of_ne hf
  simp only [State.writeDone, h0, Bool.false_and, Bool.not_false, List.filter_true, List.filter_false, State.splitWrite_nil]
  rfl

/-- Host errors of partitions keep the slots, and reach no cluster of others. -/
theorem State.unpredictables_keep (ps : List Nat) (s : State) : (ps.foldl State.unpredictable s).parts = s.parts
    ∧ ∀ c, s.ownedBy ps c = false → (ps.foldl State.unpredictable s).cluster c = s.cluster c := by
  induction ps generalizing s with
  | nil => exact ⟨rfl, fun _ _ => rfl⟩
  | cons p ps ih =>
    obtain ⟨hp, hc⟩ := ih (s.unpredictable p)
    have tmpl : ∀ q, (s.unpredictable p).tmpl q = s.tmpl q := fun q => by simp [State.tmpl, State.part]
    refine ⟨hp.trans (s.unpredictable_parts p), fun c h => ?_⟩
    obtain ⟨h1, h2⟩ : (s.tmpl p).hasCluster c = false ∧ s.ownedBy ps c = false := by
      simpa [State.ownedBy] using h
    rw [List.foldl_cons, hc c (by simpa only [State.ownedBy, tmpl] using h2)]
    exact (StaysWithin.unpredictable s p).cluster c h1

theorem State.ownedBy_cons {s : State} {p : Nat} {ps : List Nat} {c : Nat} (h : s.ownedBy (p :: ps) c = false) :
    s.ownedBy ps c = false := by
  rw [State.ownedBy, List.any_cons, Bool.or_eq_false_iff] at h
  exact h.2

/-- A virtual function's write keeps the slots, and the tiles and counters of clusters of the partitions it does not
spoil. -/
theorem State.writeDone_keeps (s : State) {f : Nat} (hf : f ≠ 0) (ls : List (Space × Nat)) (bs : List Byte) :
    (s.writeDone f ls bs).parts = s.parts ∧ ∀ c, s.ownedBy (s.stepsUsing ls) c = false →
      ((s.writeDone f ls bs).cluster c).tiles = (s.cluster c).tiles
        ∧ ((s.writeDone f ls bs).cluster c).sycs = (s.cluster c).sycs := by
  have work := (KeepsWork.countLines s none ls).trans (.writeBytes _ (hostPuts ls bs) true)
  rw [State.writeDone_vf s hf]
  generalize (s.countLines none ls).writeBytes (hostPuts ls bs) = t at work ⊢
  obtain ⟨hp, hc⟩ := State.unpredictables_keep (s.stepsUsing ls) t
  refine ⟨hp.trans work.parts, fun c h => ?_⟩
  have owned : t.ownedBy (s.stepsUsing ls) c = s.ownedBy (s.stepsUsing ls) c := by
    simp only [State.ownedBy, State.tmpl, State.part, work.parts]
  rw [hc c (owned.trans h)]
  exact ⟨work.tiles c, work.sycs c⟩

/-- A write that nothing hampers is its bytes, and counts its lines. -/
theorem State.writeDone_plain {s : State} (h : s.plainWrites) {f : Nat} (hf : f ≠ 0) {ls : List (Space × Nat)}
    (hs : s.stepsUsing ls = []) (bs : List Byte) :
    s.writeDone f ls bs = (hostPuts ls bs).foldl State.putByte (s.countLines none ls) := by
  have counted := s.countLines_countsOnly none ls
  obtain ⟨⟨he, ht⟩, hm, hf'⟩ := h
  have plain : (s.countLines none ls).plainWrites := by
    refine ⟨⟨counted.integ ▸ he, counted.tripped.trans ht⟩, counted.mirror ▸ hm, fun t hin => ?_⟩
    rw [State.fbit, counted.reg _ rTrcPcnt_ne_flip]
    exact hf' t hin
  rw [State.writeDone_vf s hf, hs, State.writeBytes_plain plain, List.foldl_nil]

end Sys2Proof.Machine

end

section

namespace Sys2Proof.Machine

/-! ### Accesses of instruction memory -/

theorem State.imemLoc_inj {s : State} {f a b : Nat} {l : Nat × Nat} (ha : s.imemLoc f a = some l) (hb : s.imemLoc f b = some l) :
    a = b := by
  simp only [State.imemLoc, Option.ite_none_right_eq_some, Option.some.injEq] at ha hb
  obtain ⟨⟨-, h1, -⟩, rfl⟩ := ha
  obtain ⟨⟨-, h2, -⟩, e⟩ := hb
  simp only [Prod.mk.injEq] at e
  omega

/-- Instruction memory that a function reaches is of a cluster granted to its partition. -/
theorem State.imemLoc_granted {s : State} {f a c o : Nat} (h : s.imemLoc f a = some (c, o)) :
    c < 32 ∧ (s.tmpl (f - 1)).hasCluster c = true := by
  simp only [State.imemLoc, Option.ite_none_right_eq_some, Option.some.injEq, Prod.mk.injEq] at h
  obtain ⟨⟨-, -, h1, h2⟩, rfl, -⟩ := h
  exact ⟨h1, h2⟩

/-- One byte of instruction memory. -/
def State.putImem (s : State) (l : (Nat × Nat) × Byte) : State :=
  s.modCluster l.1.1 (fun x => { x with imem := mset x.imem l.1.2 l.2 })

theorem State.putImem_imem (s : State) (l : (Nat × Nat) × Byte) (c o : Nat) :
    mget ((s.putImem l).cluster c).imem o = if l.1 = (c, o) then l.2 else mget (s.cluster c).imem o := by
  obtain ⟨⟨c', o'⟩, b⟩ := l
  simp only [State.putImem, State.cluster_modCluster, Prod.mk.injEq]
  by_cases hc : c = c'
  · subst hc
    by_cases ho : o' = o
    · subst ho; simp
    · simp [ho, mget_mset_other _ _ _ _ (Ne.symm ho)]
  · simp [hc, Ne.symm hc]

/-- Bytes put into instruction memory, all those for a place being equal: the place holds that one, or what it held. -/
theorem State.putImems_imem {ls : List ((Nat × Nat) × Byte)} {c o : Nat} {b : Byte}
    (h : ∀ l ∈ ls, l.1 = (c, o) → l.2 = b) (s : State) :
    mget ((ls.foldl State.putImem s).cluster c).imem o
      = if ∃ l ∈ ls, l.1 = (c, o) then b else mget (s.cluster c).imem o := by
  induction ls generalizing s with
  | nil => simp
  | cons l ls ih =>
    rw [List.foldl_cons, ih (fun l' hl' => h l' (List.mem_cons_of_mem _ hl')), State.putImem_imem]
    by_cases hl : l.1 = (c, o)
    · simp [hl, h l List.mem_cons_self hl]
    · simp [hl]

theorem State.putImems_frame (ls : List ((Nat × Nat) × Byte)) (s : State) :
    ∃ x, ls.foldl State.putImem s = s.withClusters x := by
  induction ls generalizing s with
  | nil => exact ⟨s.clusters, rfl⟩
  | cons l ls ih =>
    obtain ⟨x, h⟩ := ih (s.putImem l)
    exact ⟨x, h⟩

theorem State.putImems_staysWithin {p : Nat} {ls : List ((Nat × Nat) × Byte)} {s : State}
    (h : ∀ l ∈ ls, (s.tmpl p).hasCluster l.1.1 = true) : StaysWithin s (ls.foldl State.putImem s) p :=
  List.foldlRecOn (motive := fun t => StaysWithin s t p) _ _ (.refl s p) fun _ ht l hl =>
    ht.trans (.modCluster _ (ht.tmpl ▸ h l hl))

theorem State.imemCodes_frame (s : State) (ls : List (Nat × Nat)) : ∃ i, s.imemCodes ls = s.withInteg i := by
  unfold State.imemCodes
  split
  · exact ⟨s.integ, rfl⟩
  · exact ⟨_, rfl⟩

/-- The places and bytes of a write to instruction memory. -/
def State.imemPuts (s : State) (f a : Nat) (bs : List Byte) : List ((Nat × Nat) × Byte) :=
  ((List.range bs.length).map (fun i => (s.imemLoc f (a + i)).map (fun l => (l, bs.getD i 0)))).filterMap id

/-- Those of them that change a byte. -/
def State.imemChanges (s : State) (f a : Nat) (bs : List Byte) : List ((Nat × Nat) × Byte) :=
  (s.imemPuts f a bs).filter (fun l => mget (s.cluster l.1.1).imem l.1.2 != l.2)

theorem State.mem_imemPuts {s : State} {f a : Nat} {bs : List Byte} {l : (Nat × Nat) × Byte} :
    l ∈ s.imemPuts f a bs ↔ ∃ i, i < bs.length ∧ s.imemLoc f (a + i) = some l.1 ∧ l.2 = bs.getD i 0 := by
  obtain ⟨q, b⟩ := l
  simp only [State.imemPuts, List.mem_filterMap, List.mem_map, List.mem_range, id]
  constructor
  · rintro ⟨_, ⟨i, hi, rfl⟩, h⟩
    obtain ⟨q', hq, e⟩ := Option.map_eq_some_iff.mp h
    cases e
    exact ⟨i, hi, hq, rfl⟩
  · rintro ⟨i, hi, hq, rfl⟩
    exact ⟨_, ⟨i, hi, rfl⟩, by rw [hq]; rfl⟩

theorem State.imemPuts_byte {s : State} {f a : Nat} {bs : List Byte} {i : Nat} {q : Nat × Nat}
    (hq : s.imemLoc f (a + i) = some q) : ∀ l ∈ s.imemPuts f a bs, l.1 = q → l.2 = bs.getD i 0 := by
  intro l hl e
  obtain ⟨j, -, hj, hb⟩ := State.mem_imemPuts.mp hl
  have : a + j = a + i := State.imemLoc_inj hj (e ▸ hq)
  rw [hb, show j = i by omega]

theorem State.imemPuts_granted {s : State} {f a : Nat} {bs : List Byte} (l) (h : l ∈ s.imemPuts f a bs) :
    l.1.1 < 32 ∧ (s.tmpl (f - 1)).hasCluster l.1.1 = true := by
  obtain ⟨i, -, hi, -⟩ := State.mem_imemPuts.mp h
  exact State.imemLoc_granted hi

theorem any_isNone_map {α : Type} {n : Nat} {f : Nat → Option α} :
    ((List.range n).map f).any (·.isNone) = true ↔ ∃ i, i < n ∧ f i = none := by
  simp [List.any_eq_true]

theorem not_any_isNone_map {α : Type} {n : Nat} {f : Nat → Option α} (h : ∀ i, i < n → (f i).isSome) :
    ((List.range n).map f).any (·.isNone) = false := by
  rw [Bool.eq_false_iff, Ne, any_isNone_map]
  rintro ⟨i, hi, e⟩
  simpa [e] using h i hi

theorem State.imemRead_refused {s : State} {f a n : Nat} (h : ∃ i, i < n ∧ s.imemLoc f (a + i) = none) :
    s.imemRead f a n = (s.complete (List.replicate n 0xFF) false).apRecord (fltXlate, some (f - 1)) a := by
  unfold State.imemRead
  exact if_pos (any_isNone_map.mpr h)

theorem State.imemRead_granted {s : State} {f a n : Nat} (h : ∀ i, i < n → (s.imemLoc f (a + i)).isSome)
    (ht : s.tripped = false) : s.imemRead f a n = s.complete (((List.range n).map (fun i => s.imemLoc f (a + i))).filterMap
      (fun l => l.map (fun l => mget (s.cluster l.1).imem l.2))) false := by
  simp only [State.imemRead, not_any_isNone_map h, ht, Bool.false_eq_true, if_false]

theorem State.imemWrite_refused {s : State} {f a : Nat} {bs : List Byte}
    (h : ∃ i, i < bs.length ∧ s.imemLoc f (a + i) = none) :
    s.imemWrite f a bs = s.apRecord (fltXlate, some (f - 1)) a := by
  obtain ⟨i, hi, e⟩ := h
  unfold State.imemWrite
  exact if_pos (any_isNone_map.mpr ⟨i, hi, by rw [e]; rfl⟩)

theorem State.imemWrite_granted {s : State} {f a : Nat} {bs : List Byte}
    (h : ∀ i, i < bs.length → (s.imemLoc f (a + i)).isSome) :
    s.imemWrite f a bs = if s.tripped then s
      else if (s.imemChanges f a bs).any (fun l => (s.liveKernels (f - 1) l.1.1).any (fun k => (s.cluster l.1.1).kernelByte k l.1.2))
      then (((s.imemChanges f a bs).foldl State.putImem s).imemCodes ((s.imemPuts f a bs).map (·.1))).unpredictable (f - 1)
      else ((s.imemChanges f a bs).foldl State.putImem s).imemCodes ((s.imemPuts f a bs).map (·.1)) := by
  have hn := not_any_isNone_map (f := fun i => (s.imemLoc f (a + i)).map (fun l => (l, bs.getD i 0)))
    (fun i hi => by simpa using h i hi)
  unfold State.imemWrite
  exact if_neg (by rw [hn]; exact Bool.false_ne_true)

/-- A write to instruction memory keeps the slots and every cluster of other partitions, a host error included. -/
theorem State.imemWrite_keeps {s : State} {f a : Nat} {bs : List Byte}
    (h : ∀ i, i < bs.length → (s.imemLoc f (a + i)).isSome) :
    (∀ c, (s.tmpl (f - 1)).hasCluster c = false → (s.imemWrite f a bs).cluster c = s.cluster c)
      ∧ (s.imemWrite f a bs).parts = s.parts := by
  have put : StaysWithin s ((s.imemChanges f a bs).foldl State.putImem s) (f - 1) :=
    State.putImems_staysWithin fun l hl => (State.imemPuts_granted l (List.mem_of_mem_filter hl)).2
  obtain ⟨x, hx⟩ := State.putImems_frame (s.imemChanges f a bs) s
  rw [State.imemWrite_granted h]
  rw [hx] at put ⊢
  obtain ⟨i, hi⟩ := (s.withClusters x).imemCodes_frame ((s.imemPuts f a bs).map (·.1))
  rw [hi]
  split
  · exact ⟨fun _ _ => rfl, rfl⟩
  · split
    · refine ⟨fun c hc => ?_, State.unpredictable_parts ..⟩
      exact ((StaysWithin.unpredictable ((s.withClusters x).withInteg i) (f - 1)).cluster c hc).trans (put.cluster c hc)
    · exact ⟨put.cluster, rfl⟩

/-- A write that changes nothing a valid slot may run puts its bytes. -/
theorem State.imemWrite_puts {s : State} {f a : Nat} {bs : List Byte}
    (h : ∀ i, i < bs.length → (s.imemLoc f (a + i)).isSome) (hk : ∀ c, c < 32 → s.liveKernels (f - 1) c = [])
    (ht : s.tripped = false) : s.imemWrite f a bs
      = ((s.imemChanges f a bs).foldl State.putImem s).imemCodes ((s.imemPuts f a bs).map (·.1)) := by
  rw [State.imemWrite_granted h, if_neg (by simp [ht]), if_neg]
  rw [List.any_eq_true]
  rintro ⟨l, hl, e⟩
  rw [hk _ (State.imemPuts_granted l (List.mem_of_mem_filter hl)).1] at e
  cases e

theorem State.imemWrite_bytes {s : State} {f a : Nat} {bs : List Byte}
    (h : ∀ i, i < bs.length → (s.imemLoc f (a + i)).isSome) (hk : ∀ c, c < 32 → s.liveKernels (f - 1) c = [])
    (ht : s.tripped = false) :
    (∀ i c o, i < bs.length → s.imemLoc f (a + i) = some (c, o) →
        mget ((s.imemWrite f a bs).cluster c).imem o = bs.getD i 0)
      ∧ (∀ c o, (∀ i, i < bs.length → s.imemLoc f (a + i) ≠ some (c, o)) →
        mget ((s.imemWrite f a bs).cluster c).imem o = mget (s.cluster c).imem o)
      ∧ s.imemWrite f a bs = (s.withClusters (s.imemWrite f a bs).clusters).withInteg (s.imemWrite f a bs).integ := by
  have cluster : ∀ (t : State) ls c, (t.imemCodes ls).cluster c = t.cluster c := by
    intro t ls c
    obtain ⟨i, e⟩ := t.imemCodes_frame ls
    rw [e]; rfl
  rw [State.imemWrite_puts h hk ht]
  refine ⟨fun i c o hi hl => ?_, fun c o hl => ?_, ?_⟩
  · have put : ∀ l ∈ s.imemChanges f a bs, l.1 = (c, o) → l.2 = bs.getD i 0 :=
      fun l hm => State.imemPuts_byte hl l (List.mem_of_mem_filter hm)
    rw [cluster, State.putImems_imem put]
    split
    · rfl
    · next hno =>
      by_contra hne
      exact hno ⟨((c, o), bs.getD i 0), List.mem_filter.mpr ⟨State.mem_imemPuts.mpr ⟨i, hi, hl, rfl⟩, by simpa using hne⟩, rfl⟩
  · have none : ∀ l ∈ s.imemChanges f a bs, l.1 ≠ (c, o) := by
      intro l hm e
      obtain ⟨i, hi, hq, -⟩ := State.mem_imemPuts.mp (List.mem_of_mem_filter hm)
      exact hl i hi (e ▸ hq)
    rw [cluster, State.putImems_imem (b := 0) fun l hm e => absurd e (none l hm), if_neg fun ⟨l, hm, e⟩ => none l hm e]
  · obtain ⟨x, hx⟩ := State.putImems_frame (s.imemChanges f a bs) s
    rw [hx]
    obtain ⟨i, hi⟩ := (s.withClusters x).imemCodes_frame ((s.imemPuts f a bs).map (·.1))
    rw [hi]
    rfl

end Sys2Proof.Machine

end

section

namespace Sys2Proof.Machine

/-! ### HOST_READ and HOST_WRITE -/

section Reads

variable {s : State} {f : FnId} {a n : Nat}

theorem State.hostRead_down (imem : Bool) (h : s.host.up = false ∨ s.power.input = false) :
    s.hostRead f.val imem a n = s := by
  rcases h with h | h <;> simp [State.hostRead, h]

theorem State.hostRead_early (hu : s.host.up = true) (hp : s.power.input = true) (h : s.ready = false) :
    s.hostRead f.val false a n = s.complete (List.replicate n 0xFF) false := by
  simp [State.hostRead, hu, hp, h]

theorem State.hostRead_zeros {imem : Bool} (hu : s.host.up = true) (hp : s.power.input = true) (hr : imem = true ∨ s.ready = true)
    (h : s.fnValid f.val = false ∨ (imem = true ∧ f.val = 0)) :
    s.hostRead f.val imem a n = s.complete (List.replicate n 0) false := by
  have late : (!imem && !s.ready) = false := by rcases hr with h | h <;> simp [h]
  have zero : (!s.fnValid f.val || (imem && f.val == 0)) = true := by rcases h with h | ⟨h, h'⟩ <;> simp [*]
  simp only [State.hostRead, hu, hp, late, zero, Bool.not_true, Bool.or_self, Bool.false_eq_true, if_false, if_true]

theorem State.hostRead_ap (hu : s.host.up = true) (hp : s.power.input = true) (hv : s.fnValid f.val = true) (hr : s.ready = true) :
    s.hostRead f.val false a n = s.apRead f.val a n := by
  simp [State.hostRead, hu, hp, hv, hr]

theorem State.hostRead_imem (hu : s.host.up = true) (hp : s.power.input = true) (hv : s.fnValid f.val = true) (hf : f.val ≠ 0)
    (hb : s.barOpen = true) : s.hostRead f.val true a n = s.imemRead f.val a n := by
  have zero : (f.val == 0) = false := beq_false_of_ne hf
  simp [State.hostRead, hu, hp, hv, zero, hb]

end Reads

section Writes

variable {s : State} {f : FnId} {a : Nat} {bs : List Byte}

theorem State.hostWrite_down (imem : Bool) (h : s.host.up = false ∨ s.power.input = false ∨ s.fnValid f.val = false) :
    s.hostWrite f.val imem a bs = s := by
  rcases h with h | h | h <;> simp [State.hostWrite, h]

theorem State.hostWrite_early (h : s.ready = false) : s.hostWrite f.val false a bs = s := by
  simp [State.hostWrite, h]

theorem State.hostWrite_ap (hu : s.host.up = true) (hp : s.power.input = true) (hv : s.fnValid f.val = true)
    (hr : s.ready = true) : s.hostWrite f.val false a bs = s.apWrite f.val a bs := by
  simp [State.hostWrite, hu, hp, hv, hr]

theorem State.hostWrite_imem (hu : s.host.up = true) (hp : s.power.input = true) (hv : s.fnValid f.val = true) (hf : f.val ≠ 0)
    (hb : s.barOpen = true) : s.hostWrite f.val true a bs = s.imemWrite f.val a bs := by
  have zero : (f.val == 0) = false := beq_false_of_ne hf
  simp [State.hostWrite, hu, hp, hv, zero, hb]

end Writes

/-- A refused read answers ones, and leaves a record where a partition is meant (R376). -/
theorem State.apRead_refused {s : State} {f : FnId} {a n : Nat} {x : Nat × Option Nat}
    (h : s.apFault f.val ((List.range n).map (fun i => s.apLoc f.val (a + i))) = some x) :
    (s.apRead f.val a n).host.bytes = List.replicate n 0xFF ∧ (s.apRead f.val a n).host.ep = false
      ∧ onlyRecords s (s.apRead f.val a n) (List.range 17)
      ∧ (x.2 = none → (s.apRead f.val a n).regs = s.regs ∧ (s.apRead f.val a n).hostMem = s.hostMem) := by
  rw [State.apRead_fault h]
  obtain ⟨hb, he⟩ := (s.complete (List.replicate n 0xFF) false).apRecord_answer x a
  refine ⟨hb, he, (State.apRecord_onlyRecords a (State.apFault_part h)).of_complete, fun hx => ?_⟩
  simp only [State.apRecord, hx]
  exact ⟨rfl, rfl⟩

/-- The record of a refused access of instruction memory goes to the ring of the function's own partition. -/
theorem State.imemRecord_onlyRecords (s : State) (f : FnId) (a : Nat) :
    onlyRecords s (s.apRecord (fltXlate, some (f.val - 1)) a) (List.range 17) :=
  State.apRecord_onlyRecords a fun p hp => by
    have := f.isLt
    cases hp; omega

/-- A write that nothing hampers. -/
theorem State.writeDone_stores {s : State} (h : s.plainWrites) {f : Nat} (hf : f ≠ 0) {ls : List (Space × Nat)}
    (hs : s.stepsUsing ls = []) (bs : List Byte) :
    (∀ sp b, (s.writeDone f ls bs).byteAt sp b = storedByte (hostPuts ls bs) sp b (s.byteAt sp b))
      ∧ (∀ k, (∀ j, j < 8 → k ≠ rTrcPcnt j) → (s.writeDone f ls bs).reg k = s.reg k)
      ∧ (s.writeDone f ls bs).reqs = s.reqs ∧ (s.writeDone f ls bs).scus = s.scus
      ∧ (s.writeDone f ls bs).hostMem = s.hostMem ∧ (s.writeDone f ls bs).mirror = s.mirror := by
  have counted := s.countLines_countsOnly none ls
  rw [State.writeDone_plain h hf hs]
  refine ⟨fun sp b => by rw [State.byteAt_putBytes, counted.byteAt], ?_⟩
  obtain ⟨c, m, k, e⟩ := State.putBytes_frame (hostPuts ls bs) (s.countLines none ls)
  rw [e]
  refine ⟨counted.reg, ?_⟩
  rw [counted.regs]
  exact ⟨rfl, rfl, rfl, rfl⟩

/-- A write of BAR2 that translates, carried out or waiting, keeps the slots, and the tiles and counters of the clusters
of every partition but the function's own and those whose step it disturbs. -/
theorem State.apWrite_keeps {s : State} {f : Nat} (hf : f ≠ 0) {a : Nat} {bs : List Byte} {at_ : List (Space × Nat)}
    (h : s.apFault f ((List.range bs.length).map (fun i => s.apLoc f (a + i))) = none)
    (hat : at_ = ((List.range bs.length).map (fun i => s.apLoc f (a + i))).filterMap id) :
    (s.apWrite f a bs).parts = s.parts ∧ ∀ c, s.ownedBy (s.stepsUsing at_) c = false →
      ((s.apWrite f a bs).cluster c).tiles = (s.cluster c).tiles
        ∧ ((s.apWrite f a bs).cluster c).sycs = (s.cluster c).sycs := by
  rw [State.apWrite_ok h hat]
  obtain ⟨m, e⟩ := s.forwardWrite_frame at_ bs
  rw [e]
  split
  · exact (s.withMirror m).writeDone_keeps hf at_ bs
  · exact ⟨rfl, fun _ _ => ⟨rfl, rfl⟩⟩

/-- Settles O41: reads and writes of the host port, case by case as `hostRead` and `hostWrite` take them; what a write
leaves alone comes from `KeepsWork`, and what a host error leaves alone from `StaysWithin`. -/
theorem hostAccessesMemory : Obligations.HostAccessesMemory := by
  unfold Obligations.HostAccessesMemory
  refine ⟨fun f imem a n s => ?_, fun f imem a bs s => ?_⟩
  · intro ls at_
    simp only [exec_hostRead]
    refine ⟨fun h => by rw [State.hostRead_down imem h], fun hu hp => ⟨fun h => by rw [State.hostRead_early hu hp h],
      fun hr h => by rw [State.hostRead_zeros hu hp hr h], fun hv hr => ?_, fun hv hf hb => ?_⟩⟩
    · rw [State.hostRead_ap hu hp hv hr]
      refine ⟨fun hpl h hm => ?_, fun h hm => ?_, fun x h => ⟨_, rfl, State.apRead_refused h⟩⟩
      · rw [State.apRead_ok h, if_pos hm, State.readDone_plain hpl]
      · rw [State.apRead_ok h, if_neg (by rw [hm]; exact Bool.false_ne_true), State.hostWait]
    · rw [State.hostRead_imem hu hp hv hf hb]
      refine ⟨fun h ht => by rw [State.imemRead_granted h ht], fun h => ⟨_, rfl, ?_⟩⟩
      rw [State.imemRead_refused h]
      exact ⟨(State.apRecord_answer ..).1, (State.imemRecord_onlyRecords _ f a).of_complete⟩
  · intro ls at_
    simp only [exec_hostWrite]
    refine ⟨fun h => by rw [State.hostWrite_down imem h], fun h => by rw [State.hostWrite_early h],
      fun hu hp hv hf => ⟨fun hr h hrole hm hpl hst => ⟨_, rfl, ?_⟩, fun hr h hrole hm => ?_, fun hr h => ⟨_, rfl, ?_⟩,
        fun x hr h => ⟨_, rfl, ?_⟩, fun hb => ?_⟩⟩
    · rw [State.hostWrite_ap hu hp hv hr, State.apWrite_ok h rfl, State.forwardWrite_of_role hrole, if_pos hm]
      exact State.writeDone_stores hpl hf hst bs
    · rw [State.hostWrite_ap hu hp hv hr, State.apWrite_ok h rfl, State.forwardWrite_of_role hrole,
        if_neg (by rw [hm]; exact Bool.false_ne_true), State.hostWait]
    · rw [State.hostWrite_ap hu hp hv hr]
      obtain ⟨hparts, hcl⟩ := State.apWrite_keeps hf h rfl
      exact ⟨hparts, fun c hc => hcl c (State.ownedBy_cons hc)⟩
    · rw [State.hostWrite_ap hu hp hv hr, State.apWrite_fault h]
      exact State.apRecord_onlyRecords a (State.apFault_part h)
    · rw [State.hostWrite_imem hu hp hv hf hb]
      refine ⟨fun h => ⟨_, rfl, ?_⟩, fun h => ⟨fun hk ht => ⟨_, rfl, State.imemWrite_bytes h hk ht⟩,
        ⟨_, rfl, State.imemWrite_keeps h⟩⟩⟩
      rw [State.imemWrite_refused h]
      exact s.imemRecord_onlyRecords f a

end Sys2Proof.Machine

end

section

namespace Sys2Proof.Machine

/-! ### What an MV issue leaves alone beside its own cluster -/

/-- Clusters that partition p does not hold are as they were, and on the others the stream and the number of the next MV
instruction. -/
structure MoverSide (s t : State) (p : Nat) : Prop where
  tmpl : t.tmpl p = s.tmpl p
  others : ∀ c, (s.tmpl p).hasCluster c = false → t.cluster c = s.cluster c
  seq : ∀ c, (t.cluster c).mvSeq = (s.cluster c).mvSeq
  streams : ∀ c, (t.cluster c).streams = (s.cluster c).streams

theorem MoverSide.of_eq {s t : State} (p : Nat) (hc : t.clusters = s.clusters) (ht : t.tmpl p = s.tmpl p) :
    MoverSide s t p := by
  have e : ∀ c, t.cluster c = s.cluster c := fun c => by rw [State.cluster, hc]; rfl
  exact ⟨ht, fun c _ => e c, fun c => by rw [e], fun c => by rw [e]⟩

theorem MoverSide.refl (s : State) (p : Nat) : MoverSide s s p := .of_eq p rfl rfl

theorem MoverSide.trans {s t u : State} {p : Nat} (h : MoverSide s t p) (h' : MoverSide t u p) : MoverSide s u p where
  tmpl := h'.tmpl.trans h.tmpl
  others c hc := (h'.others c (h.tmpl ▸ hc)).trans (h.others c hc)
  seq c := (h'.seq c).trans (h.seq c)
  streams c := (h'.streams c).trans (h.streams c)

theorem LeavesClusters.moverSide {s t : State} (h : LeavesClusters s t) (p : Nat) : MoverSide s t p :=
  .of_eq p h.clusters (by rw [State.tmpl, State.part, h.parts]; rfl)

theorem MoverSide.modCluster {s : State} {p c : Nat} {f : Cluster → Cluster} (hf : ∀ x, (f x).mvSeq = x.mvSeq ∧ (f x).streams = x.streams)
    (h : (s.tmpl p).hasCluster c = true) : MoverSide s (s.modCluster c f) p where
  tmpl := rfl
  others := (StaysWithin.modCluster f h).cluster
  seq j := by rw [State.cluster_modCluster]; split <;> simp [*]
  streams j := by rw [State.cluster_modCluster]; split <;> simp [*]

theorem MoverSide.withMem_xl {s : State} {p sp c a x : Nat} {sp' : Space} (m : Mem) (h : s.xl p sp c a = some (sp', x)) :
    MoverSide s (s.withMem sp' m) p := by
  cases sp' with
  | stack => exact .of_eq p rfl rfl
  | case => exact .of_eq p rfl rfl
  | store c' => exact .modCluster (f := fun x => { x with store := m }) (fun _ => ⟨rfl, rfl⟩) (State.xl_store h)

theorem MoverSide.spoil (s : State) (p n k : Nat) : MoverSide s (s.spoil p n k) p := by
  have own : ∀ (c : Nat) (f : Cluster → Cluster), (∀ x, (f x).mvSeq = x.mvSeq ∧ (f x).streams = x.streams) →
      MoverSide s (if (s.tmpl p).hasCluster c = true then s.modCluster c f else s) p := by
    intro c f hf
    split
    · next h => exact .modCluster hf h
    · exact .refl s p
  unfold State.spoil
  dsimp only
  split
  · split
    · next h => exact .withMem_xl _ h
    · exact .refl s p
  · exact own _ _ fun _ => ⟨rfl, rfl⟩
  · exact own _ _ fun _ => ⟨rfl, rfl⟩
  · exact own _ _ fun _ => ⟨rfl, rfl⟩
  · exact own _ _ fun _ => ⟨rfl, rfl⟩
  · split
    · obtain ⟨x, e⟩ := s.setFlag_frame _ _ _ _
      rw [e]; exact .of_eq p rfl rfl
    · exact .refl s p
  · split
    · exact .refl s p
    · exact .of_eq p rfl rfl
  · exact .of_eq p rfl rfl
  · exact .of_eq p rfl rfl
  · exact .of_eq p rfl rfl
  · unfold State.spoilRing
    dsimp only
    split <;> exact .of_eq p rfl rfl

theorem MoverSide.unpredictable (s : State) (p : Nat) : MoverSide s (s.unpredictable p) p :=
  foldl_keeps (fun t => MoverSide s t p) _ (fun t k h => h.trans (.spoil t p s.free (k + 1))) _ _ (.of_eq p rfl rfl)

theorem MoverSide.modSlot (s : State) (p q n : Nat) (f : SlotRun → SlotRun) : MoverSide s (s.modSlot q n f) p := by
  unfold State.modSlot
  split
  · refine .of_eq p rfl ?_
    simp only [State.tmpl, State.setSlot, State.part_modPart]
    split
    · next h => rw [h]
    · rfl
  · exact .refl s p

theorem LeavesClusters.readBytes (s : State) (ls : List (Space × Nat)) : LeavesClusters s (s.readBytes ls).2.2 := by
  unfold State.readBytes
  dsimp only
  split
  · exact ⟨rfl, rfl⟩
  · split
    · exact .refl s
    · exact .foldl _ (fun s f => .noteCheck ..) _ _

theorem MoverSide.stepPoison (s : State) (p : Nat) (run : Option (Nat × Nat)) (b : Bool) :
    MoverSide s (s.stepPoison run b) p := by
  unfold State.stepPoison
  split
  · split
    · exact .modSlot ..
    · exact .refl s p
  · exact .refl s p

theorem Cluster.cacheUse_keeps (x : Cluster) (sp : Space) (l : Nat) :
    (x.cacheUse sp l).mvSeq = x.mvSeq ∧ (x.cacheUse sp l).streams = x.streams := by
  unfold Cluster.cacheUse
  split <;> exact ⟨rfl, rfl⟩

/-- What an issue leaves besides its operation. -/
theorem MoverSide.mvIssueSide {s : State} {p c : Nat} (h : (s.tmpl p).hasCluster c = true) (opc : Nat) (w : IWord) (o : MvOp)
    (f : Option Forme) (l : Option NbList) (m : Option ImpOp) : MoverSide s (s.mvIssueSide c opc w o f l m) p := by
  unfold State.mvIssueSide
  extract_lets fdef read hits listed shared
  have own : ∀ {t : State} {g : Cluster → Cluster}, MoverSide s t p → (∀ x, (g x).mvSeq = x.mvSeq ∧ (g x).streams = x.streams) →
      MoverSide s (t.modCluster c g) p := fun ht hg => ht.trans (.modCluster hg (ht.tmpl ▸ h))
  have h1 : MoverSide s fdef p := by
    dsimp only [fdef]
    split
    · exact own (.refl s p) fun _ => ⟨rfl, rfl⟩
    · exact .refl s p
  have h2 : MoverSide s read p := by
    dsimp only [read]
    split
    · exact h1.trans (((LeavesClusters.readBytes ..).moverSide p).trans (.stepPoison ..))
    · exact h1
  have h3 : MoverSide s hits p :=
    foldl_keeps (fun t => MoverSide s t p) _ (fun t k ht => own ht fun x => x.cacheUse_keeps k.1 k.2) _ _ h2
  have h4 : MoverSide s listed p := by
    dsimp only [listed]
    split
    · exact h3.trans (.of_eq p rfl rfl)
    · exact h3
  have h5 : MoverSide s shared p := by
    dsimp only [shared]
    split
    · exact own h4 fun _ => ⟨rfl, rfl⟩
    · exact h4
  split
  · exact own h5 fun _ => ⟨rfl, rfl⟩
  · exact h5

end Sys2Proof.Machine

end

section

namespace Sys2Proof.Machine

/-! ### The gate and the place of an MV instruction -/

theorem State.settleFrom_idle {s : State} {c : Nat} (hf : (s.cluster c).flight = []) (hm : (s.cluster c).mvDue = none)
    (base : Nat) : s.settleFrom c base = s := by
  simp [State.settleFrom, hf, hm]

theorem State.endWait_of_none {s : State} {c e : Nat} (h : (s.stream c e).held = none) (w : IWord) (base : Nat) :
    s.endWait c e w base = s := by
  simp only [State.endWait, h]

/-- Where nothing is due and nothing waits, an instruction that may issue passes its gate at once. -/
theorem State.gate_go {s : State} {c e : Nat} {w : IWord} (h : s.mayIssue c e w) (hf : (s.cluster c).flight = [])
    (hm : (s.cluster c).mvDue = none) : s.gate c e w = .go s := by
  obtain ⟨hclock, hlive, hrun, hnext, hfree, hacq, hheld, h0, h1, hacquires⟩ := h
  have go : s.gateAt c e (s.cluster c).cyc w = .go s := by
    simp [State.gateAt, State.settleFrom_idle hf hm, hclock, hlive, hrun, hnext, hfree, hacq, h0, h1,
      State.endWait_of_none hheld, hacquires]
  simp only [State.gate, go]

/-- Every instruction of the MV stream is one attempt of that stream. -/
theorem exec_mv {i : Instr} {c opc : Nat} {w : IWord} (h : issueOf i = some (c, engMv, opc, w)) (s : State) :
    exec i s = .next (s.issueMv c opc w) := by
  have me : ∀ m : MeId, m.val ≠ engMv := by decide
  have any : ∀ (e : EngId) (c opc : Nat) (w : IWord), e.val = engMv →
      (Host.Outcome.next (s.issueAny c e.val opc w) : Host.Outcome State Fault Refusal) = .next (s.issueMv c opc w) :=
    fun _ _ _ _ he => congrArg Host.Outcome.next (if_pos he)
  have ve : engVe ≠ engMv := by decide
  have ru : engRu ≠ engMv := by decide
  -- the engines other than MV drop out
  cases i <;> simp only [issueOf, me, ve, ru, Option.some.injEq, Prod.mk.injEq, reduceCtorEq, false_and, and_false] at h
  case nop => obtain ⟨rfl, he, rfl, rfl⟩ := h; exact any _ _ _ _ he
  case endStream => obtain ⟨rfl, he, rfl, rfl⟩ := h; exact any _ _ _ _ he
  case loop => obtain ⟨rfl, he, rfl, rfl⟩ := h; exact any _ _ _ _ he
  all_goals
    obtain ⟨rfl, -, rfl, rfl⟩ := h
    rfl

/-! ### Pushing an operation -/

/-- A record finds the same ring whatever the clusters hold. -/
theorem State.postAt_withClusters (s : State) (x : SMap Cluster) (f : Nat) (w0 : W64) (t : Nat) (w2 : W64) (st : Nat) :
    (s.withClusters x).postAt f w0 t w2 st = (s.postAt f w0 t w2 st).withClusters x := by
  by_cases h : s.ringShut f
  · rw [State.postAt, State.postAt, State.ringPut_shut _ h, State.ringPut_shut (s := s.withClusters x) _ h]
    rfl
  · rw [State.postAt, State.postAt, State.ringPut_open _ h, State.ringPut_open (s := s.withClusters x) _ h]
    dsimp only
    split
    · next e => rw [if_pos (by exact e)]; rfl
    · next e => rw [if_neg (by exact e)]; rfl

/-- The fault record of a cluster that runs a step is the same whatever else the cluster holds. -/
theorem State.postFault_withClusters {s : State} {x : SMap Cluster} {c p n : Nat} (h : s.runOf c = some (p, n))
    (h' : (s.withClusters x).runOf c = some (p, n)) (e i t k : Nat) :
    (s.withClusters x).postFault c e i t k = (s.postFault c e i t k).withClusters x := by
  simp only [State.postFault, h, h', State.postAt_withClusters]
  rfl

theorem State.control_plain {opc : Nat} (h1 : opc ≠ opcEnd) (h2 : opc ≠ opcLoop) (s : State) (c e : Nat) (w : IWord) (n : Nat) :
    s.control c e opc w n
      = s.advance c e ((s.stream c e).goOn ((s.stream c e).pc + 1) (s.stream c e).loops ((s.cluster c).cyc + n)) := by
  simp only [State.control, h1, h2, if_false]

/-- A cluster with one operation more in its MV list. -/
def Cluster.pushMv (x : Cluster) (o : MvOp) : Cluster := { x with mv := x.mv ++ [o], mvSeq := x.mvSeq + 1 }

/-- What pushing an operation does to its cluster, and that it changes no other. -/
structure Pushed (s t : State) (c : Nat) (o : MvOp) : Prop where
  mv : (t.cluster c).mv = (s.cluster c).mv ++ [o]
  seq : (t.cluster c).mvSeq = (s.cluster c).mvSeq + 1
  tiles : (t.cluster c).tiles = (s.cluster c).tiles
  store : (t.cluster c).store = (s.cluster c).store
  pc : (t.stream c engMv).pc = (nextIndex ((s.stream c engMv).pc + 1) (s.stream c engMv).loops).1
  others : otherClusters s t c

theorem Pushed.advance {s u : State} {c : Nat} {o : MvOp} {n : Nat}
    (hu : ∀ j, u.cluster j = if j = c then (s.cluster c).pushMv o else s.cluster j) :
    Pushed s (u.advance c engMv ((u.stream c engMv).goOn ((u.stream c engMv).pc + 1) (u.stream c engMv).loops n)) c o := by
  have own : u.cluster c = (s.cluster c).pushMv o := by rw [hu, if_pos rfl]
  have st : u.stream c engMv = s.stream c engMv := by simp only [State.stream, own]; rfl
  have cl : ∀ x j, (u.advance c engMv x).cluster j
      = if j = c then { u.cluster c with streams := sset {} (u.cluster c).streams engMv ((u.cluster c).fetch x) }
        else u.cluster j := fun x j => State.cluster_modCluster ..
  rw [st]
  refine ⟨?_, ?_, ?_, ?_, ?_, fun j hj => ?_⟩
  · rw [cl, if_pos rfl, own]; rfl
  · rw [cl, if_pos rfl, own]; rfl
  · rw [cl, if_pos rfl, own]; rfl
  · rw [cl, if_pos rfl, own]; rfl
  · rw [State.stream, cl, if_pos rfl]; simp only [sget_sset_same]; rfl
  · rw [cl, if_neg hj, hu, if_neg hj]

theorem State.mvPush_pushed {opc : Nat} (h1 : opc ≠ opcEnd) (h2 : opc ≠ opcLoop) (s : State) (c : Nat) (w : IWord) (o : MvOp)
    (fault : Option Nat) : Pushed s (s.mvPush c opc w o fault) c o := by
  have pushed : ∀ j, (s.modCluster c (Cluster.pushMv · o)).cluster j
      = if j = c then (s.cluster c).pushMv o else s.cluster j := fun j => State.cluster_modCluster ..
  unfold State.mvPush
  cases fault with
  | none => rw [State.control_plain h1 h2]; exact .advance pushed
  | some k =>
    rw [State.control_plain h1 h2]
    refine .advance fun j => ?_
    obtain ⟨r, m, x, e, -⟩ := (s.modCluster c (Cluster.pushMv · o)).postFault_frame c engMv o.idx o.issueNs k
    rw [← pushed j]
    exact congrArg (fun t => t.cluster j) e

/-- With its record, the push of a faulting operation changes beside the clusters what the record alone changes. -/
theorem State.mvPush_record {opc : Nat} (h1 : opc ≠ opcEnd) (h2 : opc ≠ opcLoop) {s : State} {c p n : Nat}
    (h : s.runOf c = some (p, n)) (w : IWord) (o : MvOp) (k : Nat) :
    ∃ x, s.mvPush c opc w o (some k) = (s.postFault c engMv o.idx o.issueNs k).withClusters x := by
  have hrun : (s.modCluster c (Cluster.pushMv · o)).runOf c = some (p, n) := by
    rw [State.runOf, State.cluster_modCluster, if_pos rfl]; exact h
  have record := State.postFault_withClusters (x := (s.modCluster c (Cluster.pushMv · o)).clusters) h hrun engMv o.idx o.issueNs k
  unfold State.mvPush
  rw [State.control_plain h1 h2]
  dsimp only
  rw [show (s.modCluster c fun x => { x with mv := x.mv ++ [o], mvSeq := x.mvSeq + 1 })
    = s.withClusters (s.modCluster c (Cluster.pushMv · o)).clusters from rfl, record]
  exact ⟨_, rfl⟩

end Sys2Proof.Machine

end

section

namespace Sys2Proof.Machine

/-! ### Checks of MV instructions at issue (Table 4.14) -/

section Plans

variable {s : State} {c p n : Nat} {w : IWord} {o : MvOp}

theorem State.planMv_fdef_unaligned (h : w.imm.toNat % 64 ≠ 0) (i : Nat) :
    s.planMv c p n 0x62 w o i = (.op o [fltAlign], none, none, none) := by
  have plan : s.planFdef c p w o = (.op o [fltAlign], none) := if_pos h
  simp only [State.planMv, plan]

/-- An aligned FDEF has the range of its descriptor, whatever it faults with. -/
theorem State.planMv_fdef_aligned (h : w.imm.toNat % 64 = 0) (i : Nat) : ∃ fs f,
    s.planMv c p n 0x62 w o i = (.op { o with ranges := [⟨false, w.imm.toNat % storeBytes, 64, false⟩] } fs, f, none, none) := by
  have plan : ∃ fs f, s.planFdef c p w o
      = (.op { o with ranges := [⟨false, w.imm.toNat % storeBytes, 64, false⟩] } fs, f) := by
    simp only [State.planFdef, h, ne_eq, not_true_eq_false, if_false]
    split
    · exact ⟨_, _, rfl⟩
    · exact ⟨_, _, rfl⟩
  obtain ⟨fs, f, plan⟩ := plan
  exact ⟨fs, f, by simp only [State.planMv, plan]⟩

theorem State.planMv_nbcmd {fs : List Nat} (h : s.planNbcmd c p w o = (.op o fs, none)) (i : Nat) :
    s.planMv c p n 0x66 w o i = (.op o fs, none, none, none) := by
  simp only [State.planMv, h]

theorem State.planNbcmd_unaligned (h : w.imm.toNat % 64 ≠ 0) : s.planNbcmd c p w o = (.op o [fltAlign], none) := if_pos h

theorem State.planNbcmd_ungranted (h : w.imm.toNat % 64 = 0)
    (hc : (s.tmpl p).chans.contains (16 * opnd w 19 17 + opnd w 16 13) = false) :
    s.planNbcmd c p w o = (.op o [fltBound], none) := by
  simp only [State.planNbcmd, h, hc, ne_eq, not_true_eq_false, Bool.not_false, if_false, if_true]

theorem State.planNbcmd_memoryMode (h : w.imm.toNat % 64 = 0)
    (hc : (s.tmpl p).chans.contains (16 * opnd w 19 17 + opnd w 16 13) = true)
    (hm : (s.chan (16 * opnd w 19 17 + opnd w 16 13)).state ≠ .processor) :
    s.planNbcmd c p w o = (.op o [fltChmode], none) := by
  simp only [State.planNbcmd, h, hc, hm, ne_eq, not_true_eq_false, not_false_eq_true, Bool.not_true, Bool.false_eq_true,
    if_false, if_true]

theorem State.planImp_unaligned (h : w.imm.toNat % 64 ≠ 0) {code : Nat} (hc : code < 8) : ∃ m,
    s.planImp c p n code w o = (.op { o with imp := some (opnd w 19 18) } [], some m)
      ∧ m.nop = true ∧ m.fault = some fltAlign ∧ m.ranges = [] := by
  simp only [State.planImp, Nat.not_le.mpr hc, ge_iff_le, if_false, h, ne_eq, not_false_eq_true, decide_true, Bool.true_or,
    if_true]
  exact ⟨_, rfl, rfl, rfl, rfl⟩

theorem State.planMv_flgclr_ungranted (h : s.flagGranted c (bf w.opnd 8 8) (opnd w 7 0) = false) (i : Nat) :
    s.planMv c p n 0x6C w o i = (.op o [fltBound], none, none, none) := by
  simp only [State.planMv, h, Bool.false_eq_true, if_false]

theorem State.planMv_flgclr_granted (h : s.flagGranted c (bf w.opnd 8 8) (opnd w 7 0) = true) (i : Nat) :
    s.planMv c p n 0x6C w o i = (.op { o with clearFlag := some (bf w.opnd 8 8, opnd w 7 0) } [], none, none, none) := by
  simp only [State.planMv, h, if_true]

theorem State.planMv_noForme (h : (s.cluster c).forme (opnd w 13 4) = none) (i : Nat) :
    s.planMv c p n 0x60 w o i = (.nop, none, none, none) ∧ s.planMv c p n 0x61 w o i = (.nop, none, none, none) := by
  constructor
  · have plan : s.planLoad c p i w o = .nop := by simp only [State.planLoad, h]
    simp only [State.planMv, plan]
  · simp only [State.planMv, h]

theorem State.planMv_common {opc : Nat} (h : opc = opcEnd ∨ opc = opcLoop) (i : Nat) :
    s.planMv c p n opc w o i = (.nop, none, none, none) := by
  rcases h with rfl | rfl <;> rfl

/-- A word that plans an operation is not END or LOOP. -/
theorem State.planMv_op {opc i : Nat} {o' : MvOp} {fs : List Nat} {x : Option Forme × Option NbList × Option ImpOp}
    (h : s.planMv c p n opc w o i = (.op o' fs, x)) : opc ≠ opcEnd ∧ opc ≠ opcLoop := by
  refine ⟨fun e => ?_, fun e => ?_⟩
  · rw [State.planMv_common (.inl e)] at h; cases h
  · rw [State.planMv_common (.inr e)] at h; cases h

end Plans

/-! ### Issue of a planned operation -/

section Issue

variable {s : State} {c p n opc : Nat} {w : IWord} {o : MvOp} {fs : List Nat} {f : Option Forme} {l : Option NbList}
  {m : Option ImpOp}

/-- The place that an operation takes once it is not lost: what its issue leaves, its record, and its push. -/
def State.mvPlace (s : State) (c opc : Nat) (w : IWord) (o : MvOp) (fs : List Nat) (f : Option Forme) (l : Option NbList)
    (m : Option ImpOp) : State :=
  let fault := firstFault (fs ++ (if s.flagFault c w then [fltBound] else []))
  let o' := if o.imp.isSome then { o with fault := fault } else o
  (s.mvIssueSide c opc w o f l m).mvPush c opc w o' (if o'.imp.isSome then none else fault)

/-- An operation that neither the tracker's limit nor its ranges hold, into a queue with room. -/
theorem State.issueTransfer_room (hrun : (s.cluster c).run = some (p, n))
    (hplan : s.planMv c p n opc w (s.mvOpOf c opc w) (s.stream c engMv).iter = (.op o fs, f, l, m))
    (ht : (s.cluster c).tracked.length < 32) (hheld : s.mvHeldBy c opc w o m = false) (hfull : s.mvFull c opc w = false)
    (hstale : s.mvStale c p opc w o = false) : s.issueTransfer c opc w = s.mvPlace c opc w o fs f l m := by
  unfold State.mvHeldBy at hheld
  unfold State.mvOpOf at hplan
  simp only [State.issueTransfer, hrun, Option.getD_some, hplan, hheld, hfull, hstale, Nat.not_le.mpr ht, decide_false,
    Bool.or_self, Bool.false_eq_true, if_false, State.mvPlace]

/-- Such an operation into a full queue or share: the partition's own data is free, and its place is taken or lost. -/
theorem State.issueTransfer_full (hrun : (s.cluster c).run = some (p, n))
    (hplan : s.planMv c p n opc w (s.mvOpOf c opc w) (s.stream c engMv).iter = (.op o fs, f, l, m))
    (ht : (s.cluster c).tracked.length < 32) (hheld : s.mvHeldBy c opc w o m = false) (hfull : s.mvFull c opc w = true) :
    ∃ t, MoverSide s t p ∧ (s.issueTransfer c opc w
        = t.mvPush c opc w { s.mvOpOf c opc w with done := true, due := (s.cluster c).cyc + 1 } none
      ∨ s.issueTransfer c opc w = t.mvPlace c opc w o fs f l m) := by
  have stale : ∀ u : State, MoverSide s u p → MoverSide s (if u.mvStale c p opc w o then u.unpredictable p else u) p := by
    intro u hu
    split
    · exact hu.trans (.unpredictable ..)
    · exact hu
  have spoilt : MoverSide s (s.unpredictable p).choose.2 p := (MoverSide.unpredictable s p).trans (.of_eq p rfl rfl)
  refine ⟨_, stale _ spoilt, ?_⟩
  unfold State.mvHeldBy at hheld
  unfold State.mvOpOf at hplan
  simp only [State.issueTransfer, hrun, Option.getD_some, hplan, hheld, hfull, Nat.not_le.mpr ht, decide_false,
    Bool.or_self, Bool.false_eq_true, if_false, if_true, State.mvPlace, State.mvOpOf]
  by_cases lost : (s.unpredictable p).choose.1 = true
  · exact .inl (if_pos lost)
  · exact .inr (if_neg lost)

theorem State.issueMv_go (h : s.mayIssue c engMv w) (hf : (s.cluster c).flight = []) (hm : (s.cluster c).mvDue = none) :
    s.issueMv c opc w = (s.issueTransfer c opc w).atCyc c (s.cluster c).cyc := by
  simp only [State.issueMv, State.gate_go h hf hm]

/-- Pushed onto a state that differs within the partition, an operation moves the stream of the first state on. -/
theorem MoverSide.pushed {s t u : State} {c p : Nat} {o : MvOp} (h : MoverSide s t p) (hg : (s.tmpl p).hasCluster c = true)
    (hp : Pushed t u c o) : (u.cluster c).mvSeq = (s.cluster c).mvSeq + 1
      ∧ (u.stream c engMv).pc = (nextIndex ((s.stream c engMv).pc + 1) (s.stream c engMv).loops).1
      ∧ ∀ j, (s.tmpl p).hasCluster j = false → u.cluster j = s.cluster j := by
  have st : t.stream c engMv = s.stream c engMv := by rw [State.stream, h.streams c]; rfl
  refine ⟨hp.seq.trans (by rw [h.seq c]), hp.pc.trans (by rw [st]), fun j hj => ?_⟩
  have hne : j ≠ c := by rintro rfl; simp [hg] at hj
  exact (hp.others j hne).trans (h.others j hj)

theorem State.mvPlace_pushed (h1 : opc ≠ opcEnd) (h2 : opc ≠ opcLoop) (s : State) (c : Nat) (w : IWord) (o : MvOp)
    (fs : List Nat) (f : Option Forme) (l : Option NbList) (m : Option ImpOp) :
    ∃ o', Pushed (s.mvIssueSide c opc w o f l m) (s.mvPlace c opc w o fs f l m) c o' :=
  ⟨_, State.mvPush_pushed h1 h2 ..⟩

/-- A transfer into a full queue or share takes or loses its place, and the stream goes on (R107). -/
theorem State.issueTransfer_full_goesOn (hrun : (s.cluster c).run = some (p, n)) (hg : (s.tmpl p).hasCluster c = true)
    (hplan : s.planMv c p n opc w (s.mvOpOf c opc w) (s.stream c engMv).iter = (.op o fs, f, l, m))
    (ht : (s.cluster c).tracked.length < 32) (hheld : s.mvHeldBy c opc w o m = false) (hfull : s.mvFull c opc w = true) :
    ((s.issueTransfer c opc w).cluster c).mvSeq = (s.cluster c).mvSeq + 1
      ∧ ((s.issueTransfer c opc w).stream c engMv).pc
        = (nextIndex ((s.stream c engMv).pc + 1) (s.stream c engMv).loops).1
      ∧ ∀ j, (s.tmpl p).hasCluster j = false → (s.issueTransfer c opc w).cluster j = s.cluster j := by
  obtain ⟨h1, h2⟩ := State.planMv_op hplan
  obtain ⟨t, side, e | e⟩ := State.issueTransfer_full hrun hplan ht hheld hfull
  · rw [e]
    exact side.pushed hg (State.mvPush_pushed h1 h2 ..)
  · obtain ⟨o', pushed⟩ := t.mvPlace_pushed h1 h2 c w o fs f l m
    rw [e]
    exact (side.trans (.mvIssueSide (side.tmpl ▸ hg) ..)).pushed hg pushed

end Issue

/-- Standing at another cycle, a cluster is otherwise as it was. -/
theorem State.atCyc_cluster (s : State) (c n j : Nat) :
    (s.atCyc c n).cluster j = if j = c then { s.cluster c with cyc := n } else s.cluster j := State.cluster_modCluster ..

end Sys2Proof.Machine

end

section

namespace Sys2Proof.Machine

/-! ### A faulting FDEF or NBCMD -/

/-- What a faulting issue changes before its push: on its own cluster alone, and there no operation, memory or step. -/
structure FaultSide (s t : State) (c : Nat) : Prop where
  clusters : t = s.withClusters t.clusters
  others : otherClusters s t c
  mv : (t.cluster c).mv = (s.cluster c).mv
  tiles : (t.cluster c).tiles = (s.cluster c).tiles
  store : (t.cluster c).store = (s.cluster c).store
  run : t.runOf c = s.runOf c

theorem FaultSide.refl (s : State) (c : Nat) : FaultSide s s c := ⟨rfl, fun _ _ => rfl, rfl, rfl, rfl, rfl⟩

/-- FDEF leaves its handle without a forme. -/
theorem FaultSide.formes (s : State) (c : Nat) (f : Cluster → SMap (Option Forme)) :
    FaultSide s (s.modCluster c (fun x => { x with formes := f x })) c where
  clusters := rfl
  others j hj := by rw [State.cluster_modCluster, if_neg hj]
  mv := by rw [State.cluster_modCluster, if_pos rfl]
  tiles := by rw [State.cluster_modCluster, if_pos rfl]
  store := by rw [State.cluster_modCluster, if_pos rfl]
  run := by rw [State.runOf, State.cluster_modCluster, if_pos rfl]; rfl

section Fault

variable {s : State} {c p n opc k : Nat} {w : IWord}

/-- An FDEF that plans no range is one whose address is unaligned. -/
theorem State.planMv_faulting (hopc : opc = 0x62 ∨ opc = 0x66) {i : Nat}
    (hplan : s.planMv c p n opc w (s.mvOpOf c opc w) i = (.op (s.mvOpOf c opc w) [k], none, none, none)) :
    ¬ ((opc = 0x62 ∨ opc = 0x64) ∧ w.imm.toNat % 64 = 0) := by
  rintro ⟨h, h0⟩
  obtain rfl : opc = 0x62 := by omega
  obtain ⟨fs, f, e⟩ := State.planMv_fdef_aligned (s := s) (c := c) (p := p) (n := n) (o := s.mvOpOf c 0x62 w) h0 i
  rw [e] at hplan
  injection hplan with h _
  injection h with h _
  exact absurd (congrArg MvOp.ranges h) (List.cons_ne_nil _ _)

theorem State.mvIssueSide_faulting (hread : ¬ ((opc = 0x62 ∨ opc = 0x64) ∧ w.imm.toNat % 64 = 0)) :
    FaultSide s (s.mvIssueSide c opc w (s.mvOpOf c opc w) none none none) c := by
  have side : s.mvIssueSide c opc w (s.mvOpOf c opc w) none none none
      = if opc = 0x62 then s.modCluster c (fun x => { x with formes := sset none x.formes (opnd w 19 10) none }) else s := by
    simp only [State.mvIssueSide, hread, if_false, State.mvOpOf, List.foldl_nil]
  rw [side]
  split
  · exact .formes s c _
  · exact .refl s c

theorem State.issueTransfer_faulting (hopc : opc = 0x62 ∨ opc = 0x66) (hmv : (s.cluster c).mv = [])
    (hflag : s.flagFault c w = false) (hrun : (s.cluster c).run = some (p, n)) (ht : (s.cluster c).tracked.length < 32)
    (hplan : s.planMv c p n opc w (s.mvOpOf c opc w) (s.stream c engMv).iter = (.op (s.mvOpOf c opc w) [k], none, none, none)) :
    s.issueTransfer c opc w
      = (s.mvIssueSide c opc w (s.mvOpOf c opc w) none none none).mvPush c opc w (s.mvOpOf c opc w) (some k) := by
  have hread := State.planMv_faulting hopc hplan
  have hheld : s.mvHeldBy c opc w (s.mvOpOf c opc w) none = false := by
    simp only [State.mvHeldBy, hread, if_false, State.mvOpOf, Cluster.holdsMv]
    simpa using Nat.le_of_lt ht
  have hfull : s.mvFull c opc w = false := by
    have : opc ≠ 0x64 := by omega
    simp [State.mvFull, this, Cluster.mvQueue, hmv]
  have hstale : s.mvStale c p opc w (s.mvOpOf c opc w) = false := by
    rcases hopc with rfl | rfl <;> rfl
  rw [State.issueTransfer_room hrun hplan ht hheld hfull hstale]
  simp only [State.mvPlace, hflag, Bool.false_eq_true, if_false]
  rfl

/-- A faulting instruction takes its place and leaves its record, and writes nothing. -/
theorem State.issueTransfer_fault_record (hopc : opc = 0x62 ∨ opc = 0x66) (hmv : (s.cluster c).mv = [])
    (hflag : s.flagFault c w = false) (hrun : (s.cluster c).run = some (p, n)) (ht : (s.cluster c).tracked.length < 32)
    (hplan : s.planMv c p n opc w (s.mvOpOf c opc w) (s.stream c engMv).iter = (.op (s.mvOpOf c opc w) [k], none, none, none)) :
    ((s.issueTransfer c opc w).cluster c).mv = [s.mvOpOf c opc w]
      ∧ ((s.issueTransfer c opc w).cluster c).tiles = (s.cluster c).tiles
      ∧ ((s.issueTransfer c opc w).cluster c).store = (s.cluster c).store
      ∧ otherClusters s (s.issueTransfer c opc w) c
      ∧ ∃ x, s.issueTransfer c opc w = (s.postFault c engMv (s.stream c engMv).pc s.now k).withClusters x := by
  obtain ⟨h1, h2⟩ := State.planMv_op hplan
  have side : FaultSide s _ c := State.mvIssueSide_faulting (State.planMv_faulting hopc hplan)
  rw [State.issueTransfer_faulting hopc hmv hflag hrun ht hplan]
  generalize s.mvIssueSide c opc w (s.mvOpOf c opc w) none none none = u at side ⊢
  have pushed := State.mvPush_pushed h1 h2 u c w (s.mvOpOf c opc w) (some k)
  have hu : u.runOf c = some (p, n) := side.run.trans hrun
  obtain ⟨x, e⟩ := State.mvPush_record h1 h2 hu w (s.mvOpOf c opc w) k
  refine ⟨by rw [pushed.mv, side.mv, hmv]; rfl, pushed.tiles.trans side.tiles, pushed.store.trans side.store,
    fun j hj => (pushed.others j hj).trans (side.others j hj), x, ?_⟩
  rw [e]
  rw [side.clusters] at hu ⊢
  rw [State.postFault_withClusters hrun hu]
  rfl

end Fault

/-- Settles O10: the plans of Table 4.14, then the issue of a faulting FDEF or NBCMD through `FaultSide` and its push, and
that of a transfer into a full queue through `MoverSide`. -/
theorem mvFaultsAreCheckedAndReported : Obligations.MvFaultsAreCheckedAndReported := by
  unfold Obligations.MvFaultsAreCheckedAndReported
  refine ⟨fun s c p n w o i => ⟨fun h => ⟨State.planMv_fdef_unaligned h i, State.planMv_nbcmd (State.planNbcmd_unaligned h) i,
      fun hcode => ?_⟩, fun h hc => State.planMv_nbcmd (State.planNbcmd_ungranted h hc) i,
      fun h hc hm => State.planMv_nbcmd (State.planNbcmd_memoryMode h hc hm) i, fun h => State.planMv_flgclr_ungranted h i,
      fun h => State.planMv_flgclr_granted h i, fun h => State.planMv_noForme h i⟩, ?_, ?_⟩
  · obtain ⟨m, e, hm⟩ := State.planImp_unaligned (s := s) (c := c) (p := p) (n := n) (o := o) h hcode
    exact ⟨m, by simp only [State.planMv, e], hm⟩
  · intro i c opc w s p n k hi hopc hmay ⟨hflight, hmv⟩ _ hflag hrun ht hplan
    have hdue : (s.cluster c.val).mvDue = none := by rw [Cluster.mvDue, hmv]
    obtain ⟨mv, tiles, store, others, x, e⟩ := State.issueTransfer_fault_record hopc hmv hflag hrun ht hplan
    refine ⟨_, by rw [exec_mv hi, State.issueMv_go hmay hflight hdue], ?_⟩
    simp only [otherClusters, State.atCyc_cluster, if_true]
    refine ⟨mv, tiles, store, ?_⟩
    rw [e] at others ⊢
    obtain ⟨r, m, q, e', -⟩ := s.postFault_frame c.val engMv (s.stream c.val engMv).pc s.now k
    rw [e'] at others ⊢
    exact ⟨rfl, rfl, rfl, fun j hj => by rw [if_neg hj]; exact others j hj, rfl, rfl, rfl⟩
  · intro i c opc w s p n o fs f l m hi hmay hflight hdue hrun hg hplan ht hheld hqueue hshare
    have hfull : s.mvFull c.val opc w = true := by
      unfold State.mvFull
      dsimp only
      split
      · next h => exact decide_eq_true (hshare h)
      · next h => exact decide_eq_true (hqueue h)
    obtain ⟨seq, pc, others⟩ := State.issueTransfer_full_goesOn hrun hg hplan ht hheld hfull
    refine ⟨_, by rw [exec_mv hi, State.issueMv_go hmay hflight hdue], ?_⟩
    have stream : ((s.issueTransfer c.val opc w).atCyc c.val (s.cluster c.val).cyc).stream c.val engMv
        = (s.issueTransfer c.val opc w).stream c.val engMv := by
      rw [State.stream, State.atCyc_cluster, if_pos rfl]; rfl
    rw [stream]
    simp only [State.atCyc_cluster, if_true]
    refine ⟨seq, pc, fun j hj => ?_⟩
    have hne : j ≠ c.val := by rintro rfl; simp [hg] at hj
    rw [if_neg hne]
    exact others j hj

end Sys2Proof.Machine

end

section

namespace Sys2Proof.Machine

/-! ### Test access (R484, R485) -/

theorem listedIr_iff (code : BitVec 8) :
    listedIr code = true ↔ code.toNat ∈ [0xFF, 0x01, 0x02, 0x03, 0x04, 0x05, 0x10, 0x11, 0x12] := List.contains_iff_mem

/-- The bits of IDCODE as Table 20.4 gives them. -/
theorem idcodeWord_eq : idcodeWord = 0x30576567#32 := by decide

theorem State.extestScan_allowed {s : State} (h : s.stage < 3 ∨ s.fbit rHostBoot 60 = true) (ir : BitVec 8)
    (tdi : List Bool) :
    s.extestScan ir tdi = s.boundaryScan ir tdi := if_pos (by simpa [State.extestAllowed] using h)

theorem State.extestScan_gated {s : State} (h : 3 ≤ s.stage) (hf : s.fbit rHostBoot 60 = false) (ir : BitVec 8)
    (tdi : List Bool) :
    s.extestScan ir tdi = s.tapBypass ir tdi := if_neg (by simpa [State.extestAllowed, hf] using h)

/-- The cells of the boundary register as a scan captures them. -/
def State.pinCells (s : State) : List Bool :=
  (List.range Config.boundaryCells).map (fun k => (Config.freeWord s.free k).getLsbD 0)

theorem State.pinCells_length (s : State) : s.pinCells.length = Config.boundaryCells := by simp [State.pinCells]

/-- A boundary scan shifts cells of the register's length out, and what it shifts in, in. -/
theorem State.boundaryScan_cells (s : State) (ir : BitVec 8) (tdi : List Bool) :
    ∃ cells : List Bool, cells.length = Config.boundaryCells ∧ s.boundaryScan ir tdi = (s.withTap { s.tap with
      ir := ir
      tdo := (cells ++ tdi).take tdi.length
      boundary := (cells ++ tdi).drop tdi.length }).withFree (s.free + 1) := ⟨s.pinCells, s.pinCells_length, rfl⟩

/-! ### The proof slice over JTAG (R459, log entry 74) -/

/-- Without stored errors and with no scan-out under way, what lies within the slice is read as it stands. -/
theorem State.proofBytes_plain {s : State} (h : s.plainReads) (hscan : s.scanning = false) {off words : Nat}
    (hin : off + 4 * words ≤ 2 ^ 28) :
    s.proofBytes off words
      = (mbytes s.caseMem (s.fld rTrcProof 4 0 * 2 ^ 28 + off) (4 * words), s.withFree (s.free + 1 + words)) := by
  have inside : (List.range (4 * words)).filter (fun i => decide (off + i < 2 ^ 28)) = List.range (4 * words) :=
    List.filter_eq_self.mpr fun i hi => by
      have := List.mem_range.mp hi
      exact decide_eq_true (by omega)
  simp only [State.proofBytes, inside, State.readBytes_plain h, hscan, Bool.false_and, Bool.false_eq_true, if_false,
    List.isEmpty_nil, Bool.not_true, Prod.mk.injEq, and_true]
  refine List.map_congr_left fun i hi => ?_
  have hlt := List.mem_range.mp hi
  rw [if_neg (by omega)]
  simp [State.byteAt, State.memOf, hlt]

/-! ### Management over I3C (R483) -/

theorem leBytes_length (n v : Nat) : (leBytes n v).length = n := by
  induction n generalizing v with
  | zero => rfl
  | succ n ih => exact congrArg (· + 1) (ih (v / 256))

theorem State.mgmtClear_frame (s : State) (off : Nat) (v : W64) :
    s.mgmtClear off v = s.withRegs (s.mgmtClear off v).regs := by
  unfold State.mgmtClear
  split <;> rfl

theorem State.mgmtClear_reg_other (s : State) {off k : Nat} (v : W64) (h : k ≠ off) :
    (s.mgmtClear off v).reg k = s.reg k := by
  unfold State.mgmtClear
  split
  · exact s.reg_setReg_other off k _ h
  · rfl

theorem State.mgmtClear_refused (s : State) {off : Nat} (v : W64) (h : mgmtWritable off = false) :
    s.mgmtClear off v = s :=
  if_neg (by simp [h])

theorem State.mgmtClear_reg (s : State) {off : Nat} (v : W64) (h : mgmtWritable off = true) :
    (s.mgmtClear off v).reg off = s.reg off &&& ~~~ (v &&& accMask (layoutPf off) .w1c) := by
  rw [State.mgmtClear, if_pos h, State.reg_setReg_same]

/-- A register of which no field is worked out at the read shows what the register file holds. -/
theorem State.pfRead_managed (s : State) {off : Nat} (h : off = rThmStat ∨ off = rTtStatus ∨ off = rMirStat) :
    s.pfRead off .w64 = (s.reg off, s) := by
  rcases h with rfl | rfl | rfl <;> rfl

/-- The target is not served while the always-on domain is unsupplied. -/
theorem State.i3cWrite_unsupplied {s : State} (h : s.power.alive = false) (off : W32) (data : Option W64) :
    s.i3cWrite off data = s := if_pos (by simp [h])

theorem State.i3cRead_unsupplied {s : State} (h : s.power.alive = false) : s.i3cRead = s := if_pos (by simp [h])

theorem State.i3cWrite_offset {s : State} (h : s.power.alive = true) (off : W32) :
    s.i3cWrite off none = s.withTap { s.tap with i3cOffset := off.toNat } := if_neg (by simp [h])

theorem State.i3cWrite_data {s : State} (h : s.power.alive = true) (off : W32) (v : W64) :
    s.i3cWrite off (some v) = (s.withTap { s.tap with i3cOffset := off.toNat }).mgmtClear off.toNat v :=
  if_neg (by simp [h])

/-- With the always-on domain supplied, a read moves the offset on by 8. -/
theorem State.i3cRead_of_reg {s : State} (ha : s.power.alive = true) {w : W64} (hlt : s.tap.i3cOffset < 0x120000)
    (hr : s.pfRead s.tap.i3cOffset .w64 = (w, s)) :
    s.i3cRead = s.withTap { s.tap with i3cData := leBytes 8 w.toNat, i3cOffset := s.tap.i3cOffset + 8 } := by
  simp only [State.i3cRead, ha, hr, if_pos hlt, Nat.mod_eq_of_lt (by omega : s.tap.i3cOffset + 8 < 2 ^ 32)]
  rfl

theorem State.i3cRead_reserved {s : State} (ha : s.power.alive = true) (h : reservedRange s.tap.i3cOffset = true) :
    s.i3cRead = s.withTap { s.tap with i3cData := leBytes 8 0, i3cOffset := (s.tap.i3cOffset + 8) % 2 ^ 32 } := by
  have hge : ¬ s.tap.i3cOffset < 0x120000 := by
    simp only [reservedRange, Bool.or_eq_true, Bool.and_eq_true, decide_eq_true_eq] at h
    omega
  simp only [State.i3cRead, ha, h, if_neg hge]
  rfl

theorem State.i3cRead_unmanaged {s : State} (ha : s.power.alive = true) (hge : 0x120000 ≤ s.tap.i3cOffset)
    (h : reservedRange s.tap.i3cOffset = false) :
    s.i3cRead = (s.withTap { s.tap with
      i3cData := leBytes 8 (Config.freeWord s.free 0).toNat
      i3cOffset := (s.tap.i3cOffset + 8) % 2 ^ 32 }).withFree (s.free + 1) := by
  simp only [State.i3cRead, ha, h, if_neg (by omega : ¬ s.tap.i3cOffset < 0x120000)]
  rfl

/-- Settles O59: row by row, from what a scan, a proof read and an access of the I3C target do. -/
theorem testAccessAndManagement : Obligations.TestAccessAndManagement := by
  unfold Obligations.TestAccessAndManagement
  intro s
  refine ⟨fun code tdi => ?_, ?_, fun tdi => ⟨_, rfl, s.boundaryScan_cells _ _⟩, fun tdi i ir hi => ?_,
    fun resp => ?_, fun off words => ⟨fun h => ?_, fun hu hscan hplain hin => ?_⟩, rfl, fun ha => ?_, fun ha => ?_⟩
  · rw [← ite_congr (propext (listedIr_iff code)) (fun _ => rfl) (fun _ => rfl)]; rfl
  · rw [← idcodeWord_eq]; rfl
  · have hexec : exec i s = .next (s.extestScan ir tdi) := by
      simp only [List.mem_cons, Prod.mk.injEq, List.not_mem_nil, or_false] at hi
      rcases hi with ⟨rfl, rfl⟩ | ⟨rfl, rfl⟩ | ⟨rfl, rfl⟩ <;> rfl
    rw [hexec]
    refine ⟨fun h => ?_, fun h hf => ?_⟩
    · rw [State.extestScan_allowed h]
      exact ⟨_, rfl, s.boundaryScan_cells ir tdi⟩
    · rw [State.extestScan_gated h hf]; rfl
  · exact ⟨_, rfl, by simp [State.unlock, State.chooseBytes], rfl, rfl, rfl, rfl⟩
  · exact congrArg Host.Outcome.next (if_pos (by simp [h]))
  · refine ⟨s.proofrd off words, rfl, ?_⟩
    simp only [State.proofrd, hu, State.proofBytes_plain hplain hscan hin]
    exact ⟨rfl, rfl⟩
  · exact ⟨fun _ _ => congrArg Host.Outcome.next (State.i3cWrite_unsupplied ha _ _),
      congrArg Host.Outcome.next (State.i3cRead_unsupplied ha), fun _ => congrArg Host.Outcome.next (if_neg (by simp [ha]))⟩
  · refine ⟨fun off => congrArg Host.Outcome.next (State.i3cWrite_offset ha off), fun off v => ?_, fun h => ?_,
      fun h => ?_, fun hge h => ?_, fun a => congrArg Host.Outcome.next (if_pos ha)⟩
    · refine ⟨s.i3cWrite off (some v), rfl, ?_⟩
      rw [State.i3cWrite_data ha]
      refine ⟨?_, fun k hk => State.mgmtClear_reg_other _ v hk, fun h => ?_, fun h => State.mgmtClear_reg _ v h, ?_⟩
      · rw [State.mgmtClear_frame]; rfl
      · rw [State.mgmtClear_refused _ v h]; rfl
      · rw [State.mgmtClear_frame]; rfl
    · have hlt : s.tap.i3cOffset < 0x120000 := by rcases h with h | h | h <;> rw [h] <;> decide
      exact congrArg Host.Outcome.next (State.i3cRead_of_reg ha hlt (s.pfRead_managed h))
    · exact congrArg Host.Outcome.next (State.i3cRead_reserved ha h)
    · refine ⟨s.i3cRead, rfl, ?_⟩
      rw [State.i3cRead_unmanaged ha hge h]
      exact ⟨leBytes_length .., rfl, rfl⟩

end Sys2Proof.Machine
end

section

namespace Sys2Proof.Machine

/-! ### Fields and bits beside a field that is written -/

theorem State.fld_setFld_reg (s : State) {k j : Nat} (hi lo v hi' lo' : Nat) (h : j ≠ k) :
    (s.setFld k hi lo v).fld j hi' lo' = s.fld j hi' lo' := State.fld_congr _ _ (s.reg_setFld_other _ _ _ _ _ h)

theorem State.fbit_congr {s t : State} {k : Nat} (i : Nat) (h : t.reg k = s.reg k) : t.fbit k i = s.fbit k i := by
  rw [State.fbit, h]; rfl

theorem State.fbit_setBit_same (s : State) (k : Nat) {i : Nat} (b : Bool) (h : i < 64) :
    (s.setBit k i b).fbit k i = b := by
  rw [State.fbit, bit, State.setBit, State.reg_setFld_same, getLsbD_setBf, if_pos (by omega), Nat.sub_self]
  cases b <;> rfl

/-! ### What keeps a failure's record -/

theorem State.keepQueue_frame (s : State) (w : Nat) (v : W64) : ∃ k, s.keepQueue w v = s.withKeep k := by
  unfold State.keepQueue
  split
  · exact ⟨s.keep, rfl⟩
  · split
    · exact ⟨_, rfl⟩
    · exact ⟨_, rfl⟩

/-- A retirement is kept among the keep words, or RETFULL shows that none is left (R411). -/
theorem State.recordRetirement_frame (s : State) (w : RetWord) (n : Nat) :
    ∃ k r, s.recordRetirement w n = (s.withKeep k).withRegs r ∧ ∀ j, j ≠ rEcfg n → regGet r j = s.reg j := by
  unfold State.recordRetirement
  split
  · next j _ =>
    obtain ⟨k, e⟩ := s.keepQueue_frame (128 + j) w
    exact ⟨k, s.regs, by rw [e]; rfl, fun _ _ => rfl⟩
  · exact ⟨s.keep, _, rfl, fun j h => s.reg_setFld_other _ _ _ _ _ h⟩

theorem State.pfev_reg (s : State) (block p : Nat) {k : Nat} (h : k ≠ rEstat 0) : (s.pfev block p).reg k = s.reg k :=
  s.postAt_reg _ _ _ _ _ _ h

/-! ### A cluster mapping that waits (R22, Table 1.10) -/

theorem clmapPendBit_lt (d : Nat) : clmapPendBit d < 64 := by unfold clmapPendBit; split <;> omega

theorem State.showPend_reg (s : State) (d : Nat) {k : Nat} (h : k ≠ rHostClmap) : (s.showPend d).reg k = s.reg k :=
  s.reg_setFld_other _ _ _ _ _ h

/-- PEND lies beside OUT of both C-dies. -/
theorem State.showPend_clmapOut (s : State) (d e : Nat) : (s.showPend d).clmapOut e = s.clmapOut e := by
  have beside : clmapPendBit d < (if e = 0 then 8 else 24) ∨ (if e = 0 then 12 else 28) < clmapPendBit d := by
    unfold clmapPendBit
    split <;> split <;> omega
  exact s.fld_setFld_other _ _ _ _ _ _ (le_refl _) (by split <;> omega) beside

@[simp] theorem State.setPendingOut_integ (s : State) (d : Nat) (x : Option Nat) :
    (s.setPendingOut d x).integ = { s.integ with pendOut := sset none s.integ.pendOut d x } := rfl
@[simp] theorem State.setPendingOut_clusters (s : State) (d : Nat) (x : Option Nat) :
    (s.setPendingOut d x).clusters = s.clusters := rfl
@[simp] theorem State.setPendingOut_stackMem (s : State) (d : Nat) (x : Option Nat) :
    (s.setPendingOut d x).stackMem = s.stackMem := rfl

theorem State.setPendingOut_pendingOut (s : State) (d : Nat) (x : Option Nat) : (s.setPendingOut d x).pendingOut d = x :=
  sget_sset_same none s.integ.pendOut d x

theorem State.setPendingOut_pend (s : State) (d f : Nat) :
    (s.setPendingOut d (some f)).fbit rHostClmap (clmapPendBit d) = true := by
  unfold State.setPendingOut State.showPend
  rw [State.fbit_setBit_same _ _ _ (clmapPendBit_lt d), State.pendingOut, State.withInteg_integ, sget_sset_same]
  rfl

theorem State.setPendingOut_clmapOut (s : State) (d e : Nat) (x : Option Nat) :
    (s.setPendingOut d x).clmapOut e = s.clmapOut e :=
  State.showPend_clmapOut ..

theorem State.setPendingOut_reg (s : State) (d : Nat) (x : Option Nat) {k : Nat} (h : k ≠ rHostClmap) :
    (s.setPendingOut d x).reg k = s.reg k := State.showPend_reg _ d h

/-! ### The report of a module failure (R365) -/

theorem State.moduleFail_reg (s : State) {k : Nat} (hm : k ≠ rMirStat) (hl : k ≠ rFwLogstat) :
    s.moduleFail.reg k = s.reg k := by
  obtain ⟨m, p, e⟩ := s.sendHeartbeat_frame false true
  have hrole : ∀ t : State, (t.setRole roleFenced).reg k = t.reg k := fun t => State.reg_setFld_other _ _ _ _ _ _ hm
  rw [State.moduleFail, State.logError_reg _ _ _ _ hl, hrole, e]
  rfl

theorem State.setRole_fenced (s : State) :
    (s.setRole roleFenced).power = s.power ∧ (s.setRole roleFenced).mirror = { s.mirror with promoting := none } :=
  ⟨rfl, rfl⟩

theorem State.logError_units (s : State) (k c : Nat) :
    (s.logError k c).power = s.power ∧ (s.logError k c).mirror = s.mirror := by
  obtain ⟨r, h, o, n, e, -⟩ := s.logError_frame k c
  rw [e]
  exact ⟨rfl, rfl⟩

/-- The report leaves power and the mirror port as its heartbeat and its role make them. -/
theorem State.moduleFail_units (s : State) : s.moduleFail.power = (s.sendHeartbeat false true).power
    ∧ s.moduleFail.mirror = { (s.sendHeartbeat false true).mirror with promoting := none } := by
  obtain ⟨hpower, hmirror⟩ := ((s.sendHeartbeat false true).setRole roleFenced).logError_units coreSec 0
  obtain ⟨hpower', hmirror'⟩ := (s.sendHeartbeat false true).setRole_fenced
  exact ⟨hpower.trans hpower', hmirror.trans hmirror'⟩

theorem State.moduleFail_integ (s : State) : s.moduleFail.integ = s.integ := by
  obtain ⟨m, p, r, h, o, n, e, -⟩ := s.moduleFail_frame
  simp [e]

/-- FAULT_N is driven. -/
def State.faulted (s : State) : State := s.withPower { s.power with fault := true }

theorem State.sendHeartbeat_failed (s : State) (fenced : Bool) : s.sendHeartbeat fenced true = if s.mirUp then
    s.faulted.withMirror { s.mirror with
      lastTx := some s.now
      sent := s.mirror.sent ++ [{ time := s.now, role := BitVec.ofNat 3 s.role, fenced := fenced, failed := true }] }
    else s.faulted := by
  have hup : s.faulted.mirUp = s.mirUp := rfl
  have hif : s.sendHeartbeat fenced true = if !s.faulted.mirUp then s.faulted else s.faulted.withMirror { s.mirror with
      lastTx := some s.now
      sent := s.mirror.sent ++ [{ time := s.now, role := BitVec.ofNat 3 s.role, fenced := fenced, failed := true }] } :=
    rfl
  rw [hif, hup]
  cases s.mirUp <;> rfl

theorem State.moduleFail_fault (s : State) : s.moduleFail.power.fault = true := by
  rw [s.moduleFail_units.1, State.sendHeartbeat_failed]
  cases s.mirUp <;> rfl

/-- The last heartbeat of a module whose mirror port is up says that it has failed. -/
theorem State.moduleFail_sent {s : State} (h : s.mirUp = true) : s.moduleFail.mirror.sent
    = s.mirror.sent ++ [{ time := s.now, role := BitVec.ofNat 3 s.role, fenced := false, failed := true }] := by
  rw [s.moduleFail_units.2, State.sendHeartbeat_failed, h]
  rfl

/-! ### CLUSTER_FAIL (R23) -/

/-- The failed clusters of C-die d. -/
def State.failedOn (s : State) (d : Nat) : List (Nat × Nat) := s.integ.failedClusters.filter (fun f => f.1 == d)

/-- A first failure is noted: the cluster counts as failed and as retired. -/
def State.noteFailed (s : State) (d phys : Nat) (w : RetWord) : State :=
  let t := s.withInteg { s.integ with failedClusters := s.integ.failedClusters ++ [(d, phys)] }
  t.withInteg { t.integ with retired := t.integ.retired ++ [w] }

/-- A first failure is noted, kept and reported. -/
def State.reportFailed (s : State) (d phys : Nat) (w : RetWord) : State :=
  ((s.noteFailed d phys w).recordRetirement w (4 * d)).pfev 4 0

/-- Entry of a failed cluster (Table 15.5). -/
def clusterEntry (d phys : Nat) : RetWord := BitVec.ofNat 64 (4 * 2 ^ 60 + d * 2 ^ 56 + phys * 2 ^ 49)

theorem State.clusterFail_known {s : State} {d phys : Nat} (h : (s.failedOn d).any (fun f => f.2 == phys) = true) :
    s.clusterFail d phys = s := if_pos h

/-- A first failure's report leaves the note as it is, and no unit but the keep words and the event ring takes part. -/
theorem State.reportFailed_units (s : State) (d phys : Nat) (w : RetWord) :
    (s.reportFailed d phys w).integ = (s.noteFailed d phys w).integ ∧ (s.reportFailed d phys w).clusters = s.clusters
      ∧ (s.reportFailed d phys w).stackMem = s.stackMem := by
  obtain ⟨k, r, e, -⟩ := (s.noteFailed d phys w).recordRetirement_frame w (4 * d)
  rw [State.reportFailed, e]
  obtain ⟨r', m, o, e', -⟩ := (((s.noteFailed d phys w).withKeep k).withRegs r).pfev_frame 4 0
  rw [e']
  simp [State.noteFailed]

theorem State.reportFailed_reg (s : State) (d phys : Nat) (w : RetWord) {j : Nat} (hcfg : j ≠ rEcfg (4 * d))
    (hstat : j ≠ rEstat 0) : (s.reportFailed d phys w).reg j = s.reg j := by
  obtain ⟨k, r, e, hr⟩ := (s.noteFailed d phys w).recordRetirement_frame w (4 * d)
  rw [State.reportFailed, State.pfev_reg _ _ _ hstat, e]
  exact hr j hcfg

theorem State.reportFailed_clmapOut (s : State) (d phys e : Nat) (w : RetWord) :
    (s.reportFailed d phys w).clmapOut e = s.clmapOut e :=
  State.fld_congr _ _ (s.reportFailed_reg d phys w (by unfold rHostClmap rEcfg rStk; omega) (by decide))

/-- After a first failure the mapping that leaves the cluster out waits, unless it is out already. -/
theorem State.clusterFail_first {s : State} {d : Nat} (phys : Nat) (h : s.failedOn d = []) :
    s.clusterFail d phys = (s.reportFailed d phys (clusterEntry d phys)).setPendingOut d
      (if s.clmapOut d = phys then none else some phys) := by
  have hout := s.reportFailed_clmapOut d phys d (clusterEntry d phys)
  unfold State.failedOn at h
  unfold State.reportFailed State.noteFailed clusterEntry at hout ⊢
  unfold State.clusterFail
  simp only [h, List.any_nil, Bool.false_eq_true, if_false, List.isEmpty_nil, Bool.not_true, hout]

theorem State.clusterFail_second {s : State} {d phys : Nat} (h : s.failedOn d ≠ [])
    (hnew : (s.failedOn d).any (fun f => f.2 == phys) = false) : s.clusterFail d phys
      = (s.withInteg { s.integ with failedClusters := s.integ.failedClusters ++ [(d, phys)] }).moduleFail := by
  unfold State.failedOn at h hnew
  unfold State.clusterFail
  dsimp only
  rw [if_neg (by simp [hnew]), if_pos (by simpa using h)]

/-- Settles O35: by how many clusters of the C-die have failed before. -/
theorem clusterFailureTakesTheSpare : Obligations.ClusterFailureTakesTheSpare := by
  unfold Obligations.ClusterFailureTakesTheSpare
  intro d phys s
  have hexec : exec (.clusterFail d phys) s = .next (s.clusterFail d.val phys.val) := rfl
  rw [hexec]
  refine ⟨fun h => congrArg Host.Outcome.next (State.clusterFail_known h), fun h => ?_, fun h hnew => ?_⟩
  · obtain ⟨hinteg, hclusters, hstack⟩ := s.reportFailed_units d.val phys.val (clusterEntry d.val phys.val)
    have hrole : (s.reportFailed d.val phys.val (clusterEntry d.val phys.val)).role = s.role :=
      State.fld_congr _ _ (s.reportFailed_reg _ _ _ (by unfold rMirStat rEcfg rStk; omega) (by decide))
    have hout := s.reportFailed_clmapOut d.val phys.val d.val (clusterEntry d.val phys.val)
    rw [State.clusterFail_first phys.val h]
    generalize s.reportFailed d.val phys.val (clusterEntry d.val phys.val) = u at hinteg hclusters hstack hrole hout ⊢
    refine ⟨_, rfl, by rw [State.setPendingOut_integ, hinteg]; rfl, by rw [State.setPendingOut_integ, hinteg]; rfl,
      (State.fld_congr _ _ (u.setPendingOut_reg _ _ (by decide))).trans hrole, fun hne => ?_, fun heq => ?_,
      (u.setPendingOut_clmapOut ..).trans hout, by rw [State.setPendingOut_clusters, hclusters],
      by rw [State.setPendingOut_stackMem, hstack]⟩
    · rw [if_neg hne]
      exact ⟨u.setPendingOut_pend .., u.setPendingOut_pendingOut ..⟩
    · rw [if_pos heq]
      exact u.setPendingOut_pendingOut ..
  · refine ⟨s.clusterFail d.val phys.val, rfl, ?_⟩
    rw [State.clusterFail_second h hnew]
    exact ⟨State.moduleFail_role _, State.moduleFail_fault _, by rw [State.moduleFail_integ]; rfl,
      by rw [State.pendingOut, State.moduleFail_integ]; rfl, State.moduleFail_reg _ (by decide) (by decide),
      fun hup => ⟨_, State.moduleFail_sent hup, rfl, rfl⟩⟩

end Sys2Proof.Machine
end

section

namespace Sys2Proof.Machine

/-! ### Phase, slot and grade -/

theorem State.setPhase_reg (s : State) (v : Nat) {k : Nat} (h : k ≠ rFwUpdstat) : (s.setPhase v).reg k = s.reg k :=
  s.reg_setFld_other _ _ _ _ _ h

theorem State.setPhase_updPhase (s : State) {v : Nat} (h : v < 8) : (s.setPhase v).updPhase = v :=
  s.fld_setFld_lt _ _ _ _ (by decide) (by decide) h

theorem State.setPhase_moves (s : State) (v : Nat) : (s.setPhase v).fld rFwUpdstat 15 0 = s.fld rFwUpdstat 15 0 :=
  s.fld_setFld_other _ _ _ _ _ _ (by decide) (by decide) (by decide)

theorem rFwImg_ne_rFwUpdstat {k : Nat} (h : k < 4) : rFwImg k ≠ rFwUpdstat := by unfold rFwImg rFwUpdstat; omega

theorem State.activeSlot_congr {s t : State} {k : Nat} (h : t.reg (rFwImg k) = s.reg (rFwImg k)) :
    t.activeSlot k = s.activeSlot k := congrArg boolNat (State.fbit_congr 63 h)

/-- Between s and t nothing differs but the grade's registers and PWR's own state (R440). -/
structure GradeOnly (s t : State) : Prop where
  units : t = (s.withRegs t.regs).withPower t.power
  reg : ∀ k, k ≠ rClkGrade → (∀ n, k ≠ rStk n) → t.reg k = s.reg k

theorem GradeOnly.fw {s t : State} (h : GradeOnly s t) : t.fw = s.fw := by
  rw [h.units]
  rfl

theorem GradeOnly.updPhase {s t : State} (h : GradeOnly s t) : t.updPhase = s.updPhase :=
  State.fld_congr _ _ (h.reg rFwUpdstat (by decide) (fun n => by unfold rFwUpdstat rStk; omega))

theorem GradeOnly.activeSlot {s t : State} (h : GradeOnly s t) {k : Nat} (hk : k < 4) : t.activeSlot k = s.activeSlot k :=
  State.activeSlot_congr (h.reg (rFwImg k) (by unfold rFwImg rClkGrade; omega) (fun n => by unfold rFwImg rStk; omega))

/-- A change of grade writes each stack's full-rate count after CLK_GRADE. -/
theorem State.fullCounts_reg (s : State) (g k : Nat) (h : ∀ n, k ≠ rStk n) :
    ((List.range 8).foldl (fun (t : State) n => t.setFld (rStk n) 4 0 (t.gradeFullCh g)) s).reg k = s.reg k :=
  List.foldlRecOn (motive := fun t : State => t.reg k = s.reg k) _ _ rfl
    fun _ ht n _ => (State.reg_setFld_other _ _ _ _ _ _ (h n)).trans ht

theorem rClkGrade_ne_rStk (n : Nat) : rClkGrade ≠ rStk n := by unfold rClkGrade rStk; omega

theorem State.setGrade_reg (s : State) (g : Nat) {k : Nat} (hk : ∀ n, k ≠ rStk n) :
    (s.setGrade g).reg k = (s.setFld rClkGrade 63 61 g).reg k := by
  unfold State.setGrade
  dsimp only
  split
  · exact State.fullCounts_reg _ _ _ hk
  · split
    · rfl
    · rfl

theorem State.setGrade_grade (s : State) {g : Nat} (h : g < 8) : (s.setGrade g).grade = g := by
  rw [State.grade, State.fld_congr _ _ (s.setGrade_reg g rClkGrade_ne_rStk)]
  exact s.fld_setFld_lt _ _ _ _ (by decide) (by decide) h

theorem State.setGrade_gradeOnly (s : State) (g : Nat) : GradeOnly s (s.setGrade g) where
  units := by
    unfold State.setGrade
    dsimp only
    split
    · obtain ⟨r, e⟩ := foldl_withRegs (fun (t : State) n => t.setFld (rStk n) 4 0 (t.gradeFullCh g))
        (fun _ _ => ⟨_, rfl⟩) (List.range 8) ((s.setFld rClkGrade 63 61 g).withPower { s.power with lower := [] })
      exact e ▸ rfl
    · split
      · rfl
      · rfl
  reg k hgrade hstk := (s.setGrade_reg g hstk).trans (s.reg_setFld_other _ _ _ _ _ hgrade)

/-! ### The kind that has switched (R420) -/

/-- A kind runs from its other slot, on trial, and the update has come to its end; SEC's waiting work is not yet done. -/
def State.switched (s : State) (k : Nat) : State :=
  let t := s.runFrom k (1 - s.activeSlot k) true
  (t.withFw { t.fw with switching := none }).setPhase 5

theorem State.switchEnd_sec (s : State) : s.switchEnd coreSec = (s.switched coreSec).secResume := rfl

theorem State.switchEnd_other (s : State) {k : Nat} (h : k ≠ coreSec) : s.switchEnd k = s.switched k := if_neg h

@[simp] theorem State.switched_fw (s : State) (k : Nat) :
    (s.switched k).fw = { s.fw with trialAt := sset 0 s.fw.trialAt k (s.now + 1), switching := none } := rfl

theorem State.switched_units (s : State) (k : Nat) :
    s.switched k = (s.withFw (s.switched k).fw).withRegs (s.switched k).regs := rfl

theorem State.switched_reg (s : State) {k j : Nat} (himg : j ≠ rFwImg k) (hupd : j ≠ rFwUpdstat) :
    (s.switched k).reg j = s.reg j := (State.setPhase_reg _ _ hupd).trans (s.reg_setFld_other _ _ _ _ _ himg)

theorem State.switched_updPhase (s : State) (k : Nat) :
    (s.switched k).updPhase = 5 := State.setPhase_updPhase _ (by decide)

theorem State.switched_moves (s : State) {k : Nat} (hk : k < 4) :
    (s.switched k).fld rFwUpdstat 15 0 = s.fld rFwUpdstat 15 0 :=
  (State.setPhase_moves _ _).trans (s.fld_setFld_reg _ _ _ _ _ (rFwImg_ne_rFwUpdstat hk).symm)

theorem State.switched_activeSlot (s : State) {k : Nat} (hk : k < 4) :
    (s.switched k).activeSlot k = 1 - s.activeSlot k := by
  have hbit : (s.switched k).fbit (rFwImg k) 63 = (1 - s.activeSlot k == 1) :=
    (State.fbit_congr 63 (State.setPhase_reg _ _ (rFwImg_ne_rFwUpdstat hk))).trans (s.fbit_setBit_same _ _ (by decide))
  rw [State.activeSlot, hbit, State.activeSlot]
  cases s.fbit (rFwImg k) 63 <;> rfl

/-! ### SEC, PWR and SCH (R420, Table 16.3) -/

theorem State.switchKind_waiting {s : State} {k a : Nat} (h : s.fw.switching = some (k, a)) :
    s.switchKind k = s.switchEnd k := by
  simp [State.switchKind, h]

theorem State.switchKind_idle {s : State} {k : Nat} (h : ∀ a, s.fw.switching ≠ some (k, a)) : s.switchKind k = s := by
  unfold State.switchKind
  split
  · next j a hs =>
    exact if_neg (by rintro rfl; exact h a hs)
  · rfl

theorem State.pwrWaits_iff (s : State) : s.pwrWaits = true ↔ ∃ a, s.fw.switching = some (corePwr, a) := by
  unfold State.pwrWaits
  rcases s.fw.switching with _ | ⟨j, a⟩
  · simp
  · simp

/-- Between s and t the writes that wait for SEC, the switch under way and the TAP are as they were. -/
structure KeepsSec (s t : State) : Prop where
  waits : t.fw.waits = s.fw.waits
  switching : t.fw.switching = s.fw.switching
  tap : t.tap = s.tap

theorem State.streqState_frame (s : State) (kind target st : Nat) :
    ∃ r h o, s.streqState kind target st = ((s.withRegs r).withHostMem h).withHost o := by
  obtain ⟨r', e'⟩ : ∃ r, ((s.setFld rFwStres 63 61 st).setFld rFwStres 60 57 kind).setFld rFwStres 56 50 target
      = s.withRegs r := ⟨_, rfl⟩
  obtain ⟨r, h, o, e, -⟩ := (s.withRegs r').pfev_frame 6 0
  unfold State.streqState
  dsimp only
  rw [e', e]
  exact ⟨r, h, o, rfl⟩

theorem KeepsSec.withQueue (s : State) (q : List StReq) :
    KeepsSec s (s.withFw { s.fw with queue := q }) := ⟨rfl, rfl, rfl⟩

theorem KeepsSec.refl (s : State) : KeepsSec s s := ⟨rfl, rfl, rfl⟩

theorem KeepsSec.trans {s t u : State} (h : KeepsSec s t) (h' : KeepsSec t u) : KeepsSec s u :=
  ⟨h'.waits.trans h.waits, h'.switching.trans h.switching, h'.tap.trans h.tap⟩

theorem KeepsSec.records (s : State) (r : SMap W64) (m : Mem) (o : HostOut) :
    KeepsSec s (((s.withRegs r).withHostMem m).withHost o) := ⟨rfl, rfl, rfl⟩

theorem KeepsSec.streqState (s : State) (kind target st : Nat) : KeepsSec s (s.streqState kind target st) := by
  obtain ⟨r, m, o, e⟩ := s.streqState_frame kind target st
  rw [e]
  exact .records ..

theorem State.updWrite_keepsSec (s : State) (v : W64) : KeepsSec s (s.updWrite v) := by
  unfold State.updWrite
  split
  · exact .refl s
  · exact ⟨rfl, rfl, rfl⟩

theorem State.streqTake_keepsSec (s : State) (v : W64) : KeepsSec s (s.streqTake v) := by
  unfold State.streqTake
  dsimp only
  split
  · exact .refl s
  · split
    · exact .streqState ..
    · exact (KeepsSec.withQueue ..).trans (.streqState ..)

/-- An update asked for while none runs begins. -/
theorem State.updWrite_begins {s : State} {v : W64} (h : bit v 63 = true) (hp : s.updPhase = 5) :
    (s.updWrite v).updPhase = 1
      ∧ (s.updWrite v).fw.upd = some { kind := bf v 62 61, activate := bit v 60, len := bf v 31 0
                                       addr := (s.reg rFwUpdaddr).toNat, startedAt := s.now } := by
  have haddr : ((s.setPhase 1).setFld rFwUpdstat 15 0 0).reg rFwUpdaddr = s.reg rFwUpdaddr :=
    (State.reg_setFld_other _ _ _ _ _ _ (by decide)).trans (s.setPhase_reg 1 (by decide))
  have hphase : ((s.setPhase 1).setFld rFwUpdstat 15 0 0).updPhase = 1 :=
    (State.fld_setFld_other _ _ _ _ _ _ _ (by decide) (by decide) (by decide)).trans (s.setPhase_updPhase (by decide))
  unfold State.updWrite
  rw [if_neg (by simp [h, hp])]
  exact ⟨hphase, by simp only [State.withFw_fw, haddr]; rfl⟩

/-- What waited for SEC has been acted on. -/
def State.secActed (s : State) : State :=
  s.fw.waits.foldl (fun t x => if x.1 then t.updWrite x.2 else t.streqTake x.2) (s.withFw { s.fw with waits := [] })

theorem State.secResume_eq (s : State) : s.secResume = s.secActed.withTap { s.secActed.tap with
    waiting := []
    unlocked := s.secActed.tap.unlocked || s.secActed.tap.waiting.any (fun x => Config.unlockVerifies x.1 x.2) } := rfl

theorem State.secActed_keepsSec (s : State) : KeepsSec (s.withFw { s.fw with waits := [] }) s.secActed :=
  foldl_keeps (KeepsSec (s.withFw { s.fw with waits := [] })) _ (fun t x h => by
    split
    · exact h.trans (t.updWrite_keepsSec x.2)
    · exact h.trans (t.streqTake_keepsSec x.2)) _ _ (.refl _)

/-- With nothing waiting for SEC, nothing follows its switch. -/
theorem State.secResume_idle {s : State} (hw : s.fw.waits = []) (ht : s.tap.waiting = []) : s.secResume = s := by
  have hfw : s.withFw { s.fw with waits := [] } = s := (congrArg (fun x => s.withFw { s.fw with waits := x }) hw.symm :)
  have hacted : s.secActed = s := by rw [State.secActed, hw]; exact hfw
  have htap : ({ s.tap with waiting := [], unlocked := s.tap.unlocked || false } : Tap) = s.tap := by
    rw [Bool.or_false, ← ht]
  rw [State.secResume_eq, hacted, ht, List.any_nil, htap]
  rfl

/-- The rows that switch a kind, with their kinds. -/
def switchRows : List (Instr × Nat) := [(.secSwitch, coreSec), (.pwrSwitch, corePwr), (.schSwitch, coreSch)]

theorem exec_secSwitch (s : State) : exec .secSwitch s = .next (s.switchKind coreSec) := rfl
theorem exec_schSwitch (s : State) : exec .schSwitch s = .next s.schSwitch := rfl

theorem exec_pwrSwitch (s : State) : exec .pwrSwitch s = .next
    (if s.pwrWaits && !(s.switchKind corePwr).fbit rClkCtl 63 then (s.switchKind corePwr).setGrade 0
      else s.switchKind corePwr) := rfl

theorem State.schSwitch_between {s : State} (h : s.atBoundary = false) : s.schSwitch = s := if_neg (by simp [h])

/-- A switch row whose kind does not wait does nothing. -/
theorem exec_switch_idle {s : State} {i : Instr} {k : Nat} (hi : (i, k) ∈ switchRows)
    (h : ∀ a, s.fw.switching ≠ some (k, a)) : exec i s = .next s := by
  have hkind := State.switchKind_idle h
  simp only [switchRows, List.mem_cons, Prod.mk.injEq, List.not_mem_nil, or_false] at hi
  rcases hi with ⟨rfl, rfl⟩ | ⟨rfl, rfl⟩ | ⟨rfl, rfl⟩
  · rw [exec_secSwitch, hkind]
  · have hwaits : s.pwrWaits = false := Bool.eq_false_iff.mpr fun e => (s.pwrWaits_iff.mp e).elim h
    rw [exec_pwrSwitch, hkind, hwaits]
    rfl
  · rw [exec_schSwitch, State.schSwitch, hkind, ite_self]

/-- PWR switches, and then acts on GRADE_EN. -/
theorem exec_pwrSwitch_waiting {s : State} {a : Nat} (h : s.fw.switching = some (corePwr, a)) :
    exec .pwrSwitch s = .next (if s.fbit rClkCtl 63 then s.switched corePwr else (s.switched corePwr).setGrade 0) := by
  have hgrade : (s.switched corePwr).fbit rClkCtl 63 = s.fbit rClkCtl 63 :=
    State.fbit_congr 63 (s.switched_reg (by decide) (by decide))
  rw [exec_pwrSwitch, State.switchKind_waiting h, State.switchEnd_other _ (by decide), s.pwrWaits_iff.mpr ⟨a, h⟩, hgrade]
  cases s.fbit rClkCtl 63 <;> rfl

/-- A switch row whose kind waits, and that nothing else waits for, only switches the kind. -/
theorem exec_switch_waiting {s : State} {i : Instr} {k a : Nat} (hi : (i, k) ∈ switchRows)
    (h : s.fw.switching = some (k, a))
    (hsch : k = coreSch → s.atBoundary = true ∧ ∀ p, p < 16 → (s.scu p).hashing = [])
    (hsec : k = coreSec → s.fw.waits = [] ∧ s.tap.waiting = []) (hpwr : k = corePwr → s.fbit rClkCtl 63 = true) :
    exec i s = .next (s.switched k) := by
  simp only [switchRows, List.mem_cons, Prod.mk.injEq, List.not_mem_nil, or_false] at hi
  rcases hi with ⟨rfl, rfl⟩ | ⟨rfl, rfl⟩ | ⟨rfl, rfl⟩
  · obtain ⟨hw, ht⟩ := hsec rfl
    have hidle : (s.switched coreSec).secResume = s.switched coreSec := State.secResume_idle hw ht
    rw [exec_secSwitch, State.switchKind_waiting h, State.switchEnd_sec, hidle]
  · rw [exec_pwrSwitch_waiting h, hpwr rfl, if_pos rfl]
  · obtain ⟨hbound, hhash⟩ := hsch rfl
    have hgo : (s.atBoundary && (List.range 16).all (fun p => (s.scu p).hashing.isEmpty)) = true := by
      simpa [hbound] using hhash
    rw [exec_schSwitch, State.schSwitch, if_pos hgo, State.switchKind_waiting h, State.switchEnd_other _ (by decide)]

end Sys2Proof.Machine
end

section

namespace Sys2Proof.Machine

/-! ### Moves of a CC update (R420, R22) -/

@[simp] theorem State.withFw_reg (s : State) (x : Firmware) (k : Nat) : (s.withFw x).reg k = s.reg k := rfl
@[simp] theorem State.modCluster_reg (s : State) (c : Nat) (f : Cluster → Cluster) (k : Nat) :
    (s.modCluster c f).reg k = s.reg k := rfl
@[simp] theorem State.incFld_clusters (s : State) (k hi lo n : Nat) : (s.incFld k hi lo n).clusters = s.clusters := rfl
@[simp] theorem State.showPend_clusters (s : State) (d : Nat) : (s.showPend d).clusters = s.clusters := rfl
@[simp] theorem State.showPend_fw (s : State) (d : Nat) : (s.showPend d).fw = s.fw := rfl
@[simp] theorem State.setPhase_fw (s : State) (v : Nat) : (s.setPhase v).fw = s.fw := rfl

theorem State.setClmapOut_reg (s : State) (d v : Nat) {k : Nat} (h : k ≠ rHostClmap) :
    (s.setClmapOut d v).reg k = s.reg k :=
  s.reg_setFld_other _ _ _ _ _ h

theorem State.setClmapOut_clmapOut (s : State) (d : Nat) {v : Nat} (h : v ≤ 16) : (s.setClmapOut d v).clmapOut d = v := by
  unfold State.setClmapOut State.clmapOut
  split
  · exact s.fld_setFld_lt _ _ _ _ (by decide) (by decide) (by omega)
  · exact s.fld_setFld_lt _ _ _ _ (by decide) (by decide) (by omega)

/-- OUT once logical cluster c of a die has moved through the cluster out of service: it trades places with its own
physical cluster, unless that out of service has failed. -/
def State.outAfter (s : State) (d c : Nat) : Nat :=
  if s.outFailed d = true then s.clmapOut d
  else if s.clmapOut d = c % 16 + 1 then c % 16
  else if s.clmapOut d = c % 16 then c % 16 + 1
  else s.clmapOut d

/-- The mapping takes the move. -/
def State.remapped (s : State) (d c : Nat) : State :=
  if s.outFailed d then s
  else if s.clmapOut d = c % 16 + 1 then s.setClmapOut d (c % 16)
  else if s.clmapOut d = c % 16 then s.setClmapOut d (c % 16 + 1)
  else s

theorem State.remapped_frame (s : State) (d c : Nat) : ∃ r, s.remapped d c = s.withRegs r := by
  unfold State.remapped
  repeat' split
  all_goals exact ⟨_, rfl⟩

theorem State.remapped_reg (s : State) (d c : Nat) {k : Nat} (h : k ≠ rHostClmap) : (s.remapped d c).reg k = s.reg k := by
  unfold State.remapped
  split
  · rfl
  · split
    · exact s.setClmapOut_reg d _ h
    · split
      · exact s.setClmapOut_reg d _ h
      · rfl

theorem State.remapped_clmapOut (s : State) (d c : Nat) : (s.remapped d c).clmapOut d = s.outAfter d c := by
  unfold State.remapped State.outAfter
  split
  · rfl
  · split
    · exact s.setClmapOut_clmapOut d (by omega)
    · split
      · exact s.setClmapOut_clmapOut d (by omega)
      · rfl

/-- Cluster c has moved, and its CC starts anew. -/
def State.restarted (s : State) (d c : Nat) : State := (s.remapped d c).modCluster c (fun x => { x with cache := [] })

theorem State.restarted_frame (s : State) (d c : Nat) : ∃ r,
    s.restarted d c = (s.withRegs r).modCluster c (fun x => { x with cache := [] }) := by
  obtain ⟨r, e⟩ := s.remapped_frame d c
  exact ⟨r, by rw [State.restarted, e]⟩

theorem State.restarted_cluster (s : State) (d c j : Nat) :
    (s.restarted d c).cluster j = if j = c then { s.cluster c with cache := [] } else s.cluster j := by
  obtain ⟨r, e⟩ := s.restarted_frame d c
  rw [e, State.cluster_modCluster]
  rfl

/-- Cluster c of a die has moved, and the walk goes on behind it. -/
def State.moved (s : State) (d c : Nat) : State :=
  let t := s.restarted d c
  (t.incFld rFwUpdstat 15 0).withFw { t.fw with walk := t.fw.walk.filter (· != c), walkAt := t.now }

theorem State.moved_fw (s : State) (d c : Nat) :
    (s.moved d c).fw = { s.fw with walk := s.fw.walk.filter (· != c), walkAt := s.now } := by
  obtain ⟨r, e⟩ := s.restarted_frame d c
  rw [State.moved, e]
  rfl

theorem State.moved_cluster (s : State) (d c j : Nat) :
    (s.moved d c).cluster j = if j = c then { s.cluster c with cache := [] } else s.cluster j := by
  rw [← s.restarted_cluster d c j, State.cluster, State.moved, State.withFw_clusters, State.incFld_clusters]
  rfl

theorem State.moved_reg (s : State) (d c : Nat) {k : Nat} (hupd : k ≠ rFwUpdstat) :
    (s.moved d c).reg k = (s.remapped d c).reg k := by
  rw [State.moved, State.withFw_reg, State.incFld, State.reg_setFld_other _ _ _ _ _ _ hupd, State.restarted,
    State.modCluster_reg]

theorem State.moved_clmapOut (s : State) (d c : Nat) : (s.moved d c).clmapOut d = s.outAfter d c :=
  (State.fld_congr _ _ (s.moved_reg d c (by decide))).trans (s.remapped_clmapOut d c)

theorem State.moved_moves (s : State) (d c : Nat) :
    (s.moved d c).fld rFwUpdstat 15 0 = satTo 16 (s.fld rFwUpdstat 15 0 + 1) := by
  have hcount : (s.restarted d c).fld rFwUpdstat 15 0 = s.fld rFwUpdstat 15 0 := by
    rw [State.fld, State.restarted, State.modCluster_reg, s.remapped_reg d c (by decide)]
    rfl
  rw [← hcount, State.fld, State.moved, State.withFw_reg]
  exact State.incFld_fld_same _ _ _ _ _ (by decide) (by decide)

/-- After a move the update goes on, or, behind the last, the kind has switched. -/
def State.walkOn (s : State) : State := if s.fw.walk.isEmpty then s.switched coreCc else s.setPhase 4

theorem State.walkOn_reg (s : State) {k : Nat} (himg : k ≠ rFwImg coreCc) (hupd : k ≠ rFwUpdstat) :
    s.walkOn.reg k = s.reg k := by
  unfold State.walkOn
  split
  · exact s.switched_reg himg hupd
  · exact s.setPhase_reg 4 hupd

theorem State.walkOn_units (s : State) :
    s.walkOn.clusters = s.clusters ∧ s.walkOn.fw.walk = s.fw.walk
      ∧ s.walkOn.fld rFwUpdstat 15 0 = s.fld rFwUpdstat 15 0 := by
  unfold State.walkOn
  split
  · exact ⟨rfl, rfl, s.switched_moves (by decide)⟩
  · exact ⟨rfl, rfl, s.setPhase_moves 4⟩

theorem State.walkOn_last {s : State} (h : s.fw.walk = []) : s.walkOn = s.switched coreCc := if_pos (by simp [h])

theorem State.walkOn_more {s : State} (h : s.fw.walk ≠ []) : s.walkOn = s.setPhase 4 := if_neg (by simpa using h)

/-- The die after the move of its cluster c. -/
def State.clusterMoved (s : State) (d c : Nat) : State := (s.moved d c).walkOn.showPend d

theorem State.clusterMoved_reg (s : State) (d c : Nat) {k : Nat} (h : k ≠ rHostClmap) :
    (s.clusterMoved d c).reg k = (s.moved d c).walkOn.reg k := State.showPend_reg _ d h

theorem State.clusterMoved_clmapOut (s : State) (d c : Nat) : (s.clusterMoved d c).clmapOut d = s.outAfter d c := by
  rw [State.clusterMoved, State.showPend_clmapOut, ← s.moved_clmapOut d c]
  exact State.fld_congr _ _ (State.walkOn_reg _ (by decide) (by decide))

theorem State.clusterMoved_cluster (s : State) (d c j : Nat) :
    (s.clusterMoved d c).cluster j = if j = c then { s.cluster c with cache := [] } else s.cluster j := by
  obtain ⟨hclusters, -, -⟩ := (s.moved d c).walkOn_units
  rw [State.cluster, State.clusterMoved, State.showPend_clusters, hclusters]
  exact s.moved_cluster d c j

theorem State.clusterMoved_walk (s : State) (d c : Nat) : (s.clusterMoved d c).fw.walk = s.fw.walk.filter (· != c) := by
  obtain ⟨-, hwalk, -⟩ := (s.moved d c).walkOn_units
  rw [State.clusterMoved, State.showPend_fw, hwalk, s.moved_fw d c]

theorem State.clusterMoved_moves (s : State) (d c : Nat) :
    (s.clusterMoved d c).fld rFwUpdstat 15 0 = satTo 16 (s.fld rFwUpdstat 15 0 + 1) := by
  obtain ⟨-, -, hmoves⟩ := (s.moved d c).walkOn_units
  rw [State.fld, s.clusterMoved_reg d c (by decide)]
  exact hmoves.trans (s.moved_moves d c)

theorem State.clusterMoved_updPhase (s : State) (d c : Nat) :
    (s.clusterMoved d c).updPhase = (s.moved d c).walkOn.updPhase :=
  State.fld_congr _ _ (s.clusterMoved_reg d c (by decide))

/-- While clusters are still to be moved the switch goes on. -/
theorem State.clusterMoved_more (s : State) (d : Nat) {c : Nat} (h : s.fw.walk.filter (· != c) ≠ []) :
    (s.clusterMoved d c).updPhase = 4 ∧ (s.clusterMoved d c).fw.switching = s.fw.switching := by
  have hon : (s.moved d c).walkOn = (s.moved d c).setPhase 4 := State.walkOn_more (by rw [s.moved_fw]; exact h)
  rw [s.clusterMoved_updPhase, State.clusterMoved, State.showPend_fw, hon, State.setPhase_fw, s.moved_fw d c]
  exact ⟨State.setPhase_updPhase _ (by decide), rfl⟩

/-- Behind the last move the CCs run from their other slot. -/
theorem State.clusterMoved_last (s : State) (d : Nat) {c : Nat} (h : s.fw.walk.filter (· != c) = []) :
    (s.clusterMoved d c).updPhase = 5 ∧ (s.clusterMoved d c).fw.switching = none
      ∧ (s.clusterMoved d c).activeSlot coreCc = 1 - s.activeSlot coreCc := by
  have hon : (s.moved d c).walkOn = (s.moved d c).switched coreCc := State.walkOn_last (by rw [s.moved_fw]; exact h)
  have hold : (s.moved d c).activeSlot coreCc = s.activeSlot coreCc := State.activeSlot_congr
    ((s.moved_reg d c (by decide)).trans (s.remapped_reg d c (by decide)))
  have hslot : (s.clusterMoved d c).activeSlot coreCc = (s.moved d c).walkOn.activeSlot coreCc :=
    State.activeSlot_congr (s.clusterMoved_reg d c (by decide))
  rw [s.clusterMoved_updPhase, hslot, State.clusterMoved, State.showPend_fw, hon, State.switched_fw, ← hold]
  exact ⟨State.switched_updPhase _ _, rfl, State.switched_activeSlot _ (by decide)⟩

/-- No move waits on the die. -/
theorem State.clusterMove_idle {s : State} {d : Nat}
    (h : (∀ a, s.fw.switching ≠ some (coreCc, a)) ∨ s.fw.walk.find? (fun c => c / 16 == d) = none) :
    s.clusterMove d = s := by
  unfold State.clusterMove
  split
  · next a c hs hf =>
    rcases h with h | h
    · exact absurd hs (h a)
    · rw [h] at hf
      cases hf
  · rfl

section Move

variable {s : State} {d a c : Nat} (hs : s.fw.switching = some (coreCc, a))
  (hf : s.fw.walk.find? (fun c => c / 16 == d) = some c)

include hs hf

/-- A move waits while a slot owns the cluster or may soon, a step runs on it, or a mapping waits. -/
theorem State.clusterMove_held (h : (s.cluster c).run.isSome = true ∨ (s.pendingOut d).isSome = true
      ∨ ¬ (s.partOf c = none ∨ (s.atBoundary = true ∧ s.slotOwns c s.now 30000 = false))) : s.clusterMove d = s := by
  have hs' : s.fw.switching = some (3, a) := hs
  simp only [State.clusterMove, hs', hf]
  refine if_pos ?_
  rcases h with h | h | h
  · simp [h]
  · simp [h]
  · obtain ⟨hp, hb⟩ := not_or.mp h
    have hpart : (s.partOf c).isNone = false := Option.isNone_eq_false_iff.mpr (Option.ne_none_iff_isSome.mp hp)
    have hslot : (s.atBoundary && !s.slotOwns c s.now 30000) = false := by simpa using hb
    simp [hpart, hslot]

theorem State.clusterMove_goes (hfree : s.partOf c = none ∨ (s.atBoundary = true ∧ s.slotOwns c s.now 30000 = false))
    (hrun : (s.cluster c).run = none) (hpend : s.pendingOut d = none) : s.clusterMove d = s.clusterMoved d c := by
  have hs' : s.fw.switching = some (3, a) := hs
  have hmove : s.clusterMove d = if !((s.partOf c).isNone || (s.atBoundary && !s.slotOwns c s.now 30000))
      || (s.cluster c).run.isSome || (s.pendingOut d).isSome then s else s.clusterMoved d c := by
    simp only [State.clusterMove, hs', hf]
    rfl
  rw [hmove]
  refine if_neg ?_
  rcases hfree with h | ⟨hb, ho⟩
  · simp [h, hrun, hpend]
  · simp [hb, ho, hrun, hpend]

end Move

/-! ### HORIZON (R422, R424) -/

theorem State.horizonExpiry_idle {s : State} (hwalk : s.fw.walk = [] ∨ s.updPhase ≠ 4 ∨ s.now < s.fw.walkAt + s.horizon)
    (hqueue : ∀ q ∈ s.fw.queue, q.running = true ∨ q.deferred = true ∨ s.now < q.queuedAt + s.horizon) :
    s.horizonExpiry = s := by
  have hnone : s.fw.queue.filter (fun q => !q.running && !q.deferred && decide (q.queuedAt + s.horizon ≤ s.now)) = [] := by
    refine List.filter_eq_nil_iff.mpr fun q hq => ?_
    rcases hqueue q hq with h | h | h
    · simp [h]
    · simp [h]
    · simp [h]
  have hgoes : (!s.fw.walk.isEmpty && s.updPhase == 4 && decide (s.fw.walkAt + s.horizon ≤ s.now)) = false := by
    rcases hwalk with h | h | h
    · simp [h]
    · simp [h]
    · simp [h]
  simp only [State.horizonExpiry, hgoes, Bool.false_eq_true, if_false, hnone, List.foldl_nil]

/-- A walk that HORIZON ends is reported. -/
theorem State.horizonExpiry_walk {s : State} (hwalk : s.fw.walk ≠ []) (hphase : s.updPhase = 4)
    (hlate : s.fw.walkAt + s.horizon ≤ s.now) (hqueue : s.fw.queue = []) :
    s.horizonExpiry = (s.setPhase 7).pfev 6 0 := by
  obtain ⟨r, h, o, e, -⟩ := (s.setPhase 7).pfev_frame 6 0
  have hfw : ((s.setPhase 7).pfev 6 0).fw = s.fw := by rw [e]; rfl
  have hgoes : (!s.fw.walk.isEmpty && s.updPhase == 4 && decide (s.fw.walkAt + s.horizon ≤ s.now)) = true := by
    simpa [hphase, hlate] using hwalk
  simp only [State.horizonExpiry, hgoes, if_true, hfw, hqueue, List.filter_nil, List.foldl_nil]

/-- A record that follows a change of other registers is posted as from before it. -/
theorem recordPosted.of_ring {s u t : State} {f : Nat} {ws : List W64} (h : recordPosted u t f ws)
    (hreg : ∀ k ∈ [rEbase f, rEhead f, rEstat f], u.reg k = s.reg k) (hmem : u.hostMem = s.hostMem)
    (hhost : u.host = s.host) : recordPosted s t f ws := by
  have hbase := hreg (rEbase f) (by simp)
  have hhead : u.fld (rEhead f) 15 0 = s.fld (rEhead f) 15 0 := State.fld_congr _ _ (hreg _ (by simp))
  have hstat : ∀ hi lo, u.fld (rEstat f) hi lo = s.fld (rEstat f) hi lo := fun _ _ =>
    State.fld_congr _ _ (hreg _ (by simp))
  simpa only [recordPosted, State.ringShut, hbase, hhead, hstat, hmem, hhost] using h

theorem State.pfev_recordPosted (s : State) (block : Nat) :
    recordPosted s (s.pfev block 0) 0 [evWord 9 0 (block * 2 ^ 48), s.nowWord, 0, 0] := s.postAt_recordPosted ..

/-! ### What waited for SEC (Table 16.3) -/

/-- Nothing waits for SEC any more, and each response that waited has been judged. -/
theorem State.secResume_units (s : State) : s.secResume.tap.waiting = [] ∧ s.secResume.fw.waits = []
    ∧ s.secResume.fw.switching = s.fw.switching
    ∧ s.secResume.tap.unlocked = (s.tap.unlocked || s.tap.waiting.any (fun x => Config.unlockVerifies x.1 x.2)) := by
  obtain ⟨hwaits, hswitching, htap⟩ := s.secActed_keepsSec
  rw [State.secResume_eq, htap]
  exact ⟨rfl, hwaits, hswitching, rfl⟩

/-- An update that waited for SEC begins. -/
theorem State.secResume_begins {s : State} {v : W64} (hw : s.fw.waits = [(true, v)]) (h : bit v 63 = true)
    (hp : s.updPhase = 5) : s.secResume.updPhase = 1
      ∧ s.secResume.fw.upd = some { kind := bf v 62 61, activate := bit v 60, len := bf v 31 0
                                    addr := (s.reg rFwUpdaddr).toNat, startedAt := s.now } := by
  have hacted : s.secActed = (s.withFw { s.fw with waits := [] }).updWrite v := by
    rw [State.secActed, hw]
    rfl
  obtain ⟨hphase, hupd⟩ := State.updWrite_begins (s := s.withFw { s.fw with waits := [] }) h hp
  rw [State.secResume_eq, hacted]
  generalize (s.withFw { s.fw with waits := [] }).updWrite v = t at hphase hupd
  exact ⟨hphase, hupd⟩

/-- Settles O52: kind by kind; a switch row by what it finds waiting, a move by whether its cluster is free. -/
theorem liveSwitchesKeepTheirOrder : Obligations.LiveSwitchesKeepTheirOrder := by
  unfold Obligations.LiveSwitchesKeepTheirOrder
  intro s
  refine ⟨fun i k hi => ⟨fun h => exec_switch_idle hi h, fun a h hsch hsec hpwr => ?_⟩,
    fun h => congrArg Host.Outcome.next (State.schSwitch_between h), fun a h hgrade => ?_, fun a h => ?_,
    fun d => ⟨fun h => congrArg Host.Outcome.next (State.clusterMove_idle h),
      fun a c hs hf => ⟨fun h => congrArg Host.Outcome.next (State.clusterMove_held hs hf h),
        fun hfree hrun hpend => ?_⟩⟩,
    fun hwalk hqueue => congrArg Host.Outcome.next (State.horizonExpiry_idle hwalk hqueue),
    fun hwalk hphase hlate hqueue => ?_⟩
  · have hk : k < 4 := by
      simp only [List.mem_cons, Prod.mk.injEq, List.not_mem_nil, or_false] at hi
      rcases hi with ⟨-, rfl⟩ | ⟨-, rfl⟩ | ⟨-, rfl⟩ <;> decide
    exact ⟨_, exec_switch_waiting hi h hsch hsec hpwr, s.switched_activeSlot hk, rfl, s.switched_updPhase k,
      sget_sset_same 0 s.fw.trialAt k (s.now + 1), fun j himg hupd => s.switched_reg himg hupd, s.switched_units k⟩
  · have hgo := exec_pwrSwitch_waiting h
    rw [hgrade, if_neg Bool.false_ne_true] at hgo
    have honly := (s.switched corePwr).setGrade_gradeOnly 0
    refine ⟨_, hgo, (honly.activeSlot (by decide)).trans (s.switched_activeSlot (by decide)),
      by rw [honly.fw, State.switched_fw], honly.updPhase.trans (s.switched_updPhase corePwr),
      State.setGrade_grade _ (by decide), ?_⟩
    rw [honly.fw]
    exact honly.units
  · rw [exec_secSwitch, State.switchKind_waiting h, State.switchEnd_sec]
    obtain ⟨hwaiting, hwaits, hswitching, hunlocked⟩ := (s.switched coreSec).secResume_units
    refine ⟨_, rfl, hwaiting, hwaits, hswitching, hunlocked, fun v hw hv => ?_⟩
    obtain ⟨hphase, hupd⟩ := State.secResume_begins (s := s.switched coreSec) hw hv (s.switched_updPhase coreSec)
    rw [s.switched_reg (by decide) (by decide)] at hupd
    exact ⟨hphase, hupd⟩
  · exact ⟨_, congrArg Host.Outcome.next (State.clusterMove_goes hs hf hfree hrun hpend),
      s.clusterMoved_clmapOut d.val c, (s.clusterMoved_cluster d.val c c).trans (if_pos rfl),
      fun j hj => (s.clusterMoved_cluster d.val c j).trans (if_neg hj),
      s.clusterMoved_walk d.val c, s.clusterMoved_moves d.val c, s.clusterMoved_more d.val, s.clusterMoved_last d.val⟩
  · refine ⟨_, congrArg Host.Outcome.next (State.horizonExpiry_walk hwalk hphase hlate hqueue), ?_⟩
    obtain ⟨r, m, o, e, -⟩ := (s.setPhase 7).pfev_frame 6 0
    have hupd := (s.setPhase 7).pfev_reg 6 0 (k := rFwUpdstat) (by decide)
    have hring : ∀ k ∈ [rEbase 0, rEhead 0, rEstat 0], (s.setPhase 7).reg k = s.reg k := fun k hk => by
      simp only [List.mem_cons, List.not_mem_nil, or_false] at hk
      rcases hk with rfl | rfl | rfl <;> exact s.setPhase_reg 7 (by decide)
    exact ⟨(State.fld_congr _ _ hupd).trans (s.setPhase_updPhase (by decide)),
      ((s.setPhase 7).pfev_recordPosted 6).of_ring hring rfl rfl, by rw [e]; rfl, by rw [e]; rfl⟩

end Sys2Proof.Machine
end

section

namespace Sys2Proof.Machine

/-! ### A window that comes due in a halt (R62, R454) -/

/-- A send window of 100 ns on link 0 at the start of its slot, in a step that began at 0. -/
def runWithWindow : SlotRun :=
  { kernel := 5, start := 0, len := 1000, clusters := [0], waiting := [], phase := .step
    wins := [(0, { w0 := 1 <<< 63 ||| 10 <<< 24 })] }

/-- A halted module in FALLBACK: partition 0 has the window of slot 0 due now. -/
def haltedAtWindow : State :=
  ((State.reset.setBit rTtStatus 7 true).setBit rTrcHstat 63 true).withParts [(0, { slots := [(0, some runWithWindow)] })]

/-- That window, as the slot's run has it. -/
def dueWindow : WinAt :=
  { p := 0, key := 0, x := 0, run := { w0 := 1 <<< 63 ||| 10 <<< 24 }
    e := winEntryOf (1 <<< 63 ||| 10 <<< 24) 0, opening := 0 }

theorem haltedAtWindow_due :
    haltedAtWindow.winRunOf (0 : PartId).val (0 : SlotId).val (0 : WinId).val (fun r => !r.opened) = some dueWindow := rfl

/-- Data that travels unscheduled waits for the halt's end: nothing happens. -/
theorem exec_sendWindowOpen_haltedAtWindow : exec (.sendWindowOpen 0 0 0) haltedAtWindow = .next haltedAtWindow := by
  refine congrArg Host.Outcome.next ?_
  unfold State.windowOpen
  rw [haltedAtWindow_due]
  exact if_pos (by decide +kernel)

/-- Refutes O30: in FALLBACK a window's data travels unscheduled, from the opening on (R62), but not while the module is
halted (R454): a window that comes due in a halt stays shut, where the statement opens it. -/
theorem not_windowsAndStaging : ¬ Obligations.WindowsAndStaging := by
  unfold Obligations.WindowsAndStaging
  rintro ⟨h, -⟩
  obtain ⟨hopen, -⟩ := h 0 0 0 haltedAtWindow dueWindow
  obtain ⟨-, hdue⟩ := hopen haltedAtWindow_due
  obtain ⟨t, ht, hslot, -⟩ := hdue (by decide +kernel)
  rw [exec_sendWindowOpen_haltedAtWindow] at ht
  cases ht
  exact absurd hslot (by decide +kernel)

end Sys2Proof.Machine
end

section

namespace Sys2Proof.Machine

/-! ### What a frame boundary finds to do (R22, R49, R63, R351) -/

theorem State.clearFallback_of_clear {s : State} (h : s.fbit rTtStatus 7 = false) : s.clearFallback = s :=
  if_pos (.inl (by simpa [stFallback] using h))

theorem State.takeCommit_of_none {s : State} {p : Nat} (h : s.fbit (rTtFrame p) 61 = false) : s.takeCommit p = s :=
  if_pos (by simp [h])

theorem State.takeClmap_of_none {s : State} (h0 : s.pendingOut 0 = none) (h1 : s.pendingOut 1 = none) : s.takeClmap = s := by
  simp [State.takeClmap, h0, h1]

/-- A link whose partition's count of timing violations restarts. -/
def Link.violationsRestart (x : Link) (p : Nat) : Link := { x with dviol := sset 0 x.dviol p 0 }

/-- What frameLinks does on one link. -/
def State.frameLink (s : State) (p l : Nat) : State :=
  let x := s.link l
  let own := (s.tmpl p).hasLink l
  let s := if own && x.restoreAsked then s.setBit (rLst l) 59 false else s
  s.setLink l { x with restoreAsked := x.restoreAsked && !own, dviol := sset 0 x.dviol p 0 }

theorem State.frameLinks_eq (s : State) (p : Nat) :
    s.frameLinks p = (List.range 48).foldl (fun s l => s.frameLink p l) s := rfl

theorem State.frameLink_of_other {s : State} {p l : Nat} (h : (s.tmpl p).hasLink l = false) :
    s.frameLink p l = s.modLink l (·.violationsRestart p) := by
  simp [State.frameLink, h, State.modLink, Link.violationsRestart]

/-- With no link of its own, a partition's frame restarts its counts of violations and does nothing else to the links. -/
theorem State.frameLinks_restart {s : State} {p : Nat} (h : ∀ l, (s.tmpl p).hasLink l = false) :
    s.frameLinks p = s.withLinks (s.frameLinks p).links ∧ s.violationsRestart (s.frameLinks p) p := by
  rw [State.frameLinks_eq]
  suffices loop : ∀ n, (List.range n).foldl (fun s l => s.frameLink p l) s
        = s.withLinks ((List.range n).foldl (fun s l => s.frameLink p l) s).links
      ∧ ∀ l, ((List.range n).foldl (fun s l => s.frameLink p l) s).link l
        = if l < n then (s.link l).violationsRestart p else s.link l from loop 48
  intro n
  induction n with
  | zero => exact ⟨rfl, fun l => rfl⟩
  | succ n ih =>
    obtain ⟨honly, hlink⟩ := ih
    rw [List.range_succ, List.foldl_append, List.foldl_cons, List.foldl_nil]
    generalize (List.range n).foldl (fun s l => s.frameLink p l) s = t at honly hlink
    rw [State.frameLink_of_other (show (t.tmpl p).hasLink n = false by rw [honly]; exact h n)]
    refine ⟨by rw [honly]; rfl, fun l => ?_⟩
    rw [State.link_modLink, hlink n, hlink l]
    by_cases hl : l = n
    · subst hl
      simp
    · simp [hl, show l < n + 1 ↔ l < n by omega]

/-- The frame of partition p that a boundary begins: none where the timetable is not enabled, or its length and phase
name another instant. -/
def State.frameNow (s : State) (p : Nat) : Option Nat :=
  if s.fbit (rTtFrame p) 63 && isFrameStart s.now (s.part p).actLen (s.part p).actPhase then some s.now else none

/-- The partition's frame begins, or none does. -/
def State.setFrame (s : State) (p : Nat) : State := s.setPart p { s.part p with frame := s.frameNow p }

/-- Whether partition p has a boundary now: a frame start, or, while no length is in force, the first boundary of a
commit. -/
def State.atFrameBoundary (s : State) (p : Nat) : Bool :=
  isFrameStart s.now (s.part p).actLen (s.part p).actPhase || ((s.part p).actLen == 0 && s.firstBoundary p)

theorem exec_frameBoundary (p : PartId) (s : State) : exec (.frameBoundary p) s = .next (s.frameBoundary p.val) := rfl

/-- Between boundaries, before READY, and twice in an instant nothing happens. -/
theorem State.frameBoundary_idle {s : State} {p : Nat}
    (h : s.ready = false ∨ s.atFrameBoundary p = false ∨ (s.part p).frame = some s.now) : s.frameBoundary p = s := by
  refine if_pos ?_
  change (!s.ready || !s.atFrameBoundary p || (s.part p).frame == some s.now) = true
  rcases h with h | h | h <;> simp [h]

/-- A boundary takes the commit and restarts the counts of violations; then the frame begins. -/
theorem State.frameBoundary_begins {s : State} {p : Nat} (hready : s.ready = true) (hat : s.atFrameBoundary p = true)
    (hframe : (s.part p).frame ≠ some s.now) (hfall : s.fbit rTtStatus 7 = false)
    (hserving : (s.takeCommit p).reg (rScu p + 8) = 0)
    (h0 : (((s.takeCommit p).frameLinks p).setFrame p).pendingOut 0 = none)
    (h1 : (((s.takeCommit p).frameLinks p).setFrame p).pendingOut 1 = none) :
    s.frameBoundary p = ((s.takeCommit p).frameLinks p).setFrame p := by
  have hgo : (!s.ready || !s.atFrameBoundary p || (s.part p).frame == some s.now) = false := by
    simpa [hready, hat] using hframe
  refine (if_neg (Bool.eq_false_iff.mp hgo)).trans ?_
  rw [State.clearFallback_of_clear hfall, hserving]
  exact State.takeClmap_of_none h0 h1

/-- With no link of its own partition p's frame touches the timetable's partition and the links alone. -/
theorem State.setFrame_frameLinks {s : State} {p : Nat} (h : ∀ l, (s.tmpl p).hasLink l = false) :
    ((s.frameLinks p).setFrame p).part p = { s.part p with frame := s.frameNow p }
      ∧ (∀ q, q ≠ p → ((s.frameLinks p).setFrame p).part q = s.part q)
      ∧ s.violationsRestart ((s.frameLinks p).setFrame p) p
      ∧ (s.frameLinks p).setFrame p
        = (s.withParts ((s.frameLinks p).setFrame p).parts).withLinks ((s.frameLinks p).setFrame p).links := by
  obtain ⟨honly, hrestart⟩ := s.frameLinks_restart h
  generalize s.frameLinks p = t at honly hrestart
  refine ⟨?_, fun q hq => ?_, hrestart, ?_⟩
  · rw [State.setFrame, State.part_setPart, if_pos rfl, honly]; rfl
  · rw [State.setFrame, State.part_setPart, if_neg hq, honly]; rfl
  · rw [honly]; rfl

/-- Settles O22: an instant that the length and phase do not name is no boundary; at one that they name, each thing that
a boundary may find to do is absent but the links' counts. -/
theorem frameBeginsAtItsInstant : Obligations.FrameBeginsAtItsInstant := by
  unfold Obligations.FrameBeginsAtItsInstant
  intro p s
  rw [exec_frameBoundary]
  refine ⟨fun hstart hno => ?_, fun hready => ?_, fun hready hstart hframe hfall hpend h0 h1 hscu hlinks => ?_⟩
  · have hfirst : ((s.part p.val).actLen == 0 && s.firstBoundary p.val) = false := by
      rcases hno with h | h
      · simp [h]
      · simp [State.firstBoundary, h]
    rw [State.frameBoundary_idle (.inr (.inl (by rw [State.atFrameBoundary, hstart, hfirst]; rfl)))]
  · rw [State.frameBoundary_idle (.inl hready)]
  · have hnone := State.takeCommit_of_none hpend
    obtain ⟨hpart, hother, hrestart, honly⟩ := State.setFrame_frameLinks hlinks
    have hout : ∀ d, ((s.frameLinks p.val).setFrame p.val).pendingOut d = s.pendingOut d := fun d => by rw [honly]; rfl
    refine ⟨_, congrArg Host.Outcome.next (State.frameBoundary_begins hready (by simp [State.atFrameBoundary, hstart])
      hframe hfall (by rw [hnone, hscu]) (by rw [hnone, hout, h0]) (by rw [hnone, hout, h1])), ?_⟩
    rw [hnone]
    refine ⟨?_, hother, hrestart, honly⟩
    rw [hpart, State.frameNow, hstart, Bool.and_true]

end Sys2Proof.Machine
end

section

namespace Sys2Proof.Machine

/-! ### Lists without repetition -/

theorem nodup_eraseDups {α : Type} [BEq α] [LawfulBEq α] : ∀ l : List α, l.eraseDups.Nodup
  | [] => List.nodup_nil
  | a :: l => by
    rw [List.eraseDups_cons, List.nodup_cons]
    exact ⟨by simp [List.mem_eraseDups], nodup_eraseDups _⟩
termination_by l => l.length
decreasing_by exact Nat.lt_succ_of_le (List.length_filter_le _ _)

/-! ### Exchanging the banks of a timetable (R49) -/

theorem regGet_regPut (m : SMap W64) (k j : Nat) (v : W64) : regGet (regPut m k v) j = if j = k then v else regGet m j := by
  by_cases h : j = k
  · simp [regGet, regPut, h]
  · simp [regGet, regPut, sget_sset, h]

/-- Exchange what the two banks hold at one key. -/
def swapKey (m : SMap W64) (k : Nat) : SMap W64 :=
  regPut (regPut m k (regGet m (k + activeBank))) (k + activeBank) (regGet m k)

theorem regGet_swapKey (m : SMap W64) (k j : Nat) : regGet (swapKey m k) j =
    if j = k + activeBank then regGet m k else if j = k then regGet m (k + activeBank) else regGet m j := by
  rw [swapKey, regGet_regPut, regGet_regPut]

/-- The key of the same entry in the other bank, where one of two keys is in the list. -/
def otherBank (ks : List Nat) (j : Nat) : Nat :=
  if j ∈ ks then j + activeBank else if activeBank ≤ j ∧ j - activeBank ∈ ks then j - activeBank else j

/-- Exchanges at several keys below the active bank meet each pair of keys once. -/
theorem regGet_swapKeys {ks : List Nat} (hnodup : ks.Nodup) (hlow : ∀ k ∈ ks, k < activeBank) (m : SMap W64) (j : Nat) :
    regGet (ks.foldl swapKey m) j = regGet m (otherBank ks j) := by
  induction ks generalizing m with
  | nil => simp [otherBank]
  | cons k ks ih =>
    obtain ⟨hk, hks⟩ := List.nodup_cons.mp hnodup
    have hklow := hlow k List.mem_cons_self
    have hrest : ∀ i ∈ ks, i ≠ k ∧ i < activeBank := fun i hi =>
      ⟨fun e => hk (e ▸ hi), hlow i (List.mem_cons_of_mem _ hi)⟩
    rw [List.foldl_cons, ih hks (fun i hi => (hrest i hi).2), regGet_swapKey]
    grind [otherBank]

/-- The keys of partition p's slot and window entries in its standby bank. -/
def inBank (p k : Nat) : Prop := rTtFrame p + 0x200 ≤ k ∧ k < rTtFrame p + 0x1000

/-- Those at which either bank differs from its reset value. -/
def bankKeys (m : SMap W64) (p : Nat) : List Nat :=
  ((m.map (fun e => e.1 % 2 ^ 48)).filter
    (fun k => decide (rTtFrame p + 0x200 ≤ k) && decide (k < rTtFrame p + 0x200 + 0xE00))).eraseDups

theorem swapBanks_eq (m : SMap W64) (p : Nat) : swapBanks m p = (bankKeys m p).foldl swapKey m := rfl

theorem mem_bankKeys {m : SMap W64} {p k : Nat} : k ∈ bankKeys m p ↔ (∃ e ∈ m, e.1 % 2 ^ 48 = k) ∧ inBank p k := by
  simp [bankKeys, List.mem_eraseDups, inBank]

theorem inBank.lt {p k : Nat} (h : inBank p k) (hp : p < 16) : k < activeBank := by
  obtain ⟨-, h⟩ := h
  unfold rTtFrame at h
  unfold activeBank
  omega

theorem regGet_unlisted {m : SMap W64} {k : Nat} (h : ∀ e ∈ m, e.1 ≠ k) : regGet m k = resetWord (layoutOf k) := by
  rcases sget_mem_or (0 : W64) m k with e | e
  · rw [regGet, e]
    exact BitVec.zero_xor
  · exact absurd rfl (h _ e)

/-- A register has the same fields in both banks. -/
theorem layoutOf_active (k : Nat) : layoutOf (k + activeBank) = layoutOf k := by
  simp [layoutOf, activeBank]

theorem regGet_swapBanks (m : SMap W64) {p : Nat} (hp : p < 16) (j : Nat) :
    regGet (swapBanks m p) j = regGet m (otherBank (bankKeys m p) j) := by
  rw [swapBanks_eq]
  exact regGet_swapKeys (nodup_eraseDups _) (fun k hk => (mem_bankKeys.mp hk).2.lt hp) m j

/-- The standby bank then holds what the active one held, and the other way round. -/
theorem regGet_swapBanks_bank (m : SMap W64) {p k : Nat} (hp : p < 16) (hk : inBank p k) :
    regGet (swapBanks m p) k = regGet m (k + activeBank) ∧ regGet (swapBanks m p) (k + activeBank) = regGet m k := by
  have hlow := hk.lt hp
  have hhigh : k + activeBank ∉ bankKeys m p := fun h => absurd ((mem_bankKeys.mp h).2.lt hp) (by omega)
  rw [regGet_swapBanks m hp, regGet_swapBanks m hp]
  by_cases h : k ∈ bankKeys m p
  · simp [otherBank, h, hhigh]
  · have unlisted : ∀ e ∈ m, e.1 % 2 ^ 48 ≠ k := fun e he hek => h (mem_bankKeys.mpr ⟨⟨e, he, hek⟩, hk⟩)
    have same : regGet m (k + activeBank) = regGet m k := by
      unfold activeBank at hlow
      rw [regGet_unlisted (k := k + activeBank) fun e he hek => unlisted e he (by unfold activeBank at hek; omega),
        regGet_unlisted (k := k) fun e he hek => unlisted e he (by omega), layoutOf_active]
    simp [otherBank, h, hhigh, Nat.not_le.mpr hlow, same]

/-- No register outside the two banks changes. -/
theorem regGet_swapBanks_other (m : SMap W64) {p j : Nat} (hp : p < 16) (h : ¬ inBank p j)
    (h' : activeBank ≤ j → ¬ inBank p (j - activeBank)) : regGet (swapBanks m p) j = regGet m j := by
  rw [regGet_swapBanks m hp, otherBank, if_neg fun hj => h (mem_bankKeys.mp hj).2,
    if_neg fun hj => h' hj.1 (mem_bankKeys.mp hj.2).2]

/-! ### A commit at its boundary (R49, R50, Table 2.10) -/

theorem State.fbit_setFld (s : State) (k hi lo v i : Nat) : (s.setFld k hi lo v).fbit k i =
    if i < 64 ∧ lo ≤ i ∧ i - lo < hi - lo + 1 then v.testBit (i - lo) else s.fbit k i := by
  rw [State.fbit, bit, State.reg_setFld_same, getLsbD_setBf]; rfl

theorem State.fbit_setFld_beside (s : State) {k hi lo v i : Nat} (hl : lo ≤ hi) (h : i < lo ∨ hi < i) :
    (s.setFld k hi lo v).fbit k i = s.fbit k i := by
  rw [State.fbit_setFld, if_neg (by omega)]

theorem State.commitCode_le (s : State) (p : Nat) : s.commitCode p ≤ 6 := by
  unfold State.commitCode
  dsimp only
  split_ifs <;> decide

/-- A commit's verdict in TT_FRAME: it waits no more, and REJECT and REJ_CODE say how it went. -/
def State.verdict (s : State) (p code : Nat) : State :=
  ((s.setBit (rTtFrame p) 61 false).setBit (rTtFrame p) 60 (decide (code ≠ 0))).setFld (rTtFrame p) 59 56 code

theorem State.verdict_reg (s : State) (p code : Nat) {k : Nat} (h : k ≠ rTtFrame p) :
    (s.verdict p code).reg k = s.reg k := by
  simp only [State.verdict, State.setBit, State.reg_setFld_other _ _ _ _ _ _ h]

theorem State.verdict_bits (s : State) (p : Nat) {code : Nat} (h : code < 16) :
    (s.verdict p code).fbit (rTtFrame p) 61 = false ∧ (s.verdict p code).fbit (rTtFrame p) 60 = decide (code ≠ 0)
      ∧ (s.verdict p code).fld (rTtFrame p) 59 56 = code := by
  refine ⟨?_, ?_, State.fld_setFld_lt _ _ _ _ _ (by decide) (by decide) h⟩
  · rw [State.verdict, State.fbit_setFld_beside _ (by decide) (by decide), State.setBit,
      State.fbit_setFld_beside _ (by decide) (by decide), State.fbit_setBit_same _ _ _ (by decide)]
  · rw [State.verdict, State.fbit_setFld_beside _ (by decide) (by decide), State.fbit_setBit_same _ _ _ (by decide)]

/-- ENABLE, FRAME_LEN and PHASE stay as they were programmed. -/
theorem State.verdict_programmed (s : State) (p code : Nat) :
    (s.verdict p code).fbit (rTtFrame p) 63 = s.fbit (rTtFrame p) 63
      ∧ (s.verdict p code).fld (rTtFrame p) 48 32 = s.fld (rTtFrame p) 48 32
      ∧ (s.verdict p code).fld (rTtFrame p) 16 0 = s.fld (rTtFrame p) 16 0 := by
  simp only [State.verdict, State.setBit]
  refine ⟨?_, ?_, ?_⟩
  · iterate 3 rw [State.fbit_setFld_beside _ (by decide) (by decide)]
  · iterate 3 rw [State.fld_setFld_other _ _ _ _ _ _ _ (by decide) (by decide) (by decide)]
  · iterate 3 rw [State.fld_setFld_other _ _ _ _ _ _ _ (by decide) (by decide) (by decide)]

/-- A commit that passes: the banks exchanged, and its length and phase in force. -/
def State.commitPassed (s : State) (p : Nat) : State :=
  ((s.verdict p 0).withRegs (swapBanks (s.verdict p 0).regs p)).modPart p (fun q =>
    { q with
      actLen := ((s.verdict p 0).withRegs (swapBanks (s.verdict p 0).regs p)).fld (rTtFrame p) 48 32
      actPhase := ((s.verdict p 0).withRegs (swapBanks (s.verdict p 0).regs p)).fld (rTtFrame p) 16 0 })

theorem State.takeCommit_rejected {s : State} {p : Nat} (hpend : s.fbit (rTtFrame p) 61 = true) (h : s.commitCode p ≠ 0) :
    s.takeCommit p = s.verdict p (s.commitCode p) := by
  simp only [State.takeCommit, hpend, Bool.not_true, Bool.false_eq_true, if_false, h, State.verdict, ne_eq,
    not_false_eq_true, decide_true]

theorem State.takeCommit_passed {s : State} {p : Nat} (hpend : s.fbit (rTtFrame p) 61 = true) (h : s.commitCode p = 0) :
    s.takeCommit p = s.commitPassed p := by
  simp only [State.takeCommit, hpend, Bool.not_true, Bool.false_eq_true, if_false, h, if_true]
  rfl

/-- The registers of a commit that passes. -/
theorem State.commitPassed_reg (s : State) {p : Nat} (hp : p < 16) (k : Nat) :
    (inBank p k → (s.commitPassed p).reg k = s.reg (k + activeBank)
        ∧ (s.commitPassed p).reg (k + activeBank) = s.reg k)
      ∧ (¬ inBank p k → (activeBank ≤ k → ¬ inBank p (k - activeBank)) →
        (s.commitPassed p).reg k = (s.verdict p 0).reg k) := by
  refine ⟨fun hk => ?_, fun h h' => regGet_swapBanks_other _ hp h h'⟩
  obtain ⟨hstandby, hactive⟩ := regGet_swapBanks_bank (s.verdict p 0).regs hp hk
  have hlow := hk.lt hp
  obtain ⟨hlo, -⟩ := hk
  have hreg : ∀ j, j ≠ rTtFrame p → regGet (s.verdict p 0).regs j = s.reg j := fun j hj => s.verdict_reg p 0 hj
  exact ⟨hstandby.trans (hreg _ (by unfold rTtFrame activeBank at *; omega)),
    hactive.trans (hreg _ (by unfold rTtFrame at *; omega))⟩

/-- A register below the active banks that lies in no bank of the partition. -/
theorem State.commitPassed_reg_outside (s : State) {p k : Nat} (hp : p < 16)
    (h : k < rTtFrame p + 0x200 ∨ rTtFrame p + 0x1000 ≤ k) (hlow : k < activeBank) :
    (s.commitPassed p).reg k = (s.verdict p 0).reg k :=
  (s.commitPassed_reg hp k).2 (fun hk => by obtain ⟨h1, h2⟩ := hk; omega) (fun hge => absurd hge (by omega))

theorem rTtFrame_lt {p : Nat} (hp : p < 16) : rTtFrame p < activeBank := by unfold rTtFrame activeBank; omega

/-- Both verdicts show in TT_FRAME, and it keeps what was programmed. -/
theorem State.takeCommit_ttFrame {s : State} {p : Nat} (hp : p < 16) (hpend : s.fbit (rTtFrame p) 61 = true) :
    (s.takeCommit p).reg (rTtFrame p) = (s.verdict p (s.commitCode p)).reg (rTtFrame p) := by
  by_cases h : s.commitCode p = 0
  · rw [State.takeCommit_passed hpend h, h, s.commitPassed_reg_outside hp (.inl (by omega)) (rTtFrame_lt hp)]
  · rw [State.takeCommit_rejected hpend h]

/-- What a commit leaves of the registers beside TT_FRAME and the banks. -/
theorem State.takeCommit_reg {s : State} {p k : Nat} (hp : p < 16) (hpend : s.fbit (rTtFrame p) 61 = true)
    (h : k < rTtFrame p ∨ rTtFrame p + 0x1000 ≤ k) (hlow : k < activeBank) :
    (s.takeCommit p).reg k = s.reg k := by
  have hne : k ≠ rTtFrame p := by omega
  by_cases hcode : s.commitCode p = 0
  · rw [State.takeCommit_passed hpend hcode, s.commitPassed_reg_outside hp (by omega) hlow, s.verdict_reg p 0 hne]
  · rw [State.takeCommit_rejected hpend hcode, s.verdict_reg p _ hne]

/-- A commit changes registers and the length and phase in force alone. -/
theorem State.takeCommit_frame {s : State} {p : Nat} (hpend : s.fbit (rTtFrame p) 61 = true) :
    s.takeCommit p = (s.withRegs (s.takeCommit p).regs).withParts (s.takeCommit p).parts
      ∧ (s.takeCommit p).tmpl p = s.tmpl p := by
  by_cases h : s.commitCode p = 0
  · rw [State.takeCommit_passed hpend h]
    refine ⟨rfl, ?_⟩
    rw [State.tmpl, State.commitPassed, State.part_modPart, if_pos rfl]; rfl
  · rw [State.takeCommit_rejected hpend h]
    exact ⟨rfl, rfl⟩

/-- A commit that fails leaves both banks. -/
theorem State.verdict_slotEntry (s : State) (p code n : Nat) (active : Bool) :
    (s.verdict p code).slotEntry p n active = s.slotEntry p n active := by
  have hreg : ∀ w, (s.verdict p code).reg (rSlot p n w + bankOff active) = s.reg (rSlot p n w + bankOff active) :=
    fun w => s.verdict_reg p code (by unfold rSlot; omega)
  simp only [State.slotEntry, hreg]

/-- A commit that passes exchanges the slot entries of the two banks. -/
theorem State.commitPassed_slotEntry (s : State) {p n : Nat} (hp : p < 16) (hn : n < 64) :
    (s.commitPassed p).slotEntry p n true = s.slotEntry p n false
      ∧ (s.commitPassed p).slotEntry p n false = s.slotEntry p n true := by
  have hreg : ∀ w, w < 3 → (s.commitPassed p).reg (rSlot p n w) = s.reg (rSlot p n w + activeBank)
      ∧ (s.commitPassed p).reg (rSlot p n w + activeBank) = s.reg (rSlot p n w) := fun w hw =>
    (s.commitPassed_reg hp _).1 ⟨by unfold rSlot; omega, by unfold rSlot; omega⟩
  simp [State.slotEntry, bankOff, hreg]

/-- The length and phase that a commit puts in force are those programmed. -/
theorem State.commitPassed_part (s : State) {p : Nat} (hp : p < 16) :
    ((s.commitPassed p).part p).actLen = s.fld (rTtFrame p) 48 32
      ∧ ((s.commitPassed p).part p).actPhase = s.fld (rTtFrame p) 16 0 := by
  obtain ⟨-, hlen, hphase⟩ := s.verdict_programmed p 0
  have hfld : ∀ hi lo, (s.commitPassed p).fld (rTtFrame p) hi lo = (s.verdict p 0).fld (rTtFrame p) hi lo := fun hi lo =>
    State.fld_congr hi lo (s.commitPassed_reg_outside hp (.inl (by omega)) (rTtFrame_lt hp))
  rw [State.commitPassed, State.part_modPart, if_pos rfl]
  exact ⟨(hfld 48 32).trans hlen, (hfld 16 0).trans hphase⟩

theorem exec_ttCommit (p : PartId) (s : State) : exec (.ttCommit p) s = .next (s.ttCommit p.val) := rfl

/-- The first boundary of a commit while no length is in force (log entry 18). -/
theorem State.firstBoundary_iff {s : State} {p : Nat} (hpend : s.fbit (rTtFrame p) 61 = true) :
    s.firstBoundary p = true ↔ (if 20 ≤ s.fld (rTtFrame p) 48 32 ∧ s.fld (rTtFrame p) 48 32 ≤ 100000
          ∧ s.fld (rTtFrame p) 16 0 < s.fld (rTtFrame p) 48 32
        then isFrameStart s.now (s.fld (rTtFrame p) 48 32) (s.fld (rTtFrame p) 16 0) = true
        else s.now % 1000 = 0) := by
  simp only [State.firstBoundary, hpend, Bool.true_and]
  split
  · rfl
  · exact beq_iff_eq

/-- Settles O21: the commit waits in TT_FRAME; at the boundary nothing else is to be done but restart the links' counts;
the verdict is by the check's code, and a commit that passes exchanges the banks. -/
theorem commitActsAtTheBoundary : Obligations.CommitActsAtTheBoundary := by
  unfold Obligations.CommitActsAtTheBoundary
  intro p s
  have hp := p.isLt
  refine ⟨?_, fun hready hpend hframe hat hfall h0 h1 hscu hlinks => ?_, fun hpend => ⟨fun hcode => ?_, fun hcode => ?_⟩⟩
  · exact ⟨_, exec_ttCommit p s, s.fbit_setBit_same _ _ (by decide),
      fun i hi => State.fbit_setFld_beside _ (by decide) (by omega),
      fun k hk => s.reg_setFld_other _ _ _ _ _ hk, rfl⟩
  · obtain ⟨honly, htmpl⟩ := State.takeCommit_frame hpend
    obtain ⟨henable, -, -⟩ := s.verdict_programmed p.val (s.commitCode p.val)
    rw [← State.fbit_congr 63 (State.takeCommit_ttFrame hp hpend)] at henable
    have hserving : (s.takeCommit p.val).reg (rScu p.val + 8) = 0 := by
      rw [State.takeCommit_reg hp hpend (.inr (by unfold rScu rTtFrame; omega)) (by unfold rScu activeBank; omega), hscu]
    have hboundary : s.atFrameBoundary p.val = true := by
      rw [State.atFrameBoundary, Bool.or_eq_true, Bool.and_eq_true, beq_iff_eq, State.firstBoundary_iff hpend]
      exact hat
    have hbegins := State.frameBoundary_begins hready hboundary hframe hfall hserving
    have hrest := State.setFrame_frameLinks (s := s.takeCommit p.val) (p := p.val) (fun l => by rw [htmpl]; exact hlinks l)
    generalize s.takeCommit p.val = u at honly henable hbegins hrest
    obtain ⟨hpart, -, hrestart, hunits⟩ := hrest
    generalize (u.frameLinks p.val).setFrame p.val = t at hpart hrestart hunits hbegins
    have hout : ∀ d, t.pendingOut d = s.pendingOut d := fun d => by rw [hunits, honly]; rfl
    have hgo := hbegins ((hout 0).trans h0) ((hout 1).trans h1)
    refine ⟨t, by rw [exec_frameBoundary, hgo], by rw [hunits]; rfl, by rw [hpart], by rw [hpart], ?_,
      fun l => (hrestart l).trans (by rw [honly]; rfl), by rw [hunits, honly]; rfl⟩
    have hnow : u.now = s.now := by rw [honly]; rfl
    rw [hpart, State.frameNow, henable, hnow]
  · rw [State.takeCommit_rejected hpend hcode]
    obtain ⟨hpending, hreject, hrej⟩ := s.verdict_bits p.val (code := s.commitCode p.val)
      (Nat.lt_of_le_of_lt (s.commitCode_le _) (by decide))
    exact ⟨hpending, hreject.trans (by simpa using hcode), hrej, rfl, fun n _ => s.verdict_slotEntry ..⟩
  · have hcommit := State.takeCommit_ttFrame hp hpend
    obtain ⟨hpending, hreject, -⟩ := s.verdict_bits p.val (code := s.commitCode p.val)
      (Nat.lt_of_le_of_lt (s.commitCode_le _) (by decide))
    rw [← State.fbit_congr 61 hcommit] at hpending
    rw [← State.fbit_congr 60 hcommit] at hreject
    refine ⟨hpending, by simpa [hcode] using hreject, ?_⟩
    rw [State.takeCommit_passed hpend hcode]
    obtain ⟨hlen, hphase⟩ := s.commitPassed_part hp
    exact ⟨hlen, hphase, fun n hn => s.commitPassed_slotEntry hp hn⟩

end Sys2Proof.Machine
end

section

namespace Sys2Proof.Machine

/-! ### The single load of fabric time, and its refresh (R35, R240) -/

/-- Channels and performance counters alone. -/
structure RefreshOnly (s t : State) : Prop where
  units : t = (s.withRegs t.regs).withChans t.chans
  reg : ∀ k, (∀ j, j < 8 → k ≠ rTrcPcnt j) → t.reg k = s.reg k

theorem RefreshOnly.refl (s : State) : RefreshOnly s s := ⟨rfl, fun _ _ => rfl⟩

theorem RefreshOnly.trans {s t u : State} (h : RefreshOnly s t) (h' : RefreshOnly t u) : RefreshOnly s u where
  units := by rw [h'.units, h.units]; rfl
  reg k hk := (h'.reg k hk).trans (h.reg k hk)

theorem RefreshOnly.now {s t : State} (h : RefreshOnly s t) : t.now = s.now := by rw [h.units]; rfl

theorem CountsOnly.refreshOnly {s t : State} (h : CountsOnly s t) : RefreshOnly s t := ⟨by rw [h.regs]; rfl, h.reg⟩

theorem RefreshOnly.modChan (s : State) (k : Nat) (f : Chan → Chan) : RefreshOnly s (s.modChan k f) := ⟨rfl, fun _ _ => rfl⟩

/-- The counting of a refresh that suspends a list's work (event 9). -/
def State.refreshCounted (s : State) (k : Nat) : State :=
  match (s.chan k).lists with
  | l :: _ => if (s.chan k).lists.any (fun l => l.running.any (fun r => decide (r.due + r.next > 16 * s.now))) && !s.frozen
      then s.perf 9 l.part none 350 else s
  | [] => s

theorem State.refreshStart_eq (s : State) (k : Nat) : s.refreshStart k = (s.refreshCounted k).modChan k (fun ch =>
    { (if (s.refreshCounted k).frozen then ch else ch.delay (s.refreshCounted k).now 350) with
      refreshing := some (s.refreshCounted k).now
      openRow := (if (s.refreshCounted k).frozen then ch else ch.delay (s.refreshCounted k).now 350).rowsKept
        (s.refreshCounted k).now }) := rfl

theorem State.refreshCounted_countsOnly (s : State) (k : Nat) : CountsOnly s (s.refreshCounted k) := by
  unfold State.refreshCounted
  split
  · split
    · exact s.perf_countsOnly ..
    · exact .refl s
  · exact .refl s

theorem State.refreshStart_refreshOnly (s : State) (k : Nat) : RefreshOnly s (s.refreshStart k) := by
  rw [State.refreshStart_eq]
  exact (s.refreshCounted_countsOnly k).refreshOnly.trans (.modChan ..)

/-- Whether a channel's refresh has just begun. -/
theorem State.refreshStart_refreshing (s : State) (k j : Nat) :
    ((s.refreshStart k).chan j).refreshing = if j = k then some s.now else (s.chan j).refreshing := by
  have hcounts := (s.refreshCounted_countsOnly k).refreshOnly
  rw [State.refreshStart_eq, State.chan_modChan]
  split
  · exact congrArg some hcounts.now
  · rw [(s.refreshCounted_countsOnly k).regs]; rfl

theorem State.refreshAll_refreshOnly (s : State) : RefreshOnly s s.refreshAll :=
  List.foldlRecOn (motive := RefreshOnly s) _ _ (.refl s) fun t ht k _ => ht.trans (t.refreshStart_refreshOnly k)

/-- The load refreshes every channel. -/
theorem State.refreshAll_refreshing (s : State) {k : Nat} (hk : k < 128) : (s.refreshAll.chan k).refreshing = some s.now := by
  have loop : ∀ ks : List Nat, ∀ t : State, t.now = s.now →
      (k ∈ ks ∨ (t.chan k).refreshing = some s.now) →
      ((ks.foldl State.refreshStart t).chan k).refreshing = some s.now := by
    intro ks
    induction ks with
    | nil => intro t _ h; simpa using h
    | cons j js ih =>
      intro t ht h
      refine ih _ ((t.refreshStart_refreshOnly j).now.trans ht) ?_
      rw [State.refreshStart_refreshing, ht]
      by_cases hkj : k = j
      · exact .inr (if_pos hkj)
      · rw [if_neg hkj]
        exact h.imp (fun hm => (List.mem_cons.mp hm).resolve_left hkj) id
  exact loop _ s rfl (.inl (List.mem_range.mpr hk))

theorem rTtStatus_ne_rTrcPcnt (j : Nat) : rTtStatus ≠ rTrcPcnt j := by unfold rTtStatus rTrcPcnt; omega

/-- Registers and fabric time before the refresh that comes with the load. -/
def State.timeSet (s : State) (v : Nat) : State :=
  ((s.withTime { s.time with ns := v, err := 0, hold := 0 }).setBit rTtStatus 0 true).setBit rTtStatus stHoldover false

theorem State.loadTime_eq (s : State) (v : Nat) : s.loadTime v = (s.timeSet v).refreshAll := rfl

theorem State.loadTime_spec (s : State) (v : Nat) :
    (s.loadTime v).now = v ∧ (s.loadTime v).time.err = 0 ∧ (s.loadTime v).fbit rTtStatus 0 = true
      ∧ (∀ k, k < 128 → ((s.loadTime v).chan k).refreshing = some v)
      ∧ (s.loadTime v).stackMem = s.stackMem ∧ (s.loadTime v).clusters = s.clusters ∧ (s.loadTime v).flags = s.flags := by
  rw [State.loadTime_eq]
  have hrefresh := fun k hk => (s.timeSet v).refreshAll_refreshing (k := k) hk
  obtain ⟨hunits, hreg⟩ := (s.timeSet v).refreshAll_refreshOnly
  have hseen : (s.timeSet v).fbit rTtStatus 0 = true := by
    rw [State.timeSet, State.setBit, State.fbit_setFld_beside _ (by decide) (by decide),
      State.fbit_setBit_same _ _ _ (by decide)]
  have hbit := (State.fbit_congr 0 (hreg rTtStatus fun j _ => rTtStatus_ne_rTrcPcnt j)).trans hseen
  generalize (s.timeSet v).refreshAll = t at hunits hrefresh hbit
  exact ⟨by rw [hunits]; rfl, by rw [hunits]; rfl, hbit, hrefresh, by rw [hunits]; rfl, by rw [hunits]; rfl,
    by rw [hunits]; rfl⟩

/-! ### EPOCH_PULSE (R35 to R37) -/

/-- Fabric time and registers alone. -/
def timeOnly (s t : State) : Prop := t = (s.withRegs t.regs).withTime t.time

theorem timeOnly.trans {s t u : State} (h : timeOnly s t) (h' : timeOnly t u) : timeOnly s u := by
  unfold timeOnly at *
  rw [h', h]; rfl

/-- The error of a fabric time against the nearest whole second. -/
def pulseError (now : Nat) : Int :=
  if now % 10 ^ 9 ≤ 5 * 10 ^ 8 then -((now % 10 ^ 9 : Nat) : Int) else ((10 ^ 9 - now % 10 ^ 9 : Nat) : Int)

/-- The pulse is noted. -/
def State.pulseNoted (s : State) : State := s.withTime { s.time with lastPulse := some s.now, agreeAt := none }

theorem exec_epochPulse (s : State) : exec .epochPulse s = .next s.epochPulse := rfl

theorem State.epochPulse_ignored {s : State} (h : s.timeSrc ≠ 1) : s.epochPulse = s := if_pos (.inl h)

/-- A pulse that loads nothing is noted, and may correct. -/
theorem State.epochPulse_noted {s : State} (hsrc : s.timeSrc = 1) (halive : s.power.alive = true) (hload : s.mayLoad = false) :
    s.epochPulse = if s.time.altInUse || !s.slews then s.pulseNoted else s.pulseNoted.noteError (pulseError s.now) := by
  unfold State.epochPulse
  rw [if_neg (by simp [hsrc, halive]), if_neg (by simp [hload])]
  rfl

theorem State.epochPulse_loads {s : State} (hsrc : s.timeSrc = 1) (halive : s.power.alive = true) (hload : s.mayLoad = true) :
    s.epochPulse = (s.loadTime ((s.reg rTtEpoch).toNat / 10 ^ 9 * 10 ^ 9)).pulseNoted := by
  unfold State.epochPulse
  rw [if_neg (by simp [hsrc, halive]), if_pos hload]
  rfl

/-- The error that is noted is what remains to be slewed away; LOCKED falls where it exceeds 10 ns (R36, R37). -/
theorem State.noteError_spec (s : State) (e : Int) :
    (s.noteError e).now = s.now ∧ (s.noteError e).time.err = e ∧ (s.noteError e).time.lastPulse = s.time.lastPulse
      ∧ (s.noteError e).locked = (s.locked && decide (e.natAbs ≤ 10))
      ∧ (∀ k, k ≠ rTtStatus → (s.noteError e).reg k = s.reg k) ∧ timeOnly s (s.noteError e) := by
  unfold State.noteError
  dsimp only
  by_cases h : e.natAbs ≤ 10
  · rw [if_pos h]
    exact ⟨rfl, rfl, rfl, by simp [h]; rfl, fun _ _ => rfl, rfl⟩
  · rw [if_neg h]
    exact ⟨rfl, rfl, rfl, by simp [h, State.locked, stLocked, State.fbit_setBit_same],
      fun k hk => State.reg_setFld_other _ _ _ _ _ _ hk, rfl⟩

/-- Settles O19: along the pulse's cases: not its source, noted alone, noted with its error, and the load. -/
theorem epochPulseLoadsOnce : Obligations.EpochPulseLoadsOnce := by
  unfold Obligations.EpochPulseLoadsOnce
  intro s
  rw [exec_epochPulse]
  refine ⟨fun hsrc => ?_, fun hsrc halive hload hno => ?_, fun hsrc halive hload hslews halt => ?_,
    fun hsrc halive hload => ?_⟩
  · rw [State.epochPulse_ignored hsrc]
  · rw [State.epochPulse_noted hsrc halive hload, if_pos (by rcases hno with h | h <;> simp [h])]
    rfl
  · rw [State.epochPulse_noted hsrc halive hload, if_neg (by simp [hslews, halt])]
    obtain ⟨hnow, herr, hpulse, hlocked, hreg, hunits⟩ := s.pulseNoted.noteError_spec (pulseError s.now)
    exact ⟨_, rfl, hnow, herr, hpulse, by rw [herr]; exact hlocked, hreg, hunits⟩
  · rw [State.epochPulse_loads hsrc halive hload]
    obtain ⟨hnow, herr, hseen, hrefresh, hstack, hclusters, hflags⟩ :=
      s.loadTime_spec ((s.reg rTtEpoch).toNat / 10 ^ 9 * 10 ^ 9)
    generalize s.loadTime ((s.reg rTtEpoch).toNat / 10 ^ 9 * 10 ^ 9) = t at *
    have hbit : t.pulseNoted.fbit rTtStatus 0 = true := hseen
    exact ⟨_, rfl, hnow, herr, hseen, by rw [State.mayLoad, hbit]; rfl,
      fun k hk => (hrefresh k hk).trans (congrArg some hnow.symm), hstack, hclusters, hflags⟩

end Sys2Proof.Machine
end

section

namespace Sys2Proof.Machine

/-! ### Changes of TT_STATUS and of the time unit -/

theorem rLst_ne_rTtStatus (l : Nat) : rLst l ≠ rTtStatus := by unfold rLst rTtStatus; omega

/-- TT_STATUS and the time unit alone, with fabric time and the use of ALT_LINK as they were. -/
structure StatusOnly (s t : State) : Prop where
  units : timeOnly s t
  reg : ∀ k, k ≠ rTtStatus → t.reg k = s.reg k
  now : t.now = s.now
  alt : t.time.altInUse = s.time.altInUse

theorem StatusOnly.refl (s : State) : StatusOnly s s := ⟨rfl, fun _ _ => rfl, rfl, rfl⟩

theorem StatusOnly.trans {s t u : State} (h : StatusOnly s t) (h' : StatusOnly t u) : StatusOnly s u :=
  ⟨h.units.trans h'.units, fun k hk => (h'.reg k hk).trans (h.reg k hk), h'.now.trans h.now, h'.alt.trans h.alt⟩

theorem StatusOnly.setBit (s : State) (i : Nat) (b : Bool) : StatusOnly s (s.setBit rTtStatus i b) :=
  ⟨rfl, fun _ hk => State.reg_setFld_other _ _ _ _ _ _ hk, rfl, rfl⟩

theorem StatusOnly.withTime (s : State) (x : TimeUnit) (hns : x.ns = s.time.ns) (halt : x.altInUse = s.time.altInUse) :
    StatusOnly s (s.withTime x) := ⟨rfl, fun _ _ => rfl, hns, halt⟩

theorem State.timeSrc_congr {s t : State} (h : t.reg rTtSrc = s.reg rTtSrc) : t.timeSrc = s.timeSrc := by
  simp only [State.timeSrc, State.fld_congr 1 0 h]

theorem State.timeLink_congr {s t : State} (h : t.reg rTtSrc = s.reg rTtSrc)
    (halt : t.time.altInUse = s.time.altInUse) : t.timeLink = s.timeLink := by
  simp only [State.timeLink, halt, State.timeSrc_congr h, State.fld_congr _ _ h]

theorem StatusOnly.source {s t : State} (h : StatusOnly s t) : t.timeSrc = s.timeSrc ∧ t.timeLink = s.timeLink :=
  have hreg := h.reg rTtSrc (by decide)
  ⟨State.timeSrc_congr hreg, State.timeLink_congr hreg h.alt⟩

theorem StatusOnly.alive {s t : State} (h : StatusOnly s t) : t.power.alive = s.power.alive := by
  obtain ⟨hunits, -, -, -⟩ := h
  unfold timeOnly at hunits
  rw [hunits]; rfl

theorem State.fbit_setBit_beside (s : State) (k : Nat) {i j : Nat} (b : Bool) (h : j ≠ i) :
    (s.setBit k i b).fbit k j = s.fbit k j := State.fbit_setFld_beside _ (le_refl i) (by omega)

/-! ### TT_SRC_WRITE (R41, R469) -/

/-- TT_SRC as written; ALT_LINK is not in use. -/
def State.sourceWritten (s : State) (v : W64) : State :=
  (s.setReg rTtSrc (writeWord fTtSrc (s.reg rTtSrc) .w64 v)).withTime { s.time with altInUse := false }

/-- A module of SRC 0 has no uncertainty and no holdover (Table 2.1). -/
def State.asRoot (s : State) : State :=
  if s.timeSrc = 0 then (s.withTime { s.time with err := 0, hold := 0 }).setBit rTtStatus stHoldover false else s

/-- LOCKED falls where the source is no longer this one (R41). -/
def State.unlessSource (s : State) (old : Nat × Option Nat) : State :=
  if (s.timeSrc, s.timeLink) = old then s
  else (s.withTime { s.time with agreeAt := none }).setBit rTtStatus stLocked false

theorem exec_ttSrcWrite (v : W64) (s : State) : exec (.ttSrcWrite v) s = .next (s.ttSrcWrite v) := rfl

theorem State.ttSrcWrite_eq {s : State} (v : W64) (h : s.fld rHostBoot 63 61 ≠ 5) :
    s.ttSrcWrite v = if (((s.sourceWritten v).asRoot).unlessSource (s.timeSrc, s.timeLink)).timeSrc = 0
      then (((s.sourceWritten v).asRoot).unlessSource (s.timeSrc, s.timeLink)).setLocked
      else ((s.sourceWritten v).asRoot).unlessSource (s.timeSrc, s.timeLink) := by
  have hboot : (s.sourceWritten v).fld rHostBoot 63 61 ≠ 5 := by
    exact State.fld_congr 63 61 (State.reg_setReg_other s rTtSrc rHostBoot _ (by decide)) ▸ h
  unfold State.ttSrcWrite
  dsimp only
  rw [show ((s.setReg rTtSrc (writeWord fTtSrc (s.reg rTtSrc) .w64 v)).withTime
    { (s.setReg rTtSrc (writeWord fTtSrc (s.reg rTtSrc) .w64 v)).time with altInUse := false }) = s.sourceWritten v from rfl,
    if_neg hboot]
  rfl

theorem State.asRoot_statusOnly (s : State) : StatusOnly s s.asRoot := by
  unfold State.asRoot
  split
  · exact (StatusOnly.withTime s _ (by rfl) (by rfl)).trans (.setBit ..)
  · exact .refl s

theorem State.unlessSource_statusOnly (s : State) (old : Nat × Option Nat) : StatusOnly s (s.unlessSource old) := by
  unfold State.unlessSource
  split
  · exact .refl s
  · exact (StatusOnly.withTime s _ (by rfl) (by rfl)).trans (.setBit ..)

theorem State.setLocked_statusOnly (s : State) : StatusOnly s s.setLocked := by
  unfold State.setLocked
  split
  · exact .refl s
  · exact ((StatusOnly.withTime s _ (by rfl) (by rfl)).trans (.setBit ..)).trans (.setBit ..)

/-- What stays and what falls where LOCKED may. -/
theorem State.unlessSource_spec (s : State) (old : Nat × Option Nat) :
    (s.unlessSource old).time.err = s.time.err ∧ (s.unlessSource old).time.hold = s.time.hold
      ∧ (s.unlessSource old).fbit rTtStatus 6 = s.fbit rTtStatus 6
      ∧ (s.unlessSource old).locked = if (s.timeSrc, s.timeLink) = old then s.locked else false := by
  unfold State.unlessSource
  split
  · exact ⟨rfl, rfl, rfl, rfl⟩
  · exact ⟨rfl, rfl, State.fbit_setBit_beside _ _ _ (by decide), State.fbit_setBit_same _ _ _ (by decide)⟩

theorem State.asRoot_spec {s : State} (h : s.timeSrc = 0) :
    s.asRoot.time.err = 0 ∧ s.asRoot.time.hold = 0 ∧ s.asRoot.fbit rTtStatus 6 = false := by
  unfold State.asRoot
  rw [if_pos h]
  exact ⟨rfl, rfl, State.fbit_setBit_same _ _ _ (by decide)⟩

/-- A time root that has no uncertainty left keeps none, and is locked where it has power. -/
theorem State.setLocked_root {s : State} (hsrc : s.timeSrc = 0) (halt : s.time.altInUse = false) (herr : s.time.err = 0)
    (hhold : s.time.hold = 0) (hbit : s.fbit rTtStatus 6 = false) :
    s.setLocked.holdNs = 0 ∧ s.setLocked.fbit rTtStatus 6 = false ∧ (s.power.alive = true → s.setLocked.locked = true) := by
  have hmay : s.mayLock = true := by simp [State.mayLock, State.timeLink, halt, hsrc]
  unfold State.setLocked
  split
  · next h =>
    refine ⟨by simp [State.holdNs, herr, hhold], hbit, fun halive => ?_⟩
    simpa [hmay, halive] using h
  · exact ⟨by simp [State.holdNs, State.setBit, State.setFld, State.setReg, herr], State.fbit_setBit_same _ _ _ (by decide),
      fun _ => (State.fbit_setBit_beside _ _ _ (by decide)).trans (State.fbit_setBit_same _ _ _ (by decide))⟩

/-- What a write of TT_SRC comes to, whichever source it names. -/
theorem State.ttSrcWrite_statusOnly {s : State} (v : W64) (h : s.fld rHostBoot 63 61 ≠ 5) :
    StatusOnly (s.sourceWritten v) (s.ttSrcWrite v) := by
  have hunlocked := (s.sourceWritten v).asRoot_statusOnly.trans
    ((s.sourceWritten v).asRoot.unlessSource_statusOnly (s.timeSrc, s.timeLink))
  rw [State.ttSrcWrite_eq v h]
  split
  · exact hunlocked.trans (State.setLocked_statusOnly _)
  · exact hunlocked

/-- A source other than SRC 0 leaves the uncertainty as it is. -/
theorem State.ttSrcWrite_follower {s : State} {v : W64} (h : s.fld rHostBoot 63 61 ≠ 5) (hsrc : (s.sourceWritten v).timeSrc ≠ 0) :
    (s.ttSrcWrite v).time.err = s.time.err ∧ (s.ttSrcWrite v).time.hold = s.time.hold
      ∧ (s.ttSrcWrite v).fbit rTtStatus 6 = s.fbit rTtStatus 6
      ∧ (s.ttSrcWrite v).locked = if ((s.sourceWritten v).timeSrc, (s.sourceWritten v).timeLink) = (s.timeSrc, s.timeLink)
        then s.locked else false := by
  have hroot : (s.sourceWritten v).asRoot = s.sourceWritten v := if_neg hsrc
  obtain ⟨hkeeps, -⟩ := ((s.sourceWritten v).unlessSource_statusOnly (s.timeSrc, s.timeLink)).source
  obtain ⟨herr, hhold, hbit, hlocked⟩ := (s.sourceWritten v).unlessSource_spec (s.timeSrc, s.timeLink)
  have hstatus : ∀ i, (s.sourceWritten v).fbit rTtStatus i = s.fbit rTtStatus i := fun i =>
    State.fbit_congr i (State.reg_setReg_other s rTtSrc rTtStatus _ (by decide))
  rw [State.ttSrcWrite_eq v h, hroot, if_neg (by rw [hkeeps]; exact hsrc)]
  exact ⟨herr, hhold, hbit.trans (hstatus 6), hlocked.trans (by rw [State.locked, hstatus]; rfl)⟩

/-- SRC 0 leaves none. -/
theorem State.ttSrcWrite_root {s : State} {v : W64} (h : s.fld rHostBoot 63 61 ≠ 5) (hsrc : (s.sourceWritten v).timeSrc = 0) :
    (s.ttSrcWrite v).holdNs = 0 ∧ (s.ttSrcWrite v).fbit rTtStatus 6 = false
      ∧ (s.power.alive = true → (s.ttSrcWrite v).locked = true) := by
  obtain ⟨herr, hhold, hbit⟩ := State.asRoot_spec hsrc
  have hunlocked := (s.sourceWritten v).asRoot_statusOnly.trans
    ((s.sourceWritten v).asRoot.unlessSource_statusOnly (s.timeSrc, s.timeLink))
  obtain ⟨herr', hhold', hbit', -⟩ := (s.sourceWritten v).asRoot.unlessSource_spec (s.timeSrc, s.timeLink)
  have hzero := hunlocked.source.1.trans hsrc
  obtain ⟨hns, h6, hlocked⟩ := State.setLocked_root hzero hunlocked.alt (herr'.trans herr) (hhold'.trans hhold)
    (hbit'.trans hbit)
  rw [State.ttSrcWrite_eq v h, if_pos hzero]
  exact ⟨hns, h6, fun halive => hlocked (hunlocked.alive.trans halive)⟩

/-! ### Loss of a source (R38) -/

/-- Whether time may move to ALT_LINK: it is not in use already, up, locked, and another link than the lost one. -/
def State.altServes (s : State) : Prop :=
  s.time.altInUse = false ∧ s.fld (rLst (s.fld rTtSrc 31 26)) 63 62 = 2 ∧ s.fbit (rLst (s.fld rTtSrc 31 26)) 55 = true
    ∧ s.timeLink ≠ some (s.fld rTtSrc 31 26)

theorem StatusOnly.altServes {s t : State} (h : StatusOnly s t) : t.altServes ↔ s.altServes := by
  have hlst : ∀ l, t.reg (rLst l) = s.reg (rLst l) := fun l => h.reg _ (rLst_ne_rTtStatus l)
  unfold State.altServes
  rw [State.fld_congr 31 26 (h.reg rTtSrc (by decide)), State.fld_congr 63 62 (hlst _), State.fbit_congr 55 (hlst _),
    h.source.2, h.alt]

theorem State.loseSource_spec (s : State) :
    s.loseSource.locked = false ∧ s.loseSource.now = s.now ∧ timeOnly s s.loseSource
      ∧ (∀ i, i ≠ 5 → i ≠ 6 → s.loseSource.fbit rTtStatus i = s.fbit rTtStatus i)
      ∧ (s.altServes → s.loseSource.time.altInUse = true ∧ s.loseSource.fbit rTtStatus 6 = s.fbit rTtStatus 6)
      ∧ (¬ s.altServes → s.loseSource.time.altInUse = false ∧ s.loseSource.fbit rTtStatus 6 = true) := by
  have hserves := (StatusOnly.setBit s stLocked false).altServes
  have hsrc : (s.setBit rTtStatus stLocked false).fld rTtSrc 31 26 = s.fld rTtSrc 31 26 :=
    s.fld_setFld_reg _ _ _ _ _ (by decide)
  have hunlocked : ∀ i, i ≠ 5 → (s.setBit rTtStatus stLocked false).fbit rTtStatus i = s.fbit rTtStatus i :=
    fun i hi => State.fbit_setBit_beside _ _ _ hi
  have hfalls : (s.setBit rTtStatus stLocked false).fbit rTtStatus 5 = false := State.fbit_setBit_same _ _ _ (by decide)
  unfold State.loseSource
  dsimp only
  rw [← hsrc]
  split
  · next h =>
    have halt : s.altServes := by
      rw [← hserves]
      simpa [State.altServes, and_assoc] using h
    exact ⟨hfalls, rfl, rfl, fun i h5 _ => hunlocked i h5, fun _ => ⟨rfl, hunlocked 6 (by decide)⟩, fun hno => absurd halt hno⟩
  · next h =>
    have halt : ¬ s.altServes := by
      rw [← hserves]
      simpa [State.altServes, and_assoc] using h
    exact ⟨(State.fbit_setBit_beside _ _ _ (by decide)).trans hfalls, rfl, rfl,
      fun i h5 h6 => (State.fbit_setBit_beside _ _ _ h6).trans (hunlocked i h5), fun hyes => absurd hyes halt,
      fun _ => ⟨rfl, State.fbit_setBit_same _ _ _ (by decide)⟩⟩

/-- A loss is shown by its bit of TT_STATUS beside what it brings about. -/
theorem State.lossShown_spec (s : State) {i : Nat} (hi : i < 5) :
    let t := (s.setBit rTtStatus i true).loseSource
    t.fbit rTtStatus i = true ∧ t.locked = false
      ∧ (s.altServes → t.time.altInUse = true ∧ t.fbit rTtStatus 6 = s.fbit rTtStatus 6)
      ∧ (¬ s.altServes → t.time.altInUse = false ∧ t.fbit rTtStatus 6 = true)
      ∧ t.now = s.now ∧ timeOnly s t := by
  have hserves := (StatusOnly.setBit s i true).altServes
  obtain ⟨hlocked, hnow, hunits, hbits, hyes, hno⟩ := (s.setBit rTtStatus i true).loseSource_spec
  rw [hserves] at hyes hno
  rw [State.fbit_setBit_beside _ _ _ (by omega : 6 ≠ i)] at hyes
  exact ⟨(hbits i (by omega) (by omega)).trans (State.fbit_setBit_same _ _ _ (by omega)), hlocked, hyes, hno, hnow,
    (StatusOnly.setBit s i true).units.trans hunits⟩

theorem exec_refLost (s : State) : exec .refLost s = .next s.refLost := rfl
theorem exec_linkLost (l : LinkId) (s : State) : exec (.linkLost l) s = .next (s.linkLost l.val) := rfl
theorem exec_fallback (s : State) : exec .fallback s = .next s.enterFallback := rfl

theorem State.timeGone_iff (s : State) (l : Nat) :
    s.timeGone l = true ↔ s.lkState l ≠ 2 ∨ (s.link l).pAt + 10000 ≤ s.now := by
  simp [State.timeGone, State.lkState]

theorem State.linkLost_idle {s : State} {l : Nat} (h : s.timeLink ≠ some l ∨ s.timeGone l = false) : s.linkLost l = s := by
  unfold State.linkLost State.loseLink
  split
  · next hgone =>
    rcases h with h | h
    · exact if_neg h
    · rw [hgone] at h; cases h
  · rfl

theorem State.linkLost_loses {s : State} {l : Nat} (h : s.timeLink = some l) (hgone : s.timeGone l = true) :
    s.linkLost l = (s.setBit rTtStatus 2 true).loseSource := by
  rw [State.linkLost, if_pos hgone, State.loseLink, if_pos h]

/-- Settles O20: the write by whether it names SRC 0, the losses by whether ALT_LINK serves, FALLBACK by its limit. -/
theorem timeSourceChangesAndLosses : Obligations.TimeSourceChangesAndLosses := by
  unfold Obligations.TimeSourceChangesAndLosses
  refine ⟨fun v s hstage => ?_, fun s => ?_, fun s => ?_⟩
  · have honly := State.ttSrcWrite_statusOnly v hstage
    obtain ⟨hsrc, hlink⟩ := honly.source
    rw [exec_ttSrcWrite]
    refine ⟨_, rfl, honly.now, honly.alt, fun h => ?_, fun h => ?_, ?_, fun h => ?_, fun h => ?_, fun k hk hk' => ?_, ?_⟩
    · obtain ⟨herr, hhold, hbit, -⟩ := State.ttSrcWrite_follower hstage (hsrc ▸ h)
      exact ⟨herr, hhold, hbit⟩
    · obtain ⟨hns, hbit, -⟩ := State.ttSrcWrite_root hstage (hsrc ▸ h)
      exact ⟨hns, hbit⟩
    · rw [honly.reg rTtSrc (by decide)]
      exact s.reg_setReg_same ..
    · obtain ⟨-, -, -, hlocked⟩ := State.ttSrcWrite_follower hstage (hsrc ▸ h)
      rw [hlocked, hsrc, hlink]
    · exact (State.ttSrcWrite_root hstage (hsrc ▸ h)).2.2
    · exact (honly.reg k hk').trans (s.reg_setReg_other _ _ _ hk)
    · have hwritten : timeOnly s (s.sourceWritten v) := rfl
      exact hwritten.trans honly.units
  · dsimp only
    rw [exec_refLost]
    refine ⟨fun h => ?_, fun hsrc halt => ?_, fun l h => ?_, fun l hlink hgone => ?_⟩
    · rw [State.refLost, if_pos h]
    · have hnone : s.timeLink = none := by simp [State.timeLink, halt, hsrc]
      have hserves : s.altServes ↔ s.time.altInUse = false ∧ s.fld (rLst (s.fld rTtSrc 31 26)) 63 62 = 2
          ∧ s.fbit (rLst (s.fld rTtSrc 31 26)) 55 = true := by
        simp [State.altServes, hnone]
      rw [State.refLost, if_neg (by simp [hsrc, halt]), ← hserves]
      exact ⟨_, rfl, s.lossShown_spec (by decide)⟩
    · rw [exec_linkLost, State.linkLost_idle]
      refine h.imp id fun hup => ?_
      rw [← Bool.not_eq_true, State.timeGone_iff]
      omega
    · have hserves : s.altServes ↔ (s.time.altInUse = false ∧ s.fld (rLst (s.fld rTtSrc 31 26)) 63 62 = 2
          ∧ s.fbit (rLst (s.fld rTtSrc 31 26)) 55 = true) ∧ s.fld rTtSrc 31 26 ≠ l.val := by
        simp only [State.altServes, hlink, and_assoc, ne_eq, Option.some.injEq, eq_comm]
      rw [exec_linkLost, State.linkLost_loses hlink ((s.timeGone_iff _).mpr hgone), ← hserves]
      exact ⟨_, rfl, s.lossShown_spec (by decide)⟩
  · rw [exec_fallback, State.enterFallback, show stFallback = 7 from rfl]
    refine ⟨fun h => ?_, fun hclear hover => ?_⟩
    · rw [if_pos h]
    · rw [if_neg (not_or.mpr ⟨by simpa using hclear, by omega⟩)]

end Sys2Proof.Machine
end

section

namespace Sys2Proof.Machine

/-! ### Runs of slots -/

theorem pickBy_mem {α : Type} {better : α → α → Bool} {l : List α} {x : α} (h : pickBy better l = some x) : x ∈ l := by
  induction l generalizing x with
  | nil => cases h
  | cons a l ih =>
    unfold pickBy at h
    split at h
    · cases h; exact List.mem_cons_self
    · next y hy =>
      split at h
      · cases h; exact List.mem_cons_of_mem _ (ih hy)
      · cases h; exact List.mem_cons_self

/-- A run that is found satisfies the test. -/
theorem State.findRun_ok {s : State} {p n key : Nat} {ok : SlotRun → Bool} {r : SlotRun}
    (h : s.findRun p n ok = some (key, r)) : ok r = true := by
  have hmem := pickBy_mem h
  simp only [List.mem_filter, Bool.and_eq_true] at hmem
  exact hmem.2.2

theorem State.modSlot_eq {s : State} {p n : Nat} {r : SlotRun} (h : s.slot p n = some r) (f : SlotRun → SlotRun) :
    s.modSlot p n f = s.setSlot p n (some (f r)) := by
  simp only [State.modSlot, h]

@[simp] theorem State.slot_setSlot (s : State) (p n : Nat) (x : Option SlotRun) : (s.setSlot p n x).slot p n = x := by
  simp [State.slot, State.setSlot]

theorem State.slot_congr {s t : State} (h : t.parts = s.parts) (p n : Nat) : t.slot p n = s.slot p n := by
  simp only [State.slot, State.part, h]

theorem State.runs_congr {s t : State} (h : t.parts = s.parts) (p : Nat) : t.runs p = s.runs p := by
  simp only [State.runs, State.part, h]

/-- Where a run's leading begins depends on TT_HOLD and the time unit alone. -/
theorem State.leadAt_congr {s t : State} (hreg : t.reg rTtHold = s.reg rTtHold) (htime : t.time = s.time) (r : SlotRun) :
    t.leadAt r = s.leadAt r := by
  simp only [State.leadAt, State.leadNs, State.holdNs, htime, State.fld_congr 15 0 hreg]

/-! ### Clusters changed one after another -/

/-- A change that is the same made once or twice reaches each cluster of a list, and no other. -/
theorem State.foldl_modCluster {f : Cluster → Cluster} (hf : ∀ x, f (f x) = f x) (cs : List Nat) (s : State) :
    cs.foldl (fun s c => s.modCluster c f) s = s.withClusters (cs.foldl (fun s c => s.modCluster c f) s).clusters
      ∧ ∀ c, (cs.foldl (fun s c => s.modCluster c f) s).cluster c = if c ∈ cs then f (s.cluster c) else s.cluster c := by
  induction cs generalizing s with
  | nil => exact ⟨rfl, fun c => rfl⟩
  | cons a cs ih =>
    obtain ⟨honly, hcluster⟩ := ih (s.modCluster a f)
    rw [List.foldl_cons]
    refine ⟨honly, fun c => ?_⟩
    rw [hcluster, State.cluster_modCluster]
    by_cases hca : c = a
    · subst hca
      simp [hf]
    · simp [hca]

/-! ### Completion of a step (R67, R77) -/

/-- A cluster that a step has left: it runs nothing, and starts nothing for 4 ns (R67). -/
def Cluster.left_ (x : Cluster) (now : Nat) : Cluster := { x with run := none, freeAt := now + 4 }

/-- The clusters of a step run nothing any more. -/
def State.leaveClusters (s : State) (cs : List Nat) : State :=
  cs.foldl (fun s c => s.modCluster c (fun x => { x with run := none, freeAt := s.now + 4 })) s

theorem State.leaveClusters_eq (s : State) (cs : List Nat) :
    s.leaveClusters cs = cs.foldl (fun t c => t.modCluster c (·.left_ s.now)) s := by
  suffices same : ∀ t : State, t.now = s.now → t.leaveClusters cs = cs.foldl (fun t c => t.modCluster c (·.left_ s.now)) t
    from same s rfl
  induction cs with
  | nil => exact fun _ _ => rfl
  | cons a cs ih =>
    intro t ht
    rw [List.foldl_cons, ← ih _ (show (t.modCluster a (·.left_ s.now)).now = s.now from ht), ← ht]
    rfl

theorem State.leaveClusters_frame (s : State) (cs : List Nat) :
    s.leaveClusters cs = s.withClusters (s.leaveClusters cs).clusters
      ∧ ∀ c, (s.leaveClusters cs).cluster c = if c ∈ cs then (s.cluster c).left_ s.now else s.cluster c := by
  rw [State.leaveClusters_eq]
  exact State.foldl_modCluster (f := (·.left_ s.now)) (fun _ => rfl) cs s

theorem State.settle_idle {cs : List Nat} {s : State} (h : ∀ c ∈ cs, (s.cluster c).flight = [] ∧ (s.cluster c).mvDue = none) :
    cs.foldl (fun s c => s.settle c) s = s := by
  induction cs with
  | nil => rfl
  | cons a cs ih =>
    obtain ⟨hflight, hmv⟩ := h a List.mem_cons_self
    rw [List.foldl_cons, State.settle, State.settleFrom_idle hflight hmv]
    exact ih fun c hc => h c (List.mem_cons_of_mem _ hc)

/-- No cluster goes to a run of a partition that has none waiting. -/
theorem State.passOn_of_none {s : State} {p : Nat} (h : ∀ e ∈ s.runs p, e.2.waiting = []) (cs : List Nat) : s.passOn p cs = s := by
  have hnone : ∀ c, (s.runs p).filter (fun e => e.2.waiting.contains c) = [] := fun c =>
    List.filter_eq_nil_iff.mpr fun e he => by simp [h e he]
  unfold State.passOn
  refine List.foldlRecOn (motive := fun t => t = s) _ _ rfl fun t ht c _ => ?_
  rw [ht, hnone]
  rfl

theorem State.formDigest_of_not_mirrored {s : State} {p : Nat} (h : s.mirrored p = false) (n : Nat) (d : W64) :
    s.formDigest p n d = s := if_pos (by simp [State.digested, h])

/-- The record of a completed step without a number, and its clusters free. -/
def State.stepLeft (s : State) (p key : Nat) (r : SlotRun) : State :=
  (s.post p 1 (stepWord p key r).toNat (BitVec.ofNat 64 r.start) 0).leaveClusters r.clusters

theorem State.post_reg (s : State) (p type body : Nat) (w2 : W64) (st : Nat) {k : Nat} (h : k < 2 ^ 32) :
    (s.post p type body w2 st).reg k = s.reg k :=
  s.postAt_reg _ _ _ _ _ _ (by unfold rEstat ringBase; rw [if_neg (Nat.succ_ne_zero p)]; omega)

/-- What the record and the leaving do not touch. -/
theorem State.stepLeft_frame (s : State) (p key : Nat) (r : SlotRun) :
    s.stepLeft p key r = (((s.withRegs (s.stepLeft p key r).regs).withHostMem (s.stepLeft p key r).hostMem).withHost
        (s.stepLeft p key r).host).withClusters (s.stepLeft p key r).clusters
      ∧ (s.stepLeft p key r).regs = (s.post p 1 (stepWord p key r).toNat (BitVec.ofNat 64 r.start) 0).regs
      ∧ (s.stepLeft p key r).hostMem = (s.post p 1 (stepWord p key r).toNat (BitVec.ofNat 64 r.start) 0).hostMem
      ∧ (s.stepLeft p key r).host = (s.post p 1 (stepWord p key r).toNat (BitVec.ofNat 64 r.start) 0).host
      ∧ ∀ c, (s.stepLeft p key r).cluster c = if c ∈ r.clusters then (s.cluster c).left_ s.now else s.cluster c := by
  unfold State.stepLeft
  obtain ⟨x, h, o, hpost, -⟩ := s.post_frame p 1 (stepWord p key r).toNat (BitVec.ofNat 64 r.start) 0
  rw [hpost]
  obtain ⟨honly, hcluster⟩ := (((s.withRegs x).withHostMem h).withHost o).leaveClusters_frame r.clusters
  generalize (((s.withRegs x).withHostMem h).withHost o).leaveClusters r.clusters = t at honly hcluster
  exact ⟨by rw [honly]; rfl, by rw [honly]; rfl, by rw [honly]; rfl, by rw [honly]; rfl, hcluster⟩

theorem State.stepLeft_reg (s : State) (p key : Nat) (r : SlotRun) {k : Nat} (h : k < 2 ^ 32) :
    (s.stepLeft p key r).reg k = s.reg k := by
  obtain ⟨-, hregs, -⟩ := s.stepLeft_frame p key r
  rw [State.reg, hregs]
  exact s.post_reg _ _ _ _ _ h

theorem State.stepLeft_units (s : State) (p key : Nat) (r : SlotRun) :
    (s.stepLeft p key r).parts = s.parts ∧ (s.stepLeft p key r).time = s.time := by
  obtain ⟨honly, -⟩ := s.stepLeft_frame p key r
  generalize s.stepLeft p key r = t at honly
  rw [honly]
  exact ⟨rfl, rfl⟩

theorem State.stepLeft_leadAt (s : State) (p key : Nat) (r r' : SlotRun) : (s.stepLeft p key r).leadAt r' = s.leadAt r' :=
  State.leadAt_congr (s.stepLeft_reg p key r (by decide)) (s.stepLeft_units p key r).2 r'

/-- A run that has overrun already, has nothing to complete, or has not come to its leading, does not overrun. -/
theorem State.markOverrun_idle {s : State} {p key : Nat} {r : SlotRun} (hslot : s.slot p key = some r)
    (h : r.overrun = true ∨ s.now < s.leadAt r) : s.markOverrun p key = s := by
  unfold State.markOverrun
  rw [hslot]
  exact if_pos (by rcases h with h | h <;> simp [h])

/-- A step without a number, of a partition that is not mirrored and has no run waiting, is over. -/
theorem State.stepDone_plain {s : State} {p key : Nat} {r : SlotRun} (hslot : s.slot p key = some r)
    (hlead : r.overrun = true ∨ s.now < s.leadAt r) (hstep : r.step = none) (hmir : s.mirrored p = false)
    (hwait : ∀ e ∈ s.runs p, e.2.waiting = []) : s.stepDone p key = (s.stepLeft p key r).afterStep p key := by
  obtain ⟨hparts, -⟩ := s.stepLeft_units p key r
  have hmir' : (s.stepLeft p key r).mirrored p = false :=
    (State.fbit_congr _ (s.stepLeft_reg p key r (by decide))).trans hmir
  unfold State.stepDone
  dsimp only
  rw [State.markOverrun_idle hslot hlead, hslot]
  dsimp only
  simp only [hstep, Option.getD_none]
  change (State.passOn (if _ then s.stepLeft p key r else (s.stepLeft p key r).formDigest p 0 _) p r.clusters).afterStep p key = _
  rw [State.formDigest_of_not_mirrored hmir', ite_self,
    State.passOn_of_none (by rw [State.runs_congr hparts]; exact hwait)]

/-- What follows a step that has not overrun: the MODESW duty, the other duties, or the background (R46). -/
def SlotRun.afterStep (r : SlotRun) (now : Nat) : SlotRun :=
  { r with
    phase := if r.entry.modesw then .modesw else if r.entry.swap || r.entry.maint then .duties else .background
    dutyStart := if !r.entry.modesw && (r.entry.swap || r.entry.maint) then some now else r.dutyStart }

theorem State.enterDuties_inTime {s : State} {p key : Nat} {r : SlotRun} (hslot : s.slot p key = some r)
    (hlead : s.now < s.leadAt r) (hover : r.overrun = false) :
    s.enterDuties p key = if r.entry.swap || r.entry.maint
      then s.setSlot p key (some { r with phase := .duties, dutyStart := some s.now })
      else s.setSlot p key (some { r with phase := .background }) := by
  unfold State.enterDuties
  dsimp only
  rw [State.markOverrun_idle hslot (.inr hlead), hslot]
  dsimp only
  rw [if_neg (by simp [hover]), State.modSlot_eq hslot, State.modSlot_eq hslot]

theorem State.afterStep_inTime {s : State} {p key : Nat} {r : SlotRun} (hslot : s.slot p key = some r)
    (hlead : s.now < s.leadAt r) (hover : r.overrun = false) :
    s.afterStep p key = s.setSlot p key (some (r.afterStep s.now)) := by
  unfold State.afterStep
  rw [hslot]
  dsimp only
  split
  · next hmodesw =>
    rw [State.modSlot_eq hslot,
      State.markOverrun_idle (r := { r with phase := .modesw }) (State.slot_setSlot ..) (.inr hlead)]
    simp [SlotRun.afterStep, hmodesw]
  · next hmodesw =>
    rw [State.enterDuties_inTime hslot hlead hover]
    split
    · next hduty => simp [SlotRun.afterStep, hmodesw, hduty]
    · next hduty => simp [SlotRun.afterStep, hmodesw, hduty]

/-- How long an overrun was, in units of 10 ns, as far as LAST_OVR shows it (R55). -/
def State.overrunLength (s : State) (r : SlotRun) : Nat := min 0xFFFFFF ((s.now - s.leadAt r) / 10)

/-- TT_OVR names the slot whose overrun was the most recent, and its length. -/
def State.overrunShown (s : State) (p key d : Nat) : State := (s.setFld (rTtOvr p) 63 40 d).setFld (rTtOvr p) 37 32 (key % 64)

theorem State.overrunShown_fields (s : State) (p key : Nat) {d : Nat} (h : d < 2 ^ 24) :
    (s.overrunShown p key d).fld (rTtOvr p) 63 40 = d ∧ (s.overrunShown p key d).fld (rTtOvr p) 37 32 = key % 64
      ∧ (s.overrunShown p key d).fld (rTtOvr p) 31 0 = s.fld (rTtOvr p) 31 0 := by
  refine ⟨?_, State.fld_setFld_lt _ _ _ _ _ (by decide) (by decide) (Nat.mod_lt _ (by decide)), ?_⟩
  · rw [State.overrunShown, State.fld_setFld_other _ _ _ _ _ _ _ (by decide) (by decide) (by decide)]
    exact State.fld_setFld_lt _ _ _ _ _ (by decide) (by decide) h
  · unfold State.overrunShown
    iterate 2 rw [State.fld_setFld_other _ _ _ _ _ _ _ (by decide) (by decide) (by decide)]

/-- After an overrun the duties are skipped, and the overrun is reported (R55, R68). -/
theorem State.enterDuties_late {s : State} {p key : Nat} {r : SlotRun} (hslot : s.slot p key = some r)
    (hover : r.overrun = true) :
    s.enterDuties p key = ((s.setSlot p key (some { r with phase := .finished })).overrunShown p key
      (s.overrunLength r)).post p 7 (key % 64 * 2 ^ 32 + s.overrunLength r) 0 (r.step.getD 0) := by
  unfold State.enterDuties
  dsimp only
  rw [State.markOverrun_idle hslot (.inl hover), hslot]
  dsimp only
  rw [if_pos hover, State.modSlot_eq hslot]
  rfl

theorem State.afterStep_enterDuties {s : State} {p key : Nat} {r : SlotRun} (hslot : s.slot p key = some r)
    (hmodesw : r.entry.modesw = false) : s.afterStep p key = s.enterDuties p key := by
  unfold State.afterStep
  rw [hslot]
  exact if_neg (by simp [hmodesw])

/-- STEP_COMPLETE waits, or the step is over. -/
theorem State.stepComplete_eq {s : State} {p n key : Nat} {r : SlotRun}
    (hfind : s.findRun p n (fun r => r.phase == .step) = some (key, r))
    (hidle : ∀ c ∈ r.clusters, (s.cluster c).flight = [] ∧ (s.cluster c).mvDue = none) :
    s.stepComplete p n = if s.halted || !r.waiting.isEmpty || !r.clusters.all (fun c => (s.cluster c).quiet) || s.unlanded p key
      then s else s.stepDone p key := by
  unfold State.stepComplete
  rw [hfind]
  dsimp only
  rw [State.settle_idle hidle]

theorem exec_stepComplete (p : PartId) (n : SlotId) (s : State) :
    exec (.stepComplete p n) s = .next (s.stepComplete p.val n.val) := rfl

/-- A completed step in time: its record, its clusters free, and what follows it. -/
theorem State.stepDone_inTime {s : State} {p key : Nat} {r : SlotRun} (hslot : s.slot p key = some r)
    (hlead : s.now < s.leadAt r) (hover : r.overrun = false) (hstep : r.step = none) (hmir : s.mirrored p = false)
    (hwait : ∀ e ∈ s.runs p, e.2.waiting = []) :
    s.stepDone p key = (s.stepLeft p key r).setSlot p key (some (r.afterStep s.now)) := by
  obtain ⟨hparts, htime⟩ := s.stepLeft_units p key r
  have hnow : (s.stepLeft p key r).now = s.now := congrArg TimeUnit.ns htime
  rw [State.stepDone_plain hslot (.inr hlead) hstep hmir hwait,
    State.afterStep_inTime ((State.slot_congr hparts p key).trans hslot) (by rw [hnow, s.stepLeft_leadAt]; exact hlead) hover, hnow]

/-- A completed step that has overrun, without a MODESW duty: its record, its clusters free, and the overrun shown. -/
theorem State.stepDone_late {s : State} {p key : Nat} {r : SlotRun} (hslot : s.slot p key = some r)
    (hover : r.overrun = true) (hmodesw : r.entry.modesw = false) (hstep : r.step = none) (hmir : s.mirrored p = false)
    (hwait : ∀ e ∈ s.runs p, e.2.waiting = []) :
    s.stepDone p key = (((s.stepLeft p key r).setSlot p key (some { r with phase := .finished })).overrunShown p key
      (s.overrunLength r)).post p 7 (key % 64 * 2 ^ 32 + s.overrunLength r) 0 0 := by
  obtain ⟨hparts, htime⟩ := s.stepLeft_units p key r
  have hslot' : (s.stepLeft p key r).slot p key = some r := (State.slot_congr hparts p key).trans hslot
  have hlength : (s.stepLeft p key r).overrunLength r = s.overrunLength r := by
    rw [State.overrunLength, s.stepLeft_leadAt, show (s.stepLeft p key r).now = s.now from congrArg TimeUnit.ns htime]
    rfl
  rw [State.stepDone_plain hslot (.inl hover) hstep hmir hwait, State.afterStep_enterDuties hslot' hmodesw,
    State.enterDuties_late hslot' hover, hlength, hstep, Option.getD_none]

theorem rTtOvr_lt {p : Nat} (hp : p < 16) : rTtOvr p < 2 ^ 32 := by unfold rTtOvr rTtFrame; omega

/-- What a step that ended late shows in TT_OVR and leaves alone. -/
theorem State.stepDone_late_spec {s : State} {p key : Nat} {r : SlotRun} (hp : p < 16) (hslot : s.slot p key = some r)
    (hover : r.overrun = true) (hmodesw : r.entry.modesw = false) (hstep : r.step = none) (hmir : s.mirrored p = false)
    (hwait : ∀ e ∈ s.runs p, e.2.waiting = []) :
    (s.stepDone p key).slot p key = some { r with phase := .finished }
      ∧ (s.stepDone p key).fld (rTtOvr p) 63 40 = s.overrunLength r ∧ (s.stepDone p key).fld (rTtOvr p) 37 32 = key % 64
      ∧ (s.stepDone p key).fld (rTtOvr p) 31 0 = s.fld (rTtOvr p) 31 0
      ∧ (∀ c, c ∉ r.clusters → (s.stepDone p key).cluster c = s.cluster c)
      ∧ (s.stepDone p key).stackMem = s.stackMem ∧ (s.stepDone p key).flags = s.flags ∧ (s.stepDone p key).chans = s.chans := by
  have hlength : s.overrunLength r < 2 ^ 24 := by unfold State.overrunLength; omega
  obtain ⟨hframe, -, -, -, hcluster⟩ := s.stepLeft_frame p key r
  have hcount := State.fld_congr 31 0 (s.stepLeft_reg p key r (rTtOvr_lt hp))
  rw [State.stepDone_late hslot hover hmodesw hstep hmir hwait]
  generalize s.stepLeft p key r = u at hframe hcluster hcount
  have hstack : u.stackMem = s.stackMem := by rw [hframe]; rfl
  have hflags : u.flags = s.flags := by rw [hframe]; rfl
  have hchans : u.chans = s.chans := by rw [hframe]; rfl
  obtain ⟨hlast, hname, hcount'⟩ := (u.setSlot p key (some { r with phase := .finished })).overrunShown_fields p key hlength
  have hshown : ((u.setSlot p key (some { r with phase := .finished })).overrunShown p key (s.overrunLength r)).slot p key
      = some { r with phase := .finished } := u.slot_setSlot p key _
  have hunits : ∃ y, (u.setSlot p key (some { r with phase := .finished })).overrunShown p key (s.overrunLength r)
      = (u.withParts (u.setSlot p key (some { r with phase := .finished })).parts).withRegs y := ⟨_, rfl⟩
  generalize (u.setSlot p key (some { r with phase := .finished })).overrunShown p key (s.overrunLength r) = w
    at hlast hname hcount' hshown hunits
  obtain ⟨y, hunits⟩ := hunits
  have hpost : ∀ hi lo, (w.post p 7 (key % 64 * 2 ^ 32 + s.overrunLength r) 0 0).fld (rTtOvr p) hi lo
      = w.fld (rTtOvr p) hi lo := fun hi lo => State.fld_congr hi lo (w.post_reg _ _ _ _ _ (rTtOvr_lt hp))
  refine ⟨?_, (hpost 63 40).trans hlast, (hpost 37 32).trans hname, ((hpost 31 0).trans hcount').trans hcount, ?_⟩
  · obtain ⟨x, h, o, hw, -⟩ := w.post_frame p 7 (key % 64 * 2 ^ 32 + s.overrunLength r) 0 0
    rw [hw]
    exact hshown
  · obtain ⟨x, h, o, hw, -⟩ := w.post_frame p 7 (key % 64 * 2 ^ 32 + s.overrunLength r) 0 0
    rw [hw, hunits]
    exact ⟨fun c hc => (hcluster c).trans (if_neg hc), hstack, hflags, hchans⟩

/-! ### Overrun (R64) -/

theorem State.markOverrun_marks {s : State} {p key : Nat} {r : SlotRun} (hslot : s.slot p key = some r)
    (hover : r.overrun = false) (hworks : r.working = true) (hlead : s.leadAt r ≤ s.now) :
    s.markOverrun p key = ((s.setSlot p key (some { r with overrun := true, late := true })).incFld (rTtOvr p) 31 0).perf
      12 p none 1 := by
  unfold State.markOverrun
  rw [hslot]
  dsimp only
  rw [if_neg (by simp [hover, hworks, hlead]), State.modSlot_eq hslot]

theorem exec_overrun (p : PartId) (n : SlotId) (s : State) : exec (.overrun p n) s = .next (s.overrunAt p.val n.val) := rfl

theorem State.overrunAt_eq {s : State} {p n key : Nat} {r : SlotRun}
    (hfind : s.findRun p n (fun r => r.working) = some (key, r)) : s.overrunAt p n = s.markOverrun p key := by
  simp only [State.overrunAt, hfind]

theorem rTtOvr_ne_rTrcPcnt (p j : Nat) : rTtOvr p ≠ rTrcPcnt j := by
  unfold rTtOvr rTtFrame rTrcPcnt; omega

/-- An overrun is counted in TT_OVR, and its slot is marked. -/
theorem State.markOverrun_spec {s : State} {p key : Nat} {r : SlotRun} (hslot : s.slot p key = some r)
    (hover : r.overrun = false) (hworks : r.working = true) (hlead : s.leadAt r ≤ s.now) :
    (s.markOverrun p key).slot p key = some { r with overrun := true, late := true }
      ∧ (s.markOverrun p key).fld (rTtOvr p) 31 0 = min (s.fld (rTtOvr p) 31 0 + 1) (2 ^ 32 - 1)
      ∧ (s.markOverrun p key).fld (rTtOvr p) 63 32 = s.fld (rTtOvr p) 63 32
      ∧ (∀ k, k ≠ rTtOvr p → (∀ j, j < 8 → k ≠ rTrcPcnt j) → (s.markOverrun p key).reg k = s.reg k)
      ∧ s.markOverrun p key = (s.withRegs (s.markOverrun p key).regs).withParts (s.markOverrun p key).parts := by
  rw [State.markOverrun_marks hslot hover hworks hlead]
  have hcount : ((s.setSlot p key (some { r with overrun := true, late := true })).incFld (rTtOvr p) 31 0).fld
      (rTtOvr p) 31 0 = min (s.fld (rTtOvr p) 31 0 + 1) (2 ^ 32 - 1) :=
    State.incFld_fld_same _ _ _ _ _ (by decide) (by decide)
  have hlast : ((s.setSlot p key (some { r with overrun := true, late := true })).incFld (rTtOvr p) 31 0).fld
      (rTtOvr p) 63 32 = s.fld (rTtOvr p) 63 32 :=
    State.fld_setFld_other _ _ _ _ _ _ _ (by decide) (by decide) (by decide)
  have hother : ∀ k, k ≠ rTtOvr p → ((s.setSlot p key (some { r with overrun := true, late := true })).incFld
      (rTtOvr p) 31 0).reg k = s.reg k := fun k hk => State.reg_setFld_other _ _ _ _ _ _ hk
  have hmarked : ((s.setSlot p key (some { r with overrun := true, late := true })).incFld (rTtOvr p) 31 0).slot p key
      = some { r with overrun := true, late := true } := s.slot_setSlot p key _
  obtain ⟨x, y, hunits⟩ : ∃ x y, (s.setSlot p key (some { r with overrun := true, late := true })).incFld (rTtOvr p) 31 0
      = (s.withRegs x).withParts y := ⟨_, _, rfl⟩
  generalize (s.setSlot p key (some { r with overrun := true, late := true })).incFld (rTtOvr p) 31 0 = u
    at hcount hlast hother hmarked hunits
  obtain ⟨honly, hreg⟩ := u.perf_countsOnly 12 p none 1
  generalize u.perf 12 p none 1 = t at honly hreg
  have hcounts := hreg (rTtOvr p) fun j _ => rTtOvr_ne_rTrcPcnt p j
  refine ⟨?_, (State.fld_congr 31 0 hcounts).trans hcount, (State.fld_congr 63 32 hcounts).trans hlast,
    fun k hk hcnt => (hreg k hcnt).trans (hother k hk), ?_⟩
  · rw [honly]
    exact hmarked
  · rw [honly, hunits]
    rfl

/-! ### The step watchdog (R80) -/

/-- Every stream of a cluster ends. -/
def Cluster.endStreams (x : Cluster) : Cluster :=
  { x with streams := x.streams.map (fun e => (e.1, { e.2 with live := false, held := none, acq := none })) }

theorem Cluster.endStreams_endStreams (x : Cluster) : x.endStreams.endStreams = x.endStreams := by
  simp [Cluster.endStreams]

theorem Cluster.endStreams_live (x : Cluster) (e : Nat) : (sget {} x.endStreams.streams e : Stream).live = false := by
  rcases sget_mem_or ({} : Stream) x.endStreams.streams e with h | h
  · rw [h]
  · simp only [Cluster.endStreams, List.mem_map] at h
    obtain ⟨i, -, hi⟩ := h
    exact congrArg Stream.live (congrArg Prod.snd hi).symm

/-- The RFINAL that the step of run key of partition p has held in a group is discarded, and the announcement with it. -/
def WGroup.dropHeldOf (g : WGroup) (p key : Nat) : WGroup :=
  match g.held with
  | some h => if h.part = p ∧ h.slot = some key then { count := 0, announced := none, held := none } else g
  | none => g

theorem WGroup.dropHeldOf_held {g : WGroup} {p key : Nat} {h : HeldFinal} (hheld : (g.dropHeldOf p key).held = some h) :
    ¬ (h.part = p ∧ h.slot = some key) := by
  unfold WGroup.dropHeldOf at hheld
  split at hheld
  · next h' hh =>
    split at hheld
    · cases hheld
    · next hno => rw [hh] at hheld; cases hheld; exact hno
  · next hh => rw [hh] at hheld; cases hheld

/-- The groups of all that a step has held. -/
def State.dropHeldOf (s : State) (p key : Nat) : State :=
  s.withGroups ((s.groups.map (fun g => (g.1, g.2.dropHeldOf p key))).filter (fun g => g.2 ≠ {}))

theorem State.dropHeldOf_held {s : State} {p key g : Nat} {h : HeldFinal}
    (hheld : ((s.dropHeldOf p key).group g).held = some h) : ¬ (h.part = p ∧ h.slot = some key) := by
  unfold State.group at hheld
  rcases sget_mem_or ({} : WGroup) (s.dropHeldOf p key).groups g with e | e
  · rw [e] at hheld; cases hheld
  · simp only [State.dropHeldOf, State.withGroups_groups, List.mem_filter, List.mem_map] at e
    obtain ⟨⟨i, -, hi⟩, -⟩ := e
    refine WGroup.dropHeldOf_held (g := i.2) ?_
    rw [show i.2.dropHeldOf p key = _ from congrArg Prod.snd hi]
    exact hheld

theorem exec_stepWatchdog (p : PartId) (n : SlotId) (s : State) :
    exec (.stepWatchdog p n) s = .next (s.stepWatchdog p.val n.val) := rfl

theorem State.stepWatchdog_early {s : State} {p n key : Nat} {r : SlotRun}
    (hfind : s.findRun p n (fun r => r.phase == .step) = some (key, r))
    (h : s.now < r.start + (s.part p).actLen * 1000 + r.haltedNs) : s.stepWatchdog p n = s := by
  unfold State.stepWatchdog
  rw [hfind]
  exact if_pos (by simp [h])

theorem State.stepWatchdog_acts {s : State} {p n key : Nat} {r : SlotRun}
    (hfind : s.findRun p n (fun r => r.phase == .step) = some (key, r)) (hslot : s.slot p key = some r)
    (hhalt : s.halted = false) (h : r.start + (s.part p).actLen * 1000 + r.haltedNs ≤ s.now) :
    s.stepWatchdog p n = (r.clusters.foldl (fun s c => s.modCluster c Cluster.endStreams)
      (s.setSlot p key (some { r with watchdog := true, late := true, waiting := [] }))).dropHeldOf p key := by
  unfold State.stepWatchdog
  rw [hfind]
  dsimp only
  rw [if_neg (by simp [hhalt, h]), State.modSlot_eq hslot]
  rfl

/-- Settles O24: a step waits, or is over in time or late; an overrun is counted; the watchdog waits or acts. -/
theorem stepsCompleteOrOverrun : Obligations.StepsCompleteOrOverrun := by
  unfold Obligations.StepsCompleteOrOverrun
  refine ⟨fun p n s key r hfind hslot hidle => ?_, fun p n s key r hslot hphase => ⟨fun hfind => ?_, fun hfind hhalt => ?_⟩⟩
  · rw [exec_stepComplete, State.stepComplete_eq hfind hidle]
    refine ⟨fun h => ?_, fun hhalt hwaits hquiet hlanded hlead hover hstep hmir hwait => ?_,
      fun hhalt hwaits hquiet hlanded hover hmodesw hstep hmir hwait => ?_⟩
    · rw [if_pos]
      rcases h with h | h | ⟨c, hc, h⟩ | h
      · simp [h]
      · simp [h]
      · simp only [Bool.or_eq_true, Bool.not_eq_true', List.all_eq_false]
        exact .inl (.inr ⟨c, hc, by simp [h]⟩)
      · simp [h]
    · rw [if_neg (by simpa [hhalt, hwaits, hlanded] using hquiet), State.stepDone_inTime hslot hlead hover hstep hmir hwait]
      obtain ⟨hframe, hregs, hmem, hhost, hcluster⟩ := s.stepLeft_frame p.val key r
      generalize s.stepLeft p.val key r = u at hframe hregs hmem hhost hcluster
      exact ⟨_, rfl, u.slot_setSlot .., fun c hc => (hcluster c).trans (if_pos hc), fun c hc => (hcluster c).trans (if_neg hc),
        hmem, hregs, hhost, by rw [hframe]; rfl, by rw [hframe]; rfl, by rw [hframe]; rfl⟩
    · rw [if_neg (by simpa [hhalt, hwaits, hlanded] using hquiet)]
      exact ⟨_, rfl, State.stepDone_late_spec p.isLt hslot hover hmodesw hstep hmir hwait⟩
  · rw [exec_overrun, State.overrunAt_eq hfind]
    refine ⟨fun h => ?_, fun hlead hover => ?_⟩
    · rw [State.markOverrun_idle hslot (.inr h)]
    · exact ⟨_, rfl, State.markOverrun_spec hslot hover (State.findRun_ok hfind) hlead⟩
  · rw [exec_stepWatchdog]
    refine ⟨fun h => ?_, fun h => ?_⟩
    · rw [State.stepWatchdog_early hfind h]
    · rw [State.stepWatchdog_acts hfind hslot hhalt h]
      have hended := s.slot_setSlot p.val key (some { r with watchdog := true, late := true, waiting := [] })
      obtain ⟨honly, hcluster⟩ := State.foldl_modCluster Cluster.endStreams_endStreams r.clusters
        (s.setSlot p.val key (some { r with watchdog := true, late := true, waiting := [] }))
      generalize r.clusters.foldl (fun s c => s.modCluster c Cluster.endStreams)
        (s.setSlot p.val key (some { r with watchdog := true, late := true, waiting := [] })) = t at honly hcluster
      refine ⟨_, rfl, by rw [honly]; exact hended, fun c hc e => ?_, fun c hc => (hcluster c).trans (if_neg hc),
        fun g h hheld => State.dropHeldOf_held hheld, by rw [honly]; rfl, by rw [honly]; rfl, by rw [honly]; rfl⟩
      change (sget {} (t.cluster c).streams e : Stream).live = false
      rw [hcluster, if_pos hc]
      exact Cluster.endStreams_live _ e

end Sys2Proof.Machine
end

section

namespace Sys2Proof.Machine

/-! ### Channels that a mode-switch entry acts on (Table 8.6) -/

/-- Channel k once the entry of list idx for it acts: switching, with the work it still has to do. -/
def State.switchedChan (s : State) (idx k : Nat) : Chan :=
  let w := s.reg (rMsw (k / 16) idx (k % 16))
  match bf w 63 62 with
  | 1 => { s.chan k with state := .toMemory, switch := some (0, none) }
  | 2 => { s.chan k with state := .toProcessor, switch := some (min 2359296 (bf w 21 0), none) }
  | _ => { s.chan k with state := .recoding, switch := some (min 2359296 (bf w 21 0), none) }

theorem State.actChannel_eq (s : State) (k idx : Nat) :
    s.actChannel k idx = if s.switches idx k then (true, s.setChan k (s.switchedChan idx k)) else (false, s) := by
  unfold State.actChannel
  dsimp only
  split
  next hw hstate => simp [State.switches, State.switchedChan, hw, hstate]
  next hw hstate => simp [State.switches, State.switchedChan, hw, hstate]
  next hw hstate => simp [State.switches, State.switchedChan, hw, hstate]
  next h1 h2 h3 =>
    rw [if_neg]
    simp only [State.switches, Bool.or_eq_true, Bool.and_eq_true, beq_iff_eq]
    rintro (⟨hw | hw, hstate⟩ | ⟨hw, hstate⟩)
    · exact h1 hw hstate
    · exact h3 hw hstate
    · exact h2 hw hstate

/-- A channel that an entry has acted on is switching, in neither of its modes. -/
theorem State.switchedChan_state (s : State) (idx k : Nat) :
    (s.switchedChan idx k).state ≠ .processor ∧ (s.switchedChan idx k).state ≠ .memory := by
  unfold State.switchedChan
  dsimp only
  split <;> exact ⟨ChState.noConfusion, ChState.noConfusion⟩

/-- The mode-switch entries of list idx act on channels in turn: those acted on, and the state after. -/
def State.actChannels (s : State) (idx : Nat) (ks : List Nat) : List Nat × State :=
  ks.foldl (fun a k => (if (a.2.actChannel k idx).1 then a.1 ++ [k] else a.1, (a.2.actChannel k idx).2)) ([], s)

/-- Each channel whose entry acts is set switching once: a second visit finds it switching and does nothing. -/
theorem State.actChannels_spec (s : State) (idx : Nat) (ks : List Nat) :
    (s.actChannels idx ks).1 = (ks.filter (s.switches idx)).eraseDups
      ∧ (s.actChannels idx ks).2 = s.withChans (s.actChannels idx ks).2.chans
      ∧ ∀ k, (s.actChannels idx ks).2.chan k
          = if k ∈ ks.filter (s.switches idx) then s.switchedChan idx k else s.chan k := by
  induction ks using List.reverseRecOn with
  | nil => exact ⟨rfl, rfl, fun _ => rfl⟩
  | append_singleton ks k ih =>
    obtain ⟨hacted, honly, hchan⟩ := ih
    rw [State.actChannels, List.foldl_append, ← State.actChannels]
    generalize s.actChannels idx ks = a at hacted honly hchan
    have hreg : a.2.reg = s.reg := by rw [honly]; rfl
    have hswitched : a.2.chan k = s.chan k → a.2.switchedChan idx k = s.switchedChan idx k := fun h => by
      simp only [State.switchedChan, hreg, h]
    rw [List.foldl_cons, List.foldl_nil, State.actChannel_eq, hacted, List.filter_append]
    by_cases hagain : k ∈ ks.filter (s.switches idx)
    · have hacts : s.switches idx k = true := (List.mem_filter.mp hagain).2
      have hidle : a.2.switches idx k = false := by
        obtain ⟨hproc, hmem⟩ := s.switchedChan_state idx k
        rw [State.switches, hchan k, if_pos hagain]
        simp [hproc, hmem]
      have hgone : [k].removeAll (ks.filter (s.switches idx)) = [] := by
        simpa [List.removeAll, hacts] using hagain
      rw [List.filter_cons_of_pos hacts, List.filter_nil, List.eraseDups_append, hgone, hidle]
      refine ⟨by simp, honly, fun j => (hchan j).trans ?_⟩
      by_cases hj : j = k
      · rw [hj, if_pos hagain, if_pos (List.mem_append_left _ hagain)]
      · simp [hj]
    · have hsame : a.2.chan k = s.chan k := (hchan k).trans (if_neg hagain)
      have hswitches : a.2.switches idx k = s.switches idx k := by simp only [State.switches, hreg, hsame]
      rw [hswitches, hswitched hsame]
      cases hacts : s.switches idx k
      · rw [List.filter_cons_of_neg (by simp [hacts]), List.filter_nil, List.append_nil]
        exact ⟨rfl, honly, hchan⟩
      · have hnew : [k].removeAll (ks.filter (s.switches idx)) = [k] := by
          simpa [List.removeAll, hacts] using hagain
        rw [List.filter_cons_of_pos hacts, List.filter_nil, List.eraseDups_append, hnew]
        refine ⟨by simp [List.eraseDups_cons], by rw [if_pos rfl, honly]; rfl, fun j => ?_⟩
        rw [if_pos rfl, State.chan_setChan, hchan]
        by_cases hj : j = k
        · simp [hj]
        · simp [hj]

/-! ### The MODESW duty (R225, R226) -/

theorem Cluster.cacheDrop_cacheDrop (x : Cluster) : x.cacheDrop.cacheDrop = x.cacheDrop := by
  simp [Cluster.cacheDrop, Function.comp_def]

theorem mem_bitsOf {w n i : Nat} : i ∈ bitsOf w n ↔ i < n ∧ w.testBit i = true := by
  simp [bitsOf]

/-- An overrun touches registers and the runs alone. -/
theorem State.markOverrun_frame (s : State) (p key : Nat) : ∃ x y, s.markOverrun p key = (s.withRegs x).withParts y := by
  unfold State.markOverrun
  split
  · exact ⟨s.regs, s.parts, rfl⟩
  · split
    · exact ⟨s.regs, s.parts, rfl⟩
    · obtain ⟨y, hslot⟩ := s.modSlot_frame p key fun r => { r with overrun := true, late := true }
      dsimp only
      rw [hslot, (State.perf_countsOnly ..).regs]
      exact ⟨_, y, rfl⟩

/-- Entering the duties touches registers, the rings and the runs alone. -/
theorem State.enterDuties_frame (s : State) (p key : Nat) :
    ∃ x h o y, s.enterDuties p key = (((s.withRegs x).withHostMem h).withHost o).withParts y := by
  obtain ⟨x, y, hmark⟩ := s.markOverrun_frame p key
  unfold State.enterDuties
  dsimp only
  rw [hmark]
  split
  · exact ⟨x, s.hostMem, s.host, y, rfl⟩
  next r _ =>
    generalize min 0xFFFFFF _ = d
    split
    · obtain ⟨z, hslot⟩ := ((s.withRegs x).withParts y).modSlot_frame p key fun r => { r with phase := .finished }
      obtain ⟨w, h, o, hpost, -⟩ := State.post_frame ((((s.withRegs x).withParts z).setFld (rTtOvr p) 63 40 d).setFld
        (rTtOvr p) 37 32 (key % 64)) p 7 (key % 64 * 2 ^ 32 + d) 0 (r.step.getD 0)
      rw [hslot]
      exact ⟨w, h, o, z, hpost⟩
    · split
      · obtain ⟨z, hslot⟩ := ((s.withRegs x).withParts y).modSlot_frame p key fun r =>
          { r with phase := .duties, dutyStart := some ((s.withRegs x).withParts y).now }
        exact ⟨x, s.hostMem, s.host, z, hslot⟩
      · obtain ⟨z, hslot⟩ := ((s.withRegs x).withParts y).modSlot_frame p key fun r => { r with phase := .background }
        exact ⟨x, s.hostMem, s.host, z, hslot⟩

theorem State.modeswEnd_spec (s : State) (p key : Nat) :
    (∀ c, c < 32 → (s.tmpl p).clusters.testBit c = true → ((s.modeswEnd p key).cluster c).cache = [])
      ∧ ∃ w x h o y, s.modeswEnd p key = ((((s.withClusters w).withRegs x).withHostMem h).withHost o).withParts y := by
  obtain ⟨honly, hcluster⟩ := State.foldl_modCluster Cluster.cacheDrop_cacheDrop (bitsOf (s.tmpl p).clusters 32) s
  rw [State.modeswEnd]
  generalize (bitsOf (s.tmpl p).clusters 32).foldl (fun s c => s.modCluster c Cluster.cacheDrop) s = u at honly hcluster
  obtain ⟨x, h, o, y, hduties⟩ := (u.modSlot p key fun r => { r with switching := false }).enterDuties_frame p key
  obtain ⟨z, hslot⟩ : ∃ z, u.modSlot p key (fun r => { r with switching := false }) = u.withParts z := u.modSlot_frame ..
  rw [hduties, hslot]
  refine ⟨fun c hc hbit => ?_, _, x, h, o, y, by rw [honly]; rfl⟩
  change (u.cluster c).cache = []
  rw [hcluster, if_pos (mem_bitsOf.mpr ⟨hc, hbit⟩)]
  rfl

theorem exec_modeswDuty (p : PartId) (n : SlotId) (s : State) :
    exec (.modeswDuty p n) s = .next (s.modeswDuty p.val n.val) := rfl

theorem State.modeswDuty_acts {s : State} {p n key : Nat} {r : SlotRun}
    (hfind : s.findRun p n (fun r => r.phase == .modesw && !r.switching) = some (key, r)) (hslot : s.slot p key = some r)
    (hhalt : s.halted = false) :
    let a := s.actChannels r.entry.mswIdx (s.tmpl p).chans
    let u := a.2.setSlot p key (some { r with switching := true, acted := a.1 })
    s.modeswDuty p n = if a.1.isEmpty then u.modeswEnd p key else u := by
  dsimp only
  have hslot' : (s.actChannels r.entry.mswIdx (s.tmpl p).chans).2.slot p key = some r := by
    rw [(s.actChannels_spec _ _).2.1]
    exact hslot
  unfold State.modeswDuty
  rw [hfind]
  dsimp only
  rw [if_neg (by simp [hhalt]), ← State.modSlot_eq hslot'
    (fun x => { x with switching := true, acted := (s.actChannels r.entry.mswIdx (s.tmpl p).chans).1 })]
  rfl

theorem State.modeswDuty_halted {s : State} (h : s.halted = true) (p n : Nat) : s.modeswDuty p n = s := by
  unfold State.modeswDuty
  split
  · rfl
  · exact if_pos h

/-- The MODESW duty: what it acts on switches, all else stays; with nothing to act on it ends, and its clusters' read
caches are invalidated. -/
theorem State.modeswDuty_spec {s : State} {p n key : Nat} {r : SlotRun}
    (hfind : s.findRun p n (fun r => r.phase == .modesw && !r.switching) = some (key, r)) (hslot : s.slot p key = some r)
    (hhalt : s.halted = false) :
    let acted := (s.tmpl p).chans.filter (s.switches r.entry.mswIdx)
    (∀ k, (s.modeswDuty p n).chan k = if k ∈ acted then s.switchedChan r.entry.mswIdx k else s.chan k)
      ∧ (acted ≠ [] → (s.modeswDuty p n).slot p key = some { r with switching := true, acted := acted.eraseDups }
        ∧ s.modeswDuty p n = (s.withChans (s.modeswDuty p n).chans).withParts (s.modeswDuty p n).parts)
      ∧ (acted = [] → ∀ c, c < 32 → (s.tmpl p).clusters.testBit c = true → ((s.modeswDuty p n).cluster c).cache = [])
      ∧ (s.modeswDuty p n).stackMem = s.stackMem ∧ (s.modeswDuty p n).caseMem = s.caseMem
      ∧ (s.modeswDuty p n).flags = s.flags ∧ (s.modeswDuty p n).reqs = s.reqs ∧ (s.modeswDuty p n).scus = s.scus := by
  obtain ⟨hacted, honly, hchan⟩ := s.actChannels_spec r.entry.mswIdx (s.tmpl p).chans
  have hacts := State.modeswDuty_acts hfind hslot hhalt
  dsimp only at hacts ⊢
  generalize s.actChannels r.entry.mswIdx (s.tmpl p).chans = a at hacted honly hchan hacts
  generalize (s.tmpl p).chans.filter (s.switches r.entry.mswIdx) = acted at hacted hchan
  have hunits : ∀ x, ∃ z, a.2.setSlot p key x = (s.withChans a.2.chans).withParts z := fun x =>
    ⟨(a.2.setSlot p key x).parts, by rw [honly]; rfl⟩
  have hchans : ∀ k, (s.withChans a.2.chans).chan k = a.2.chan k := fun _ => rfl
  generalize a.2.chans = cs at hunits hchans
  cases acted with
  | nil =>
    rw [hacted, List.eraseDups_nil, List.isEmpty_nil, if_pos rfl] at hacts
    obtain ⟨hcache, w, x, h, o, y, hframe⟩ :=
      (a.2.setSlot p key (some { r with switching := true, acted := [] })).modeswEnd_spec p key
    have htmpl : (a.2.setSlot p key (some { r with switching := true, acted := [] })).tmpl p = s.tmpl p := by
      rw [honly, State.tmpl, State.setSlot, State.part_modPart, if_pos rfl]
      rfl
    obtain ⟨z, hz⟩ := hunits (some { r with switching := true, acted := [] })
    rw [htmpl] at hcache
    rw [hacts]
    generalize State.modeswEnd _ p key = t at hcache hframe
    rw [hz] at hframe
    refine ⟨fun k => ?_, fun h => absurd rfl h, fun _ => hcache, by rw [hframe]; rfl,
      by rw [hframe]; rfl, by rw [hframe]; rfl, by rw [hframe]; rfl, by rw [hframe]; rfl⟩
    rw [hframe, ← hchan, ← hchans]
    rfl
  | cons k ks =>
    rw [hacted, if_neg (by simp [List.eraseDups_cons])] at hacts
    have hmarked := a.2.slot_setSlot p key (some { r with switching := true, acted := (k :: ks).eraseDups })
    obtain ⟨z, hz⟩ := hunits (some { r with switching := true, acted := (k :: ks).eraseDups })
    rw [← hacts] at hz hmarked
    generalize s.modeswDuty p n = t at hz hmarked
    refine ⟨fun k => ?_, fun _ => ⟨hmarked, by rw [hz]; rfl⟩, fun h => absurd h (List.cons_ne_nil _ _), by rw [hz]; rfl,
      by rw [hz]; rfl, by rw [hz]; rfl, by rw [hz]; rfl, by rw [hz]; rfl⟩
    rw [hz, ← hchan, ← hchans]
    rfl

/-! ### A channel's switch ends (R226) -/

theorem exec_modeswDone (n : StackId) (m : ChanId) (s : State) :
    exec (.modeswDone n m) s = .next (s.modeswDone (chanKey n m)) := rfl

/-- No duty waits for a channel that no run has acted on. -/
theorem State.actedDone_of_none {s : State} {k : Nat} (h : ∀ p, ∀ e ∈ s.runs p, k ∉ e.2.acted) : s.actedDone k = s := by
  unfold State.actedDone
  refine List.foldlRecOn (motive := fun t => t = s) _ _ rfl fun t ht p _ => ?_
  have hnone : (s.runs p).filter (fun r => r.2.switching && r.2.acted.contains k) = [] :=
    List.filter_eq_nil_iff.mpr fun e he => by simp [h p e he]
  rw [ht, hnone]
  rfl

theorem State.modeswDone_eq {s : State} {k wl d : Nat} (hswitch : (s.chan k).switch = some (wl, some d))
    (hrun : s.frozen = false) (hnone : ∀ p, ∀ e ∈ s.runs p, k ∉ e.2.acted) :
    s.modeswDone k = if s.now < d then s
      else s.setChan k { s.chan k with state := (s.chan k).state.target, switch := none } := by
  have hdone := State.actedDone_of_none
    (s := s.setChan k { s.chan k with state := (s.chan k).state.target, switch := none }) hnone
  unfold State.modeswDone
  dsimp only
  rw [hswitch]
  simp only [hrun, hdone, Bool.false_or, decide_eq_true_eq]

/-! ### MAINT, and the end of the duties (R46, R47) -/

theorem exec_maintDuty (p : PartId) (n : SlotId) (s : State) : exec (.maintDuty p n) s = .next (s.maintDuty p.val n.val) := rfl

theorem exec_dutyLenExpiry (p : PartId) (n : SlotId) (s : State) :
    exec (.dutyLenExpiry p n) s = .next (s.dutyExpiry p.val n.val) := rfl

theorem State.maintDuty_eq {s : State} {p n key d : Nat} {r : SlotRun} (hslot : s.slot p key = some r)
    (hstart : r.dutyStart = some d) (hhalt : s.halted = false)
    (hfind : s.findRun p n (fun r => r.phase == .duties && r.entry.maint && !s.swapLeft p r) = some (key, r)) :
    s.maintDuty p n = if d + r.entry.dutyLen ≤ s.now then s else s.setSlot p key (some { r with phase := .maint }) := by
  unfold State.maintDuty
  rw [hfind]
  simp only [hhalt, hstart, Option.getD_some, Bool.false_or, decide_eq_true_eq, ge_iff_le, State.modSlot_eq hslot]

theorem State.dutyExpiry_eq {s : State} {p n key d : Nat} {r : SlotRun} (hslot : s.slot p key = some r)
    (hstart : r.dutyStart = some d)
    (hfind : s.findRun p n (fun r => r.phase == .duties || r.phase == .maint) = some (key, r)) :
    s.dutyExpiry p n = if d + r.entry.dutyLen ≤ s.now then s.setSlot p key (some { r with phase := .background }) else s := by
  unfold State.dutyExpiry
  rw [hfind]
  simp only [hstart, Option.getD_some, decide_eq_true_eq, ge_iff_le, State.modSlot_eq hslot]

/-! ### Background: the resynchronisation copy (R369) -/

theorem exec_bkgd (p : PartId) (n : SlotId) (s : State) : exec (.bkgd p n) s = .next (s.bkgd p.val n.val) := rfl

theorem State.bkgd_late {s : State} {p n key : Nat} {r : SlotRun}
    (hfind : s.findRun p n (fun r => r.entry.bkgd && s.dutiesIdle p r) = some (key, r)) (h : s.leadAt r ≤ s.now) :
    s.bkgd p n = s := by
  unfold State.bkgd
  rw [hfind]
  exact if_pos (by simp [h])

theorem State.bkgd_copies {s : State} {p n key : Nat} {r : SlotRun} (hslot : s.slot p key = some r)
    (hfind : s.findRun p n (fun r => r.entry.bkgd && s.dutiesIdle p r) = some (key, r)) (hhalt : s.halted = false)
    (h : s.now < s.leadAt r) :
    s.bkgd p n = (s.setSlot p key (some { r with phase := .background })).rsyncCopy 1 := by
  unfold State.bkgd
  rw [hfind]
  dsimp only
  rw [if_neg (by simp [hhalt, h]), State.modSlot_eq hslot]

/-- The bytes of the 2 MiB page from a on that are not 0, each with its place in the page. -/
def State.pageCells (s : State) (sp : Space) (a : Nat) : List (Nat × Byte) :=
  ((s.memOf sp).filter (fun c => decide (a ≤ c.1) && decide (c.1 < a + 2 ^ 21))).map (fun c => (c.1 - a, c.2))

theorem State.mem_pageCells {s : State} {sp : Space} {a o : Nat} (ho : o < 2 ^ 21) (h : mget (s.memOf sp) (a + o) ≠ 0) :
    (o, mget (s.memOf sp) (a + o)) ∈ s.pageCells sp a := by
  have hcell := (sget_mem_or (0 : Byte) (s.memOf sp) (a + o)).resolve_left h
  refine List.mem_map.mpr ⟨_, List.mem_filter.mpr ⟨hcell, ?_⟩, ?_⟩
  · simpa using ho
  · simp [mget]

/-- A page without a stored error is sent as it stands (R369). -/
theorem State.sendPage_plain {s : State} (h : s.integ.errs = []) (k : Nat) :
    s.sendPage k = s.withMirror { s.mirror with
      forwarded := s.mirror.forwarded ++ [.page k (s.pageCells (pageBase k).1 (pageBase k).2) []]
      copied := linsert k s.mirror.copied
      copyMap := s.mirror.copyMap.filter (· != k) } := by
  have hbad : ∀ sp a, s.badUnits sp a = [] := fun sp a => by simp [State.badUnits, h]
  unfold State.sendPage
  simp only [hbad, List.foldl_nil]
  rfl

/-- Copying one page takes the first that is free of those still to be copied. -/
theorem State.rsyncCopy_one {s : State} {q : Nat} {rest : List Nat} (hphase : s.fld rMirRsync 63 62 = 1)
    (hup : s.mirUp = true) (htrip : s.tripped = false) (hfirst : s.mirror.copyMap.filter s.pageFree = q :: rest) :
    s.rsyncCopy 1 = s.sendPage q := by
  unfold State.rsyncCopy
  dsimp only
  rw [hphase, hfirst, hup, htrip]
  rfl

/-! ### What copying into the stacks leaves alone -/

/-- The runs, the swaps, the flags and the case store are as they were. -/
structure StackSide (s t : State) : Prop where
  parts : t.parts = s.parts
  scus : t.scus = s.scus
  flags : t.flags = s.flags
  caseMem : t.caseMem = s.caseMem

theorem StackSide.refl (s : State) : StackSide s s := ⟨rfl, rfl, rfl, rfl⟩

theorem StackSide.trans {s t u : State} (h : StackSide s t) (h' : StackSide t u) : StackSide s u :=
  ⟨h'.parts.trans h.parts, h'.scus.trans h.scus, h'.flags.trans h.flags, h'.caseMem.trans h.caseMem⟩

theorem StackSide.foldl {β : Type} (f : State → β → State) (l : List β) (hf : ∀ s, ∀ x ∈ l, StackSide s (f s x))
    (s : State) : StackSide s (l.foldl f s) :=
  List.foldlRecOn (motive := fun t => StackSide s t) _ _ (.refl s) fun t ht x hx => ht.trans (hf t x hx)

theorem StackSide.withRegs (s : State) (r : SMap W64) : StackSide s (s.withRegs r) := ⟨rfl, rfl, rfl, rfl⟩

theorem StackSide.withInteg (s : State) (i : Integrity) : StackSide s (s.withInteg i) := ⟨rfl, rfl, rfl, rfl⟩

theorem StackSide.setErr (s : State) (sp : Space) (a : Nat) (e : ErrPat) : StackSide s (s.setErr sp a e) := .withInteg ..

theorem StackSide.incFld (s : State) (k hi lo n : Nat) : StackSide s (s.incFld k hi lo n) := .withRegs ..

theorem StackSide.errLog (s : State) (site : Nat × Nat) (kind die loc : Nat) : StackSide s (s.errLog site kind die loc) := by
  unfold State.errLog
  exact (((StackSide.withRegs ..).trans (.withRegs ..)).trans (.withRegs ..)).trans (.withRegs ..)

theorem StackSide.pfev (s : State) (b p : Nat) : StackSide s (s.pfev b p) := by
  obtain ⟨r, h, o, e, -⟩ := s.pfev_frame b p
  rw [e]
  exact ⟨rfl, rfl, rfl, rfl⟩

theorem StackSide.moduleFail (s : State) : StackSide s s.moduleFail := by
  obtain ⟨m, p, r, h, o, n, e, -⟩ := s.moduleFail_frame
  rw [e]
  exact ⟨rfl, rfl, rfl, rfl⟩

theorem StackSide.recordRetirement (s : State) (w : RetWord) (n : Nat) : StackSide s (s.recordRetirement w n) := by
  unfold State.recordRetirement State.keepQueue
  split
  · split
    · exact .refl s
    · split
      · exact ⟨rfl, rfl, rfl, rfl⟩
      · exact ⟨rfl, rfl, rfl, rfl⟩
  · exact .withRegs ..

theorem StackSide.retireRow (s : State) (k die bank row : Nat) : StackSide s (s.retireRow k die bank row) := by
  unfold State.retireRow
  dsimp only
  split
  · exact .refl s
  · split
    · exact .withInteg ..
    · split
      · exact .moduleFail s
      · exact (((StackSide.withInteg ..).trans (.recordRetirement ..)).trans (.errLog ..)).trans (.pfev ..)

theorem StackSide.qualifyRow (s : State) (k die bank row : Nat) : StackSide s (s.qualifyRow k die bank row) := by
  unfold State.qualifyRow
  split
  · exact .retireRow ..
  · exact .withInteg ..

theorem StackSide.noteRowError (s : State) (k die bank row : Nat) : StackSide s (s.noteRowError k die bank row) := by
  unfold State.noteRowError
  dsimp only
  split
  · exact (StackSide.withInteg s _).trans (.qualifyRow ..)
  · exact .withInteg ..

theorem StackSide.countErrors (s : State) (sp : Space) (a : Nat) (u : UnitCheck) : StackSide s (s.countErrors sp a u) := by
  unfold State.countErrors
  split
  · exact (StackSide.incFld ..).trans ((StackSide.errLog ..).trans ((StackSide.setErr ..).trans (.pfev ..)))
  · exact .foldl _ _ (fun s d _ => (StackSide.incFld ..).trans (.errLog ..)) _

theorem StackSide.noteRows (s : State) (a : Nat) (u : UnitCheck) : StackSide s (s.noteRows a u) := by
  have qualified := StackSide.foldl (fun s d => s.qualifyRow (chanOfPa a) d (bankOfPa a) (rowOfPa a)) u.badDies
    (fun s d _ => .qualifyRow ..) s
  unfold State.noteRows
  dsimp only
  split
  · exact qualified
  · exact qualified.trans (.foldl _ _ (fun s d _ => .noteRowError ..) _)

theorem StackSide.noteCheck (s : State) (sp : Space) (a : Nat) (u : UnitCheck) : StackSide s (s.noteCheck sp a u) := by
  rw [State.noteCheck_eq]
  split
  · exact (StackSide.incFld ..).trans (.errLog ..)
  · split
    · exact (StackSide.countErrors ..).trans (.noteRows ..)
    · exact .countErrors ..

theorem StackSide.withStack (s : State) (m : Mem) : StackSide s (s.withMem .stack m) := ⟨rfl, rfl, rfl, rfl⟩

theorem StackSide.takeRaw (s : State) (u : Nat) (raw : List (Nat × Byte)) : StackSide s (s.takeRaw .stack u raw) := by
  unfold State.takeRaw
  split
  · exact .refl s
  · exact .withStack ..

/-- What a write does to a suspect line of the stacks. -/
theorem StackSide.writeUnit (s : State) (ws : List PWrite) {u : Space × Nat} (h : u.1 = .stack) :
    StackSide s (s.writeUnit ws u).2 := by
  obtain ⟨sp, a⟩ := u
  cases h
  unfold State.writeUnit
  dsimp only
  split
  · exact .setErr ..
  · split
    · exact .refl s
    · split
      · exact .noteCheck ..
      · exact (StackSide.noteCheck ..).trans ((StackSide.takeRaw ..).trans (.setErr ..))

/-- A write of the stacks that no armed flip mask corrupts. -/
theorem StackSide.writeBytes (s : State) {ws : List PWrite} (h : ∀ w ∈ ws, w.sp = .stack) :
    StackSide s (s.writeBytes ws false) := by
  unfold State.writeBytes
  split
  · exact .refl s
  · extract_lets sus
    have stacked : ∀ u ∈ sus, u.1 = .stack := by
      dsimp only [sus]
      split
      · exact nofun
      · refine List.foldlRecOn (motive := fun l : List (Space × Nat) => ∀ u ∈ l, u.1 = .stack) _ _ nofun fun l hl u hu => ?_
        obtain ⟨w, hw, rfl⟩ := List.mem_map.mp hu
        split
        · exact hl
        · exact List.forall_mem_append.mpr ⟨hl, List.forall_mem_singleton.mpr (h w hw)⟩
    have checked := List.foldlRecOn (motive := fun a : List (Space × Nat) × State => StackSide s a.2) (b := ([], s)) sus
      (fun a u => (if (a.2.writeUnit ws u).1 then a.1 else a.1 ++ [u], (a.2.writeUnit ws u).2)) (.refl s)
      fun a ha u hu => ha.trans (.writeUnit a.2 ws (stacked u hu))
    split
    next drop t e =>
      rw [e] at checked
      extract_lets ws' written flipped
      have kept : ∀ w ∈ ws', w.sp = .stack := by
        dsimp only [ws']
        split
        · exact h
        · exact fun w hw => h w (List.mem_of_mem_filter hw)
      have put : StackSide s flipped := checked.trans (.foldl _ _ (fun s w hw => by rw [kept w hw]; exact .withStack ..) t)
      split
      · exact put
      · refine put.trans ?_
        unfold State.markPages
        split
        · exact .refl _
        · exact ⟨rfl, rfl, rfl, rfl⟩

theorem StackSide.countLines (s : State) (c : Option Nat) (ls : List (Space × Nat)) : StackSide s (s.countLines c ls) := by
  rw [(s.countLines_countsOnly c ls).regs]
  exact .withRegs ..

theorem StackSide.tierErrs (s : State) (as : List Nat) : StackSide s (s.tierErrs as) := by
  refine .foldl _ _ (fun s n _ => ?_) s
  unfold State.tierErr
  split
  · exact .incFld ..
  · exact .refl s

theorem StackSide.poisonRun (s : State) (ls : List (Space × Nat)) : StackSide s (s.poisonRun ls) :=
  .foldl _ _ (fun _ _ _ => .setErr ..) s

theorem StackSide.tierInEach (s : State) {qs : List (Nat × Space × Nat)} (h : ∀ q ∈ qs, q.2.1 = .stack) :
    StackSide s (s.tierInEach qs) := by
  unfold State.tierInEach
  dsimp only
  refine (StackSide.writeBytes s fun w hw => ?_).trans ((StackSide.tierErrs ..).trans (.poisonRun ..))
  obtain ⟨q, hq, rfl⟩ := List.mem_map.mp hw
  exact h q (List.mem_of_mem_filter hq)

theorem StackSide.tierIn (s : State) (a : Nat) {ls : List (Space × Nat)} (h : ∀ l ∈ ls, l.1 = .stack) :
    StackSide s (s.tierIn a ls) := by
  unfold State.tierIn
  dsimp only
  split
  · refine (StackSide.countLines ..).trans (.writeBytes _ fun w hw => ?_)
    obtain ⟨q, hq, rfl⟩ := List.mem_map.mp hw
    exact h q.1 (List.of_mem_zip hq).1
  · refine (StackSide.countLines ..).trans (.tierInEach _ fun w hw => ?_)
    obtain ⟨q, hq, rfl⟩ := List.mem_map.mp hw
    exact h q.2 (List.of_mem_zip hq).2

/-! ### The SWAP duty (R322) -/

/-- A resident slot lies in the stacks. -/
theorem State.swapPlaces_stack {s : State} {p a : Nat} {l : Space × Nat} (h : l ∈ s.swapPlaces p a) : l.1 = .stack := by
  unfold State.swapPlaces at h
  dsimp only at h
  split at h
  · cases h
  · obtain ⟨i, hi, hl⟩ := List.mem_filterMap.mp h
    obtain ⟨j, -, rfl⟩ := List.mem_map.mp hi
    obtain ⟨x, -, rfl⟩ := Option.map_eq_some_iff.mp hl
    rfl

theorem StackSide.swapPiece (s : State) (p tier a : Nat) : StackSide s (s.swapPiece p tier a) := by
  have stacked : ∀ l ∈ s.swapPlaces p a, l.1 = .stack := fun _ => State.swapPlaces_stack
  unfold State.swapPiece
  dsimp only
  split
  · split
    · exact .refl s
    · exact .tierIn _ _ stacked
  · refine (StackSide.countLines ..).trans (.tierInEach _ fun q hq => ?_)
    obtain ⟨z, hz, rfl⟩ := List.mem_map.mp hq
    exact stacked z.2 (List.of_mem_zip (List.mem_of_mem_filter hz)).2

theorem StackSide.leaveSlot (s : State) (p k : Nat) : StackSide s (s.leaveSlot p k) := by
  unfold State.leaveSlot
  split
  · exact (StackSide.withRegs ..).trans (.withRegs ..)
  · exact .refl s

theorem exec_swapDuty (p : PartId) (n : SlotId) (s : State) : exec (.swapDuty p n) s = .next (s.swapDuty p.val n.val) := rfl

theorem State.swapDuty_late {s : State} {p n key d : Nat} {r : SlotRun}
    (hfind : s.findRun p n (fun r => r.phase == .duties && r.entry.swap) = some (key, r)) (hstart : r.dutyStart = some d)
    (h : d + r.entry.dutyLen ≤ s.now) : s.swapDuty p n = s := by
  unfold State.swapDuty
  split
  · next he _ =>
    rw [hfind] at he
    cases he
    exact if_pos (by simp [hstart, h])
  · rfl

/-- Nothing holds up a piece of a copy while no channel refreshes or is calibrated. -/
theorem State.calm_of_quiet {s : State} (h : ∀ k, (s.chan k).refreshing = none ∧ s.calibrating k = false)
    (ls : List (Space × Nat)) : s.calm ls = true := by
  refine List.all_eq_true.mpr fun l _ => ?_
  split
  · simp [h]
  · rfl

/-- A piece of the copy of a swap in progress: what is left counts down, and no other partition's swap moves. -/
theorem State.swapDuty_copies {s : State} {p n key d v k left : Nat} {r : SlotRun}
    (hfind : s.findRun p n (fun r => r.phase == .duties && r.entry.swap) = some (key, r)) (hstart : r.dutyStart = some d)
    (hswap : (s.scu p).swap = some (v, k, left + 1)) (hhalt : s.halted = false)
    (hquiet : ∀ k, (s.chan k).refreshing = none ∧ s.calibrating k = false) (h : s.now < d + r.entry.dutyLen) :
    ∃ u, StackSide s u ∧ s.swapDuty p n = u.modScu p (fun x => { x with swap := some (v, k, left) }) := by
  have calm : (List.range 16).all (fun j => s.calm ((s.swapPlaces p (s.vslotAddr p k
      + (bf (s.varW p v 2) 63 40 - (left + 1)) * 2 ^ 20 + 65536 * j)).take 1)) = true :=
    List.all_eq_true.mpr fun _ _ => State.calm_of_quiet hquiet _
  unfold State.swapDuty
  rw [hfind, hswap]
  dsimp only
  rw [if_neg (by simp [hhalt, hstart, h]), calm, if_neg (by simp)]
  refine ⟨_, ?_, rfl⟩
  refine StackSide.trans ?_ (.foldl _ _ (fun s j _ => .swapPiece ..) _)
  split
  · exact .leaveSlot ..
  · exact .refl s

theorem State.bkgd_spec {s : State} {p n key q : Nat} {rest : List Nat} {r : SlotRun} (hslot : s.slot p key = some r)
    (hfind : s.findRun p n (fun r => r.entry.bkgd && s.dutiesIdle p r) = some (key, r)) (hhalt : s.halted = false)
    (h : s.now < s.leadAt r) (hphase : s.fld rMirRsync 63 62 = 1) (hup : s.mirUp = true)
    (hfirst : s.mirror.copyMap.filter s.pageFree = q :: rest) (hplain : s.plainReads) :
    s.bkgd p n = (s.setSlot p key (some { r with phase := .background })).withMirror { s.mirror with
      forwarded := s.mirror.forwarded ++ [.page q (s.pageCells (pageBase q).1 (pageBase q).2) []]
      copied := linsert q s.mirror.copied
      copyMap := s.mirror.copyMap.filter (· != q) } := by
  obtain ⟨herrs, htrip⟩ := hplain
  have first := State.rsyncCopy_one (s := s.setSlot p key (some { r with phase := .background })) hphase hup htrip hfirst
  have sent := State.sendPage_plain (s := s.setSlot p key (some { r with phase := .background })) herrs q
  rw [State.bkgd_copies hslot hfind hhalt h, first, sent]
  cases (pageBase q).1 <;> rfl

/-- Settles O25: MODESW sets channels switching, SWAP and MAINT run until DUTY_LEN, and BKGD copies a page. -/
theorem dutiesRunInTheirTime : Obligations.DutiesRunInTheirTime := by
  unfold Obligations.DutiesRunInTheirTime
  refine ⟨⟨fun s k idx => ?_, fun p n s key r hfind hslot => ⟨fun hhalt => ?_, fun hhalt => ?_⟩,
    fun n m s wl d hswitch hrun hnone => ?_⟩, fun p n s key d r hslot hstart => ⟨fun hfind hhalt => ?_, fun hfind => ?_,
    fun v k left hfind hswap hhalt hquiet => ?_⟩, fun p n s key r hslot _ hfind hhalt => ⟨fun h => ?_,
    fun q rest h hphase hup hfirst hplain => ?_⟩⟩
  · dsimp only
    refine ⟨fun hw hstate => ?_, fun hw hstate => ?_, fun hw hstate => ?_, fun hw => ?_⟩
    · simp only [State.actChannel, hw, hstate]
    · simp only [State.actChannel, hw, hstate]
    · simp only [State.actChannel, hw, hstate]
    · rw [State.actChannel_eq, if_neg (by simp [State.switches, hw])]
  · rw [exec_modeswDuty, State.modeswDuty_halted hhalt]
  · obtain ⟨hchan, hacts, hnone, hkept⟩ := State.modeswDuty_spec hfind hslot hhalt
    exact ⟨_, exec_modeswDuty p n s, fun k hk => (hchan k).trans (if_pos hk), fun k hk => (hchan k).trans (if_neg hk), hacts,
      hnone, hkept⟩
  · rw [exec_modeswDone, State.modeswDone_eq hswitch hrun hnone]
    exact ⟨fun h => by rw [if_pos h], fun h => by rw [if_neg (Nat.not_lt.mpr h)]⟩
  · rw [exec_maintDuty, State.maintDuty_eq hslot hstart hhalt hfind]
    exact ⟨fun h => by rw [if_neg (Nat.not_le.mpr h)], fun h => by rw [if_pos h]⟩
  · rw [exec_dutyLenExpiry, State.dutyExpiry_eq hslot hstart hfind]
    exact ⟨fun h => by rw [if_neg (Nat.not_le.mpr h)], fun h => by rw [if_pos h]⟩
  · rw [exec_swapDuty]
    refine ⟨fun h => by rw [State.swapDuty_late hfind hstart h], fun h => ?_⟩
    obtain ⟨u, ⟨hparts, hscus, hflags, hcase⟩, hu⟩ := State.swapDuty_copies hfind hstart hswap hhalt hquiet h
    rw [hu]
    refine ⟨_, rfl, ?_, fun q hq => ?_, (State.slot_congr hparts ..).trans hslot, hcase, hflags⟩
    · rw [State.scu_modScu, if_pos rfl]
    · rw [State.scu_modScu, if_neg hq, State.scu, hscus]
      rfl
  · rw [exec_bkgd, State.bkgd_late hfind h]
  · rw [exec_bkgd, State.bkgd_spec hslot hfind hhalt h hphase hup hfirst hplain]
    refine ⟨_, _, rfl, State.slot_setSlot .., rfl, rfl, rfl, fun o ho hbyte hstack => ?_, rfl⟩
    have hcell := State.mem_pageCells (s := s) (sp := .stack) (a := (pageBase q).2) ho hbyte
    rw [hstack]
    exact hcell

end Sys2Proof.Machine
end

section

namespace Sys2Proof.Machine

/-! ### Cycles counted for events (R465) -/

/-- Between s and t only performance counters count, and each cluster's record of the cycles it has counted. -/
structure CyclesCounted (s t : State) : Prop where
  units : t = (s.withClusters t.clusters).withRegs t.regs
  reg : ∀ k, (∀ j, j < 8 → k ≠ rTrcPcnt j) → t.reg k = s.reg k
  cluster : ∀ c, t.cluster c = { s.cluster c with counted := (t.cluster c).counted }

theorem CyclesCounted.refl (s : State) : CyclesCounted s s := ⟨rfl, fun _ _ => rfl, fun _ => rfl⟩

theorem CyclesCounted.trans {s t u : State} (h : CyclesCounted s t) (h' : CyclesCounted t u) : CyclesCounted s u where
  units := by rw [h'.units, h.units]; rfl
  reg k hk := (h'.reg k hk).trans (h.reg k hk)
  cluster c := by rw [h'.cluster, h.cluster]

theorem CountsOnly.cyclesCounted {s t : State} (h : CountsOnly s t) : CyclesCounted s t where
  units := by rw [h.regs]; rfl
  reg := h.reg
  cluster c := by rw [h.regs]; rfl

theorem State.perf_cyclesCounted (s : State) (ev p : Nat) (c : Option Nat) (n : Nat) : CyclesCounted s (s.perf ev p c n) :=
  (s.perf_countsOnly ev p c n).cyclesCounted

theorem CyclesCounted.modCluster (s : State) (c : Nat) (f : Cluster → List (Nat × Nat)) :
    CyclesCounted s (s.modCluster c (fun x => { x with counted := f x })) where
  units := rfl
  reg _ _ := rfl
  cluster j := by
    rw [State.cluster_modCluster]
    split
    · next h => rw [h]
    · rfl

theorem State.countCc_cyclesCounted (s : State) (c ev cyc : Nat) : CyclesCounted s (s.countCc c ev cyc) := by
  unfold State.countCc
  split
  · split
    · exact .refl s
    · exact (CyclesCounted.modCluster ..).trans (State.perf_cyclesCounted ..)
  · exact .refl s

theorem State.countHeld_cyclesCounted (s : State) (c base n : Nat) : CyclesCounted s (s.countHeld c base n) := by
  unfold State.countHeld
  dsimp only
  split
  · exact List.foldlRecOn (motive := fun t => CyclesCounted s t) _ _ (.refl s) fun t ht k _ =>
      ht.trans (t.countCc_cyclesCounted ..)
  · exact .refl s

/-! ### A tick of the clusters' clocks (R57, R464) -/

/-- Between s and t clocks have run: no register but a performance counter differs, and of a cluster its clock and what it
has counted. -/
structure ClocksRan (s t : State) : Prop where
  units : t = ((s.withDieClks t.dieClks).withClusters t.clusters).withRegs t.regs
  reg : ∀ k, (∀ j, j < 8 → k ≠ rTrcPcnt j) → t.reg k = s.reg k
  cluster : ∀ c, t.cluster c = { s.cluster c with
    cyc := (t.cluster c).cyc, left := (t.cluster c).left, slowed := (t.cluster c).slowed, counted := (t.cluster c).counted }

theorem ClocksRan.refl (s : State) : ClocksRan s s := ⟨rfl, fun _ _ => rfl, fun _ => rfl⟩

theorem ClocksRan.trans {s t u : State} (h : ClocksRan s t) (h' : ClocksRan t u) : ClocksRan s u where
  units := by rw [h'.units, h.units]; rfl
  reg k hk := (h'.reg k hk).trans (h.reg k hk)
  cluster c := by rw [h'.cluster, h.cluster]

theorem CyclesCounted.clocksRan {s t : State} (h : CyclesCounted s t) : ClocksRan s t where
  units := by rw [h.units]; rfl
  reg := h.reg
  cluster c := by rw [h.cluster]

theorem ClocksRan.setCluster (s : State) (c cyc left slowed : Nat) :
    ClocksRan s (s.setCluster c { s.cluster c with cyc := cyc, left := left, slowed := slowed }) where
  units := rfl
  reg _ _ := rfl
  cluster j := by
    rw [State.cluster_setCluster]
    split
    · next h => rw [h]
    · rfl

theorem ClocksRan.clockRuns {s t : State} (h : ClocksRan s t) (c : Nat) : t.clockRuns c = s.clockRuns c := by
  have hhalted : t.halted = s.halted := State.fbit_congr _ (h.reg rTrcHstat fun j _ => by unfold rTrcHstat rTrcPcnt; omega)
  have htripped : t.tripped = s.tripped := State.fbit_congr _ (h.reg rThmStat fun j _ => by unfold rThmStat rTrcPcnt; omega)
  have hpower : t.power = s.power := by rw [h.units]; rfl
  rw [State.clockRuns, State.frozen, hpower, hhalted, htripped]
  rfl

/-- What the counters see of d ns of the clock of cluster c, which stood at x: cycles that a wait held, or that were
stretched (events 3 and 11). -/
def State.countTick (s : State) (x : Cluster) (d c : Nat) : State :=
  let s := s.countHeld c x.cyc (cyclesIn x.left x.stretch d).1
  match (if x.stretch > 0 then s.partOf c else none) with
  | some p => s.perf 11 p (some c) (cyclesIn x.left x.stretch d).1
  | none => s

theorem State.countTick_cyclesCounted (s : State) (x : Cluster) (d c : Nat) : CyclesCounted s (s.countTick x d c) := by
  unfold State.countTick
  dsimp only
  split
  · exact (State.countHeld_cyclesCounted ..).trans (State.perf_cyclesCounted ..)
  · exact State.countHeld_cyclesCounted ..

/-- d ns of fabric time, as cluster c sees them. -/
def State.tickCluster (s : State) (d c : Nat) : State :=
  let x := s.cluster c
  if s.clockRuns c then
    (s.setCluster c { x.tick d with slowed := if x.stretch > 0 then x.slowed + 1 else x.slowed }).countTick x d c
  else if x.waiting then s.setCluster c { x with slowed := x.slowed + 1 } else s

/-- The clocks of the C-dies tick. -/
def State.tickDies (s : State) (d : Nat) : State :=
  [0, 1].foldl (fun s k => if s.clockRuns (16 * k) then s.setDieClk k ((s.dieClk k).tick d) else s) s

theorem State.tickClusters_eq (s : State) (d : Nat) :
    s.tickClusters d = (List.range 32).foldl (fun s c => s.tickCluster d c) (s.tickDies d) := rfl

/-- The clock of a cluster: its cycles, and what is left of the one in progress. -/
def Cluster.clock (x : Cluster) : Nat × Nat := (x.cyc, x.left)

theorem CyclesCounted.clock {s t : State} (h : CyclesCounted s t) (c : Nat) : (t.cluster c).clock = (s.cluster c).clock := by
  rw [h.cluster]
  rfl

theorem State.tickCluster_stands {s : State} {c : Nat} (h : s.clockRuns c = false) (d : Nat) :
    ClocksRan s (s.tickCluster d c) ∧ ∀ j, ((s.tickCluster d c).cluster j).clock = (s.cluster j).clock := by
  unfold State.tickCluster
  dsimp only
  rw [if_neg (by simp [h])]
  split
  · refine ⟨ClocksRan.setCluster s c (s.cluster c).cyc (s.cluster c).left _, fun j => ?_⟩
    rw [State.cluster_setCluster]
    split
    · next hj => rw [hj]; rfl
    · rfl
  · exact ⟨.refl s, fun _ => rfl⟩

theorem State.tickCluster_ticks {s : State} {c : Nat} (h : s.clockRuns c = true) (d : Nat) :
    ClocksRan s (s.tickCluster d c) ∧ ∀ j, ((s.tickCluster d c).cluster j).clock
      = if j = c then ((s.cluster c).tick d).clock else (s.cluster j).clock := by
  unfold State.tickCluster
  dsimp only
  rw [if_pos h]
  generalize hslowed : (if (s.cluster c).stretch > 0 then (s.cluster c).slowed + 1 else (s.cluster c).slowed) = slowed
  have ticked := ClocksRan.setCluster s c ((s.cluster c).tick d).cyc ((s.cluster c).tick d).left slowed
  have counted := (s.setCluster c { (s.cluster c).tick d with slowed := slowed }).countTick_cyclesCounted (s.cluster c) d c
  refine ⟨ticked.trans counted.clocksRan, fun j => ?_⟩
  rw [counted.clock, State.cluster_setCluster, apply_ite Cluster.clock]
  rfl

theorem ClocksRan.stretch {s t : State} (h : ClocksRan s t) (c : Nat) : (t.cluster c).stretch = (s.cluster c).stretch := by
  rw [h.cluster]

theorem Cluster.tick_clock_congr {x y : Cluster} (hclock : x.clock = y.clock) (hstretch : x.stretch = y.stretch) (d : Nat) :
    (x.tick d).clock = (y.tick d).clock := by
  obtain ⟨hcyc, hleft⟩ := Prod.mk.inj hclock
  simp only [Cluster.clock, Cluster.tick, hcyc, hleft, hstretch]

/-- Of the first n clusters, those whose clock runs tick once. -/
theorem State.tickClusters_upto (s : State) (d n : Nat) :
    ClocksRan s ((List.range n).foldl (fun s c => s.tickCluster d c) s)
      ∧ ∀ j, (((List.range n).foldl (fun s c => s.tickCluster d c) s).cluster j).clock
        = if j < n ∧ s.clockRuns j = true then ((s.cluster j).tick d).clock else (s.cluster j).clock := by
  induction n with
  | zero => exact ⟨.refl s, fun j => by simp⟩
  | succ n ih =>
    obtain ⟨hran, hclock⟩ := ih
    rw [List.range_succ, List.foldl_append, List.foldl_cons, List.foldl_nil]
    generalize (List.range n).foldl (fun s c => s.tickCluster d c) s = t at hran hclock
    by_cases hruns : s.clockRuns n = true
    · obtain ⟨hstep, hticks⟩ := State.tickCluster_ticks (s := t) ((hran.clockRuns n).trans hruns) d
      refine ⟨hran.trans hstep, fun j => (hticks j).trans ?_⟩
      by_cases hj : j = n
      · rw [hj, if_pos rfl, if_pos ⟨Nat.lt_succ_self n, hruns⟩]
        exact Cluster.tick_clock_congr ((hclock n).trans (if_neg (by omega))) (hran.stretch n) d
      · rw [if_neg hj, hclock]
        simp only [show j < n + 1 ↔ j < n by omega]
    · obtain ⟨hstep, hsame⟩ := State.tickCluster_stands (s := t) (c := n) (by simpa [hran.clockRuns n] using hruns) d
      refine ⟨hran.trans hstep, fun j => ((hsame j).trans (hclock j)).trans ?_⟩
      by_cases hj : j = n
      · rw [hj, if_neg (by omega), if_neg (by simp [hruns])]
      · simp only [show j < n + 1 ↔ j < n by omega]

theorem State.tickDies_ran (s : State) (d : Nat) : ClocksRan s (s.tickDies d) ∧ (s.tickDies d).clusters = s.clusters := by
  refine List.foldlRecOn (motive := fun t => ClocksRan s t ∧ t.clusters = s.clusters) _ _ ⟨.refl s, rfl⟩
    fun t ⟨hran, hsame⟩ k _ => ?_
  split
  · exact ⟨hran.trans ⟨rfl, fun _ _ => rfl, fun _ => rfl⟩, hsame⟩
  · exact ⟨hran, hsame⟩

/-- A tick of every cluster: those whose clock runs, and no other, take the cycles of d ns. -/
theorem State.tickClusters_spec (s : State) (d : Nat) :
    ClocksRan s (s.tickClusters d) ∧ ∀ j, ((s.tickClusters d).cluster j).clock
      = if j < 32 ∧ s.clockRuns j = true then ((s.cluster j).tick d).clock else (s.cluster j).clock := by
  obtain ⟨hdies, hsame⟩ := s.tickDies_ran d
  obtain ⟨hran, hclock⟩ := (s.tickDies d).tickClusters_upto d 32
  rw [State.tickClusters_eq]
  refine ⟨hdies.trans hran, fun j => (hclock j).trans ?_⟩
  rw [hdies.clockRuns, State.cluster, hsame]
  rfl

/-! ### A tick of fabric time (R33, R36) -/

/-- How far fabric time moves is the choice of a slew alone, and 1 ns where none may begin. -/
theorem State.slewStep_spec (s : State) : (∃ n, s.slewStep.2 = s.withFree n) ∧ s.slewStep.1 ≤ 2
    ∧ (s.time.err = 0 ∨ s.time.slewTick < 10000 → s.slewStep.1 = 1) := by
  unfold State.slewStep State.choose
  split
  · exact ⟨⟨s.free, rfl⟩, one_le_two, fun _ => rfl⟩
  next hslews =>
    dsimp only
    split
    · exact ⟨⟨_, rfl⟩, one_le_two, fun _ => rfl⟩
    · split
      · exact ⟨⟨_, rfl⟩, Nat.zero_le 2, fun h => absurd h hslews⟩
      · split
        · exact ⟨⟨_, rfl⟩, one_le_two, fun _ => rfl⟩
        · exact ⟨⟨_, rfl⟩, le_refl 2, fun h => absurd h hslews⟩

/-! ### A state in which nothing is in progress -/

theorem State.bootAdvance_idle {s : State} (h : s.boot.running = false) : ∀ n, s.bootAdvance n = s
  | 0 => rfl
  | n + 1 => by
    rw [State.bootAdvance]
    exact if_pos (by simp [h])

theorem State.serveFlags_idle {s : State} (h : s.host.flagAsks = []) : s.serveFlags = s := by
  have same : s.withHost { s.host with flagAsks := [] } = s := by
    rw [← h]
    rfl
  unfold State.serveFlags
  rw [h, same]
  rfl

theorem State.serve_idle {s : State} (hlinks : s.links = []) (hwaits : s.host.waits = []) : s.serve = s := by
  have hspare : s.spareDoneAll = s := by simp [State.spareDoneAll, hlinks]
  have hdrain : s.rxDrainAll = s := by simp [State.rxDrainAll, hlinks]
  have hpump : s.pumpAll = s := by simp [State.pumpAll, hlinks]
  have hport : s.servePort = s := if_pos (by simp [hwaits])
  rw [State.serve, hspare, hdrain, hpump, hport]

theorem State.updAdvance_idle {s : State} (h : s.fw.upd = none) : s.updAdvance = s := by
  simp only [State.updAdvance, h]

theorem State.tracePoints_idle {s : State} (h : ∀ j, j < 16 → s.reg (rFwTpen j) = 0) : s.tracePoints = s := by
  refine if_pos ?_
  rw [Bool.or_eq_true]
  exact .inr (List.all_eq_true.mpr fun j hj => by simp [h j (List.mem_range.mp hj)])

/-- In such a state nothing follows the clocks in a tick. -/
theorem State.still.rests {s : State} (h : s.still) :
    (s.bootAdvance 8).serveFlags.serve.updAdvance.tracePoints = s := by
  obtain ⟨hboot, hlinks, hwaits, hasks, hupd, htrace⟩ := h
  rw [State.bootAdvance_idle hboot, State.serveFlags_idle hasks, State.serve_idle hlinks hwaits, State.updAdvance_idle hupd,
    State.tracePoints_idle htrace]

/-- The clocks and the count of bring-up in a tick. -/
def State.clockTick (s : State) : State :=
  let t := (s.slewStep.2.tickTime s.slewStep.1).tickClusters s.slewStep.1
  t.withBoot { t.boot with elapsed := t.boot.elapsed + 1 }

theorem State.tick_dead {s : State} (h : s.power.alive = false) : s.tick = s := if_pos (by simp [h])

theorem State.tick_alive {s : State} (h : s.power.alive = true) :
    s.tick = (s.clockTick.bootAdvance 8).serveFlags.serve.updAdvance.tracePoints := by
  unfold State.tick State.clockTick
  rw [if_neg (by simp [h])]

/-- What a tick of the clocks does: fabric time moves by d ns, and the clusters take the cycles of them. -/
theorem State.clockTick_spec (s : State) : ∃ d, d ≤ 2 ∧ (s.time.err = 0 ∨ s.time.slewTick < 10000 → d = 1)
    ∧ s.clockTick.boot = { s.boot with elapsed := s.boot.elapsed + 1 }
    ∧ s.clockTick.now = s.now + d ∧ s.clockTick.time.err = s.time.err + 1 - d
    ∧ s.clockTick = (((((s.withFree s.clockTick.free).withTime s.clockTick.time).withDieClks s.clockTick.dieClks).withClusters
        s.clockTick.clusters).withRegs s.clockTick.regs).withBoot s.clockTick.boot
    ∧ (∀ k, (∀ j, j < 8 → k ≠ rTrcPcnt j) → s.clockTick.reg k = s.reg k)
    ∧ (∀ c, s.clockTick.cluster c = { s.cluster c with
        cyc := (s.clockTick.cluster c).cyc, left := (s.clockTick.cluster c).left
        slowed := (s.clockTick.cluster c).slowed, counted := (s.clockTick.cluster c).counted })
    ∧ ∀ c, (s.clockTick.cluster c).clock
      = if c < 32 ∧ s.clockRuns c = true then ((s.cluster c).tick d).clock else (s.cluster c).clock := by
  obtain ⟨⟨n, hfree⟩, hle, hone⟩ := s.slewStep_spec
  unfold State.clockTick
  rw [hfree]
  generalize s.slewStep.1 = d at hle hone
  obtain ⟨⟨hunits, hreg, hcluster⟩, hclock⟩ := ((s.withFree n).tickTime d).tickClusters_spec d
  have htime : (((s.withFree n).tickTime d).tickClusters d).time = ((s.withFree n).tickTime d).time := by
    rw [hunits]
    rfl
  generalize ((s.withFree n).tickTime d).tickClusters d = t at hunits hreg hcluster hclock htime
  refine ⟨d, hle, hone, by rw [hunits]; rfl, ?_, ?_, by rw [hunits]; rfl, hreg, hcluster, hclock⟩
  · exact congrArg TimeUnit.ns htime
  · exact congrArg TimeUnit.err htime

theorem rFwTpen_ne_rTrcPcnt (i j : Nat) (hi : i < 16) : rFwTpen i ≠ rTrcPcnt j := by
  unfold rFwTpen rTrcPcnt
  omega

theorem State.clockTick_still {s : State} (h : s.still) : s.clockTick.still := by
  obtain ⟨hboot, hlinks, hwaits, hasks, hupd, htrace⟩ := h
  obtain ⟨d, -, -, hcount, -, -, hunits, hreg, -⟩ := s.clockTick_spec
  generalize s.clockTick = t at hcount hunits hreg
  refine ⟨by rw [hcount]; exact hboot, by rw [hunits]; exact hlinks, by rw [hunits]; exact hwaits, by rw [hunits]; exact hasks,
    by rw [hunits]; exact hupd, fun j hj => (hreg _ fun i _ => rFwTpen_ne_rTrcPcnt j i hj).trans (htrace j hj)⟩

/-- With power applied and nothing in progress, a tick is that of the clocks. -/
theorem State.tick_of_still {s : State} (hpower : s.power.alive = true) (h : s.still) : s.tick = s.clockTick := by
  rw [State.tick_alive hpower, (State.clockTick_still h).rests]

theorem step_of_empty {s : State} (h : s.pending = []) : step s = .next s.tick := by
  simp [step, State.takeCommand, h]

/-- At full speed a cluster's clock takes two cycles in a tick of 1 ns. -/
theorem cyclesIn_full : cyclesIn 0 0 1 = (2, 0) := by decide

/-- Settles O2: an empty queue ticks; a tick with nothing in progress moves the clocks alone. -/
theorem emptyQueueTicks : Obligations.EmptyQueueTicks := by
  unfold Obligations.EmptyQueueTicks
  refine ⟨fun s hq => ⟨step_of_empty hq, fun hpower => by rw [step_of_empty hq, State.tick_dead hpower]⟩,
    fun s hq hpower hstill => ?_⟩
  obtain ⟨d, hle, hone, hboot, hnow, herr, hunits, hreg, hcluster, hclock⟩ := s.clockTick_spec
  rw [step_of_empty hq, State.tick_of_still hpower hstill]
  generalize s.clockTick = t at hboot hnow herr hunits hreg hcluster hclock
  have hticks : ∀ c, c < 32 → s.clockRuns c = true → (t.cluster c).clock = ((s.cluster c).tick d).clock :=
    fun c hc hruns => (hclock c).trans (if_pos ⟨hc, hruns⟩)
  have hstands : ∀ c, s.clockRuns c = false → (t.cluster c).clock = (s.cluster c).clock :=
    fun c hstop => (hclock c).trans (if_neg (by simp [hstop]))
  refine ⟨t, rfl, by rw [hboot], by omega, by omega, by rw [herr, hnow]; push_cast; ring, fun hslow => ?_,
    fun c hstop => congrArg Prod.fst (hstands c hstop), fun c => ?_, ?_⟩
  · obtain rfl := hone hslow
    refine ⟨hnow, fun c hc hruns => ?_⟩
    obtain ⟨hcyc, hleft⟩ := Prod.mk.inj (hticks c hc hruns)
    refine ⟨hcyc, hleft, fun hfull hspeed => hcyc.trans ?_⟩
    rw [Cluster.tick, hfull, hspeed, cyclesIn_full]
  · rw [hcluster]
    exact ⟨rfl, rfl, rfl, rfl, rfl, rfl, rfl⟩
  · rw [hunits]
    exact ⟨rfl, rfl, rfl, rfl, rfl, rfl, rfl, rfl, rfl, hreg⟩

end Sys2Proof.Machine
end

section

namespace Sys2Proof.Machine

/-! ### A state that differs in one cluster -/

/-- t is s but that cluster c stands at x. -/
structure ClusterAt (s t : State) (c : Nat) (x : Cluster) : Prop where
  clusters : t = s.withClusters t.clusters
  own : t.cluster c = x
  others : otherClusters s t c

theorem ClusterAt.refl (s : State) (c : Nat) : ClusterAt s s c (s.cluster c) := ⟨rfl, rfl, fun _ _ => rfl⟩

theorem ClusterAt.modCluster {s t : State} {c : Nat} {x : Cluster} (h : ClusterAt s t c x) (f : Cluster → Cluster) :
    ClusterAt s (t.modCluster c f) c (f x) where
  clusters := by rw [h.clusters]; rfl
  own := by rw [State.cluster_modCluster, if_pos rfl, h.own]
  others j hj := by rw [State.cluster_modCluster, if_neg hj]; exact h.others j hj

theorem ClusterAt.of_modCluster (s : State) (c : Nat) (f : Cluster → Cluster) :
    ClusterAt s (s.modCluster c f) c (f (s.cluster c)) := (ClusterAt.refl s c).modCluster f

theorem ClusterAt.foldl {α : Type} {s t : State} {c : Nat} {x : Cluster} (h : ClusterAt s t c x)
    (f : α → Cluster → Cluster) (l : List α) :
    ClusterAt s (l.foldl (fun s n => s.modCluster c (f n)) t) c (l.foldl (fun x n => f n x) x) := by
  induction l generalizing t x with
  | nil => exact h
  | cons n l ih => exact ih (h.modCluster (f n))

theorem ClusterAt.flagGranted {s t : State} {c : Nat} {x : Cluster} (h : ClusterAt s t c x) (j d n : Nat) :
    t.flagGranted j d n = s.flagGranted j d n := by
  rw [h.clusters]; rfl

/-! ### Attempts to issue -/

/-- Every instruction is one issue attempt of its stream (Tables 4.6 to 4.13). -/
theorem exec_issue {i : Instr} {c e opc : Nat} {w : IWord} (h : issueOf i = some (c, e, opc, w)) (s : State) :
    exec i s = .next (s.issueAny c e opc w) := by
  have me : ∀ (m : MeId) (c opc : Nat) (w : IWord), s.issueEng c m.val opc w = s.issueAny c m.val opc w :=
    fun m _ _ _ => (if_neg (by have := m.isLt; unfold engMv; omega)).symm
  cases i <;> simp only [issueOf, reduceCtorEq, Option.some.injEq, Prod.mk.injEq] at h <;>
    obtain ⟨rfl, rfl, rfl, rfl⟩ := h
  case zacc | anchor | mma | mmaz | mmax | mmaxz | drain | drainz => exact congrArg Host.Outcome.next (me ..)
  all_goals rfl

theorem exec_instructionIssue {s : State} {c : ClusterId} {e : EngId} {opc : Nat} {w : IWord}
    (h : s.nextWordIs c.val e.val opc w) : exec (.instructionIssue c e) s = .next (s.issueAny c.val e.val opc w) := by
  obtain ⟨hword, hgood⟩ := h
  change Host.Outcome.next (s.issueNext c.val e.val) = _
  simp only [State.issueNext, hgood, hword, Bool.false_eq_true, if_false]

theorem State.quiet.mvDue {s : State} {c : Nat} (h : s.quiet c) : (s.cluster c).mvDue = none := by
  rw [Cluster.mvDue, h.2]

/-- Where nothing flies and no signal is due, an instruction of ME, VE or RU that may issue does so at once. -/
theorem State.issueEng_go {s : State} {c e : Nat} {w : IWord} (h : s.mayIssue c e w) (hq : s.quiet c) (opc : Nat) :
    s.issueEng c e opc w = (s.issueFlight c e opc w).atCyc c (s.cluster c).cyc := by
  simp only [State.issueEng, State.gate_go h hq.1 hq.mvDue]

end Sys2Proof.Machine

end

section

namespace Sys2Proof.Machine

/-! ### Signals (R91, R93) -/

theorem State.signal_syc {w : IWord} (h : w.sigK = 1) (s : State) (c e t b : Nat) :
    s.signal c e w t b = s.modCluster c (fun x => x.sycAdd (bf w.sigT 5 0) e t) := by
  simp only [State.signal, h]
  rfl

theorem State.signal_flag {s : State} {c : Nat} {w : IWord} (h : w.sigK = 2)
    (hg : s.flagGranted c (bf w.sigT 8 8) (bf w.sigT 7 0) = true) (e t b : Nat) :
    s.signal c e w t b = s.setFlagAt (bf w.sigT 8 8) (bf w.sigT 7 0) true c (s.cycsAt c b t) := by
  simp only [State.signal, h]
  exact if_pos hg

/-- A word that signals no counter and no granted flag signals nothing. -/
theorem State.signal_none {s : State} {c : Nat} {w : IWord} (h : w.sigK ≠ 1)
    (hg : ¬ (w.sigK = 2 ∧ s.flagGranted c (bf w.sigT 8 8) (bf w.sigT 7 0) = true)) (e t b : Nat) :
    s.signal c e w t b = s := by
  have hk : ∀ n : Nat, n < 4 → w.sigK.toNat = n → w.sigK = BitVec.ofNat 2 n := by
    intro n hn hk
    exact BitVec.eq_of_toNat_eq (by rw [hk, BitVec.toNat_ofNat, Nat.mod_eq_of_lt (by omega)])
  unfold State.signal
  split
  · next e => exact absurd (hk 1 (by decide) e) h
  · next e => exact if_neg fun g => hg ⟨hk 2 (by decide) e, g⟩
  · rfl

theorem State.setFlagAt_val (s : State) (d n : Nat) (v : Bool) (who : Nat) (cs : List Nat) :
    ((s.setFlagAt d n v who cs).flag d n).val = v := by
  simp only [State.setFlagAt]
  split
  · next h => simpa [State.flag, sget_sset] using h
  · simp [State.flag]

theorem flagKey_inj {d n d' n' : Nat} (hn : n < 256) (hn' : n' < 256) (h : flagKey d n = flagKey d' n') : d = d' ∧ n = n' := by
  unfold flagKey at h
  omega

theorem State.setFlagAt_flag_other (s : State) {d n d' n' : Nat} (h : flagKey d' n' ≠ flagKey d n) (v : Bool) (who : Nat)
    (cs : List Nat) : (s.setFlagAt d n v who cs).flag d' n' = s.flag d' n' := by
  simp only [State.setFlagAt]
  split <;> simp [State.flag, sget_sset, h]

end Sys2Proof.Machine

end

section

namespace Sys2Proof.Machine

/-! ### Static completion (R81, R93, R122) -/

/-- With nothing in flight, tile writes reach the tiles alone. -/
theorem State.tileWrite_idle {s : State} {c : Nat} (h : (s.cluster c).flight = []) (ws : List TWrite) (t : Nat)
    (mv : Option Nat) (own : Option (Nat × Nat)) :
    s.tileWrite c ws t mv own = s.modCluster c (fun x => { x with tiles := applyTile x.tiles ws }) := by
  simp only [State.tileWrite, h, List.foldl_nil, Bool.false_eq_true, if_false]
  simp only [State.modCluster, ← h]
  rfl

/-- What the one instruction in flight leaves in its cluster, but for its signal. -/
def Cluster.landed (x : Cluster) (f : Flight) : Cluster :=
  f.counts.foldl (fun x n => x.sycSet n.1 n.2 f.eng) { x with
    flight := []
    tiles := applyTile x.tiles f.out
    banks := match f.bankOut with
      | some (k, b) => if f.issueCc < sget 0 x.bankAt k then x.banks else sset {} x.banks k b
      | none => x.banks
    bankAt := match f.bankOut with
      | some (k, _) => if f.issueCc < sget 0 x.bankAt k then x.bankAt else sset 0 x.bankAt k (f.issueCc + 1)
      | none => x.bankAt }

theorem Cluster.landed_mv (x : Cluster) (f : Flight) : (x.landed f).mv = x.mv ∧ (x.landed f).flight = []
    ∧ (x.landed f).cyc = x.cyc :=
  List.foldlRecOn (motive := fun y : Cluster => y.mv = x.mv ∧ y.flight = [] ∧ y.cyc = x.cyc) _ _ ⟨rfl, rfl, rfl⟩
    fun _ h _ _ => h

/-- The counts come after the tiles and the bank. -/
theorem Cluster.landed_eq (x : Cluster) (f : Flight) : x.landed f = f.counts.foldl (fun x n => x.sycSet n.1 n.2 f.eng)
    (({ x with flight := [], tiles := applyTile x.tiles f.out } : Cluster).landBank f) := by
  refine congrArg (f.counts.foldl _) ?_
  unfold Cluster.landBank
  cases f.bankOut with
  | none => rfl
  | some kb => dsimp only; split <;> rfl

/-- The one instruction in flight lands without a fault and without an early write: its cluster takes what it leaves, and
then it signals. -/
theorem State.land_lone {s : State} {c base : Nat} {f : Flight} (hf : (s.cluster c).flight = [f]) (hfault : f.fault = none)
    (hearly : f.early = none) :
    ∃ t, ClusterAt s t c ((s.cluster c).landed f) ∧ s.land c base f = t.signal c f.eng f.w f.due base := by
  have left := ClusterAt.of_modCluster s c (fun x => { x with
    flight := x.flight.filter (fun g => !(g.eng == f.eng && g.issueCc == f.issueCc && g.idx == f.idx && g.due == f.due)) })
  have gone : ((s.cluster c).flight.filter
      (fun g => !(g.eng == f.eng && g.issueCc == f.issueCc && g.idx == f.idx && g.due == f.due))) = [] := by
    simp [hf]
  rw [gone] at left
  rw [Cluster.landed_eq]
  refine ⟨_, ((left.modCluster fun x => { x with tiles := applyTile x.tiles f.out }).modCluster
    (fun x => x.landBank f)).foldl (fun n x => x.sycSet n.1 n.2 f.eng) f.counts, ?_⟩
  simp only [State.land, hearly, hfault]
  rw [State.tileWrite_idle (by rw [left.own])]

/-- An instruction alone in flight and due is the one that completes. -/
theorem firstDue_lone {f : Flight} {cyc : Nat} (h : f.due ≤ cyc) (free : Nat) : firstDue [f] cyc free = some f := by
  simp [firstDue, h, pickBy]

theorem firstDue_nil (cyc free : Nat) : firstDue [] cyc free = none := rfl

theorem State.settleN_idle {s : State} {c : Nat} (hf : (s.cluster c).flight = []) (hm : (s.cluster c).mvDue = none)
    (base n : Nat) : s.settleN c base n = s := by
  cases n with
  | zero => rfl
  | succ n => simp only [State.settleN, hf, hm, firstDue_nil]

theorem State.settle_lone {s : State} {c : Nat} {f : Flight} (hf : (s.cluster c).flight = [f]) (hdue : f.due ≤ (s.cluster c).cyc)
    (hm : (s.cluster c).mvDue = none) :
    s.settle c = ((s.withFree (s.free + 1)).land c (s.cluster c).cyc f).settleN c (s.cluster c).cyc (s.cluster c).mv.length := by
  have hlen : [f].length + (s.cluster c).mv.length = (s.cluster c).mv.length + 1 := by simp [Nat.add_comm]
  simp only [State.settle, State.settleFrom, hf, hm, List.isEmpty_cons, Bool.false_and, Bool.false_eq_true, if_false, hlen,
    State.settleN, firstDue_lone hdue, Option.any_none]

/-- A signal leaves what flies, the MV operations and the clock of every cluster. -/
theorem State.signal_mv (s : State) (c e : Nat) (w : IWord) (t b j : Nat) :
    ((s.signal c e w t b).cluster j).mv = (s.cluster j).mv ∧ ((s.signal c e w t b).cluster j).flight = (s.cluster j).flight
      ∧ ((s.signal c e w t b).cluster j).cyc = (s.cluster j).cyc := by
  by_cases hk : w.sigK = 1
  · rw [State.signal_syc hk, State.cluster_modCluster]
    split
    · next h => rw [h]; exact ⟨rfl, rfl, rfl⟩
    · exact ⟨rfl, rfl, rfl⟩
  · by_cases hg : w.sigK = 2 ∧ s.flagGranted c (bf w.sigT 8 8) (bf w.sigT 7 0) = true
    · obtain ⟨x, e'⟩ := s.setFlagAt_frame (bf w.sigT 8 8) (bf w.sigT 7 0) true c (s.cycsAt c b t)
      rw [State.signal_flag hg.1 hg.2, e']
      exact ⟨rfl, rfl, rfl⟩
    · rw [State.signal_none hk hg]
      exact ⟨rfl, rfl, rfl⟩

theorem Cluster.mvDue_congr {x y : Cluster} (hm : x.mv = y.mv) (hc : x.cyc = y.cyc) : x.mvDue = y.mvDue := by
  rw [Cluster.mvDue, Cluster.mvDue, hm, hc]

/-- Static completion of the one instruction in flight is what it leaves in its cluster, then its signal. -/
theorem State.staticCompletion_lone {s : State} {c e : Nat} {f : Flight} (hf : (s.cluster c).flight = [f]) (he : f.eng = e)
    (hdue : f.due ≤ (s.cluster c).cyc) (hfault : f.fault = none) (hearly : f.early = none) (hm : (s.cluster c).mvDue = none) :
    ∃ t, ClusterAt (s.withFree (s.free + 1)) t c ((s.cluster c).landed f)
      ∧ s.staticCompletion c e = t.signal c f.eng f.w f.due (s.cluster c).cyc := by
  obtain ⟨t, hat, hland⟩ := State.land_lone (s := s.withFree (s.free + 1)) (base := (s.cluster c).cyc) hf hfault hearly
  refine ⟨t, hat, ?_⟩
  have settles : s.staticCompletion c e = s.settle c := by simp [State.staticCompletion, hf, he, hdue]
  rw [settles, State.settle_lone hf hdue hm, hland]
  obtain ⟨hmv, hflight, hcyc⟩ := t.signal_mv c f.eng f.w f.due (s.cluster c).cyc c
  obtain ⟨hmv', hflight', hcyc'⟩ := (s.cluster c).landed_mv f
  rw [hat.own] at hmv hflight hcyc
  exact State.settleN_idle (hflight.trans hflight')
    ((Cluster.mvDue_congr (hmv.trans hmv') (hcyc.trans hcyc')).trans hm) _ _

/-- Settles O7: by the signal's kind, on the cluster as the instruction leaves it. -/
theorem staticCompletionWritesResults : Obligations.StaticCompletionWritesResults := by
  unfold Obligations.StaticCompletionWritesResults
  intro c e f s hf he hdue hfault hearly hm sig sets
  obtain ⟨u, hat, hstep⟩ := State.staticCompletion_lone hf he hdue hfault hearly hm
  refine ⟨_, congrArg Host.Outcome.next hstep, ?_⟩
  change (_ = sig ((s.cluster c.val).landed f)) ∧ _
  have flags : u.flags = s.flags := by rw [hat.clusters]; rfl
  have flagAt : ∀ d n, u.flag d n = s.flag d n := fun d n => by rw [State.flag, flags]; rfl
  have granted : u.flagGranted c.val (bf f.w.sigT 8 8) (bf f.w.sigT 7 0) = s.flagGranted c.val (bf f.w.sigT 8 8) (bf f.w.sigT 7 0) :=
    hat.flagGranted ..
  by_cases hk : f.w.sigK = 1
  · have own : sig ((s.cluster c.val).landed f) = ((s.cluster c.val).landed f).sycAdd (bf f.w.sigT 5 0) f.eng f.due := if_pos hk
    have nset : ¬ sets := fun h => absurd (hk.symm.trans h.1) (by decide)
    have hat' := hat.modCluster (fun x => x.sycAdd (bf f.w.sigT 5 0) f.eng f.due)
    rw [State.signal_syc hk, own]
    exact ⟨hat'.own, fun h => absurd h nset, fun d n _ _ _ => flagAt d n, hat'.others, by rw [hat'.clusters]; rfl⟩
  · have own : sig ((s.cluster c.val).landed f) = (s.cluster c.val).landed f := if_neg hk
    rw [own]
    by_cases hset : sets
    · obtain ⟨x, hx⟩ := u.setFlagAt_frame (bf f.w.sigT 8 8) (bf f.w.sigT 7 0) true c.val (u.cycsAt c.val (s.cluster c.val).cyc f.due)
      rw [State.signal_flag hset.1 (granted.trans hset.2)]
      refine ⟨by rw [hx]; exact hat.own, fun _ => u.setFlagAt_val .., fun d n hne _ hn => ?_,
        by rw [hx]; exact hat.others, by rw [hx, hat.clusters]; rfl⟩
      refine (u.setFlagAt_flag_other (fun hkey => hne ?_) ..).trans (flagAt d n)
      exact ⟨hset, flagKey_inj hn (bf_lt f.w.sigT 7 0) hkey⟩
    · rw [State.signal_none hk (fun h => hset ⟨h.1, granted.symm.trans h.2⟩)]
      exact ⟨hat.own, fun h => absurd h hset, fun d n _ _ _ => flagAt d n, hat.others, by rw [hat.clusters]; rfl⟩

end Sys2Proof.Machine

end

section

namespace Sys2Proof.Machine

/-! ### A stream that waits (R92) -/

/-- t is s but for the streams of cluster c and the count that its clock stands at; stream e has not moved. -/
structure Waits (s t : State) (c e : Nat) : Prop where
  at_ : ClusterAt s t c { s.cluster c with streams := (t.cluster c).streams, cyc := (t.cluster c).cyc }
  pc : (t.stream c e).pc = (s.stream c e).pc
  loops : (t.stream c e).loops = (s.stream c e).loops
  acq : (t.stream c e).acq = (s.stream c e).acq

theorem Waits.refl (s : State) (c e : Nat) : Waits s s c e := ⟨.refl s c, rfl, rfl, rfl⟩

theorem Waits.trans {s t u : State} {c e : Nat} (h : Waits s t c e) (h' : Waits t u c e) : Waits s u c e where
  at_ := {
    clusters := by rw [h'.at_.clusters, h.at_.clusters]; rfl
    own := by rw [h'.at_.own, h.at_.own]
    others := fun j hj => (h'.at_.others j hj).trans (h.at_.others j hj) }
  pc := h'.pc.trans h.pc
  loops := h'.loops.trans h.loops
  acq := h'.acq.trans h.acq

theorem Waits.quiet {s t : State} {c e : Nat} (h : Waits s t c e) (hq : s.quiet c) : t.quiet c := by
  unfold State.quiet at hq ⊢
  rw [h.at_.own]
  exact hq

theorem Waits.iter {s t : State} {c e : Nat} (h : Waits s t c e) : (t.stream c e).iter = (s.stream c e).iter := by
  rw [Stream.iter, Stream.iter, h.loops]

theorem Waits.atCyc (s : State) (c e n : Nat) : Waits s (s.atCyc c n) c e := by
  have hat := ClusterAt.of_modCluster s c (fun x => { x with cyc := n })
  have own : (s.atCyc c n).cluster c = { s.cluster c with cyc := n } := hat.own
  have st : (s.atCyc c n).stream c e = s.stream c e := by rw [State.stream, own]; rfl
  exact ⟨⟨hat.clusters, by rw [own], hat.others⟩, by rw [st], by rw [st], by rw [st]⟩

theorem Waits.setStream {s : State} {c e : Nat} {st : Stream} (hpc : st.pc = (s.stream c e).pc)
    (hloops : st.loops = (s.stream c e).loops) (hacq : st.acq = (s.stream c e).acq) : Waits s (s.setStream c e st) c e := by
  have hat := ClusterAt.of_modCluster s c (fun x => { x with streams := sset {} x.streams e st })
  have own : (s.setStream c e st).cluster c = { s.cluster c with streams := sset {} (s.cluster c).streams e st } := hat.own
  have st' : (s.setStream c e st).stream c e = st := by
    rw [State.stream, own]
    exact sget_sset_same ..
  exact ⟨⟨hat.clusters, by rw [own], hat.others⟩, by rw [st', hpc], by rw [st', hloops], by rw [st', hacq]⟩

/-- A condition is asked of the cluster's counters, operations and clock, and of the flags alone. -/
theorem Waits.condHolds {s t u : State} {c e : Nat} (h : Waits s t c e) (h' : Waits s u c e)
    (hcyc : (t.cluster c).cyc = (u.cluster c).cyc) (k : BitVec 3) (b : BitVec 9) (w : IWord) (i : Nat) :
    t.condHolds c k b w i = u.condHolds c k b w i := by
  have granted : ∀ d n, t.flagGranted c d n = u.flagGranted c d n := fun d n =>
    (h.at_.flagGranted ..).trans (h'.at_.flagGranted ..).symm
  have flags : t.flags = u.flags := by rw [h.at_.clusters, h'.at_.clusters]; rfl
  have sees : ∀ d, t.sees c d = u.sees c d := fun d => funext fun f => by rw [State.sees, State.sees, hcyc]
  have seen : ∀ d n, t.flagSeen c d n = u.flagSeen c d n := fun d n => by
    simp only [State.flagSeen, State.flag, flags, sees]
  have syc : ∀ n, (t.cluster c).sycSeen n = (u.cluster c).sycSeen n := fun n => by
    rw [h.at_.own, h'.at_.own, hcyc]
    rfl
  have queue : (t.cluster c).mvQueue = (u.cluster c).mvQueue := by rw [h.at_.own, h'.at_.own]; rfl
  have share : ∀ n, (t.cluster c).share n = (u.cluster c).share n := fun n => by rw [h.at_.own, h'.at_.own]; rfl
  simp only [State.condHolds, granted, seen, syc, queue, share]

/-- An attempt whose conditions do not both hold leaves the stream where it is. -/
theorem State.gateAt_unmet {s : State} {c e : Nat} {w : IWord} (hq : s.quiet c) (hacq : (s.stream c e).acq = none)
    (hcond : (s.condHolds c w.w0K w.w0T w (s.stream c e).iter && s.condHolds c w.w1K w.w1T w (s.stream c e).iter) = false)
    (base : Nat) : ∃ t, s.gateAt c e base w = .hold t ∧ Waits s t c e := by
  unfold State.gateAt
  rw [State.settleFrom_idle hq.1 hq.mvDue]
  dsimp only
  split
  · exact ⟨s, rfl, .refl s c e⟩
  · simp only [hacq, hcond, Bool.false_eq_true, if_false]
    exact ⟨_, rfl, .setStream rfl rfl hacq.symm⟩

/-- Where the conditions hold in no cycle, neither the present cycle nor the next lets the instruction issue. -/
theorem State.gate_unmet {s : State} {c e : Nat} {w : IWord} (hq : s.quiet c) (hacq : (s.stream c e).acq = none)
    (hcond : ∀ n, ((s.atCyc c n).condHolds c w.w0K w.w0T w (s.stream c e).iter
      && (s.atCyc c n).condHolds c w.w1K w.w1T w (s.stream c e).iter) = false) :
    ∃ t, s.gate c e w = .hold t ∧ Waits s t c e := by
  have attempt : ∀ t, Waits s t c e → ∀ base, ∃ u, t.gateAt c e base w = .hold u ∧ Waits s u c e := by
    intro t h base
    have own : ((s.atCyc c (t.cluster c).cyc).cluster c).cyc = (t.cluster c).cyc := by
      rw [State.atCyc_cluster, if_pos rfl]
    have same := Waits.condHolds h (.atCyc s c e (t.cluster c).cyc) own.symm
    obtain ⟨u, e', h'⟩ := State.gateAt_unmet (h.quiet hq) (h.acq.trans hacq)
      (by rw [same, same, h.iter]; exact hcond _) base
    exact ⟨u, e', h.trans h'⟩
  obtain ⟨t, first, h⟩ := attempt s (.refl s c e) (s.cluster c).cyc
  obtain ⟨u, second, h'⟩ := attempt _ (h.trans (.atCyc t c e ((s.cluster c).cyc + 1))) (s.cluster c).cyc
  unfold State.gate
  simp only [first]
  split
  · exact ⟨t, rfl, h⟩
  · simp only [second]
    exact ⟨_, rfl, h'.trans (.atCyc ..)⟩

/-- Settles O6: neither of the cycles that an attempt looks at lets the stream go on. -/
theorem unmetConditionHoldsTheEngine : Obligations.UnmetConditionHoldsTheEngine := by
  unfold Obligations.UnmetConditionHoldsTheEngine
  intro i c e opc w s hi hq hcond hacq
  obtain ⟨t, hgate, h⟩ := State.gate_unmet hq hacq hcond
  have stays : s.issueAny c.val e.val opc w = t := by
    unfold State.issueAny State.issueMv State.issueEng
    split
    · next hmv => simp only [← hmv, hgate]
    · simp only [hgate]
  refine ⟨t, by rw [exec_issue hi, stays], h.quiet hq, h.pc, h.loops, ?_, ?_, ?_, ?_, h.at_.others, h.at_.clusters⟩ <;>
    rw [h.at_.own]

end Sys2Proof.Machine

end

section

namespace Sys2Proof.Machine

/-! ### An instruction takes its place (R81, R465) -/

/-- Between s and u an instruction of cluster c has taken its place: its stream has not moved yet, and beside the cluster
only performance counters and free choices differ. -/
structure Placed (s u : State) (c : Nat) : Prop where
  streams : (u.cluster c).streams = (s.cluster c).streams
  run : (u.cluster c).run = (s.cluster c).run
  sycs : (u.cluster c).sycs = (s.cluster c).sycs
  sycFresh : (u.cluster c).sycFresh = (s.cluster c).sycFresh
  imem : (u.cluster c).imem = (s.cluster c).imem
  cyc : (u.cluster c).cyc = (s.cluster c).cyc
  tiles : (u.cluster c).tiles = (s.cluster c).tiles
  store : (u.cluster c).store = (s.cluster c).store
  others : otherClusters s u c
  frame : clusterFrame s u

theorem Placed.stream {s u : State} {c : Nat} (h : Placed s u c) (e : Nat) : u.stream c e = s.stream c e := by
  rw [State.stream, h.streams]
  rfl

theorem Placed.parts {s u : State} {c : Nat} (h : Placed s u c) : u.parts = s.parts := by
  rw [h.frame.1]
  rfl

theorem Cluster.fetch_congr {x y : Cluster} (h : x.imem = y.imem) (st : Stream) : x.fetch st = y.fetch st := by
  simp only [Cluster.fetch, h]

theorem Placed.fetch {s u : State} {c : Nat} (h : Placed s u c) (st : Stream) :
    (u.cluster c).fetch st = (s.cluster c).fetch st := Cluster.fetch_congr h.imem st

theorem Placed.loopCount {s u : State} {c : Nat} (h : Placed s u c) (w : IWord) : u.loopCount c w = s.loopCount c w := by
  have seen : (u.cluster c).sycSeen (opnd w 6 1) = (s.cluster c).sycSeen (opnd w 6 1) := by
    simp only [Cluster.sycSeen, h.sycs, h.sycFresh, h.cyc]
  unfold State.loopCount
  rw [seen]

theorem State.perf_cluster (s : State) (ev p : Nat) (c : Option Nat) (n j : Nat) :
    (s.perf ev p c n).cluster j = s.cluster j := by
  obtain ⟨r, e⟩ := s.perf_frame ev p c n
  rw [e]
  rfl

theorem State.countCc_others (s : State) (c ev cyc : Nat) : otherClusters s (s.countCc c ev cyc) c := by
  intro j hj
  unfold State.countCc
  split
  · split
    · rfl
    · exact (State.perf_cluster ..).trans ((ClusterAt.of_modCluster s c _).others j hj)
  · rfl

theorem State.countIssue_counts (s : State) (c e : Nat) :
    CyclesCounted s (s.countIssue c e) ∧ otherClusters s (s.countIssue c e) c := by
  unfold State.countIssue
  split
  · exact ⟨s.countCc_cyclesCounted .., State.countCc_others s c _ _⟩
  · split
    · exact ⟨s.countCc_cyclesCounted .., State.countCc_others s c _ _⟩
    · exact ⟨.refl s, fun _ _ => rfl⟩

/-- An instruction of ME, VE or RU as it flies, and the cycle counted for it. -/
def State.flown (s : State) (c e opc : Nat) (w : IWord) : State :=
  let (f, free) := s.flightOf c e opc w
  ((s.withFree free).modCluster c (fun x => { x with flight := x.flight ++ [f] })).countIssue c e

/-- Where nothing flies, the instruction alone flies then. -/
theorem State.flown_spec {s : State} {c : Nat} (hq : s.quiet c) (e opc : Nat) (w : IWord) :
    ((s.flown c e opc w).cluster c = { s.cluster c with
        flight := [(s.flightOf c e opc w).1], counted := ((s.flown c e opc w).cluster c).counted })
      ∧ Placed s (s.flown c e opc w) c := by
  obtain ⟨counted, others⟩ := ((s.withFree (s.flightOf c e opc w).2).modCluster c
    (fun x => { x with flight := x.flight ++ [(s.flightOf c e opc w).1] })).countIssue_counts c e
  have flies := ClusterAt.of_modCluster (s.withFree (s.flightOf c e opc w).2) c
    (fun x => { x with flight := x.flight ++ [(s.flightOf c e opc w).1] })
  have own := counted.cluster c
  rw [flies.own] at own
  have own' : (s.flown c e opc w).cluster c = { s.cluster c with
      flight := (s.cluster c).flight ++ [(s.flightOf c e opc w).1]
      counted := ((s.flown c e opc w).cluster c).counted } := own
  rw [hq.1] at own'
  refine ⟨own', ?_⟩
  constructor
  case others => exact fun j hj => (others j hj).trans (flies.others j hj)
  case frame =>
    have frame : s.flown c e opc w = _ := counted.units
    rw [flies.clusters] at frame
    exact ⟨by rw [frame]; rfl, counted.reg⟩
  all_goals rw [own']

/-- With no MV operation before it the tracker does not hold an instruction: it flies, and its stream goes where its word
sends it. -/
theorem State.issueFlight_quiet {s : State} {c : Nat} (hq : s.quiet c) (e opc : Nat) (w : IWord) :
    s.issueFlight c e opc w = (s.flown c e opc w).control c e opc w (engTiming e opc w).1 := by
  have free : (s.cluster c).holdsFlight (s.flightOf c e opc w).1 = false := by simp [Cluster.holdsFlight, hq.2]
  simp only [State.issueFlight, State.flown, free, Bool.false_eq_true, if_false]

/-- The mover takes NOP, END and LOOP as an operation that is done. -/
theorem State.mvPush_placed (s : State) (c opc : Nat) (w : IWord) (o : MvOp) :
    ∃ u, Placed s u c ∧ s.mvPush c opc w o none = u.control c engMv opc w 1 := by
  have pushed := ClusterAt.of_modCluster s c (Cluster.pushMv · o)
  refine ⟨s.modCluster c (Cluster.pushMv · o), ?_, rfl⟩
  constructor
  case others => exact pushed.others
  case frame => exact ⟨by rw [pushed.clusters]; rfl, fun _ _ => rfl⟩
  all_goals rw [pushed.own]; rfl

/-- A word that plans nothing on the MV stream is pushed as an operation that is done, unless the tracker is full. -/
theorem State.issueTransfer_nop {s : State} {c p n opc : Nat} {w : IWord} {f : Option Forme} {l : Option NbList} {m : Option ImpOp}
    (hrun : (s.cluster c).run = some (p, n)) (ht : (s.cluster c).tracked.length < 32)
    (hplan : s.planMv c p n opc w (s.mvOpOf c opc w) (s.stream c engMv).iter = (.nop, f, l, m)) :
    s.issueTransfer c opc w
      = s.mvPush c opc w { s.mvOpOf c opc w with done := true, due := (s.cluster c).cyc + 1 } none := by
  unfold State.mvOpOf at hplan
  simp only [State.issueTransfer, hrun, Option.getD_some, hplan, ge_iff_le, Nat.not_le.mpr ht, if_false, State.mvOpOf]

theorem engTiming_common {opc : Nat} (h : opc = opcEnd ∨ opc = opcLoop) (e : Nat) (w : IWord) : (engTiming e opc w).1 = 1 := by
  have me : meRuns opc w = false := by
    rcases h with rfl | rfl <;> unfold meRuns <;> split <;> rfl
  have ve : veRuns opc w = false := by
    rcases h with rfl | rfl <;> unfold veRuns <;> split <;> rfl
  have ru : ruRuns opc w = false := by
    unfold ruRuns
    split
    · rfl
    · rcases h with rfl | rfl <;> exact Bool.and_false _
  unfold engTiming meTiming veTiming ruTiming
  simp only [me, ve, ru, Bool.not_false, if_true, ite_self]

/-- END and LOOP take their place on every engine, and then steer their stream. -/
theorem State.issueAny_common {s : State} {c e opc : Nat} {w : IWord} (hopc : opc = opcEnd ∨ opc = opcLoop)
    (hmay : s.mayIssue c e w) (hq : s.quiet c) (ht : (s.cluster c).tracked.length < 32) :
    ∃ u, Placed s u c ∧ s.issueAny c e opc w = (u.control c e opc w 1).atCyc c (s.cluster c).cyc := by
  unfold State.issueAny
  split
  · next he =>
    subst he
    obtain ⟨⟨p, n⟩, hrun⟩ := Option.isSome_iff_exists.mp hmay.2.2.1
    obtain ⟨u, placed, e'⟩ := s.mvPush_placed c opc w { s.mvOpOf c opc w with done := true, due := (s.cluster c).cyc + 1 }
    refine ⟨u, placed, ?_⟩
    rw [State.issueMv_go hmay hq.1 hq.mvDue, State.issueTransfer_nop hrun ht (State.planMv_common hopc _), e']
  · refine ⟨_, (State.flown_spec hq e opc w).2, ?_⟩
    rw [State.issueEng_go hmay hq, State.issueFlight_quiet hq, engTiming_common hopc]

/-- The stream goes on, and the cluster stands at its present cycle again. -/
theorem State.advance_at (u : State) (c e : Nat) (st : Stream) :
    ClusterAt u ((u.advance c e st).atCyc c (u.cluster c).cyc) c
      { u.cluster c with streams := sset {} (u.cluster c).streams e ((u.cluster c).fetch st) } :=
  (ClusterAt.of_modCluster u c (fun x => { x with streams := sset {} x.streams e ((u.cluster c).fetch st) })).modCluster
    (fun x => { x with cyc := (u.cluster c).cyc })

/-- What the step of a stream leaves once it has gone on to st. -/
theorem Placed.advance {s u : State} {c : Nat} (h : Placed s u c) (e : Nat) (st : Stream) :
    let t := (u.advance c e st).atCyc c (s.cluster c).cyc
    t.stream c e = (s.cluster c).fetch st ∧ (∀ e', e' ≠ e → t.stream c e' = s.stream c e')
      ∧ (t.cluster c).tiles = (s.cluster c).tiles ∧ (t.cluster c).store = (s.cluster c).store
      ∧ otherClusters s t c ∧ t = u.withClusters t.clusters := by
  rw [← h.cyc]
  have hat := u.advance_at c e st
  have streams : ∀ e', ((u.advance c e st).atCyc c (u.cluster c).cyc).stream c e'
      = if e' = e then (s.cluster c).fetch st else s.stream c e' := fun e' => by
    rw [State.stream, hat.own, h.fetch, h.streams, State.stream]
    exact sget_sset ..
  refine ⟨(streams e).trans (if_pos rfl), fun e' he => (streams e').trans (if_neg he), ?_, ?_,
    fun j hj => (hat.others j hj).trans (h.others j hj), hat.clusters⟩
  · rw [hat.own, h.tiles]
  · rw [hat.own, h.store]

end Sys2Proof.Machine

end

section

namespace Sys2Proof.Machine

/-! ### END and LOOP (R76, R79, R96 to R99) -/

theorem State.control_end (s : State) (c e : Nat) (w : IWord) (n : Nat) :
    s.control c e opcEnd w n = s.advance c e { s.stream c e with live := false, held := none, acq := none, loops := [] } := rfl

/-- A stream that has ended fetches nothing. -/
theorem Cluster.fetch_ended (x : Cluster) {st : Stream} (h : st.live = false) : x.fetch st = { st with queue := [] } := by
  simp [Cluster.fetch, h]

/-- Where LOOP sends its stream: into its body, or past it where the count is 0 or four levels are open. -/
def loopTarget (st : Stream) (n : Nat) (w : IWord) (next : Nat) : Stream :=
  let body := if opnd w 19 8 = 0 then 4096 else opnd w 19 8
  if n = 0 ∨ st.loops.length ≥ 4 then st.goOn (st.pc + 1 + body) st.loops next
  else st.goOn (st.pc + 1) ({ first := st.pc + 1, len := body, count := n, i := 0 } :: st.loops) next

/-- Whether a LOOP of count n finds four levels open. -/
def loopNest (st : Stream) (n : Nat) : Bool := decide (st.loops.length ≥ 4) && n != 0

/-- The step of a cluster notes what a LOOP clamped and whether it found no level. -/
def State.noteLoop (s : State) (c : Nat) (clamp nest : Bool) : State :=
  match (s.cluster c).run with
  | some (p, k) => s.modSlot p k (fun r => { r with clamp := r.clamp || clamp, nest := r.nest || nest })
  | none => s

theorem State.control_loop (s : State) (c e : Nat) (w : IWord) (n : Nat) : s.control c e opcLoop w n
    = (s.noteLoop c (s.loopCount c w).2 (loopNest (s.stream c e) (s.loopCount c w).1)).advance c e
      (loopTarget (s.stream c e) (s.loopCount c w).1 w ((s.cluster c).cyc + n)) := by
  have past : (loopNest (s.stream c e) (s.loopCount c w).1 || decide ((s.loopCount c w).1 = 0)) = true
      ↔ (s.loopCount c w).1 = 0 ∨ (s.stream c e).loops.length ≥ 4 := by
    simp only [loopNest, Bool.or_eq_true, Bool.and_eq_true, decide_eq_true_eq, bne_iff_ne]
    tauto
  have control : s.control c e opcLoop w n =
      if loopNest (s.stream c e) (s.loopCount c w).1 || decide ((s.loopCount c w).1 = 0) then
        (s.noteLoop c (s.loopCount c w).2 (loopNest (s.stream c e) (s.loopCount c w).1)).advance c e
          ((s.stream c e).goOn ((s.stream c e).pc + 1 + if opnd w 19 8 = 0 then 4096 else opnd w 19 8) (s.stream c e).loops
            ((s.cluster c).cyc + n))
      else (s.noteLoop c (s.loopCount c w).2 (loopNest (s.stream c e) (s.loopCount c w).1)).advance c e
        ((s.stream c e).goOn ((s.stream c e).pc + 1) ({ first := (s.stream c e).pc + 1
                                                        len := if opnd w 19 8 = 0 then 4096 else opnd w 19 8
                                                        count := (s.loopCount c w).1, i := 0 } :: (s.stream c e).loops)
          ((s.cluster c).cyc + n)) := rfl
  rw [control]
  unfold loopTarget
  by_cases h : (s.loopCount c w).1 = 0 ∨ (s.stream c e).loops.length ≥ 4
  · rw [if_pos (past.mpr h)]
    simp only [h, if_true]
  · rw [if_neg (mt past.mp h)]
    simp only [h, if_false]

/-- What the step notes reaches its slot alone. -/
theorem State.noteLoop_spec (s : State) (c : Nat) (clamp nest : Bool) : (∃ q, s.noteLoop c clamp nest = s.withParts q)
    ∧ ∀ p k r, (s.cluster c).run = some (p, k) → s.slot p k = some r →
      (s.noteLoop c clamp nest).slot p k = some { r with clamp := r.clamp || clamp, nest := r.nest || nest } := by
  unfold State.noteLoop
  constructor
  · split
    · exact s.modSlot_frame ..
    · exact ⟨s.parts, rfl⟩
  · intro p k r hrun hslot
    simp only [hrun]
    exact s.modSlot_slot p k _ r hslot

/-- END on a stream that may issue it. -/
theorem State.issueAny_end {s : State} {c e : Nat} {w : IWord} (hmay : s.mayIssue c e w) (hq : s.quiet c)
    (ht : (s.cluster c).tracked.length < 32) :
    let t := s.issueAny c e opcEnd w
    t.stream c e = { s.stream c e with live := false, held := none, acq := none, loops := [], queue := [] }
      ∧ (∀ e', e' ≠ e → t.stream c e' = s.stream c e')
      ∧ (t.cluster c).tiles = (s.cluster c).tiles ∧ (t.cluster c).store = (s.cluster c).store
      ∧ otherClusters s t c ∧ clusterFrame s t := by
  obtain ⟨u, placed, e'⟩ := State.issueAny_common (.inl rfl) hmay hq ht
  rw [e', State.control_end, placed.stream]
  obtain ⟨own, streams, tiles, store, others, frame⟩ := placed.advance e
    { s.stream c e with live := false, held := none, acq := none, loops := [] }
  refine ⟨own.trans (Cluster.fetch_ended _ rfl), streams, tiles, store, others, ?_, placed.frame.2⟩
  rw [frame, placed.frame.1]
  rfl

/-- LOOP on a stream that may issue it. -/
theorem State.issueAny_loop {s : State} {c e : Nat} {w : IWord} (hmay : s.mayIssue c e w) (hq : s.quiet c)
    (ht : (s.cluster c).tracked.length < 32) :
    let t := s.issueAny c e opcLoop w
    t.stream c e = (s.cluster c).fetch (loopTarget (s.stream c e) (s.loopCount c w).1 w ((s.cluster c).cyc + 1))
      ∧ (∀ e', e' ≠ e → t.stream c e' = s.stream c e')
      ∧ (∀ p k r, (s.cluster c).run = some (p, k) → s.slot p k = some r →
          t.slot p k = some { r with clamp := r.clamp || (s.loopCount c w).2
                                     nest := r.nest || loopNest (s.stream c e) (s.loopCount c w).1 })
      ∧ (t.cluster c).tiles = (s.cluster c).tiles ∧ (t.cluster c).store = (s.cluster c).store
      ∧ otherClusters s t c ∧ t = (((s.withClusters t.clusters).withParts t.parts).withRegs t.regs).withFree t.free := by
  obtain ⟨u, placed, e'⟩ := State.issueAny_common (.inr rfl) hmay hq ht
  rw [e', State.control_loop, placed.stream, placed.loopCount, placed.cyc]
  obtain ⟨⟨q, parts⟩, slots⟩ := u.noteLoop_spec c (s.loopCount c w).2 (loopNest (s.stream c e) (s.loopCount c w).1)
  generalize u.noteLoop c (s.loopCount c w).2 (loopNest (s.stream c e) (s.loopCount c w).1) = v at parts slots
  have onward := placed.advance e (loopTarget (s.stream c e) (s.loopCount c w).1 w ((s.cluster c).cyc + 1))
  generalize loopTarget (s.stream c e) (s.loopCount c w).1 w ((s.cluster c).cyc + 1) = st at onward ⊢
  obtain ⟨own, streams, tiles, store, others, frame⟩ := onward
  have moved : (v.advance c e st).atCyc c (s.cluster c).cyc = ((u.advance c e st).atCyc c (s.cluster c).cyc).withParts q := by
    rw [parts]
    rfl
  refine ⟨by rw [moved]; exact own, by rw [moved]; exact streams, fun p k r hrun hslot => ?_, by rw [moved]; exact tiles,
    by rw [moved]; exact store, by rw [moved]; exact others, by rw [moved, frame, placed.frame.1]; rfl⟩
  rw [← slots p k r (placed.run.trans hrun) ((State.slot_congr placed.parts p k).trans hslot)]
  exact State.slot_congr rfl p k

/-- Settles O5: END and LOOP by where their control sends the stream; an uncorrectable word as END. -/
theorem endAndLoopSteerTheStream : Obligations.EndAndLoopSteerTheStream := by
  unfold Obligations.EndAndLoopSteerTheStream
  refine ⟨fun c e w s hmay hq ht => ⟨⟨_, rfl, State.issueAny_end hmay hq ht⟩, ⟨_, rfl, State.issueAny_loop hmay hq ht⟩⟩,
    fun _ _ _ => rfl, fun c e s hbad hmay hq ht => ?_⟩
  obtain ⟨own, -, tiles, store, -, frame, -⟩ := State.issueAny_end hmay hq ht
  have parts : (s.issueAny c.val e.val opcEnd {}).parts = s.parts := by rw [frame]; rfl
  have step : s.issueNext c.val e.val = (s.issueAny c.val e.val opcEnd {}).stepPoison (s.runOf c.val) true := by
    simp only [State.issueNext, hbad, if_true, hmay.2.1, own, Bool.not_false, Bool.and_self]
  generalize s.issueAny c.val e.val opcEnd {} = t at own tiles store parts step
  obtain ⟨⟨p, k⟩, hrun⟩ := Option.isSome_iff_exists.mp hmay.2.2.1
  have poison : s.issueNext c.val e.val = t.modSlot p k (fun r => { r with poison := true }) := by
    rw [step, State.runOf, hrun]
    rfl
  obtain ⟨q, noted⟩ := t.modSlot_frame p k (fun r => { r with poison := true })
  refine ⟨_, congrArg Host.Outcome.next poison, ?_, fun p' k' r hrun' hslot => ?_, ?_, ?_⟩
  · rw [noted]
    exact congrArg Stream.live own
  · obtain ⟨rfl, rfl⟩ : p = p' ∧ k = k' := by simpa [hrun] using hrun'
    exact t.modSlot_slot p k _ r ((State.slot_congr parts p k).trans hslot)
  · rw [noted]
    exact tiles
  · rw [noted]
    exact store

end Sys2Proof.Machine

end

section

namespace Sys2Proof.Machine

/-! ### What an instruction alone in flight is due to leave (R81, R122, R184) -/

/-- The bank that an instruction finds where nothing flies. -/
def State.bankFound (s : State) (c e opc : Nat) (w : IWord) : Option (Nat × Bank) :=
  if e < 4 ∧ meRuns opc w then some (2 * e + opnd w 19 19, sget {} (s.cluster c).banks (2 * e + opnd w 19 19)) else none

/-- The counter that it finds then. -/
def State.countFound (s : State) (c e opc : Nat) (w : IWord) : Nat :=
  if e = engVe ∧ veReadsCount opc then sget 0 (s.cluster c).sycs (immf w 5 0) else 0

theorem State.engComputes_eq (s : State) (c e opc : Nat) (w : IWord) :
    s.engComputes c e opc w = engResult e opc w (s.stream c e).iter (s.cluster c).tiles
      (((s.bankFound c e opc w).map (·.2)).getD {}) (s.countFound c e opc w) := by
  have bank : (((s.bankFound c e opc w).map (·.2)).getD {})
      = if e < 4 ∧ meRuns opc w then sget {} (s.cluster c).banks (2 * e + opnd w 19 19) else {} := by
    unfold State.bankFound
    split <;> rfl
  rw [bank]
  rfl

/-- Where nothing flies, an instruction reads the tiles, the bank and the counter as they stand, and no choice is free. -/
theorem State.flightOf_alone {s : State} {c : Nat} (hf : (s.cluster c).flight = []) (e opc : Nat) (w : IWord) :
    ∃ reads span readEnd, s.flightOf c e opc w =
      (Flight.run [] { eng := e, opc := opc, w := w, idx := (s.stream c e).pc, it := (s.stream c e).iter, issueNs := s.now
                       issueCc := (s.cluster c).cyc, readEnd := readEnd, due := (s.cluster c).cyc + (engTiming e opc w).2
                       reads := reads, span := span, src := (s.cluster c).tiles, bankIn := s.bankFound c e opc w
                       bankOut := none, out := [], counts := [], cin := s.countFound c e opc w, met := []
                       fault := if engRuns e opc w && s.flagFault c w then some fltBound else none }, s.free) := by
  have count : (if e = engVe ∧ veReadsCount opc then (s.cluster c).countIn (immf w 5 0) else (0, none))
      = (s.countFound c e opc w, none) := by
    unfold State.countFound Cluster.countIn
    rw [hf]
    split <;> rfl
  have bank : (if e < 4 ∧ meRuns opc w then
      (some (2 * e + opnd w 19 19, sget {} (s.cluster c).banks (2 * e + opnd w 19 19)), none) else (none, none))
      = (s.bankFound c e opc w, (none : Option Nat)) := by
    unfold State.bankFound
    split <;> rfl
  simp only [State.flightOf, count, hf, List.reverse_nil, List.find?_nil, bank, sortBy, newsOf, List.foldl_nil, List.map_nil,
    List.filter_nil, ite_self]
  exact ⟨_, _, _, rfl⟩

theorem State.flightOf_spec {s : State} {c : Nat} (hf : (s.cluster c).flight = []) (e opc : Nat) (w : IWord) :
    let f := (s.flightOf c e opc w).1
    (f.eng, f.opc, f.w, f.idx, f.issueNs, f.issueCc) = (e, opc, w, (s.stream c e).pc, s.now, (s.cluster c).cyc)
      ∧ f.due = (s.cluster c).cyc + (engTiming e opc w).2 ∧ f.out = (s.engComputes c e opc w).out
      ∧ f.bankOut = (s.engComputes c e opc w).bank ∧ f.counts = (s.engComputes c e opc w).counts
      ∧ f.fault = (if engRuns e opc w && s.flagFault c w then some fltBound else (s.engComputes c e opc w).fault) := by
  obtain ⟨reads, span, readEnd, h⟩ := State.flightOf_alone hf e opc w
  rw [h, State.engComputes_eq]
  refine ⟨rfl, rfl, rfl, rfl, rfl, ?_⟩
  unfold Flight.run
  by_cases bad : (engRuns e opc w && s.flagFault c w) = true
  · simp only [bad, if_true]
  · simp only [bad, if_false, reduceCtorEq, Bool.false_eq_true]
    rfl

/-- An instruction of ME, VE or RU with nothing in flight before it flies alone, and its stream goes on an interval
later. -/
theorem State.issueEng_alone {s : State} {c e opc : Nat} {w : IWord} (h1 : opc ≠ opcEnd) (h2 : opc ≠ opcLoop)
    (hmay : s.mayIssue c e w) (hq : s.quiet c) :
    let t := s.issueEng c e opc w
    t.cluster c = { s.cluster c with
        flight := [(s.flightOf c e opc w).1]
        counted := (t.cluster c).counted
        streams := sset {} (s.cluster c).streams e ((s.cluster c).fetch ((s.stream c e).goOn ((s.stream c e).pc + 1)
          (s.stream c e).loops ((s.cluster c).cyc + (engTiming e opc w).1))) }
      ∧ otherClusters s t c ∧ clusterFrame s t := by
  obtain ⟨flies, placed⟩ := State.flown_spec hq e opc w
  rw [State.issueEng_go hmay hq, State.issueFlight_quiet hq, State.control_plain h1 h2, placed.stream, placed.cyc]
  generalize (s.stream c e).goOn ((s.stream c e).pc + 1) (s.stream c e).loops ((s.cluster c).cyc + (engTiming e opc w).1) = st
  obtain ⟨-, -, -, -, others, frame⟩ := placed.advance e st
  have hat := (s.flown c e opc w).advance_at c e st
  rw [placed.cyc, placed.fetch] at hat
  refine ⟨?_, others, by rw [frame, placed.frame.1]; rfl, placed.frame.2⟩
  rw [hat.own, flies]

end Sys2Proof.Machine

end

section

namespace Sys2Proof.Machine

/-! ### Bits of a byte sequence -/

/-- Bit n of bytes, the first least significant. -/
theorem testBit_leNat (bs : List Byte) (n : Nat) : (leNat bs).testBit n = (bs.getD (n / 8) 0).getLsbD (n % 8) := by
  induction bs generalizing n with
  | nil => simp [leNat]
  | cons b t ih =>
    have hb : b.toNat < 2 ^ 8 := b.isLt
    have split : leNat (b :: t) = 2 ^ 8 * leNat t + b.toNat := by rw [leNat]; omega
    rw [split, Nat.testBit_two_pow_mul_add _ hb]
    split
    · next h => rw [Nat.div_eq_of_lt h, Nat.mod_eq_of_lt h]; rfl
    · next h =>
      obtain ⟨m, rfl⟩ : ∃ m, n = m + 8 := ⟨n - 8, by omega⟩
      rw [Nat.add_sub_cancel, ih, Nat.add_div_right m (by decide), Nat.add_mod_right]
      rfl

/-- Bit i of w bits from bit b of a byte sequence. -/
theorem testBit_bitsAt (rd : Nat → Byte) (b w i : Nat) :
    (bitsAt rd b w).testBit i = (decide (i < w) && (rd ((b + i) / 8)).getLsbD ((b + i) % 8)) := by
  rw [bitsAt, Nat.testBit_mod_two_pow, Nat.testBit_shiftRight, testBit_leNat]
  by_cases hi : i < w
  · have hn : (b % 8 + i) / 8 < ceilDiv (b % 8 + w) 8 := by unfold ceilDiv; omega
    have ha : b / 8 + (b % 8 + i) / 8 = (b + i) / 8 := by omega
    have hm : (b % 8 + i) % 8 = (b + i) % 8 := by omega
    simp only [hi, decide_true, Bool.true_and, hm]
    rw [List.getD_eq_getElem?_getD, List.getElem?_map, List.getElem?_range hn]
    simp only [Option.map_some, Option.getD_some, ha]
  · simp [hi]

/-! ### What masked writes leave of a bit of tile memory -/

/-- The write reaches bit p of tile memory, eight bits a byte. -/
def TWrite.hits (w : TWrite) (p : Nat) : Prop := w.addr = p / 8 ∧ w.mask.getLsbD (p % 8) = true

theorem writtenByte_append (ws ws' : List TWrite) (a : Nat) (b : Byte) :
    writtenByte (ws ++ ws') a b = writtenByte ws' a (writtenByte ws a b) := List.foldl_append ..

theorem getLsbD_writtenByte_one (w : TWrite) (p : Nat) (b : Byte) [Decidable (w.hits p)] :
    (writtenByte [w] (p / 8) b).getLsbD (p % 8) = if w.hits p then w.val.getLsbD (p % 8) else b.getLsbD (p % 8) := by
  have hp : p % 8 < 8 := Nat.mod_lt _ (by decide)
  by_cases ha : w.addr = p / 8
  · have bits : (writtenByte [w] (p / 8) b).getLsbD (p % 8)
        = (b.getLsbD (p % 8) && !w.mask.getLsbD (p % 8) || w.val.getLsbD (p % 8) && w.mask.getLsbD (p % 8)) := by
      simp only [writtenByte, List.foldl_cons, List.foldl_nil, ha, if_true, BitVec.getLsbD_or, BitVec.getLsbD_and,
        BitVec.getLsbD_not, hp, decide_true, Bool.true_and]
    rw [bits]
    by_cases hm : w.mask.getLsbD (p % 8) = true
    · rw [if_pos ⟨ha, hm⟩, hm, Bool.not_true, Bool.and_false, Bool.and_true, Bool.false_or]
    · rw [if_neg fun h => hm h.2, Bool.eq_false_of_not_eq_true hm, Bool.not_false, Bool.and_true, Bool.and_false, Bool.or_false]
  · rw [if_neg fun h => ha h.1]
    simp [writtenByte, ha]

/-- A bit that no write reaches stays. -/
theorem writtenByte_miss {ws : List TWrite} {p : Nat} (h : ∀ w ∈ ws, ¬ w.hits p) (b : Byte) :
    (writtenByte ws (p / 8) b).getLsbD (p % 8) = b.getLsbD (p % 8) := by
  classical
  induction ws generalizing b with
  | nil => rfl
  | cons w ws ih =>
    rw [← List.singleton_append, writtenByte_append, ih fun v hv => h v (List.mem_cons_of_mem w hv),
      getLsbD_writtenByte_one, if_neg (h w List.mem_cons_self)]

/-- A bit that writes reach, all with one value, takes it. -/
theorem writtenByte_hit {ws : List TWrite} {p : Nat} {v : Bool} (h : ∃ w ∈ ws, w.hits p)
    (hv : ∀ w ∈ ws, w.hits p → w.val.getLsbD (p % 8) = v) (b : Byte) : (writtenByte ws (p / 8) b).getLsbD (p % 8) = v := by
  classical
  induction ws generalizing b with
  | nil => obtain ⟨w, hw, -⟩ := h; cases hw
  | cons w ws ih =>
    rw [← List.singleton_append, writtenByte_append]
    by_cases hlater : ∃ w ∈ ws, w.hits p
    · exact ih hlater (fun w hw => hv w (List.mem_cons_of_mem _ hw)) _
    · have miss : ∀ w ∈ ws, ¬ w.hits p := fun w hw hp => hlater ⟨w, hw, hp⟩
      obtain ⟨u, hu, hp⟩ := h
      obtain rfl : u = w := (List.mem_cons.mp hu).resolve_right fun hu => miss u hu hp
      rw [writtenByte_miss miss, getLsbD_writtenByte_one, if_pos hp]
      exact hv u List.mem_cons_self hp

/-- A byte that no write names stays. -/
theorem writtenByte_other {ws : List TWrite} {a : Nat} (h : ∀ w ∈ ws, w.addr ≠ a) (b : Byte) : writtenByte ws a b = b := by
  induction ws generalizing b with
  | nil => rfl
  | cons w ws ih =>
    rw [← List.singleton_append, writtenByte_append, ih fun v hv => h v (List.mem_cons_of_mem w hv)]
    exact if_neg (h w List.mem_cons_self)

/-- A byte that whole writes name, all with one value, takes it. -/
theorem writtenByte_whole {ws : List TWrite} {a : Nat} {v : Byte} (h : ∃ w ∈ ws, w.addr = a)
    (hv : ∀ w ∈ ws, w.addr = a → w.mask = 0xFF ∧ w.val = v) (b : Byte) : writtenByte ws a b = v := by
  apply BitVec.eq_of_getLsbD_eq
  intro i hi
  have hp : (8 * a + i) / 8 = a ∧ (8 * a + i) % 8 = i := by omega
  have ones : (0xFF : Byte).getLsbD i = true := by
    have : ∀ i, i < 8 → (0xFF : Byte).getLsbD i = true := by decide
    exact this i hi
  obtain ⟨w, hw, ha⟩ := h
  have bits := writtenByte_hit (ws := ws) (p := 8 * a + i) (v := v.getLsbD i)
    ⟨w, hw, by rw [hp.1, ha], by rw [(hv w hw ha).1, hp.2, ones]⟩
    (fun w hw hit => by rw [(hv w hw (hit.1.trans hp.1)).2, hp.2]) b
  rwa [hp.1, hp.2] at bits

/-! ### Writes of elements -/

theorem mem_bitsPut {b w v : Nat} {q : Nat × Byte × Byte} : q ∈ bitsPut b w v ↔ ∃ i, i < ceilDiv (b % 8 + w) 8
    ∧ q = (b / 8 + i, BitVec.ofNat 8 (((2 ^ w - 1) <<< (b % 8)) >>> (8 * i)), BitVec.ofNat 8 (((v % 2 ^ w) <<< (b % 8)) >>> (8 * i))) := by
  simp only [bitsPut, List.mem_map, List.mem_range, eq_comm (a := q)]

/-- Mask and value that writing w bits at position b gives to bit q of the i-th byte it touches. -/
theorem testBit_shifted (x b i q : Nat) : ((x <<< (b % 8)) >>> (8 * i)).testBit q
    = (decide (b ≤ 8 * (b / 8 + i) + q) && x.testBit (8 * (b / 8 + i) + q - b)) := by
  rw [Nat.testBit_shiftRight, Nat.testBit_shiftLeft]
  have h1 : (8 * i + q ≥ b % 8) ↔ b ≤ 8 * (b / 8 + i) + q := by omega
  have h2 : 8 * i + q - b % 8 = 8 * (b / 8 + i) + q - b := by omega
  simp only [h1, h2]

theorem mem_rowWrites {f : Fmt} {base : Nat} {es : List (Nat × Nat)} {w : TWrite} :
    w ∈ rowWrites f base es ↔ ∃ e ∈ es, ∃ q ∈ bitsPut (e.1 * f.bits) f.bits e.2, w = ⟨base + q.1, q.2.1, q.2.2⟩ := by
  simp only [rowWrites, elemPut, List.mem_flatMap, List.mem_map, eq_comm (a := w)]

/-- A write of element e reaches its bits alone, with those of its code. -/
theorem hits_of_mem_bitsPut {b w v base p : Nat} {q : Nat × Byte × Byte} (hq : q ∈ bitsPut b w v)
    (hit : TWrite.hits ⟨base + q.1, q.2.1, q.2.2⟩ p) :
    8 * base + b ≤ p ∧ p < 8 * base + b + w ∧ q.2.2.getLsbD (p % 8) = v.testBit (p - (8 * base + b)) := by
  obtain ⟨i, hi, rfl⟩ := mem_bitsPut.mp hq
  obtain ⟨ha, hm⟩ := hit
  have hp8 : p % 8 < 8 := Nat.mod_lt _ (by decide)
  have hpos : 8 * (b / 8 + i) + p % 8 = p - 8 * base := by dsimp only at ha; omega
  simp only [BitVec.getLsbD_ofNat, hp8, decide_true, Bool.true_and, testBit_shifted, hpos, Nat.testBit_two_pow_sub_one,
    Bool.and_eq_true, decide_eq_true_eq, Nat.testBit_mod_two_pow] at hm ⊢
  obtain ⟨h1, h2⟩ := hm
  have hsub : p - 8 * base - b = p - (8 * base + b) := by omega
  dsimp only at ha
  rw [hsub] at h2 ⊢
  exact ⟨by omega, by omega, by simp [h1, h2]⟩

theorem exists_hits_bitsPut {b w base p : Nat} (v : Nat) (h1 : 8 * base + b ≤ p) (h2 : p < 8 * base + b + w) :
    ∃ q ∈ bitsPut b w v, TWrite.hits ⟨base + q.1, q.2.1, q.2.2⟩ p := by
  have hp8 : p % 8 < 8 := Nat.mod_lt _ (by decide)
  refine ⟨_, mem_bitsPut.mpr ⟨p / 8 - base - b / 8, by unfold ceilDiv; omega, rfl⟩, by dsimp only; omega, ?_⟩
  have hpos : 8 * (b / 8 + (p / 8 - base - b / 8)) + p % 8 = p - 8 * base := by omega
  simp only [BitVec.getLsbD_ofNat, hp8, decide_true, Bool.true_and, testBit_shifted, hpos, Nat.testBit_two_pow_sub_one,
    Bool.and_eq_true, decide_eq_true_eq]
  omega

/-- The elements of a row fit it. -/
theorem Fmt.perRow_bits (f : Fmt) : f.perRow * f.bits ≤ 2048 ∧ 0 < f.bits := by cases f <;> decide

/-- Bit positions of rows do not meet: tile and row of a bit. -/
theorem rowAddr_inj {t r t' r' x x' : Nat} (hr : r < 128) (hr' : r' < 128) (hx : x < 2048) (hx' : x' < 2048)
    (h : 8 * rowAddr t r + x = 8 * rowAddr t' r' + x') : t % 48 = t' % 48 ∧ r = r' ∧ x = x' := by
  unfold rowAddr at h
  omega

section Elements

variable {α : Type} {f : Fmt} {xs : List α} {t r : α → Nat} {es : α → List (Nat × Nat)}

/-- Which element's writes reach bit i of element j of row r0 of tile t0. -/
theorem elem_of_hits (hr : ∀ x ∈ xs, r x < 128) (hj : ∀ x ∈ xs, ∀ e ∈ es x, e.1 < f.perRow) {t0 r0 j i : Nat} (hr0 : r0 < 128)
    (hj0 : j < f.perRow) (hi : i < f.bits) {w : TWrite}
    (hw : w ∈ xs.flatMap (fun x => rowWrites f (rowAddr (t x) (r x)) (es x)))
    (hit : w.hits (8 * rowAddr t0 r0 + (j * f.bits + i))) :
    ∃ x ∈ xs, t x % 48 = t0 % 48 ∧ r x = r0 ∧ ∃ v, (j, v) ∈ es x
      ∧ w.val.getLsbD ((8 * rowAddr t0 r0 + (j * f.bits + i)) % 8) = v.testBit i := by
  obtain ⟨x, hx, hw⟩ := List.mem_flatMap.mp hw
  obtain ⟨⟨k, v⟩, he, q, hq, rfl⟩ := mem_rowWrites.mp hw
  obtain ⟨h1, h2, hval⟩ := hits_of_mem_bitsPut hq hit
  dsimp only at h1 h2 hval ⊢
  obtain ⟨hfit, hpos⟩ := f.perRow_bits
  have hk : (k + 1) * f.bits ≤ 2048 := (Nat.mul_le_mul_right _ (hj x hx _ he)).trans hfit
  have hj1 : (j + 1) * f.bits ≤ 2048 := (Nat.mul_le_mul_right _ hj0).trans hfit
  rw [Nat.add_mul, one_mul] at hk hj1
  obtain ⟨d, hd⟩ : ∃ d, 8 * rowAddr t0 r0 + (j * f.bits + i) = 8 * rowAddr (t x) (r x) + (k * f.bits + d) :=
    ⟨8 * rowAddr t0 r0 + (j * f.bits + i) - (8 * rowAddr (t x) (r x) + k * f.bits), by omega⟩
  have hdlt : d < f.bits := by omega
  obtain ⟨ht, hrow, hbit⟩ := rowAddr_inj hr0 (hr x hx) (by omega) (by omega) hd
  have hjk : j = k := by
    have hdiv := congrArg (· / f.bits) hbit
    simpa [Nat.mul_add_div hpos, Nat.div_eq_of_lt hi, Nat.div_eq_of_lt hdlt, Nat.mul_comm _ f.bits] using hdiv
  subst hjk
  have hid : d = i := by omega
  refine ⟨x, hx, ht.symm, hrow.symm, v, he, hval.trans ?_⟩
  congr 1
  omega

theorem testBit_elemBits {f : Fmt} (src : Mem) (ws : List TWrite) (t r j i : Nat) :
    (bitsAt (fun k => writtenByte ws (rowAddr t r + k) (mget src (rowAddr t r + k))) (j * f.bits) f.bits).testBit i
      = (decide (i < f.bits) && (writtenByte ws ((8 * rowAddr t r + (j * f.bits + i)) / 8)
          (mget src ((8 * rowAddr t r + (j * f.bits + i)) / 8))).getLsbD ((8 * rowAddr t r + (j * f.bits + i)) % 8)) := by
  have h1 : (8 * rowAddr t r + (j * f.bits + i)) / 8 = rowAddr t r + (j * f.bits + i) / 8 := by omega
  have h2 : (8 * rowAddr t r + (j * f.bits + i)) % 8 = (j * f.bits + i) % 8 := by omega
  rw [testBit_bitsAt, h1, h2]

/-- An element that is written holds its code. -/
theorem codeAfter_written (hr : ∀ x ∈ xs, r x < 128) (hj : ∀ x ∈ xs, ∀ e ∈ es x, e.1 < f.perRow) (src : Mem) {x : α} {j v : Nat}
    (hx : x ∈ xs) (he : (j, v) ∈ es x)
    (huniq : ∀ y ∈ xs, t y % 48 = t x % 48 → r y = r x → ∀ u, (j, u) ∈ es y → u = v)
    (hv : v < 2 ^ f.bits) (ha : f = .a12 → v < 4096) :
    codeAfter f src (xs.flatMap (fun x => rowWrites f (rowAddr (t x) (r x)) (es x))) (t x) (r x) j = v := by
  have code : bitsAt (fun k => writtenByte (xs.flatMap (fun x => rowWrites f (rowAddr (t x) (r x)) (es x))) (rowAddr (t x) (r x) + k)
      (mget src (rowAddr (t x) (r x) + k))) (j * f.bits) f.bits = v := by
    apply Nat.eq_of_testBit_eq
    intro i
    rw [testBit_elemBits]
    by_cases hi : i < f.bits
    · simp only [hi, decide_true, Bool.true_and]
      apply writtenByte_hit
      · obtain ⟨q, hq, hit⟩ := exists_hits_bitsPut (b := j * f.bits) (w := f.bits) (base := rowAddr (t x) (r x))
          (p := 8 * rowAddr (t x) (r x) + (j * f.bits + i)) v (by omega) (by omega)
        exact ⟨_, List.mem_flatMap.mpr ⟨x, hx, mem_rowWrites.mpr ⟨_, he, q, hq, rfl⟩⟩, hit⟩
      · intro w hw hit
        obtain ⟨y, hy, ht, hrow, u, hu, hval⟩ := elem_of_hits hr hj (hr x hx) (hj x hx _ he) hi hw hit
        rw [hval, huniq y hy ht hrow u hu]
    · simp [hi, Nat.testBit_lt_two_pow (lt_of_lt_of_le hv (Nat.pow_le_pow_right (by decide) (Nat.le_of_not_lt hi)))]
  rw [codeAfter, elemCode, code]
  split
  · next h => exact Nat.mod_eq_of_lt (ha h)
  · rfl

/-- An element that is not written keeps its code. -/
theorem codeAfter_kept (hr : ∀ x ∈ xs, r x < 128) (hj : ∀ x ∈ xs, ∀ e ∈ es x, e.1 < f.perRow) (src : Mem) {t0 r0 j : Nat}
    (hr0 : r0 < 128) (hj0 : j < f.perRow)
    (hno : ∀ y ∈ xs, t y % 48 = t0 % 48 → r y = r0 → ∀ u, (j, u) ∉ es y) :
    codeAfter f src (xs.flatMap (fun x => rowWrites f (rowAddr (t x) (r x)) (es x))) t0 r0 j
      = elemCode f (rowRd src (rowAddr t0 r0)) j := by
  have code : bitsAt (fun k => writtenByte (xs.flatMap (fun x => rowWrites f (rowAddr (t x) (r x)) (es x))) (rowAddr t0 r0 + k)
      (mget src (rowAddr t0 r0 + k))) (j * f.bits) f.bits = bitsAt (rowRd src (rowAddr t0 r0)) (j * f.bits) f.bits := by
    apply Nat.eq_of_testBit_eq
    intro i
    have plain := testBit_elemBits (f := f) src [] t0 r0 j i
    rw [testBit_elemBits]
    refine Eq.trans ?_ plain.symm
    by_cases hi : i < f.bits
    · congr 1
      refine writtenByte_miss (fun w hw hit => ?_) _
      obtain ⟨y, hy, ht, hrow, u, hu, -⟩ := elem_of_hits hr hj hr0 hj0 hi hw hit
      exact hno y hy ht hrow u hu
    · simp [hi]
  rw [codeAfter, elemCode, elemCode, code]

/-- Bytes of rows that no element is written in stay. -/
theorem writtenByte_otherRow (hr : ∀ x ∈ xs, r x < 128) (hj : ∀ x ∈ xs, ∀ e ∈ es x, e.1 < f.perRow) {t0 r0 k : Nat}
    (hr0 : r0 < 128) (hk : k < 256) (hno : ∀ y ∈ xs, t y % 48 = t0 % 48 → r y ≠ r0) (b : Byte) :
    writtenByte (xs.flatMap (fun x => rowWrites f (rowAddr (t x) (r x)) (es x))) (rowAddr t0 r0 + k) b = b := by
  refine writtenByte_other (fun w hw heq => ?_) b
  obtain ⟨x, hx, hw⟩ := List.mem_flatMap.mp hw
  obtain ⟨⟨j, v⟩, he, q, hq, rfl⟩ := mem_rowWrites.mp hw
  obtain ⟨i, hi, rfl⟩ := mem_bitsPut.mp hq
  obtain ⟨hfit, hpos⟩ := f.perRow_bits
  have hend : (j + 1) * f.bits ≤ 2048 := (Nat.mul_le_mul_right _ (hj x hx _ he)).trans hfit
  rw [Nat.add_mul, one_mul] at hend
  have hbyte : j * f.bits / 8 + i < 256 := by unfold ceilDiv at hi; dsimp only at hi; omega
  dsimp only at heq hbyte
  obtain ⟨ht, hrow, -⟩ := rowAddr_inj (t := t x) (t' := t0) (x := 8 * (j * f.bits / 8 + i)) (x' := 8 * k) (hr x hx) hr0
    (by omega) (by omega) (by omega)
  exact hno x hx ht hrow

end Elements

end Sys2Proof.Machine

end

section

namespace Sys2Proof.Machine

/-! ### Codes fit their format -/

theorem fpEncode_lt {s : FpSpec} (hmax : s.maxFin < 2 ^ (s.eb + s.mb)) (hinf : s.infCode.getD s.maxFin < 2 ^ (s.eb + s.mb))
    (hnan : s.nanCode.getD 0 < 2 ^ (s.eb + s.mb)) (v : Val) : fpEncode s v < 2 ^ (s.eb + s.mb + 1) := by
  have hsign : ∀ neg mag, mag < 2 ^ (s.eb + s.mb) → mag + boolNat neg * 2 ^ (s.eb + s.mb) < 2 ^ (s.eb + s.mb + 1) := by
    intro neg mag h
    rw [Nat.pow_succ]
    cases neg <;> simp only [boolNat, if_true, if_false, Bool.false_eq_true] <;> omega
  unfold fpEncode
  cases v with
  | nan => exact hnan.trans (Nat.pow_lt_pow_right (by decide) (Nat.lt_succ_self _))
  | inf neg => exact hsign _ _ hinf
  | fin neg m e =>
    dsimp only
    split
    · split
      · exact hsign _ _ hinf
      · exact hsign _ _ hmax
    · next h => exact hsign _ _ (lt_of_le_of_lt (Nat.le_of_not_lt h) hmax)

theorem intEncode_lt {w : Nat} (hw : 0 < w) (v : Val) : intEncode w v < 2 ^ w := by
  have half : 2 ^ w = 2 * 2 ^ (w - 1) := by rw [← Nat.pow_succ', Nat.succ_eq_add_one, Nat.sub_add_cancel hw]
  have hpos : 0 < 2 ^ (w - 1) := Nat.two_pow_pos _
  unfold intEncode
  cases v with
  | nan => dsimp only; omega
  | inf neg => dsimp only; split <;> omega
  | fin neg m e =>
    dsimp only
    split
    · split
      · omega
      · exact Nat.mod_lt _ (Nat.two_pow_pos _)
    · split <;> omega

theorem e8m0Encode_lt (v : Val) : e8m0Encode v < 256 := by
  unfold e8m0Encode
  split
  · decide
  · decide
  · split <;> omega

/-- A code has the bits that an immediate of its format uses. -/
theorem encode_lt_immBits (f : Fmt) (v : Val) : encode f v < 2 ^ immBits f := by
  cases f
  case int8 | int4 | int32 | int16 | zb8 => exact intEncode_lt (by decide) v
  case e8m0 => exact e8m0Encode_lt v
  all_goals exact fpEncode_lt (by decide) (by decide) (by decide) v

theorem immBits_le (f : Fmt) : immBits f ≤ f.bits := by cases f <;> decide

theorem encode_lt (f : Fmt) (v : Val) : encode f v < 2 ^ f.bits :=
  (encode_lt_immBits f v).trans_le (Nat.pow_le_pow_right (by decide) (immBits_le f))

/-- What an element may hold: the bits it takes, of an A12 container the low 12. -/
def Fmt.codeOk (f : Fmt) (v : Nat) : Prop := v < 2 ^ f.bits ∧ (f = .a12 → v < 4096)

theorem codeOk_of_immBits {f : Fmt} {v : Nat} (h : v < 2 ^ immBits f) : f.codeOk v :=
  ⟨h.trans_le (Nat.pow_le_pow_right (by decide) (immBits_le f)), fun e => by subst e; exact h⟩

theorem encode_codeOk (f : Fmt) (v : Val) : f.codeOk (encode f v) := codeOk_of_immBits (encode_lt_immBits f v)

theorem immCode_codeOk (f : Fmt) (w : IWord) : f.codeOk (immCode f w) := by
  unfold immCode
  split
  · exact codeOk_of_immBits (Nat.mod_lt _ (Nat.two_pow_pos _))
  · exact encode_codeOk f _

theorem elemCode_codeOk (f : Fmt) (rd : Nat → Byte) (j : Nat) : f.codeOk (elemCode f rd j) := by
  have hb : bitsAt rd (j * f.bits) f.bits < 2 ^ f.bits := Nat.mod_lt _ (Nat.two_pow_pos _)
  unfold elemCode
  split
  · next h => exact ⟨lt_of_le_of_lt (Nat.mod_le _ _) hb, fun _ => Nat.mod_lt _ (by decide)⟩
  · next h => exact ⟨hb, fun e => absurd e h⟩

/-! ### Integer elements (R140, R168) -/

theorem two_pow_half {n : Nat} (hn : 0 < n) : 2 ^ n = 2 * 2 ^ (n - 1) := by
  rw [← Nat.pow_succ', Nat.succ_eq_add_one, Nat.sub_add_cancel hn]

theorem sext_bounds {n : Nat} (hn : 0 < n) (v : Nat) : -(2 ^ (n - 1) : Nat) ≤ sext n v ∧ sext n v < (2 ^ (n - 1) : Nat) := by
  have half := two_pow_half hn
  have hv : v % 2 ^ n < 2 ^ n := Nat.mod_lt _ (Nat.two_pow_pos _)
  unfold sext
  dsimp only
  split <;> omega

/-- A value in range is what its low n bits read as. -/
theorem sext_wrapInt {n : Nat} (hn : 0 < n) {z : Int} (hlo : -(2 ^ (n - 1) : Nat) ≤ z) (hhi : z < (2 ^ (n - 1) : Nat)) :
    sext n (wrapInt n z) = z := by
  have half := two_pow_half hn
  have hpos : 0 < 2 ^ (n - 1) := Nat.two_pow_pos _
  have hw : (wrapInt n z : Int) = if z < 0 then z + (2 ^ n : Nat) else z := by
    unfold wrapInt
    split
    · rw [← Int.add_emod_right, Int.emod_eq_of_lt (by omega) (by omega)]
      omega
    · rw [Int.emod_eq_of_lt (by omega) (by omega)]
      omega
  have hlt : wrapInt n z < 2 ^ n := by
    split at hw <;> omega
  unfold sext
  rw [Nat.mod_eq_of_lt hlt]
  dsimp only
  split at hw <;> split <;> omega

theorem sext_neg_pos {n a : Nat} (h : sext n a < 0) : 0 < a := by
  rcases Nat.eq_zero_or_pos a with rfl | ha
  · unfold sext at h
    rw [Nat.zero_mod] at h
    dsimp only at h
    rw [if_pos (Nat.two_pow_pos _)] at h
    omega
  · exact ha

/-- An arithmetic shift keeps a value in range. -/
theorem shift_bounds {h d : Nat} (hd : 0 < d) {z : Int} (hlo : -(h : Int) ≤ z) (hhi : z < h) :
    -(h : Int) ≤ z / (d : Int) ∧ z / (d : Int) < h := by
  have hd' : (0 : Int) < d := by exact_mod_cast hd
  constructor
  · rw [Int.le_ediv_iff_mul_le hd']
    nlinarith
  · rw [Int.ediv_lt_iff_lt_mul hd']
    nlinarith

/-- What the integer operations compute, each as Table 4.9 states it. -/
theorem veInt_result (op : Nat) {n a b : Nat} (hn : 0 < n) (ha : a < 2 ^ n) (hb : b < 2 ^ n) (d : Nat) :
    intResult op n a b d (veInt op n a b d) := by
  have hpos : 0 < 2 ^ n := Nat.two_pow_pos _
  refine ⟨?_, ?_, ?_, ?_, ?_, ?_, ?_, ?_, ?_, ?_, ?_, ?_, ?_, ?_, ?_, ?_⟩ <;> rintro rfl <;> simp only [veInt]
  case refine_2 =>
    rw [Nat.mod_eq_of_lt hb, Nat.mod_add_mod, Nat.add_assoc, Nat.sub_add_cancel hb.le, Nat.add_mod_right, Nat.mod_eq_of_lt ha]
  case refine_5 => split <;> omega
  case refine_6 => split <;> omega
  case refine_7 =>
    split
    · next h => exact Nat.mod_eq_of_lt (Nat.sub_lt hpos (sext_neg_pos h))
    · rfl
  case refine_8 => rw [Nat.mod_add_mod, Nat.sub_add_cancel ha.le, Nat.mod_self]
  case refine_12 => rw [Nat.shiftLeft_eq]
  case refine_13 =>
    obtain ⟨hlo, hhi⟩ := sext_bounds hn a
    obtain ⟨hlo', hhi'⟩ := shift_bounds (d := 2 ^ (b % n)) (Nat.two_pow_pos _) hlo hhi
    rw [sext_wrapInt hn hlo' hhi']
    push_cast
    rfl

theorem veInt_lt (op : Nat) {n a b : Nat} (hn : 0 < n) (ha : a < 2 ^ n) (hb : b < 2 ^ n) (d : Nat) : veInt op n a b d < 2 ^ n := by
  have hpos : 0 < 2 ^ n := Nat.two_pow_pos _
  have one : 1 < 2 ^ n := Nat.one_lt_two_pow (by omega)
  have truth : ∀ (p : Prop) [Decidable p], (if p then 1 else 0) < 2 ^ n := fun p _ => by split <;> assumption
  unfold veInt
  dsimp only
  split
  case h_5 | h_6 => split <;> assumption
  case h_7 => split <;> [exact Nat.mod_lt _ hpos; assumption]
  case h_9 => exact Nat.and_lt_two_pow _ hb
  case h_10 => exact Nat.or_lt_two_pow ha hb
  case h_11 => exact Nat.xor_lt_two_pow ha hb
  case h_13 =>
    unfold wrapInt
    have := Int.emod_lt_of_pos (sext n a / ((2 ^ (b % n) : Nat) : Int)) (b := (2 ^ n : Nat)) (by exact_mod_cast hpos)
    have := Int.emod_nonneg (sext n a / ((2 ^ (b % n) : Nat) : Int)) (b := (2 ^ n : Nat)) (by exact_mod_cast hpos.ne')
    omega
  case h_14 | h_15 | h_16 => exact truth _
  case h_17 => exact ha
  all_goals exact Nat.mod_lt _ hpos

theorem intWidth_bits {f : Fmt} {n : Nat} (h : f.intWidth = some n) : f.bits = n ∧ 0 < n ∧ f ≠ .a12 := by
  cases f <;> simp only [Fmt.intWidth, Option.some.injEq, reduceCtorEq] at h <;> subst h <;> decide

/-- The result of an element-wise operation fits its format. -/
theorem veElem_codeOk (op : Nat) {f : Fmt} {a b : Nat} (ha : a < 2 ^ f.bits) (hb : b < 2 ^ f.bits) (d : Nat) :
    f.codeOk (veElem op f a b d) := by
  unfold veElem
  split
  · next n hn =>
    obtain ⟨hbits, hpos, ha12⟩ := intWidth_bits hn
    rw [hbits] at ha hb
    exact ⟨by rw [hbits]; exact veInt_lt op hpos ha hb d, fun e => absurd e ha12⟩
  · unfold veFp
    dsimp only
    split <;> exact encode_codeOk f _

theorem veFp_result (op : Nat) (f : Fmt) (a b d : Val) : fpResult op f a b d (veFp op f a b d) := by
  refine ⟨?_, ?_, ?_, ?_, ?_, ?_, ?_, ?_, ?_, ?_, ?_, ?_, ?_, ?_⟩ <;> rintro rfl <;> rfl

end Sys2Proof.Machine

end

section

namespace Sys2Proof.Machine

/-! ### Rows and tiles that a vector word works on (R118, R126) -/

def veRows (opc i : Nat) : List Nat := if veIsRow opc then [i % 128] else List.range 128

theorem mem_veRows {opc i r : Nat} : r ∈ veRows opc i ↔ inRows opc i r := by
  unfold veRows inRows
  split
  · next h =>
    simp only [List.mem_singleton, h, forall_const]
    exact ⟨fun e => ⟨by omega, e⟩, fun e => e.2⟩
  · next h =>
    simp only [List.mem_range, h, Bool.false_eq_true, IsEmpty.forall_iff, and_true]

/-- Rows of one tile, every element of each written. -/
def rowsOut (f : Fmt) (td : Nat) (rows : List Nat) (val : Nat → Nat → Nat) : List TWrite :=
  rows.flatMap (fun r => rowWrites f (rowAddr td r) ((List.range f.perRow).map (fun j => (j, val r j))))

theorem codeAfter_rowsOut {f : Fmt} {rows : List Nat} {val : Nat → Nat → Nat} (hrows : ∀ r ∈ rows, r < 128) (src : Mem) (td : Nat)
    {r j : Nat} (hr : r ∈ rows) (hj : j < f.perRow) (hv : f.codeOk (val r j)) :
    codeAfter f src (rowsOut f td rows val) td r j = val r j := by
  refine codeAfter_written (t := fun _ => td) (r := id) hrows (fun x _ e he => ?_) src hr
    (List.mem_map.mpr ⟨j, List.mem_range.mpr hj, rfl⟩) (fun y _ _ hy u hu => ?_) hv.1 hv.2
  · obtain ⟨k, hk, rfl⟩ := List.mem_map.mp he
    exact List.mem_range.mp hk
  · obtain ⟨k, -, hk⟩ := List.mem_map.mp hu
    obtain ⟨rfl, rfl⟩ := Prod.mk.inj hk
    exact congrArg (fun r => val r k) hy

theorem writtenByte_rowsOut {f : Fmt} {rows : List Nat} {val : Nat → Nat → Nat} (hrows : ∀ r ∈ rows, r < 128) (td : Nat)
    {r k : Nat} (hr : r < 128) (hno : r ∉ rows) (hk : k < 256) (b : Byte) :
    writtenByte (rowsOut f td rows val) (rowAddr td r + k) b = b := by
  refine writtenByte_otherRow (t := fun _ => td) (r := id) hrows (fun x _ e he => ?_) hr hk (fun y hy _ e => hno (e ▸ hy)) b
  obtain ⟨j, hj, rfl⟩ := List.mem_map.mp he
  exact List.mem_range.mp hj

/-! ### What each vector word leaves (Table 4.9) -/

section Words

variable {opc i cin : Nat} {w : IWord} {f : Fmt} (src : Mem)

/-- No operation of the base codes below 0x40 is a COMPRESS or an EXPAND. -/
theorem veBase_lt_pack (h : veBase opc < 0x40) : ¬ (opc = 0x40 ∨ opc = 0x41) ∧ ¬ (opc = 0x42 ∨ opc = 0x43) := by
  unfold veBase at h
  split at h <;> omega

theorem veResult_elementwise (hruns : veRuns opc w = true) (hf : Fmt.ofCode w.opf.toNat = some f) (h1 : 0x20 ≤ veBase opc)
    (h2 : veBase opc ≤ 0x36) (h3 : veBase opc ≠ 0x2D) (h4 : veBase opc ≠ 0x2E) :
    (veResult opc w i src cin).out = rowsOut f (tileNo (opnd w 19 14) (opnd w 0 0 = 1) i) (veRows opc i) (fun r j =>
      veElem (veBase opc) f (elemCode f (rowRd src (rowAddr (tileNo (opnd w 13 8) (opnd w 0 0 = 1) i) r)) j)
        (if opnd w 1 1 = 1 then immCode f w else elemCode f (rowRd src (rowAddr (tileNo (opnd w 7 2) (opnd w 0 0 = 1) i) r)) j)
        (if veBase opc = 0x23 then elemCode f (rowRd src (rowAddr (tileNo (opnd w 19 14) (opnd w 0 0 = 1) i) r)) j else 0)) := by
  obtain ⟨h5, h6⟩ := veBase_lt_pack (opc := opc) (by omega)
  simp only [veResult, hruns, hf, Bool.not_true, Bool.false_eq_true, if_false, Option.getD_some, h3, h4, h5, h6,
    show ¬ veBase opc = 0x37 by omega, show ¬ (0x38 ≤ veBase opc ∧ veBase opc ≤ 0x3A) by omega,
    show ¬ (0x3B ≤ veBase opc ∧ veBase opc ≤ 0x3D) by omega]
  rfl

theorem veResult_mov (hruns : veRuns opc w = true) (hf : Fmt.ofCode w.opf.toNat = some f) (h : veBase opc = 0x2D) :
    (veResult opc w i src cin).out = (veRows opc i).flatMap (fun r => moveRow f src
      (rowAddr (tileNo (opnd w 13 8) (opnd w 0 0 = 1) i) r) (rowAddr (tileNo (opnd w 19 14) (opnd w 0 0 = 1) i) r)) := by
  simp only [veResult, hruns, hf, Bool.not_true, Bool.false_eq_true, if_false, Option.getD_some, h, if_true]
  rfl

theorem veResult_sel (hruns : veRuns opc w = true) (hf : Fmt.ofCode w.opf.toNat = some f) (h : veBase opc = 0x2E) :
    (veResult opc w i src cin).out = (veRows opc i).flatMap (fun r => selRow f w src
      (rowAddr (tileNo (opnd w 13 8) (opnd w 0 0 = 1) i) r) (rowAddr (tileNo (opnd w 7 2) (opnd w 0 0 = 1) i) r)
      (rowAddr (tileNo (opnd w 19 14) (opnd w 0 0 = 1) i) r) (opnd w 1 1 = 1)) := by
  simp only [veResult, hruns, hf, Bool.not_true, Bool.false_eq_true, if_false, Option.getD_some, h, if_true,
    show ¬ (0x2E = 0x2D) by decide]
  rfl

theorem veResult_cvt {g : Fmt} (hruns : veRuns opc w = true) (hf : Fmt.ofCode w.opf.toNat = some f) (h : veBase opc = 0x37)
    (hg : Fmt.ofCode (opnd w 7 4) = some g) :
    (veResult opc w i src cin).out = (veRows opc i).flatMap (fun r => cvtRow f g (opnd w 3 2) src
      (tileNo (opnd w 13 8) (opnd w 0 0 = 1) i) (tileNo (opnd w 19 14) (opnd w 0 0 = 1) i) r) := by
  simp only [veResult, hruns, hf, Bool.not_true, Bool.false_eq_true, if_false, Option.getD_some, h, if_true, cvtTarget, hg,
    show ¬ (0x37 = 0x2D) by decide, show ¬ (0x37 = 0x2E) by decide]
  rfl

theorem veResult_redr (hruns : veRuns opc w = true) (hf : Fmt.ofCode w.opf.toNat = some f) (h1 : 0x38 ≤ veBase opc)
    (h2 : veBase opc ≤ 0x3A) :
    (veResult opc w i src cin).out = rowsOut f (tileNo (opnd w 19 14) (opnd w 0 0 = 1) i) (veRows opc i) (fun r _ =>
      treeReduce (veBase opc - 0x38) f (rowVals f src (rowAddr (tileNo (opnd w 13 8) (opnd w 0 0 = 1) i) r))) := by
  simp only [veResult, hruns, hf, Bool.not_true, Bool.false_eq_true, if_false, Option.getD_some,
    show ¬ veBase opc = 0x2D by omega, show ¬ veBase opc = 0x2E by omega, show ¬ veBase opc = 0x37 by omega, h1, h2, and_self,
    if_true]
  rfl

theorem veResult_redc (hruns : veRuns opc w = true) (hf : Fmt.ofCode w.opf.toNat = some f) (h1 : 0x3B ≤ veBase opc)
    (h2 : veBase opc ≤ 0x3D) :
    (veResult opc w i src cin).out = rowsOut f (tileNo (opnd w 19 14) (opnd w 0 0 = 1) i) (veRows opc i) (fun _ j =>
      ((List.range f.perRow).map (fun c => treeReduce (veBase opc - 0x3B) f (((veRows opc i).map (fun r =>
        rowVals f src (rowAddr (tileNo (opnd w 13 8) (opnd w 0 0 = 1) i) r))).map (fun x => x.getD c vzero)))).getD j 0) := by
  simp only [veResult, hruns, hf, Bool.not_true, Bool.false_eq_true, if_false, Option.getD_some,
    show ¬ veBase opc = 0x2D by omega, show ¬ veBase opc = 0x2E by omega, show ¬ veBase opc = 0x37 by omega,
    show ¬ (0x38 ≤ veBase opc ∧ veBase opc ≤ 0x3A) by omega, h1, h2, and_self, if_true]
  rfl

theorem veBase_pack (h : 0x40 ≤ opc) (h' : opc ≤ 0x43) : veBase opc = opc := if_neg (by omega)

theorem veResult_compress (hruns : veRuns opc w = true) (hf : Fmt.ofCode w.opf.toNat = some f) (h : opc = 0x40 ∨ opc = 0x41) :
    let sel := maskRows src (rowAddr (opnd w 7 2) (i % 128))
    let p := if opc = 0x41 then cin else 0
    veResult opc w i src cin =
      { out := (List.range sel.length).flatMap (fun k => moveRow f src
          (rowAddr (tileNo (opnd w 13 8) (opnd w 0 0 = 1) i) (sel.getD k 0))
          (posAddr (tileNo (opnd w 19 14) (opnd w 0 0 = 1) i) (p + k)))
        counts := compressCounts w (p + sel.length) (opc = 0x40 || !sel.isEmpty) } := by
  have hb : veBase opc = opc := veBase_pack (by omega) (by omega)
  simp only [veResult, hruns, hf, Bool.not_true, Bool.false_eq_true, if_false, Option.getD_some, hb,
    show ¬ opc = 0x2D by omega, show ¬ opc = 0x2E by omega, show ¬ opc = 0x37 by omega,
    show ¬ (0x38 ≤ opc ∧ opc ≤ 0x3A) by omega, show ¬ (0x3B ≤ opc ∧ opc ≤ 0x3D) by omega, h, if_true]

theorem veResult_expand (hruns : veRuns opc w = true) (hf : Fmt.ofCode w.opf.toNat = some f) (h : opc = 0x42 ∨ opc = 0x43) :
    let sel := maskRows src (rowAddr (opnd w 7 2) (i % 128))
    veResult opc w i src cin =
      { out := (List.range sel.length).flatMap (fun k => moveRow f src
          (posAddr (tileNo (opnd w 13 8) (opnd w 0 0 = 1) i) (cin + k))
          (rowAddr (tileNo (opnd w 19 14) (opnd w 0 0 = 1) i) (sel.getD k 0)))
        counts := if opc = 0x43 ∧ !sel.isEmpty then [(immf w 5 0, satCount (cin + sel.length))] else [] } := by
  have hb : veBase opc = opc := veBase_pack (by omega) (by omega)
  simp only [veResult, hruns, hf, Bool.not_true, Bool.false_eq_true, if_false, Option.getD_some, hb,
    show ¬ opc = 0x2D by omega, show ¬ opc = 0x2E by omega, show ¬ opc = 0x37 by omega,
    show ¬ (0x38 ≤ opc ∧ opc ≤ 0x3A) by omega, show ¬ (0x3B ≤ opc ∧ opc ≤ 0x3D) by omega,
    show ¬ (opc = 0x40 ∨ opc = 0x41) by omega, h, if_true]

/-! ### Element-wise operations -/

/-- The destination is a source of VFMA alone. -/
theorem veElem_acc {op : Nat} (h : op ≠ 0x23) (f : Fmt) (a b d d' : Nat) : veElem op f a b d = veElem op f a b d' := by
  unfold veElem veInt veFp
  split
  · split
    case h_4 => exact absurd rfl h
    all_goals rfl
  · dsimp only
    split
    case h_4 => exact absurd rfl h
    all_goals rfl

theorem veElem_result (op : Nat) {f : Fmt} {a b : Nat} (ha : a < 2 ^ f.bits) (hb : b < 2 ^ f.bits) (d : Nat) :
    (∀ n, f.intWidth = some n → intResult op n a b d (veElem op f a b d))
      ∧ (f.intWidth = none → fpResult op f (decode f a) (decode f b) (decode f d) (veElem op f a b d)) := by
  constructor
  · intro n hn
    obtain ⟨hbits, hpos, -⟩ := intWidth_bits hn
    rw [hbits] at ha hb
    simp only [veElem, hn]
    exact veInt_result op hpos ha hb d
  · intro hn
    simp only [veElem, hn]
    exact veFp_result ..

theorem veElementwise_holds (hruns : veRuns opc w = true) (hf : Fmt.ofCode w.opf.toNat = some f) :
    veElementwise src opc i w f (veResult opc w i src cin) := by
  unfold veElementwise
  intro ix op td a b d h1 h2 h3 h4
  rw [veResult_elementwise src hruns hf h1 h2 h3 h4]
  have rows : ∀ r ∈ veRows opc i, r < 128 := fun r hr => (mem_veRows.mp hr).1
  constructor
  · intro r j hr hj
    have ha : f.codeOk (a r j) := elemCode_codeOk ..
    have hb : f.codeOk (b r j) := by
      dsimp only [b]
      split
      · exact immCode_codeOk f w
      · exact elemCode_codeOk ..
    have acc : veElem op f (a r j) (b r j) (if op = 0x23 then d r j else 0) = veElem op f (a r j) (b r j) (d r j) := by
      split
      · rfl
      · next h => exact veElem_acc h ..
    have code := codeAfter_rowsOut (val := fun r j => veElem op f (a r j) (b r j) (if op = 0x23 then d r j else 0)) rows src td
      (mem_veRows.mpr hr) hj (veElem_codeOk op ha.1 hb.1 _)
    rw [show codeAfter f src _ td r j = _ from code.trans acc]
    exact veElem_result op ha.1 hb.1 _
  · intro r k hr hk hrow hne
    exact writtenByte_rowsOut rows td hr (fun hmem => hne ((mem_veRows.mp hmem).2 hrow)) hk _

/-! ### Reductions (R172 to R174) -/

theorem treeReduce_codeOk (op : Nat) (f : Fmt) (vs : List Val) : f.codeOk (treeReduce op f vs) := by
  unfold treeReduce
  split
  · split <;> exact encode_codeOk ..
  · exact encode_codeOk ..
  · exact encode_codeOk ..

theorem getD_map_range {α : Type} (g : Nat → α) {n j : Nat} (h : j < n) (d : α) : ((List.range n).map g).getD j d = g j := by
  rw [List.getD_eq_getElem?_getD, List.getElem?_map, List.getElem?_range h]
  rfl

theorem veReduces_holds (hruns : veRuns opc w = true) (hf : Fmt.ofCode w.opf.toNat = some f) :
    veReduces src opc i w f (veResult opc w i src cin) := by
  unfold veReduces
  intro ix op td vals r j hr hj
  have rows : ∀ r ∈ veRows opc i, r < 128 := fun r hr => (mem_veRows.mp hr).1
  constructor
  · intro h1 h2
    rw [veResult_redr src hruns hf h1 h2]
    exact codeAfter_rowsOut rows src td (mem_veRows.mpr hr) hj (treeReduce_codeOk ..)
  · intro h1 h2 hrow
    have all : veRows opc i = List.range 128 := by simp [veRows, hrow]
    rw [veResult_redc src hruns hf h1 h2]
    have col := getD_map_range (fun c => treeReduce (op - 0x3B) f (((veRows opc i).map vals).map (fun x => x.getD c vzero))) hj 0
    refine (codeAfter_rowsOut rows src td (mem_veRows.mpr hr) hj ?_).trans ?_
    · exact col ▸ treeReduce_codeOk ..
    · refine col.trans ?_
      rw [List.map_map, all]
      rfl

end Words

end Sys2Proof.Machine

end

section

namespace Sys2Proof.Machine

/-! ### Moves, selections and conversions (R139, R142, R170, R490) -/

theorem Fmt.rowBytes_le (f : Fmt) : f.rowBytes ≤ 256 := by cases f <;> decide

/-- A move carries the bits of each byte that its format uses. -/
theorem mem_moveRow {f : Fmt} {src : Mem} {a dst : Nat} {w : TWrite} :
    w ∈ moveRow f src a dst ↔ ∃ k, k < f.rowBytes ∧ w = ⟨dst + k, 0xFF, mget src (a + k) &&& carriedBits f k⟩ := by
  have carried : ∀ (b : Byte) (k : Nat), (if f = .a12 ∧ k % 2 = 1 then b &&& 0x0F else if f = .zb8 ∧ k = 255 then 0 else b)
      = b &&& carriedBits f k := by
    intro b k
    unfold carriedBits
    by_cases h1 : f = .a12 ∧ k % 2 = 1
    · rw [if_pos h1, if_neg (by rw [h1.1]; exact fun h => nomatch h.1), if_pos h1]
    · rw [if_neg h1]
      by_cases h2 : f = .zb8 ∧ k = 255
      · rw [if_pos h2, if_pos h2]
        exact (BitVec.and_zero).symm
      · rw [if_neg h2, if_neg h2, if_neg h1]
        exact (BitVec.and_allOnes).symm
  simp only [moveRow, carried, List.mem_map, List.mem_range, eq_comm (a := w)]

/-- A byte of a row that moved rows alone write. -/
theorem writtenByte_moved {α : Type} {f : Fmt} {src : Mem} {xs : List α} {a t r : α → Nat} (hr : ∀ x ∈ xs, r x < 128) {x : α}
    (hx : x ∈ xs) (huniq : ∀ y ∈ xs, t y % 48 = t x % 48 → r y = r x → a y = a x) {k : Nat} (hk : k < f.rowBytes) (b : Byte) :
    writtenByte (xs.flatMap (fun x => moveRow f src (a x) (rowAddr (t x) (r x)))) (rowAddr (t x) (r x) + k) b
      = mget src (a x + k) &&& carriedBits f k := by
  have fits := f.rowBytes_le
  refine writtenByte_whole ⟨⟨rowAddr (t x) (r x) + k, 0xFF, mget src (a x + k) &&& carriedBits f k⟩,
    List.mem_flatMap.mpr ⟨x, hx, mem_moveRow.mpr ⟨k, hk, rfl⟩⟩, rfl⟩ (fun w hw haddr => ?_) b
  obtain ⟨y, hy, hw⟩ := List.mem_flatMap.mp hw
  obtain ⟨k', hk', rfl⟩ := mem_moveRow.mp hw
  dsimp only at haddr ⊢
  obtain ⟨ht, hrow, hkk⟩ := rowAddr_inj (x := 8 * k') (x' := 8 * k) (hr y hy) (hr x hx) (by omega) (by omega)
    (show 8 * rowAddr (t y) (r y) + 8 * k' = 8 * rowAddr (t x) (r x) + 8 * k by omega)
  obtain rfl : k' = k := by omega
  exact ⟨rfl, by rw [huniq y hy ht hrow]⟩

theorem Fmt.perRow_pos (f : Fmt) : 0 < f.perRow := by cases f <;> decide

/-- The elements that a conversion writes, row by row: the m-th of its share goes to the m-th place of the target rows. -/
theorem cvtRows_eq (f g : Fmt) (p : Nat) (src : Mem) (ta td : Nat) (rows : List Nat) :
    rows.flatMap (cvtRow f g p src ta td)
      = (rows.product ((List.range (min f.perRow (2 * g.perRow))).filter
          (fun m => p * min f.perRow (2 * g.perRow) + m < f.perRow))).flatMap (fun x =>
        rowWrites g (rowAddr (td + x.2 / g.perRow) x.1) [(x.2 % g.perRow, encode g (decode f
          (elemCode f (rowRd src (rowAddr ta x.1)) (p * min f.perRow (2 * g.perRow) + x.2))))]) := by
  rw [List.product, List.flatMap_assoc]
  simp only [List.flatMap_map]
  rfl

section Words

variable {opc i cin : Nat} {w : IWord} {f : Fmt} (src : Mem)

theorem codeAfter_selRow (hf : f ≠ .zb8) {rows : List Nat} (hrows : ∀ r ∈ rows, r < 128) (ta tb td : Nat) (si : Bool) {r j : Nat}
    (hr : r ∈ rows) (hj : j < f.perRow) :
    codeAfter f src (rows.flatMap (fun r => selRow f w src (rowAddr ta r) (rowAddr tb r) (rowAddr td r) si)) td r j
      = if isZero (decode f (if si then immCode f w else elemCode f (rowRd src (rowAddr tb r)) j))
        then elemCode f (rowRd src (rowAddr td r)) j else elemCode f (rowRd src (rowAddr ta r)) j := by
  have mem : ∀ r j, j ∈ selected f w src (rowAddr tb r) si ↔ j < f.perRow
      ∧ isZero (decode f (if si then immCode f w else elemCode f (rowRd src (rowAddr tb r)) j)) = false := by
    intro r j
    simp only [selected, hf, if_false, List.mem_filter, List.mem_range, Bool.not_eq_true']
  have out : (fun r => selRow f w src (rowAddr ta r) (rowAddr tb r) (rowAddr td r) si)
      = fun r => rowWrites f (rowAddr td (id r)) ((selected f w src (rowAddr tb r) si).map
        (fun j => (j, elemCode f (rowRd src (rowAddr ta r)) j))) := by
    funext r
    simp only [selRow, hf, if_false, id]
  have bound : ∀ x ∈ rows, ∀ e ∈ (selected f w src (rowAddr tb x) si).map
      (fun j => (j, elemCode f (rowRd src (rowAddr ta x)) j)), e.1 < f.perRow := by
    intro x _ e he
    obtain ⟨k, hk, rfl⟩ := List.mem_map.mp he
    exact ((mem x k).mp hk).1
  rw [out]
  by_cases hz : isZero (decode f (if si then immCode f w else elemCode f (rowRd src (rowAddr tb r)) j)) = true
  · rw [if_pos hz]
    refine codeAfter_kept (t := fun _ => td) hrows bound src (hrows r hr) hj fun y _ _ hy u hu => ?_
    obtain ⟨k, hk, e⟩ := List.mem_map.mp hu
    obtain ⟨rfl, -⟩ := Prod.mk.inj e
    obtain rfl : y = r := hy
    exact absurd hz (by rw [((mem y k).mp hk).2]; decide)
  · rw [if_neg hz]
    refine codeAfter_written (t := fun _ => td) (x := r) hrows bound src hr
      (List.mem_map.mpr ⟨j, (mem r j).mpr ⟨hj, Bool.eq_false_of_not_eq_true hz⟩, rfl⟩) (fun y _ _ hy u hu => ?_)
      (elemCode_codeOk ..).1 (elemCode_codeOk ..).2
    obtain ⟨k, -, e⟩ := List.mem_map.mp hu
    obtain ⟨rfl, rfl⟩ := Prod.mk.inj e
    obtain rfl : y = r := hy
    rfl

theorem codeAfter_cvtRows (f g : Fmt) (p ta td : Nat) {rows : List Nat} (hrows : ∀ r ∈ rows, r < 128) {r m : Nat} (hr : r ∈ rows)
    (hm : m < min f.perRow (2 * g.perRow)) (hp : p * min f.perRow (2 * g.perRow) + m < f.perRow) :
    codeAfter g src (rows.flatMap (cvtRow f g p src ta td)) (td + m / g.perRow) r (m % g.perRow)
      = encode g (decode f (elemCode f (rowRd src (rowAddr ta r)) (p * min f.perRow (2 * g.perRow) + m))) := by
  rw [cvtRows_eq]
  have hpos := g.perRow_pos
  have half : ∀ m, m < min f.perRow (2 * g.perRow) → m / g.perRow < 2 := fun m hm =>
    Nat.div_lt_of_lt_mul (by rw [Nat.mul_comm]; omega)
  have mem : ∀ x ∈ rows.product ((List.range (min f.perRow (2 * g.perRow))).filter
      (fun m => p * min f.perRow (2 * g.perRow) + m < f.perRow)), x.1 ∈ rows ∧ x.2 < min f.perRow (2 * g.perRow) := by
    intro x hx
    obtain ⟨h1, h2⟩ := List.mem_product.mp hx
    exact ⟨h1, List.mem_range.mp (List.mem_filter.mp h2).1⟩
  refine codeAfter_written (t := fun x : Nat × Nat => td + x.2 / g.perRow) (r := Prod.fst) (x := (r, m))
    (fun x hx => hrows _ (mem x hx).1) (fun x _ e he => ?_) src ?_ (List.mem_singleton_self _) (fun y hy ht hrow u hu => ?_)
    (encode_codeOk ..).1 (encode_codeOk ..).2
  · rw [List.mem_singleton.mp he]
    exact Nat.mod_lt _ hpos
  · exact List.mem_product.mpr ⟨hr, List.mem_filter.mpr ⟨List.mem_range.mpr hm, by simpa using hp⟩⟩
  · obtain ⟨r', m'⟩ := y
    obtain ⟨hmod, hu⟩ := Prod.mk.inj (List.mem_singleton.mp hu)
    have two : ∀ q' q, q' < 2 → q < 2 → (td + q') % 48 = (td + q) % 48 → q' = q := by omega
    have hdiv : m' / g.perRow = m / g.perRow := two _ _ (half m' (mem _ hy).2) (half m hm) ht
    have hmm : m' = m := by
      rw [← Nat.div_add_mod m' g.perRow, ← Nat.div_add_mod m g.perRow, hdiv]
      exact congrArg _ hmod.symm
    dsimp only at hrow
    rw [hu, hrow, hmm]

theorem veMoves_holds (hruns : veRuns opc w = true) (hf : Fmt.ofCode w.opf.toNat = some f) :
    veMoves src opc i w f (veResult opc w i src cin) := by
  unfold veMoves
  intro ix op td ta a b
  have rows : ∀ r ∈ veRows opc i, r < 128 := fun r hr => (mem_veRows.mp hr).1
  refine ⟨fun h r k hr hk => ?_, fun h hzb r j hr hj => ?_, fun g h hg => ?_⟩
  · rw [veResult_mov src hruns hf h]
    exact writtenByte_moved (t := fun _ => td) (r := id) rows (mem_veRows.mpr hr) (fun y _ _ hy => by rw [show y = r from hy]) hk _
  · rw [veResult_sel src hruns hf h, codeAfter_selRow src hzb rows _ _ _ _ (mem_veRows.mpr hr) hj]
    simp only [decide_eq_true_eq]
    rfl
  · intro n r m hr hm hlt
    rw [veResult_cvt src hruns hf h hg]
    exact codeAfter_cvtRows src f g _ ta td rows (mem_veRows.mpr hr) hm hlt

/-! ### COMPRESS and EXPAND (R182 to R185) -/

theorem maskRows_spec (b : Nat) : (∀ r ∈ maskRows src b, r < 128) ∧ (maskRows src b).Nodup ∧ (maskRows src b).length ≤ 128 := by
  refine ⟨fun r hr => List.mem_range.mp (List.mem_filter.mp hr).1, List.Nodup.filter _ List.nodup_range, ?_⟩
  exact (List.length_filter_le _ _).trans (by rw [List.length_range])

theorem getD_mem {l : List Nat} {k : Nat} (h : k < l.length) : l.getD k 0 ∈ l := by
  rw [List.getD_eq_getElem _ _ h]
  exact List.getElem_mem h

theorem getD_inj {l : List Nat} (hl : l.Nodup) {k k' : Nat} (h : k < l.length) (h' : k' < l.length) (e : l.getD k 0 = l.getD k' 0) :
    k = k' := by
  rw [List.getD_eq_getElem _ _ h, List.getD_eq_getElem _ _ h'] at e
  exact (hl.getElem_inj_iff).mp e

theorem vePacks_holds (hruns : veRuns opc w = true) (hf : Fmt.ofCode w.opf.toNat = some f) :
    vePacks src opc i cin w f (veResult opc w i src cin) := by
  unfold vePacks
  intro ix td ta sel p
  obtain ⟨below, nodup, hlen⟩ := maskRows_spec src (rowAddr (opnd w 7 2) (i % 128))
  change (∀ r ∈ sel, r < 128) at below
  change sel.Nodup at nodup
  change sel.length ≤ 128 at hlen
  constructor
  · intro h
    have result : veResult opc w i src cin = {
        out := (List.range sel.length).flatMap (fun k => moveRow f src (rowAddr ta (sel.getD k 0)) (posAddr td (p + k)))
        counts := compressCounts w (p + sel.length) (opc = 0x40 || !sel.isEmpty) } := by
      have start : (if opc = 0x41 then cin else 0) = p := by
        dsimp only [p]
        rcases h with rfl | rfl <;> rfl
      rw [veResult_compress src hruns hf h, start]
      rfl
    rw [result]
    refine ⟨fun q k hq hk => ?_, fun hsome => ?_, fun hne => ?_⟩
    · exact writtenByte_moved (a := fun k => rowAddr ta (sel.getD k 0)) (t := fun k => td + (p + k) / 128)
        (r := fun k => (p + k) % 128) (fun x _ => Nat.mod_lt _ (by decide)) (List.mem_range.mpr hq) (fun y hy _ hmod => by
          have hy := List.mem_range.mp hy
          rw [show y = q by omega]) hk _
    · have total : (decide (opc = 0x40) || !sel.isEmpty) = true := by
        simpa [List.isEmpty_iff] using hsome
      simp only [compressCounts, total, if_true]
      exact List.mem_append_left _ (List.mem_singleton_self _)
    · simp only [compressCounts, if_neg (Ne.symm hne)]
      exact List.mem_append_right _ (List.mem_singleton_self _)
  · intro h
    rw [veResult_expand src hruns hf h]
    refine ⟨fun q k hq hk => ?_, ?_⟩
    · exact writtenByte_moved (a := fun k => posAddr ta (cin + k)) (t := fun _ => td) (r := fun k => sel.getD k 0)
        (fun x hx => below _ (getD_mem (List.mem_range.mp hx))) (List.mem_range.mpr hq) (fun y hy _ hrow => by
          rw [getD_inj nodup (List.mem_range.mp hy) hq hrow]) hk _
    · change (if opc = 0x43 ∧ (!sel.isEmpty) = true then _ else _) = _
      have some_iff : (opc = 0x43 ∧ (!sel.isEmpty) = true) ↔ (opc = 0x43 ∧ sel ≠ []) := by simp
      simp only [some_iff]
      rfl

end Words

end Sys2Proof.Machine

end

section

namespace Sys2Proof.Machine

/-! ### What the reduction unit leaves (Table 4.10, R177 to R179) -/

theorem chainReduce_codeOk (op : Nat) (f : Fmt) (vs : List Val) : f.codeOk (chainReduce op f vs) := by
  unfold chainReduce
  split
  · split <;> exact encode_codeOk ..
  · exact encode_codeOk ..
  · exact encode_codeOk ..

theorem ruComputes_holds {opc i : Nat} {w : IWord} {f : Fmt} (src : Mem) (hruns : ruRuns opc w = true)
    (hf : Fmt.ofCode w.opf.toNat = some f) : ruComputes src opc i w f (ruResult opc w i src) := by
  unfold ruComputes
  intro ix td n row nums
  have all : ∀ r ∈ List.range 128, r < 128 := fun r hr => List.mem_range.mp hr
  constructor
  · intro hop r j hr hj
    have whole : ¬ opc ≥ 0x54 := by omega
    by_cases hcol : opnd w 1 1 = 0
    · have out : (ruResult opc w i src).out = rowsOut f td (List.range 128) (fun r _ =>
          chainReduce (opc - 0x50) f ((List.range n).flatMap (fun k => row (128 * k + r)))) := by
        simp only [ruResult, hruns, hf, Bool.not_true, Bool.false_eq_true, if_false, Option.getD_some, whole, hcol, if_true]
        rfl
      rw [out, if_pos hcol]
      exact codeAfter_rowsOut all src td (List.mem_range.mpr hr) hj (chainReduce_codeOk ..)
    · have out : (ruResult opc w i src).out = rowsOut f td (List.range 128) (fun _ j => ((List.range f.perRow).map (fun c =>
          chainReduce (opc - 0x50) f (((List.range (128 * n)).map row).map (fun x => x.getD c vzero)))).getD j 0) := by
        simp only [ruResult, hruns, hf, Bool.not_true, Bool.false_eq_true, if_false, Option.getD_some, whole, hcol]
        rfl
      have col := getD_map_range (fun c => chainReduce (opc - 0x50) f
        (((List.range (128 * n)).map row).map (fun x => x.getD c vzero))) hj 0
      rw [out, if_neg hcol]
      refine (codeAfter_rowsOut all src td (List.mem_range.mpr hr) hj (col ▸ chainReduce_codeOk ..)).trans (col.trans ?_)
      rw [List.map_map]
      rfl
  · intro hop
    have numbers : (List.range (128 * n)).map (fun q => elemCode .int16
        (rowRd src (rowAddr (tileNo (opnd w 7 2) ix i) 0 + 256 * (q / 128))) (q % 128)) = nums := by
      have row0 : ∀ q, rowAddr (tileNo (opnd w 7 2) ix i) 0 + 256 * (q / 128) = rowAddr (tileNo (opnd w 7 2) ix i) (q / 128) :=
        fun q => by simp only [rowAddr, Nat.mul_zero, Nat.add_zero]
      simp only [row0]
      rfl
    have result : ruResult opc w i src = {
        out := rowsOut f td (List.range (min 128 (segments nums).length)) (fun k c =>
          chainReduce (opc - 0x54) f ((((segments nums).getD k []).map row).map (fun x => x.getD c vzero)))
        counts := [(immf w 13 8, (segments nums).length)] } := by
      rw [← numbers]
      simp only [ruResult, hruns, hf, Bool.not_true, Bool.false_eq_true, if_false, Option.getD_some, ge_iff_le, hop, if_true]
      rfl
    rw [result]
    refine ⟨rfl, fun k j hk hseg hj => ?_⟩
    refine (codeAfter_rowsOut (fun r hr => by have := List.mem_range.mp hr; omega) src td
      (List.mem_range.mpr (by omega)) hj (chainReduce_codeOk ..)).trans ?_
    rw [List.map_map]
    rfl

end Sys2Proof.Machine

end

section

namespace Sys2Proof.Machine

/-! ### Banks (R147 to R155, R163) -/

theorem sget_tabulated {α : Type} [DecidableEq α] (d : α) (f : Nat → α) (l : List Nat) (k : Nat) :
    sget d (l.filterMap (fun k => let v := f k; if v = d then none else some (k, v))) k = if k ∈ l then f k else d := by
  induction l with
  | nil => rfl
  | cons a l ih =>
    rw [List.filterMap_cons]
    by_cases h : f a = d
    · simp only [h, if_true, ih, List.mem_cons]
      by_cases hk : k = a
      · subst hk
        simp [h]
      · simp [hk]
    · simp only [h, if_false, sget, ih, List.mem_cons, eq_comm (a := a)]
      by_cases hk : k = a
      · simp [hk]
      · simp [hk]

theorem Bank.at_map (b : Bank) (kind : BankKind) (g : Nat → Nat → Acc → Acc) {r q : Nat} (hr : r < 128) (hq : q < 128) :
    (b.map kind g).at_ r q = g r q (b.at_ r q) := by
  have hk : 128 * r + q < 16384 := by omega
  have h1 : (128 * r + q) / 128 = r := by omega
  have h2 : (128 * r + q) % 128 = q := by omega
  simp only [Bank.at_, Bank.map, stab, sget_tabulated, List.mem_range, hk, if_true, h1, h2]

theorem Bank.map_anchor (b : Bank) (kind : BankKind) (g : Nat → Nat → Acc → Acc) : (b.map kind g).anchor = b.anchor := by
  simp only [Bank.map]

theorem Bank.at_zero (b : Bank) (r q : Nat) : b.zero.at_ r q = {} := rfl

/-- A product of two integers, into an exact element. -/
theorem accExact_ofInt (a : Acc) (x y : Int) :
    accExact a (vmul (ofInt x) (ofInt y)) = { a with field := a.field + BitVec.ofInt 120 (x * y * 2 ^ 48) } := by
  have value : fixedAt (-48) (decide (x < 0) != decide (y < 0)) (x.natAbs * y.natAbs) (0 + 0) = x * y * 2 ^ 48 := by
    have hx : (x.natAbs : Int) = if x < 0 then -x else x := by split <;> omega
    have hy : (y.natAbs : Int) = if y < 0 then -y else y := by split <;> omega
    have h48 : ((0 + 0 : Int) - -48).toNat = 48 := rfl
    rw [fixedAt, signed, h48]
    push_cast [hx, hy]
    by_cases h1 : x < 0 <;> by_cases h2 : y < 0 <;> simp [h1, h2]
  simp only [accExact, vmul, ofInt, value]

theorem foldl_accExact_ofInt (x y : Nat → Int) (l : List Nat) (a : Acc) :
    (l.map (fun k => vmul (ofInt (x k)) (ofInt (y k)))).foldl accExact a
      = { a with field := a.field + BitVec.ofInt 120 ((l.map (fun k => x k * y k)).sum * 2 ^ 48) } := by
  induction l generalizing a with
  | nil => simp
  | cons k l ih =>
    rw [List.map_cons, List.foldl_cons, accExact_ofInt, ih, List.map_cons, List.sum_cons, Int.add_mul, BitVec.ofInt_add,
      BitVec.add_assoc]

theorem elemCode_int8 (rd : Nat → Byte) (k : Nat) : elemCode .int8 rd k = (rd k).toNat := by
  have code : bitsAt rd (k * Fmt.int8.bits) Fmt.int8.bits = (rd k).toNat := by
    apply Nat.eq_of_testBit_eq
    intro i
    rw [testBit_bitsAt]
    change (decide (i < 8) && (rd ((k * 8 + i) / 8)).getLsbD ((k * 8 + i) % 8)) = (rd k).getLsbD i
    by_cases hi : i < 8
    · rw [show (k * 8 + i) / 8 = k by omega, show (k * 8 + i) % 8 = i by omega]
      simp [hi]
    · rw [BitVec.getLsbD_of_ge (rd k) i (by omega)]
      simp [hi]
  rw [elemCode, code]
  rfl

theorem rowVals_int8 (src : Mem) (base : Nat) :
    rowVals .int8 src base = (List.range 256).map (fun k => ofInt (sext 8 (mget src (base + k)).toNat)) := by
  refine List.map_congr_left fun k _ => ?_
  change decode .int8 (elemCode .int8 (rowRd src base) k) = _
  rw [elemCode_int8]
  rfl

theorem mmaBank_anchor (f : Fmt) (src : Mem) (ta tb : Nat) (b : Bank) : (mmaBank f src ta tb b).anchor = b.anchor := by
  unfold mmaBank
  split <;> exact Bank.map_anchor ..

/-- What an MMA adds to element (r, q) of the bank it finds, in the kind its format sets. -/
theorem mmaBank_at (f : Fmt) (src : Mem) (ta tb : Nat) (b : Bank) {r q : Nat} (hr : r < 128) (hq : q < 128) :
    let b' := mmaBank f src ta tb b
    (f = .int8 → b'.kind = .exact ∧ (b'.at_ r q).field = (b.at_ r q).field
        + BitVec.ofInt 120 (((List.range 256).map (fun k => sext 8 (mget src (rowAddr ta r + k)).toNat
            * sext 8 (mget src (rowAddr tb q + k)).toNat)).sum * 2 ^ 48))
    ∧ (f = .bf16 → b'.kind = .float ∧ (b'.at_ r q).field.toNat = encode .fp32
        (vadd (b.at_ r q).f32 (bf16Sum (rowVals f src (rowAddr ta r)) (rowVals f src (rowAddr tb q)))))
    ∧ (f = .fp32 → b'.kind = .float ∧ (b'.at_ r q).field.toNat = encode .fp32
        (vadd (b.at_ r q).f32 (fp32Sum (rowCodes f src (rowAddr ta r)) (rowCodes f src (rowAddr tb q)))))
    ∧ (f ≠ .bf16 → f ≠ .fp32 → b'.at_ r q = (List.zipWith vmul
        (rowVals f src (rowAddr ta r)) (rowVals f src (rowAddr tb q))).foldl accExact (b.at_ r q)) := by
  have float : ∀ (a : Acc) (v : Val), (a.setF32 v).field.toNat = encode .fp32 v := fun a v => by
    have := encode_lt .fp32 v
    exact (BitVec.toNat_ofNat ..).trans (Nat.mod_eq_of_lt (this.trans (by decide)))
  have exact_ : f ≠ .bf16 → f ≠ .fp32 → mmaBank f src ta tb b = b.map .exact (fun r c a =>
      (List.zipWith vmul (((List.range 128).map (fun r => rowVals f src (rowAddr ta r))).getD r [])
        (((List.range 128).map (fun r => rowVals f src (rowAddr tb r))).getD c [])).foldl accExact a) := by
    intro h1 h2
    unfold mmaBank
    split
    · exact absurd rfl h1
    · exact absurd rfl h2
    · rfl
  refine ⟨fun h => ?_, fun h => ?_, fun h => ?_, fun h1 h2 => ?_⟩
  · subst h
    rw [exact_ (by decide) (by decide)]
    refine ⟨rfl, ?_⟩
    rw [Bank.at_map _ _ _ hr hq, getD_map_range _ hr, getD_map_range _ hq, rowVals_int8, rowVals_int8, List.zipWith_map,
      List.zipWith_self, foldl_accExact_ofInt]
  · subst h
    refine ⟨rfl, ?_⟩
    unfold mmaBank
    dsimp only
    rw [Bank.at_map _ _ _ hr hq, float, getD_map_range _ hr, getD_map_range _ hq]
  · subst h
    refine ⟨rfl, ?_⟩
    unfold mmaBank
    dsimp only
    rw [Bank.at_map _ _ _ hr hq, float, getD_map_range _ hr, getD_map_range _ hq]
  · rw [exact_ h1 h2, Bank.at_map _ _ _ hr hq, getD_map_range _ hr, getD_map_range _ hq]

theorem mmaxBank_kind (f : Fmt) (src : Mem) (ta tb ts : Nat) (b : Bank) :
    (mmaxBank f src ta tb ts b).1.kind = .anchored ∧ (mmaxBank f src ta tb ts b).1.anchor = b.anchor := by
  simp only [mmaxBank, Bank.map, and_self]

/-- What an MMAX leaves of element (r, q): the terms of the two rows, one at a time (R154). -/
theorem mmaxBank_at (f : Fmt) (src : Mem) (ta tb ts : Nat) (b : Bank) {r q : Nat} (hr : r < 128) (hq : q < 128) :
    ((mmaxBank f src ta tb ts b).1.at_ r q = ((List.zipWith vmul
      (mxRow f src (rowAddr ta r) (rowAddr ts r)) (mxRow f src (rowAddr tb q) (rowAddr ts q + 128))).foldl
        (accAnchored b.anchor) (b.at_ r q, false)).1) := by
  unfold mmaxBank
  dsimp only
  rw [Bank.at_map _ _ _ hr hq, getD_map_range _ hr, getD_map_range _ hq]

/-- Where a drained element goes: 32-bit formats take two tiles (Table 6.2). -/
theorem codeAfter_drainOut (f : Fmt) (w : IWord) (src : Mem) (td : Nat) (b : Bank) {r q : Nat} (hr : r < 128) (hq : q < 128) :
    codeAfter f src (drainOut f w td b) (if f.bits = 32 ∧ 64 ≤ q then td + 1 else td) r (if f.bits = 32 then q % 64 else q)
      = encode f (if opnd w 1 1 = 1 then drainScaled b (immF32 w) (drainVal b (b.at_ r q)) else drainVal b (b.at_ r q)) := by
  have wide : (f.bits = 32 → f.perRow = 64) ∧ (f.bits ≠ 32 → 128 ≤ f.perRow) := by cases f <;> decide
  have out : drainOut f w td b = (List.range 16384).flatMap (fun k =>
      rowWrites f (rowAddr (if f.bits = 32 ∧ 64 ≤ k % 128 then td + 1 else td) (k / 128))
        [(if f.bits = 32 then k % 128 % 64 else k % 128, encode f (if opnd w 1 1 = 1
          then drainScaled b (immF32 w) (drainVal b (sget {} b.elems k)) else drainVal b (sget {} b.elems k)))]) := by
    refine congrArg (List.flatMap · _) (funext fun k => ?_)
    simp only [drainPut, ge_iff_le]
    split <;> rfl
  have h1 : (128 * r + q) / 128 = r := by omega
  have h2 : (128 * r + q) % 128 = q := by omega
  have code := codeAfter_written (f := f) (t := fun k => if f.bits = 32 ∧ 64 ≤ k % 128 then td + 1 else td) (r := fun k => k / 128)
    (es := fun k => [(if f.bits = 32 then k % 128 % 64 else k % 128, encode f (if opnd w 1 1 = 1
          then drainScaled b (immF32 w) (drainVal b (sget {} b.elems k)) else drainVal b (sget {} b.elems k)))])
    (xs := List.range 16384) (x := 128 * r + q)
    (fun x hx => by have := List.mem_range.mp hx; omega)
    (fun x _ e he => by
      rw [List.mem_singleton.mp he]
      by_cases h : f.bits = 32
      · simp only [h, if_true, wide.1 h]
        omega
      · have := wide.2 h
        simp only [h, if_false]
        omega)
    src (List.mem_range.mpr (by omega)) (List.mem_singleton_self _)
    (fun y _ ht hrow u hu => by
      obtain ⟨hj, hu⟩ := Prod.mk.inj (List.mem_singleton.mp hu)
      have same : y = 128 * r + q := by
        by_cases h : f.bits = 32
        · simp only [h, true_and, if_true] at ht hj
          split at ht <;> split at ht <;> omega
        · simp only [h, if_false] at hj
          omega
      rw [hu, same])
    (encode_codeOk ..).1 (encode_codeOk ..).2
  rw [out]
  rw [h1, h2] at code
  exact code

theorem meRuns_opc {opc : Nat} {w : IWord} (h : meRuns opc w = true) : opc = 0x10 ∨ opc = 0x11 ∨ opc = 0x12 ∨ opc = 0x13
    ∨ opc = 0x14 ∨ opc = 0x15 ∨ opc = 0x18 ∨ opc = 0x19 := by
  unfold meRuns at h
  split at h
  · simp only [Bool.or_eq_true, Bool.and_eq_true, decide_eq_true_eq] at h
    tauto
  · simp only [Bool.or_eq_true, decide_eq_true_eq] at h
    tauto

/-- Every operation of an ME whose fields run leaves what Table 4.8 says. -/
theorem meComputes_holds {opc i : Nat} {w : IWord} (m : Nat) (src : Mem) (b : Bank) (hruns : meRuns opc w = true) :
    meComputes src m opc i w b (meResult m opc w i src b) := by
  unfold meComputes
  intro ix f ta tb ts b0
  have runs : ¬ (!meRuns opc w) = true := by rw [hruns]; decide
  unfold meResult
  rw [if_neg runs]
  rcases meRuns_opc hruns with rfl | rfl | rfl | rfl | rfl | rfl | rfl | rfl
  case inl => -- ZACC
    refine ⟨_, rfl, (absurd · (by decide)), fun _ => rfl, fun r q _ _ => ⟨fun _ => Bank.at_zero b r q, ?_⟩⟩
    simp
  case inr.inl => -- ANCHOR
    refine ⟨_, rfl, fun _ => ⟨rfl, rfl⟩, (absurd rfl ·), fun r q _ _ => ?_⟩
    simp
  case inr.inr.inl => -- MMA
    refine ⟨_, rfl, (absurd · (by decide)), fun _ => mmaBank_anchor .., fun r q hr hq => ?_⟩
    obtain ⟨int8, bf16, fp32, other⟩ := mmaBank_at f src ta tb b hr hq
    exact ⟨by simp, by simp, fun _ => int8, fun _ => bf16, fun _ => fp32, fun _ => other, by simp, by simp⟩
  case inr.inr.inr.inl => -- MMAZ
    refine ⟨_, rfl, (absurd · (by decide)), fun _ => mmaBank_anchor .., fun r q hr hq => ?_⟩
    obtain ⟨int8, bf16, fp32, other⟩ := mmaBank_at f src ta tb b.zero hr hq
    exact ⟨by simp, by simp, fun _ => int8, fun _ => bf16, fun _ => fp32, fun _ => other, by simp, by simp⟩
  case inr.inr.inr.inr.inl => -- MMAX
    refine ⟨_, rfl, (absurd · (by decide)), fun _ => (mmaxBank_kind ..).2, fun r q hr hq => ?_⟩
    have anchored := mmaxBank_at f src ta tb ts b hr hq
    exact ⟨by simp, by simp, by simp, by simp, by simp, by simp, fun _ => ⟨(mmaxBank_kind ..).1, anchored⟩, by simp⟩
  case inr.inr.inr.inr.inr.inl => -- MMAXZ
    refine ⟨_, rfl, (absurd · (by decide)), fun _ => (mmaxBank_kind ..).2, fun r q hr hq => ?_⟩
    have anchored := mmaxBank_at f src ta tb ts b.zero hr hq
    exact ⟨by simp, by simp, by simp, by simp, by simp, by simp, fun _ => ⟨(mmaxBank_kind ..).1, anchored⟩, by simp⟩
  case inr.inr.inr.inr.inr.inr.inl => -- DRAIN
    refine ⟨_, rfl, (absurd · (by decide)), fun _ => rfl, fun r q hr hq => ?_⟩
    have drained := codeAfter_drainOut f w src ta b hr hq
    exact ⟨by simp, fun _ => rfl, by simp, by simp, by simp, by simp, by simp, fun _ => by simpa only using drained⟩
  case inr.inr.inr.inr.inr.inr.inr => -- DRAINZ
    refine ⟨_, rfl, (absurd · (by decide)), fun _ => rfl, fun r q hr hq => ?_⟩
    have drained := codeAfter_drainOut f w src ta b hr hq
    exact ⟨fun _ => Bank.at_zero b r q, by simp, by simp, by simp, by simp, by simp, by simp,
      fun _ => by simpa only using drained⟩

end Sys2Proof.Machine

end

section

namespace Sys2Proof.Machine

/-- Settles O4: the issue with nothing in flight (`State.issueEng_alone`, `State.flightOf_spec`), and what every operation
of VE, RU and ME then leaves (`veElementwise_holds` … `meComputes_holds`). -/
theorem engineInstructionIssues : Obligations.EngineInstructionIssues := by
  unfold Obligations.EngineInstructionIssues
  refine ⟨fun i c e opc w s hi he h1 h2 hmay hq => ?_, fun s c opc i cin w f hf => ?_, fun s c m opc i w b _ hruns _ => ?_⟩
  · have eng : s.issueAny c.val e.val opc w = s.issueEng c.val e.val opc w := if_neg (by unfold engMv; omega)
    obtain ⟨own, others, frame⟩ := State.issueEng_alone h1 h2 hmay hq
    obtain ⟨fields, due, out, bank, counts, fault⟩ := State.flightOf_spec hq.1 e.val opc w
    exact ⟨_, _, by rw [exec_issue hi, eng], fun h => by rw [exec_instructionIssue h, eng], own, fields, due, out, bank, counts,
      fault, others, frame⟩
  · exact ⟨fun h => ⟨veElementwise_holds _ h hf, veMoves_holds _ h hf, veReduces_holds _ h hf, vePacks_holds _ h hf⟩,
      fun h => ruComputes_holds _ h hf⟩
  · exact meComputes_holds m _ b hruns

end Sys2Proof.Machine

end

section

namespace Sys2Proof.Machine

/-! ### Completion of the mover's one operation (R82, R93) -/

theorem exec_mvCompletion (c : ClusterId) (k : Nat) (s : State) : exec (.mvCompletion c k) s = .next (s.mvComplete c.val k) := rfl

/-- An operation that has not completed has no signal due. -/
theorem Cluster.mvDue_running {x : Cluster} {o : MvOp} (hmv : x.mv = [o]) (ho : o.done = false) : x.mvDue = none := by
  simp only [Cluster.mvDue, hmv, ho, Bool.false_and, Bool.false_eq_true, if_false]

/-- The operation marked complete at a cycle: only its signal is to come. -/
def MvOp.completedAt (o : MvOp) (cyc : Nat) : MvOp :=
  { o with done := true, due := cyc, ranges := [], loads := [], writes := [], tsrc := [], sent := [] }

/-- The one operation, marked complete, leaves the list; without a signal nothing else happens. -/
theorem State.mvDone_lone {s : State} {c : Nat} {o : MvOp} (hmv : (s.cluster c).mv = [o]) (hsig : o.w.sigK = 0) :
    ClusterAt s (s.mvDone c o.seq) c { s.cluster c with mv := [] } := by
  unfold State.mvDone
  have marked := ClusterAt.of_modCluster s c (fun x => { x with
    mv := x.mv.map (fun q => if q.seq = o.seq then q.completedAt x.cyc else q) })
  unfold MvOp.completedAt at marked
  generalize s.modCluster c _ = u at marked
  have mv : (u.cluster c).mv = [o.completedAt (s.cluster c).cyc] := by
    rw [marked.own]
    simp only [hmv, List.map_cons, List.map_nil, if_true, MvOp.completedAt]
  have due : (u.cluster c).mvDue.isSome = true := by
    have cyc : (u.cluster c).cyc = (s.cluster c).cyc := by rw [marked.own]
    simp only [Cluster.mvDue, mv, cyc, MvOp.completedAt, Bool.true_and, Nat.le_refl, decide_true, if_true, Option.isSome_some]
  have silent : ∀ v : State, v.signal c engMv (o.completedAt (s.cluster c).cyc).w (o.completedAt (s.cluster c).cyc).due
      (u.cluster c).cyc = v := fun v =>
    State.signal_none (fun h => absurd (hsig.symm.trans h) (by decide)) (fun h => absurd (hsig.symm.trans h.1) (by decide)) ..
  have left : u.mvSignals c = u.modCluster c (fun x => { x with mv := [] }) := by
    simp only [State.mvSignals, mv, List.length_singleton, State.mvSignalsN, due, if_true, State.mvSignal, silent]
  rw [left]
  have gone := marked.modCluster (fun x => { x with mv := [] })
  exact gone

/-- The operation completes only while its channels are calm. -/
theorem State.mvComplete_lone {s : State} {c p n : Nat} {o : MvOp} (hmv : (s.cluster c).mv = [o])
    (hf : (s.cluster c).flight = []) (hrun : (s.cluster c).run = some (p, n)) (hclk : s.clockRuns c = true)
    (hdone : o.done = false) (hlist : o.list = none) (himp : o.imp = none) (hlink : o.link = none) :
    s.mvComplete c 0 = if s.calm o.places = true then s.mvFinish c p n o else s := by
  have settled : s.settle c = s := State.settleFrom_idle hf (Cluster.mvDue_running hmv hdone) _
  simp only [State.mvComplete, settled, hmv, hrun, List.getElem?_cons_zero, hdone, hlist, himp, hlink, hclk, Option.isSome_none,
    Bool.or_self, Bool.not_true, Bool.false_or]
  cases s.calm o.places <;> rfl

/-! ### LOAD -/

/-- Nothing but the read cache of cluster c differs. -/
structure CacheOnly (s t : State) (c : Nat) : Prop where
  clusters : t = s.withClusters t.clusters
  own : t.cluster c = { s.cluster c with cache := (t.cluster c).cache }
  others : otherClusters s t c

theorem CacheOnly.refl (s : State) (c : Nat) : CacheOnly s s c := ⟨rfl, rfl, fun _ _ => rfl⟩

theorem CacheOnly.trans {s t u : State} {c : Nat} (h : CacheOnly s t c) (h' : CacheOnly t u c) : CacheOnly s u c where
  clusters := by rw [h'.clusters, h.clusters]; rfl
  own := by rw [h'.own, h.own]
  others j hj := (h'.others j hj).trans (h.others j hj)

theorem CacheOnly.modCluster (s : State) (c : Nat) {f : Cluster → Cluster} (hf : ∀ x, f x = { x with cache := (f x).cache }) :
    CacheOnly s (s.modCluster c f) c := by
  have hat := ClusterAt.of_modCluster s c f
  exact ⟨hat.clusters, by rw [hat.own]; exact hf _, hat.others⟩

theorem CacheOnly.foldl {α : Type} {c : Nat} {f : State → α → State} (hf : ∀ s a, CacheOnly s (f s a) c) (l : List α) (s : State) :
    CacheOnly s (l.foldl f s) c := foldl_keeps (CacheOnly s · c) f (fun _ x h => h.trans (hf _ x)) l s (.refl s c)

theorem Cluster.cacheUse_cache (x : Cluster) (sp : Space) (k : Nat) :
    x.cacheUse sp k = { x with cache := (x.cacheUse sp k).cache } := by
  unfold Cluster.cacheUse
  split <;> rfl

theorem Cluster.cacheWrite_cache (x : Cluster) (ws : List PWrite) : x.cacheWrite ws = { x with cache := (x.cacheWrite ws).cache } := by
  unfold Cluster.cacheWrite
  split <;> rfl

/-- The bytes fetched for a LOAD's sources, when they are what they were at issue. -/
theorem loadSources_old {s : State} {ls : List LoadByte} (same : ∀ q ∈ ls, ∀ l, q.src = some l → s.byteAt l.1 l.2 = q.old) :
    (ls.filterMap (·.src)).map (fun l => s.byteAt l.1 l.2) = (ls.filter (·.src.isSome)).map (·.old) := by
  induction ls with
  | nil => rfl
  | cons q ls ih =>
    have rest := ih fun r hr => same r (List.mem_cons_of_mem _ hr)
    cases hq : q.src with
    | none => simpa [List.filterMap_cons, List.filter_cons, hq] using rest
    | some l => simpa [List.filterMap_cons, List.filter_cons, hq, same q List.mem_cons_self l hq] using rest

/-- Each byte of a LOAD takes the next fetched one, or, without a source, what it took at issue. -/
def takeLoad (a : List TWrite × List ((Space × Nat) × Byte)) (l : LoadByte) : List TWrite × List ((Space × Nat) × Byte) :=
  match l.src, a.2 with
  | some _, h :: t => (⟨l.ta, l.mask, h.2 &&& l.bits⟩ :: a.1, t)
  | _, rest => (⟨l.ta, l.mask, l.old &&& l.bits⟩ :: a.1, rest)

theorem foldl_takeLoad {g : LoadByte → (Space × Nat) × Byte} (hg : ∀ l, (g l).2 = l.old) (ls : List LoadByte) (acc : List TWrite) :
    (ls.foldl takeLoad (acc, (ls.filter (·.src.isSome)).map g)).1
      = (ls.map (fun q => (⟨q.ta, q.mask, q.old &&& q.bits⟩ : TWrite))).reverse ++ acc := by
  induction ls generalizing acc with
  | nil => rfl
  | cons q ls ih => cases hq : q.src <;> simp [takeLoad, hq, hg, ih]

/-- The word of a source that no longer holds what it held at issue. -/
def State.loadChange (s : State) (l : LoadByte) : Option (Space × Nat) :=
  match l.src with
  | some q => if mget (s.memOf q.1) q.2 ≠ l.old then some (q.1, q.2 / 4) else none
  | none => none

/-- What is fetched for a source: in a changed word that stays old, what it held at issue. -/
def loadFetch (oldW : List (Space × Nat)) (l : LoadByte) (b : Byte) : (Space × Nat) × Byte :=
  match l.src with
  | some q => (q, if oldW.contains (q.1, q.2 / 4) then l.old else b)
  | none => ((Space.stack, 0), b)

theorem loadFetch_old (oldW : List (Space × Nat)) (l : LoadByte) : (loadFetch oldW l l.old).2 = l.old := by
  unfold loadFetch
  split
  · exact ite_self _
  · rfl

theorem State.loadBytes_eq (s : State) (ls : List LoadByte) :
    s.loadBytes ls =
      (let (bs, bad, t) := s.readBytes (ls.filterMap (·.src))
       let diff := (ls.filterMap t.loadChange).eraseDups
       let oldW := ((List.range diff.length).filter (fun j => Config.freeBool (t.free + j))).map (fun j => diff.getD j (.stack, 0))
       let got := List.zipWith (loadFetch oldW) (ls.filter (·.src.isSome)) bs
       ((ls.foldl takeLoad ([], got)).1.reverse, got, bad, t.withFree (t.free + diff.length))) := rfl

/-- A LOAD whose sources hold what they held at issue moves that (R274). -/
theorem State.loadBytes_same {s : State} (h : s.plainReads) {ls : List LoadByte}
    (same : ∀ q ∈ ls, ∀ l, q.src = some l → s.byteAt l.1 l.2 = q.old) :
    ∃ got, s.loadBytes ls = (ls.map (fun q => ⟨q.ta, q.mask, q.old &&& q.bits⟩), got, false, s) := by
  have unchanged : ls.filterMap s.loadChange = [] := by
    refine List.filterMap_eq_nil_iff.mpr fun l hl => ?_
    unfold State.loadChange
    split
    · next q hq => exact if_neg (not_not.mpr (same l hl q hq))
    · rfl
  have moved := foldl_takeLoad (loadFetch_old []) ls []
  rw [List.append_nil] at moved
  rw [State.loadBytes_eq, State.readBytes_plain h]
  dsimp only
  rw [unchanged, loadSources_old same, List.zipWith_map_right, List.zipWith_self]
  simp only [List.eraseDups_nil, List.length_nil, List.range_zero, List.filter_nil, List.map_nil, moved, List.reverse_reverse]
  exact ⟨_, rfl⟩

theorem CountsOnly.cluster {s t : State} (h : CountsOnly s t) (c : Nat) : t.cluster c = s.cluster c := by
  rw [h.regs]
  rfl

theorem ClusterAt.cacheOnly {s t u : State} {c : Nat} {x : Cluster} (h : ClusterAt s t c x) (hu : CacheOnly t u c) :
    ClusterAt s u c { x with cache := (u.cluster c).cache } where
  clusters := by rw [hu.clusters, h.clusters]; rfl
  own := by rw [hu.own, h.own]
  others j hj := (hu.others j hj).trans (h.others j hj)

/-- Counters, and cluster c, alone. -/
theorem CountsOnly.clusterFrame {s t u v : State} {c : Nat} {x y : Cluster} (h : ClusterAt s t c x) (hc : CountsOnly t u)
    (h' : ClusterAt u v c y) : clusterFrame s v ∧ otherClusters s v c := by
  refine ⟨⟨by rw [h'.clusters, hc.regs, h.clusters]; rfl, fun k hk => ?_⟩, fun j hj => ?_⟩
  · have : v.reg k = u.reg k := by rw [h'.clusters]; rfl
    rw [this, hc.reg k hk, h.clusters]
    rfl
  · rw [h'.others j hj, hc.cluster, h.others j hj]

/-- Completion of a LOAD (R139, R202, R275). -/
theorem State.mvFinish_load {s : State} {c p n : Nat} {o : MvOp} (hopc : o.opc = 0x60) (hpoison : o.poison = false)
    (hmv : (s.cluster c).mv = [o]) (hf : (s.cluster c).flight = []) (hsig : o.w.sigK = 0) (hplain : s.plainReads)
    (same : ∀ q ∈ o.loads, ∀ l, q.src = some l → s.byteAt l.1 l.2 = q.old) :
    let t := s.mvFinish c p n o
    t.cluster c = { s.cluster c with
        mv := []
        tiles := applyTile (s.cluster c).tiles (o.loads.map (fun q => ⟨q.ta, q.mask, q.old &&& q.bits⟩))
        cache := (t.cluster c).cache }
      ∧ clusterFrame s t ∧ otherClusters s t c := by
  obtain ⟨got, loaded⟩ := State.loadBytes_same hplain same
  simp only [State.mvFinish, hopc, loaded, State.tileWrite_idle hf, State.stepPoison, hpoison, Bool.or_self,
    Bool.false_eq_true, if_false]
  have tiles := ClusterAt.of_modCluster s c (fun x => { x with
    tiles := applyTile x.tiles (o.loads.map (fun q => ⟨q.ta, q.mask, q.old &&& q.bits⟩)) })
  generalize s.modCluster c _ = u at tiles
  have filled : CacheOnly u (o.fills.foldl (fun s l => s.modCluster c (fun x => x.cacheFill (s.fetched l got))) u) c :=
    CacheOnly.foldl (fun s _ => .modCluster s c fun _ => rfl) ..
  generalize o.fills.foldl _ u = v at filled
  have used := filled.trans (CacheOnly.foldl (f := fun s (l : Space × Nat) => s.modCluster c (fun x => x.cacheUse l.1 l.2))
    (fun s _ => .modCluster s c fun x => x.cacheUse_cache ..) (linesOf (o.loads.filterMap (·.src))) v)
  generalize List.foldl _ v _ = v' at used
  have read := tiles.cacheOnly used
  have counts := ((v'.perf_countsOnly 6 p (some c) (stackLines (o.loads.filterMap (·.src)))).trans
    (State.perf_countsOnly _ 4 p (some c) o.hits.length)).trans (State.perf_countsOnly _ 5 p (some c) o.fills.length)
  generalize State.perf _ 5 p (some c) o.fills.length = v'' at counts
  have own := (counts.cluster c).trans read.own
  have done := State.mvDone_lone (s := v'') (c := c) (by rw [own]; exact hmv) hsig
  refine ⟨?_, CountsOnly.clusterFrame read counts done⟩
  rw [done.own, own]

end Sys2Proof.Machine

end

section

namespace Sys2Proof.Machine

/-! ### STORE and RWRITE -/

theorem ClusterAt.byteAt {s t : State} {c : Nat} {x : Cluster} (h : ClusterAt s t c x) (hx : x.store = (s.cluster c).store)
    (sp : Space) (a : Nat) : t.byteAt sp a = s.byteAt sp a := by
  cases sp with
  | store j =>
    have store : (t.cluster j).store = (s.cluster j).store := by
      by_cases hj : j = c
      · rw [hj, h.own, hx]
      · rw [h.others j hj]
    exact congrArg (mget · a) store
  | _ => rw [h.clusters]; rfl

theorem CacheOnly.clusterAt {s t : State} {c : Nat} (h : CacheOnly s t c) :
    ClusterAt s t c { s.cluster c with cache := (t.cluster c).cache } := ⟨h.clusters, h.own, h.others⟩

/-- Tile bytes that are what they were at issue are written as they were (R121). -/
theorem State.storeBytesNow_same {s : State} {c : Nat} {o : MvOp} (hlen : o.writes.length ≤ o.tsrc.length)
    (same : ∀ z ∈ List.zip o.writes o.tsrc, tileByte (s.cluster c).tiles z.2 = z.1.val) : s.storeBytesNow c o = (o.writes, s) := by
  have unchanged : (List.zip o.writes o.tsrc).filterMap (fun q =>
      if tileByte (s.cluster c).tiles q.2 ≠ q.1.val then some (q.2.1 / 4) else none) = [] :=
    List.filterMap_eq_nil_iff.mpr fun z hz => if_neg (not_not.mpr (same z hz))
  have old := List.map_fst_zip (l₁ := o.writes) (l₂ := o.tsrc) hlen
  unfold State.storeBytesNow
  dsimp only
  rw [unchanged]
  simp only [List.eraseDups_nil, List.length_nil, List.range_zero, List.filter_nil, List.map_nil, List.contains_nil,
    Bool.false_eq_true, if_false]
  exact Prod.ext old rfl

theorem State.putByte_cluster (s : State) (w : PWrite) (c : Nat) :
    (s.putByte w).cluster c = { s.cluster c with store := ((s.putByte w).cluster c).store } := by
  unfold State.putByte
  rcases w with ⟨_ | _ | j, a, mask, v⟩
  · rfl
  · rfl
  · simp only [State.withMem, State.cluster_modCluster]
    split
    · next h => rw [h]
    · rfl

theorem State.putBytes_cluster (ws : List PWrite) (s : State) (c : Nat) :
    (ws.foldl State.putByte s).cluster c
      = { s.cluster c with store := ((ws.foldl State.putByte s).cluster c).store } := by
  induction ws generalizing s with
  | nil => rfl
  | cons w ws ih =>
    rw [List.foldl_cons]
    conv_lhs => rw [ih (s.putByte w), s.putByte_cluster w c]

/-- A plain write of a step whose partition is not mirrored is its bytes. -/
theorem State.stepWrite_plain {s : State} {p : Nat} (h : s.plainWrites) (hm : s.mirrored p = false) (n : Nat) (ws : List PWrite) :
    s.stepWrite p n ws = ws.foldl State.putByte s := by
  obtain ⟨c, m, k, e⟩ := State.putBytes_frame ws s
  have single : (ws.foldl State.putByte s).mirrored p = false := by rw [e]; exact hm
  rw [State.stepWrite, State.writeBytes_plain h, State.digestWrites, single]
  rfl

/-- What the cluster's own writes leave of it: its store and its cache alone differ. -/
structure StoredBy (s t : State) (c : Nat) (ws : List PWrite) : Prop where
  bytes : ∀ sp a, t.byteAt sp a = storedByte ws sp a (s.byteAt sp a)
  own : t.cluster c = { s.cluster c with store := (t.cluster c).store, cache := (t.cluster c).cache }
  frame : t = ((((s.withClusters t.clusters).withStackMem t.stackMem).withCaseMem t.caseMem).withRegs t.regs)

/-- The writes that land at once, the read cache and the count of lines. -/
def State.landNear (s : State) (c p n : Nat) (ws : List PWrite) : State :=
  (((s.stepWrite p n (ws.filter (fun w => dieOfSpace w.sp w.addr == c / 16))).modCluster c (fun x => x.cacheWrite ws)).perf 6 p
    (some c) (stackLines (placesOf ws)))

theorem State.landNear_stored {s : State} {p : Nat} (h : s.plainWrites) (hm : s.mirrored p = false) (c n : Nat) (ws : List PWrite) :
    StoredBy s (s.landNear c p n ws) c (ws.filter (fun w => dieOfSpace w.sp w.addr == c / 16)) := by
  unfold State.landNear
  rw [State.stepWrite_plain h hm]
  generalize ws.filter _ = near
  obtain ⟨cl, sm, cm, e⟩ := State.putBytes_frame near s
  have bytes := State.byteAt_putBytes near s
  have own := State.putBytes_cluster near s c
  generalize near.foldl State.putByte s = u at e bytes own
  have cached := CacheOnly.modCluster u c (f := fun x => x.cacheWrite ws) (fun x => x.cacheWrite_cache ws)
  generalize u.modCluster c _ = v at cached
  have counts := v.perf_countsOnly 6 p (some c) (stackLines (placesOf ws))
  refine ⟨fun sp a => ?_, ?_, ?_⟩
  · rw [counts.byteAt, cached.clusterAt.byteAt rfl, bytes]
  · rw [counts.cluster, cached.own, own]
  · rw [counts.regs, cached.clusters, e]
    rfl

theorem State.completeWrites_eq (s : State) (c p n : Nat) (ws : List PWrite) (group : Option Nat) :
    s.completeWrites c p n ws group =
      (let far := ws.filter (fun w => dieOfSpace w.sp w.addr != c / 16)
       let t := s.landNear c p n ws
       if far.isEmpty then group.elim t t.countGroup
       else t.withLanding (t.landing ++ [{ part := p, slot := n, cluster := c, writes := far, group := group }])) := by
  cases group <;> rfl

/-- The group that a write counts in: an RWRITE has one. -/
def MvOp.counted (o : MvOp) (c : Nat) : Option Nat := if o.opc = 0x68 then o.group.map (groupKey 0 c) else none

theorem State.mvFinish_write {s : State} {c : Nat} {o : MvOp} (h : o.opc = 0x61 ∨ (o.opc = 0x68 ∧ o.group.isSome))
    (now : s.storeBytesNow c o = (o.writes, s)) (p n : Nat) :
    s.mvFinish c p n o = (s.completeWrites c p n o.writes (o.counted c)).mvDone c o.seq := by
  rcases h with hopc | ⟨hopc, hgroup⟩
  · simp only [State.mvFinish, MvOp.counted, hopc, now]
    rfl
  · obtain ⟨g, hg⟩ := Option.isSome_iff_exists.mp hgroup
    simp only [State.mvFinish, MvOp.counted, hopc, hg, now]
    rfl

theorem StoredBy.mv {s t : State} {c : Nat} {ws : List PWrite} (h : StoredBy s t c ws) : (t.cluster c).mv = (s.cluster c).mv := by
  rw [h.own]

theorem StoredBy.tiles {s t : State} {c : Nat} {ws : List PWrite} (h : StoredBy s t c ws) :
    (t.cluster c).tiles = (s.cluster c).tiles := by
  rw [h.own]

theorem StoredBy.group {s t : State} {c : Nat} {ws : List PWrite} (h : StoredBy s t c ws) (k : Nat) : t.group k = s.group k := by
  rw [h.frame]
  rfl

/-- A STORE or RWRITE to memory of the own C-die lands at once; the RWRITE counts in its group (R273, R282). -/
theorem State.mvFinish_near {s : State} {c p n : Nat} {o : MvOp} (h : o.opc = 0x61 ∨ (o.opc = 0x68 ∧ o.group.isSome))
    (now : s.storeBytesNow c o = (o.writes, s)) (hmv : (s.cluster c).mv = [o]) (hsig : o.w.sigK = 0) (hplain : s.plainWrites)
    (hm : s.mirrored p = false) (near : ∀ q ∈ o.writes, dieOfSpace q.sp q.addr = c / 16) :
    ∃ u, StoredBy s u c o.writes ∧ ∃ v, ClusterAt v (s.mvFinish c p n o) c { v.cluster c with mv := [] }
      ∧ v = (o.counted c).elim u u.countGroup := by
  have stored := State.landNear_stored hplain hm c n o.writes
  rw [List.filter_eq_self.mpr fun q hq => beq_iff_eq.mpr (near q hq)] at stored
  have none_far : o.writes.filter (fun w => dieOfSpace w.sp w.addr != c / 16) = [] :=
    List.filter_eq_nil_iff.mpr fun q hq => by simp [near q hq]
  refine ⟨s.landNear c p n o.writes, stored, _, ?_, rfl⟩
  rw [State.mvFinish_write h now, State.completeWrites_eq, none_far]
  refine State.mvDone_lone ?_ hsig
  cases o.counted c <;> exact stored.mv.trans hmv

/-- A STORE or RWRITE to other memories waits to land (R273). -/
theorem State.mvFinish_far {s : State} {c p n : Nat} {o : MvOp} (h : o.opc = 0x61 ∨ (o.opc = 0x68 ∧ o.group.isSome))
    (now : s.storeBytesNow c o = (o.writes, s)) (hmv : (s.cluster c).mv = [o]) (hsig : o.w.sigK = 0) (hplain : s.plainWrites)
    (hm : s.mirrored p = false) (some_ : o.writes ≠ []) (far : ∀ q ∈ o.writes, dieOfSpace q.sp q.addr ≠ c / 16) :
    ∃ u, StoredBy s u c [] ∧ ∃ v, ClusterAt v (s.mvFinish c p n o) c { v.cluster c with mv := [] }
      ∧ v = u.withLanding (u.landing ++ [{ part := p, slot := n, cluster := c, writes := o.writes, group := o.counted c }]) := by
  have stored := State.landNear_stored hplain hm c n o.writes
  rw [List.filter_eq_nil_iff.mpr fun q hq => by simp [far q hq]] at stored
  have all_far : o.writes.filter (fun w => dieOfSpace w.sp w.addr != c / 16) = o.writes :=
    List.filter_eq_self.mpr fun q hq => by simp [far q hq]
  have some_far : o.writes.isEmpty = false := by simpa using some_
  refine ⟨s.landNear c p n o.writes, stored, _, ?_, rfl⟩
  rw [State.mvFinish_write h now, State.completeWrites_eq, all_far]
  dsimp only
  rw [some_far]
  exact State.mvDone_lone (stored.mv.trans hmv) hsig

/-! ### WGANN, RFINAL and FLGCLR -/

/-- A group announced, with its count (R282). -/
def State.announceGroup (s : State) (key k : Nat) : State := s.setGroup key { s.group key with announced := some k }

/-- A group with an RFINAL in its hold. -/
def State.holdFinal (s : State) (key : Nat) (h : HeldFinal) : State := s.setGroup key { s.group key with held := some h }

theorem State.mvFinish_announce {s : State} {c : Nat} {o : MvOp} {k : Nat} (hopc : o.opc = 0x69) (hk : o.announce = some k)
    (p n : Nat) : s.mvFinish c p n o = (s.announceGroup (groupKey 0 c (o.group.getD 0)) k).mvDone c o.seq := by
  simp only [State.mvFinish, hopc, hk]
  rfl

theorem State.mvFinish_final {s : State} {c d fl p n : Nat} {gr : Bool} {o : MvOp} (hopc : o.opc = 0x6A)
    (hfin : o.finalFlag = some (d, fl, gr)) (hw : o.writes = [])
    (free : (s.group (groupKey 0 c (o.group.getD 0))).held = none) :
    s.mvFinish c p n o = (s.holdFinal (groupKey 0 c (o.group.getD 0))
      { writes := [], die := d, flag := fl, granted := gr, part := p, slot := some n, since := s.now }).mvDone c o.seq := by
  have now : s.storeBytesNow c o = ([], s) := hw ▸ State.storeBytesNow_same (by rw [hw]; exact Nat.zero_le _)
    (by rw [hw]; exact fun _ h => absurd h List.not_mem_nil)
  simp only [State.mvFinish, hopc, hfin, now, State.acceptFinal, free]
  rfl

theorem State.mvFinish_clear {s : State} {c d fl : Nat} {o : MvOp} (hopc : o.opc = 0x6C) (hclr : o.clearFlag = some (d, fl))
    (p n : Nat) : s.mvFinish c p n o = (s.setFlag d fl false c).mvDone c o.seq := by
  simp only [State.mvFinish, hopc, hclr]

/-- Settles O11: by the operation code, each on what its completion changes before the operation leaves the list. -/
theorem mvCompletionDoesItsWork : Obligations.MvCompletionDoesItsWork := by
  unfold Obligations.MvCompletionDoesItsWork
  intro c s p n o hmv hf hrun hclk hdone hlist himp hlink hsig
  have step : exec (.mvCompletion c 0) s = .next (if s.calm o.places = true then s.mvFinish c.val p n o else s) := by
    rw [exec_mvCompletion, State.mvComplete_lone hmv hf hrun hclk hdone hlist himp hlink]
  refine ⟨fun hcalm => by rw [step, hcalm]; rfl, fun hcalm hplain hm => ?_⟩
  rw [step, if_pos hcalm]
  refine ⟨fun hopc hpoison same => ?_, fun hopc hlen same => ?_, fun k hopc hk => ?_, fun d fl gr hopc hfin hw hheld => ?_,
    fun d fl hopc hclr => ?_⟩
  · obtain ⟨own, frame, others⟩ := State.mvFinish_load (p := p) (n := n) hopc hpoison hmv hf hsig hplain.1 same
    exact ⟨_, rfl, by rw [own], by rw [own], by rw [own], others, frame⟩
  · have now := State.storeBytesNow_same hlen.ge same
    constructor
    · intro near
      obtain ⟨u, stored, v, done, hv⟩ := State.mvFinish_near (n := n) hopc now hmv hsig hplain hm near
      have counts : v = u.withGroups v.groups := by
        rw [hv]
        cases o.counted c.val <;> rfl
      have own : v.cluster c.val = u.cluster c.val := by rw [counts]; rfl
      have bytes : ∀ sp a, v.byteAt sp a = u.byteAt sp a := fun sp a => by rw [counts]; cases sp <;> rfl
      have frame := done.clusters.trans (congrArg (State.withClusters · _)
        (counts.trans (congrArg (State.withGroups · _) stored.frame)))
      refine ⟨_, rfl, by rw [done.own], fun sp a => ?_, by rw [done.own, own]; exact stored.tiles, by rw [frame]; rfl,
        fun hst => ?_, fun g hrw hg => ?_, by rw [frame]; rfl, by rw [frame]; rfl, by rw [frame]; rfl, by rw [frame]; rfl,
        by rw [frame]; rfl⟩
      · rw [done.byteAt rfl, bytes, stored.bytes]
      · have none_ : o.counted c.val = none := if_neg (by rw [hst]; decide)
        rw [done.clusters, hv, none_, Option.elim_none, stored.frame]
        rfl
      · have some_ : o.counted c.val = some (groupKey 0 c.val g) := by rw [MvOp.counted, if_pos hrw, hg]; rfl
        have group : ∀ k, (s.mvFinish c.val p n o).group k = v.group k := fun k => by rw [done.clusters]; rfl
        rw [group, hv, some_, Option.elim_some, State.countGroup, State.group_setGroup, if_pos rfl, stored.group]
    · intro some_ far
      obtain ⟨u, stored, v, done, hv⟩ := State.mvFinish_far (n := n) hopc now hmv hsig hplain hm some_ far
      have bytes : ∀ sp a, v.byteAt sp a = u.byteAt sp a := fun sp a => by rw [hv]; cases sp <;> rfl
      have frame := done.clusters.trans (congrArg (State.withClusters · _)
        (hv.trans (congrArg (State.withLanding · _) stored.frame)))
      refine ⟨_, rfl, by rw [done.own], fun sp a => ?_, ?_, by rw [frame]; rfl, by rw [frame]; rfl, by rw [frame]; rfl⟩
      · rw [done.byteAt rfl, bytes, stored.bytes]
        rfl
      · rw [done.clusters, hv, stored.frame]
        rfl
  · have done := State.mvDone_lone (s := s.announceGroup (groupKey 0 c.val (o.group.getD 0)) k) (c := c.val) hmv hsig
    rw [State.mvFinish_announce hopc hk]
    refine ⟨_, rfl, by rw [done.own], ?_, by rw [done.clusters]; rfl⟩
    rw [done.clusters]
    exact (State.group_setGroup ..).trans (if_pos rfl)
  · have done := State.mvDone_lone (s := s.holdFinal (groupKey 0 c.val (o.group.getD 0))
      { writes := [], die := d, flag := fl, granted := gr, part := p, slot := some n, since := s.now }) (c := c.val) hmv hsig
    rw [State.mvFinish_final hopc hfin hw hheld]
    refine ⟨_, rfl, by rw [done.own], ?_, by rw [done.clusters]; rfl⟩
    rw [done.clusters]
    exact congrArg WGroup.held ((State.group_setGroup ..).trans (if_pos rfl))
  · obtain ⟨x, hx⟩ := s.setFlag_frame d fl false c.val
    have done := State.mvDone_lone (s := s.setFlag d fl false c.val) (c := c.val) (by rw [hx]; exact hmv) hsig
    rw [State.mvFinish_clear hopc hclr]
    refine ⟨_, rfl, by rw [done.own], ?_, by rw [done.clusters, hx]; rfl⟩
    rw [done.clusters]
    exact s.setFlag_val d fl false c.val

end Sys2Proof.Machine

end

section

namespace Sys2Proof.Machine

/-! ### Statements that a cluster map out of order refutes

Both statements quantify over every `State`, whose maps of clusters are plain lists. On a list whose keys do not rise
`sset` puts an entry in front of one that stands later, so that a write of a cluster's own value changes the list. The states
below are written down as such; no run is claimed to reach them. -/

/-- The clusters that an outcome lists, in the order of the list. -/
def listedClusters : Host.Outcome State Fault Refusal → List Nat
  | .next t => t.clusters.map (·.1)
  | _ => []

/-- A powered module with these clusters. -/
def State.poweredWith (cs : SMap Cluster) : State :=
  { State.reset with clusters := cs, power := { State.reset.power with alive := true, input := true } }

/-- A STORE of one zero byte to cluster store 1, not complete. -/
def zeroStore : MvOp :=
  { seq := 0, opc := 0x61, w := {}, idx := 0, it := 0, issueNs := 0
    writes := [⟨.store 1, 0, 0xFF, 0⟩], tsrc := [(0, 0xFF)] }

/-- Cluster 0, listed after cluster 1, completes the STORE that leaves cluster 1 as at reset. -/
def storeOutOfOrder : State :=
  .poweredWith [(1, { store := [(0, 1)] }), (0, { run := some (0, 0), mv := [zeroStore] })]

/-- What the same STORE, muted, leaves. -/
def mutedOutOfOrder : State := (storeOutOfOrder.muted 0 zeroStore).mvComplete 0 0

theorem mutedOutOfOrder_mv : (mutedOutOfOrder.cluster 0).mv = [] := by decide

theorem listedClusters_storeOutOfOrder : listedClusters (exec (.mvCompletion 0 0) storeOutOfOrder) = [0] := by decide

theorem listedClusters_mutedOutOfOrder :
    listedClusters (.next (mutedOutOfOrder.signal 0 engMv zeroStore.w 0)) = [0, 0] := by decide

/-- Refutes O8, in its clause about completion with and without the signal: in `storeOutOfOrder` the muted operation is
entered a second time in front of cluster 1, and the old entry of cluster 0 stays behind it once cluster 1 is no longer
listed; the operation itself leaves one entry. The counterexample rests on the order of the list alone. -/
theorem not_signalsAndFlagsAreSeen : ¬ Obligations.SignalsAndFlagsAreSeen := by
  unfold Obligations.SignalsAndFlagsAreSeen
  rintro ⟨-, -, completion, -⟩
  have same := completion (.mvCompletion 0 0) 0 storeOutOfOrder mutedOutOfOrder zeroStore rfl rfl (.inl rfl) rfl mutedOutOfOrder_mv
  have listed : listedClusters _ = listedClusters (.next (mutedOutOfOrder.signal 0 engMv zeroStore.w 0)) :=
    congrArg listedClusters same
  exact absurd (listedClusters_storeOutOfOrder.symm.trans (listed.trans listedClusters_mutedOutOfOrder)) (by decide)

/-- Cluster 0, listed after cluster 1, has all 32 ranges of its tracker in use. -/
def trackerOutOfOrder : State :=
  .poweredWith [(1, {}), (0, {
    streams := [(engMv, { live := true })], run := some (0, 0)
    mv := [{ seq := 0, opc := 0, w := {}, idx := 0, it := 0, issueNs := 0, ranges := List.replicate 32 ⟨false, 0, 1, false⟩ }] })]

/-- Refutes O9, in its clause that nothing at all changes while all 32 ranges of the tracker are in use: the attempt sets
the cluster's cycle count to what it is, and in `trackerOutOfOrder` that enters cluster 0 a second time in the list. The
counterexample rests on the order of the list alone. -/
theorem not_mvInstructionIssues : ¬ Obligations.MvInstructionIssues := by
  unfold Obligations.MvInstructionIssues
  rintro ⟨-, -, tracker, -⟩
  have may : trackerOutOfOrder.mayIssue 0 engMv {} := by
    unfold State.mayIssue
    decide
  have same := tracker (.nop 0 6 {}) 0 opcNop {} trackerOutOfOrder rfl may rfl rfl (by decide)
  have twice : listedClusters (exec (.nop 0 6 {}) trackerOutOfOrder) = [0, 1, 0] := by decide
  have once : listedClusters (.next trackerOutOfOrder) = [1, 0] := by decide
  exact absurd (twice.symm.trans ((congrArg listedClusters same).trans once)) (by decide)

end Sys2Proof.Machine

end

section

namespace Sys2Proof.Machine

/-! ### Turns of an imposition engine (R131) -/

theorem exec_impositionTurn (d : DieId) (x : ImpId) (s : State) : exec (.impositionTurn d x) s = .next (s.impTurn d.val x.val) := rfl

/-- The turn after the one that key names: the next cluster of the rotation, 64 cc later. -/
def State.nextTurn (s : State) (key cyc : Nat) : State :=
  s.withTurns (sset 0 (sset 0 s.turns key ((sget 0 s.turns key % 16 + 1) % 16)) (8 + key) (cyc + 64))

/-- Whether the cluster j places behind the one whose turn it is may take the turn: it has work, and it is that cluster
or one of its partition. -/
def State.takesTurn (s : State) (d x k j : Nat) : Bool :=
  !((s.cluster (16 * d + (k + j) % 16)).share x).isEmpty
    && (16 * d + (k + j) % 16 == 16 * d + k
      || ((s.partOf (16 * d + k)).isSome && s.partOf (16 * d + (k + j) % 16) == s.partOf (16 * d + k)))

theorem State.takesTurn_iff (s : State) (d x : Nat) {k j : Nat} (hk : k < 16) (hj : j < 16) :
    s.takesTurn d x k j = true ↔ (s.cluster (16 * d + (k + j) % 16)).share x ≠ []
      ∧ (j = 0 ∨ ∃ p, s.partOf (16 * d + k) = some p ∧ s.partOf (16 * d + (k + j) % 16) = some p) := by
  have own : 16 * d + (k + j) % 16 = 16 * d + k ↔ j = 0 := by omega
  have granted : ((s.partOf (16 * d + k)).isSome = true ∧ s.partOf (16 * d + (k + j) % 16) = s.partOf (16 * d + k))
      ↔ ∃ p, s.partOf (16 * d + k) = some p ∧ s.partOf (16 * d + (k + j) % 16) = some p := by
    rw [Option.isSome_iff_exists]
    constructor
    · rintro ⟨⟨p, hp⟩, h⟩
      exact ⟨p, hp, h.trans hp⟩
    · rintro ⟨p, hp, h⟩
      exact ⟨⟨p, hp⟩, h.trans hp.symm⟩
  simp only [State.takesTurn, Bool.and_eq_true, Bool.or_eq_true, Bool.not_eq_true', List.isEmpty_eq_false_iff, beq_iff_eq, own,
    granted, ne_eq]

/-- A turn begins only while the clock runs and once the turn before has had its cycles. -/
theorem State.impTurn_early {s : State} {d x : Nat}
    (h : s.clockRuns (16 * d) = false ∨ (s.dieClk d).cyc < sget 0 s.turns (8 + (4 * d + x))) : s.impTurn d x = s := by
  unfold State.impTurn
  dsimp only
  rw [if_pos]
  simpa using h

/-- A turn goes to the first cluster in the rotation that may take it. -/
theorem State.impTurn_due {s : State} {d x : Nat} (hclk : s.clockRuns (16 * d) = true)
    (hdue : sget 0 s.turns (8 + (4 * d + x)) ≤ (s.dieClk d).cyc) :
    s.impTurn d x = ((List.range 16).find? (s.takesTurn d x (sget 0 s.turns (4 * d + x) % 16))).elim
      (s.nextTurn (4 * d + x) (s.dieClk d).cyc)
      (fun j => (s.nextTurn (4 * d + x) (s.dieClk d).cyc).impWork (16 * d + (sget 0 s.turns (4 * d + x) % 16 + j) % 16) x) := by
  unfold State.impTurn
  dsimp only
  rw [if_neg (by simpa [hclk] using hdue), List.find?_map]
  change (match Option.map _ ((List.range 16).find? (s.takesTurn d x (sget 0 s.turns (4 * d + x) % 16))) with
    | some c => State.impWork _ c x
    | none => _) = _
  cases (List.range 16).find? (s.takesTurn d x (sget 0 s.turns (4 * d + x) % 16)) <;> rfl

/-- A turn for which no cluster has work passes on. -/
theorem State.impTurn_none {s : State} {d x : Nat} (hclk : s.clockRuns (16 * d) = true)
    (hdue : sget 0 s.turns (8 + (4 * d + x)) ≤ (s.dieClk d).cyc)
    (h : ∀ j, j < 16 → s.takesTurn d x (sget 0 s.turns (4 * d + x) % 16) j = false) :
    s.impTurn d x = s.nextTurn (4 * d + x) (s.dieClk d).cyc := by
  rw [State.impTurn_due hclk hdue, List.find?_range_eq_none.mpr fun j hj => by rw [h j hj]; rfl]
  rfl

theorem State.impWork_cons {s : State} {c x : Nat} {o : ImpOp} {rest : List ImpOp} (h : (s.cluster c).share x = o :: rest) :
    s.impWork c x = (s.turnOf c o).2.modCluster c (fun y =>
      { y with shares := sset [] y.shares x ((s.turnOf c o).1 :: rest) }) := by
  rw [State.impWork, h]

/-- A turn goes to the first cluster that may take it, and is one of its oldest operation. -/
theorem State.impTurn_first {s : State} {d x j : Nat} {o : ImpOp} {rest : List ImpOp} (hclk : s.clockRuns (16 * d) = true)
    (hdue : sget 0 s.turns (8 + (4 * d + x)) ≤ (s.dieClk d).cyc) (hj : j < 16)
    (h : s.takesTurn d x (sget 0 s.turns (4 * d + x) % 16) j = true)
    (first : ∀ j', j' < j → s.takesTurn d x (sget 0 s.turns (4 * d + x) % 16) j' = false)
    (hshare : (s.cluster (16 * d + (sget 0 s.turns (4 * d + x) % 16 + j) % 16)).share x = o :: rest) :
    s.impTurn d x =
      (let r := (s.nextTurn (4 * d + x) (s.dieClk d).cyc).turnOf (16 * d + (sget 0 s.turns (4 * d + x) % 16 + j) % 16) o
       r.2.modCluster (16 * d + (sget 0 s.turns (4 * d + x) % 16 + j) % 16) (fun y =>
         { y with shares := sset [] y.shares x (r.1 :: rest) })) := by
  rw [State.impTurn_due hclk hdue, List.find?_range_eq_some.mpr
    ⟨h, List.mem_range.mpr hj, fun j' hj' => by rw [first j' hj']; rfl⟩]
  exact State.impWork_cons (s := s.nextTurn _ _) hshare

/-! ### The end of an imposition operation (R205, R210) -/

theorem exec_impositionComplete (c : ClusterId) (x : ImpId) (s : State) :
    exec (.impositionComplete c x) s = .next (s.impComplete c.val x.val) := rfl

theorem State.impStart_started (s : State) {o : ImpOp} {u : Nat} (h : o.total = some u) : s.impStart o = o := by
  rw [State.impStart, h]
  rfl

theorem State.impComplete_moving {s : State} {c x u : Nat} {o : ImpOp} {rest : List ImpOp}
    (hshare : (s.cluster c).share x = o :: rest) (htotal : o.total = some u) (h : o.pos < u) : s.impComplete c x = s := by
  simp only [State.impComplete, hshare, s.impStart_started htotal, htotal, Option.getD_some, decide_eq_true h, Bool.or_true,
    if_true]

/-- The state with the share of engine x of cluster c as given. -/
def State.withShare (s : State) (c x : Nat) (l : List ImpOp) : State :=
  s.modCluster c (fun y => { y with shares := sset [] y.shares x l })

/-- An operation that has moved everything leaves its share, and its fault, when it has one, is posted for the MV
instruction that waits for it. -/
theorem State.impComplete_moved {s : State} {c x u : Nat} {o : ImpOp} {rest : List ImpOp} {m : MvOp}
    (hshare : (s.cluster c).share x = o :: rest) (htotal : o.total = some u) (hclk : s.clockRuns c = true)
    (hmv : (s.cluster c).mv = [m]) (hseq : m.seq = o.seq) (hfault : m.fault = none) (h : u ≤ o.pos) :
    s.impComplete c x = (o.fault.elim (s.withShare c x rest)
      ((s.withShare c x rest).postFault c engMv m.idx m.issueNs)).mvDone c m.seq := by
  have mv : ((s.withShare c x rest).cluster c).mv = [m] := by
    rw [State.withShare, State.cluster_modCluster, if_pos rfl]
    exact hmv
  have found : ((s.withShare c x rest).cluster c).mv.find? (fun m => m.seq == o.seq) = some m := by
    rw [mv, List.find?_cons_of_pos (by simpa using hseq)]
  unfold State.withShare at found
  simp only [State.impComplete, hshare, s.impStart_started htotal, htotal, Option.getD_some, hclk, decide_eq_false (not_lt.mpr h),
    Bool.not_true, Bool.or_false, Bool.false_eq_true, if_false, found, Option.bind_some, hfault, Option.toList_none,
    List.append_nil, hseq]
  cases e : o.fault with
  | none => rfl
  | some f => simp only [Option.toList_some, firstFault, pickBy, Option.isNone_some, Bool.and_false, Bool.false_eq_true,
      if_false, Option.elim_some, State.withShare]

/-- A fault record says the same whatever stands in the clusters' shares. -/
theorem State.postFault_withShare (s : State) (c x : Nat) (l : List ImpOp) (e i t k : Nat) :
    (s.withShare c x l).postFault c e i t k = (s.postFault c e i t k).withClusters (s.withShare c x l).clusters := by
  have run : (s.withShare c x l).runOf c = s.runOf c := by
    unfold State.runOf
    rw [State.withShare, State.cluster_modCluster, if_pos rfl]
  have part : (s.withShare c x l).partOf c = s.partOf c := rfl
  simp only [State.postFault, run, part]
  split
  · exact State.postAt_withClusters ..
  · split
    · exact State.postAt_withClusters ..
    · rfl

section

variable {s : State} {c x u : Nat} {o : ImpOp} {rest : List ImpOp} {m : MvOp}

/-- The cluster once its one MV instruction has completed with the operation at the head of a share. -/
def Cluster.afterImp (y : Cluster) (x : Nat) (rest : List ImpOp) : Cluster := { y with shares := sset [] y.shares x rest, mv := [] }

theorem State.withShare_at (s : State) (c x : Nat) (l : List ImpOp) :
    ClusterAt s (s.withShare c x l) c { s.cluster c with shares := sset [] (s.cluster c).shares x l } :=
  ClusterAt.of_modCluster s c _

theorem State.impComplete_plain (hshare : (s.cluster c).share x = o :: rest) (htotal : o.total = some u)
    (hclk : s.clockRuns c = true) (hmv : (s.cluster c).mv = [m]) (hseq : m.seq = o.seq) (hfault : m.fault = none)
    (hsig : m.w.sigK = 0) (h : u ≤ o.pos) (hf : o.fault = none) :
    ClusterAt s (s.impComplete c x) c ((s.cluster c).afterImp x rest) := by
  have shares := s.withShare_at c x rest
  have done := State.mvDone_lone (s := s.withShare c x rest) (by rw [shares.own]; exact hmv) hsig
  rw [State.impComplete_moved hshare htotal hclk hmv hseq hfault h, hf, Option.elim_none]
  generalize (s.withShare c x rest).mvDone c m.seq = t at done ⊢
  exact ⟨by rw [done.clusters]; rfl, by rw [done.own, shares.own]; rfl, fun j hj => (done.others j hj).trans (shares.others j hj)⟩

/-- The fault of an operation is posted, and its cluster goes on as without it. -/
theorem State.impComplete_faulty {e : Nat} (hshare : (s.cluster c).share x = o :: rest) (htotal : o.total = some u)
    (hclk : s.clockRuns c = true) (hmv : (s.cluster c).mv = [m]) (hseq : m.seq = o.seq) (hfault : m.fault = none)
    (hsig : m.w.sigK = 0) (h : u ≤ o.pos) (hf : o.fault = some e) :
    (s.impComplete c x).cluster c = (s.cluster c).afterImp x rest ∧ otherClusters s (s.impComplete c x) c
      ∧ (s.impComplete c x).hostMem = (s.postFault c engMv m.idx m.issueNs e).hostMem
      ∧ (s.impComplete c x).regs = (s.postFault c engMv m.idx m.issueNs e).regs := by
  have shares := s.withShare_at c x rest
  have posted := s.postFault_withShare c x rest engMv m.idx m.issueNs e
  rw [State.impComplete_moved hshare htotal hclk hmv hseq hfault h, hf, Option.elim_some]
  generalize (s.withShare c x rest).postFault c engMv m.idx m.issueNs e = v at posted
  have cluster : ∀ j, v.cluster j = (s.withShare c x rest).cluster j := fun j => by rw [posted]; rfl
  have done := State.mvDone_lone (s := v) (c := c) (by rw [cluster, shares.own]; exact hmv) hsig
  refine ⟨?_, fun j hj => ?_, ?_, ?_⟩
  · rw [done.own, cluster, shares.own]; rfl
  · rw [done.others j hj, cluster, shares.others j hj]
  · rw [done.clusters, posted]; rfl
  · rw [done.clusters, posted]; rfl

end

/-! ### The start of an imposition operation (R205, R211) -/

theorem State.impStart_nop (s : State) {o : ImpOp} (ht : o.total = none) (h : o.nop = true) :
    s.impStart o = { o with total := some 0 } := by
  simp only [State.impStart, ht, h, Option.isSome_none, Bool.false_eq_true, if_false, if_true]

theorem State.impStart_fault {s : State} {o : ImpOp} {e : Nat} (ht : o.total = none) (hn : o.nop = false)
    (h : s.impFault o = some e) : s.impStart o = { o with total := some 0, fault := some e } := by
  simp only [State.impStart, ht, hn, h, Option.isSome_none, Bool.false_eq_true, if_false]

theorem State.impStart_identity {s : State} {o : ImpOp} (ht : o.total = none) (hn : o.nop = false) (h : s.impFault o = none)
    (hc : o.code ≤ impDieslice) (hi : impIdentity o.code o.d0 o.d1 o.src o.dst = true) :
    s.impStart o = { o with total := some 0 } := by
  simp only [State.impStart, ht, hn, h, hc, hi, Option.isSome_none, Bool.false_eq_true, if_false, and_self, if_true]

end Sys2Proof.Machine

end

section

namespace Sys2Proof.Machine

/-! ### Units in destination order (Table 7.5) -/

/-- The source element of a destination element, when it has one. -/
def unitSource (o : ImpOp) (q : EIdx) : Option EIdx :=
  if o.src.has (srcIndex o.code o.d1 q) then some (srcIndex o.code o.d1 q) else none

theorem unitElems_eq (o : ImpOp) (u : Nat) :
    unitElems o u = (List.range (min unitLen (o.dst.size 0 - (unitAt o.dst u).1))).map
      (fun k => (((unitAt o.dst u).1 + k, (unitAt o.dst u).2), unitSource o ((unitAt o.dst u).1 + k, (unitAt o.dst u).2))) := rfl

theorem unitSource_of_mem {o : ImpOp} {u : Nat} {q : EIdx} {j : Option EIdx} (h : (q, j) ∈ unitElems o u) : unitSource o q = j := by
  rw [unitElems_eq, List.mem_map] at h
  obtain ⟨k, -, e⟩ := h
  obtain ⟨rfl, rfl⟩ := Prod.mk.inj e
  rfl

theorem unitSource_eq_some {o : ImpOp} {q j : EIdx} (h : unitSource o q = some j) :
    j = srcIndex o.code o.d1 q ∧ o.src.has j = true := by
  unfold unitSource at h
  split at h
  · next hs => cases h; exact ⟨rfl, hs⟩
  · cases h

theorem srcIndex_of_same {code : Nat} (h : code = impCopy ∨ code = impConvert ∨ code = impDieslice) (d1 : W64) (q : EIdx) :
    srcIndex code d1 q = q := by
  rcases h with rfl | rfl | rfl <;> rfl

theorem idxOf_zero (q : EIdx) : idxOf q 0 = q.1 := rfl
theorem idxOf_succ (q : EIdx) (n : Nat) : idxOf q (n + 1) = q.2.getD n 0 := rfl

theorem srcIndex_transpose (d1 : W64) (q : EIdx) : srcIndex impTranspose d1 q = (idxOf q 1, idxOf q 0 :: q.2.drop 1) := rfl

theorem idxOf_transpose (d1 : W64) (q : EIdx) {k : Nat} (hk : 2 ≤ k) : idxOf (srcIndex impTranspose d1 q) k = idxOf q k := by
  obtain ⟨n, rfl⟩ : ∃ n, k = n + 2 := ⟨k - 2, by omega⟩
  simp [srcIndex_transpose, idxOf, List.getD_eq_getElem?_getD]

/-- PERM takes each dimension once. -/
theorem isPerm_image {d1 : W64} (h : isPerm d1 = true) : (Finset.range 6).image (descPerm d1) = Finset.range 6 := by
  refine (Finset.eq_of_subset_of_card_le (fun v hv => ?_) Finset.card_image_le).symm
  obtain ⟨n, hn, e⟩ := List.any_eq_true.mp (List.all_eq_true.mp h v (List.mem_range.mpr (Finset.mem_range.mp hv)))
  exact Finset.mem_image.mpr ⟨n, Finset.mem_range.mpr (List.mem_range.mp hn), beq_iff_eq.mp e⟩

theorem isPerm_inj {d1 : W64} (h : isPerm d1 = true) {m n : Nat} (hm : m < 6) (hn : n < 6) (he : descPerm d1 m = descPerm d1 n) :
    m = n :=
  Finset.card_image_iff.mp (congrArg Finset.card (isPerm_image h)) (Finset.mem_coe.mpr (Finset.mem_range.mpr hm))
    (Finset.mem_coe.mpr (Finset.mem_range.mpr hn)) he

theorem descPerm_lt {d1 : W64} (h : isPerm d1 = true) {k : Nat} (hk : k < 6) : descPerm d1 k < 6 :=
  Finset.mem_range.mp (isPerm_image h ▸ Finset.mem_image_of_mem _ (Finset.mem_range.mpr hk))

/-- Index n of the source element of PERMUTE: that of the first destination dimension that walks dimension n. -/
theorem idxOf_permute (d1 : W64) (q : EIdx) {n : Nat} (hn : n < 6) :
    idxOf (srcIndex impPermute d1 q) n = ((List.range 6).find? (fun d => descPerm d1 d == n)).elim 0 (idxOf q) := by
  have each : ∀ n, (match (List.range 6).find? (fun d => descPerm d1 d == n) with | some d => idxOf q d | none => 0)
      = ((List.range 6).find? (fun d => descPerm d1 d == n)).elim 0 (idxOf q) := fun n => by
    cases (List.range 6).find? (fun d => descPerm d1 d == n) <;> rfl
  rw [← each]
  interval_cases n <;> rfl

theorem idxOf_permute_perm {d1 : W64} (h : isPerm d1 = true) (q : EIdx) {k : Nat} (hk : k < 6) :
    idxOf (srcIndex impPermute d1 q) (descPerm d1 k) = idxOf q k := by
  have found : (List.range 6).find? (fun d => descPerm d1 d == descPerm d1 k) = some k :=
    List.find?_range_eq_some.mpr ⟨beq_self_eq_true _, List.mem_range.mpr hk, fun j hj => by
      rw [Bool.not_eq_true', beq_eq_false_iff_ne]
      exact fun e => (Nat.ne_of_lt hj) (isPerm_inj h (hj.trans hk) hk e)⟩
  rw [idxOf_permute d1 q (descPerm_lt h hk), found]
  rfl

/-- A number of two digits, the lower below m. -/
theorem twoDigit {a m b : Nat} (h : a < m) : (a + m * b) % m = a ∧ (a + m * b) / m = b := by
  have hm : 0 < m := by omega
  exact ⟨by rw [Nat.add_mul_mod_self_left, Nat.mod_eq_of_lt h],
    by rw [Nat.add_mul_div_left _ _ hm, Nat.div_eq_of_lt h, Nat.zero_add]⟩

theorem twoDigit_lt {a m b n : Nat} (ha : a < m) (hb : b < n) : a + m * b < m * n := by
  have := Nat.mul_le_mul_left m (Nat.succ_le_of_lt hb)
  rw [Nat.mul_succ] at this
  omega

/-- The unit that holds an element. -/
def Forme.unitOf (f : Forme) (q : EIdx) : Nat :=
  q.1 / unitLen + ceilDiv (f.size 0) unitLen * (q.2.getD 0 0 + f.size 1 * (q.2.getD 1 0 + f.size 2 * (q.2.getD 2 0
    + f.size 3 * (q.2.getD 3 0 + f.size 4 * q.2.getD 4 0))))

theorem Forme.has_iff (f : Forme) (q : EIdx) : f.has q = true ↔ q.1 < f.size 0 ∧ ∀ n, n < 5 → q.2.getD n 0 < f.size (n + 1) := by
  simp only [Forme.has, Bool.and_eq_true, decide_eq_true_eq, List.all_eq_true, List.mem_range]

theorem list_of_length_five {ix : List Nat} (h : ix.length = 5) :
    ix = [ix.getD 0 0, ix.getD 1 0, ix.getD 2 0, ix.getD 3 0, ix.getD 4 0] := by
  match ix, h with
  | [a, b, c, d, e], _ => rfl

theorem div_unitLen_lt {i n : Nat} (h : i < n) : i / unitLen < ceilDiv n unitLen := by
  unfold ceilDiv unitLen
  omega

theorem unitAt_unitOf {f : Forme} {q : EIdx} (hq : f.has q = true) (hlen : q.2.length = 5) :
    unitAt f (f.unitOf q) = (q.1 / unitLen * unitLen, q.2) := by
  obtain ⟨h0, h⟩ := (f.has_iff q).mp hq
  obtain ⟨m0, d0⟩ := twoDigit (b := q.2.getD 0 0 + f.size 1 * (q.2.getD 1 0 + f.size 2 * (q.2.getD 2 0
    + f.size 3 * (q.2.getD 3 0 + f.size 4 * q.2.getD 4 0)))) (div_unitLen_lt h0)
  obtain ⟨m1, d1⟩ := twoDigit (b := q.2.getD 1 0 + f.size 2 * (q.2.getD 2 0
    + f.size 3 * (q.2.getD 3 0 + f.size 4 * q.2.getD 4 0))) (h 0 (by decide))
  obtain ⟨m2, d2⟩ := twoDigit (b := q.2.getD 2 0 + f.size 3 * (q.2.getD 3 0 + f.size 4 * q.2.getD 4 0)) (h 1 (by decide))
  obtain ⟨m3, d3⟩ := twoDigit (b := q.2.getD 3 0 + f.size 4 * q.2.getD 4 0) (h 2 (by decide))
  obtain ⟨m4, d4⟩ := twoDigit (b := q.2.getD 4 0) (h 3 (by decide))
  simp only [unitAt, Forme.unitOf, m0, d0, m1, d1, m2, d2, m3, d3, m4, d4]
  rw [← list_of_length_five hlen]

theorem unitOf_lt {f : Forme} {q : EIdx} (hq : f.has q = true) : f.unitOf q < unitCount f := by
  obtain ⟨h0, h⟩ := (f.has_iff q).mp hq
  have bound := twoDigit_lt (div_unitLen_lt h0) (twoDigit_lt (h 0 (by decide)) (twoDigit_lt (h 1 (by decide))
    (twoDigit_lt (h 2 (by decide)) (twoDigit_lt (h 3 (by decide)) (h 4 (by decide))))))
  simp only [← Nat.mul_assoc] at bound
  simpa only [Forme.unitOf, unitCount, ← Nat.mul_assoc] using bound

theorem mem_unitElems_unitOf (o : ImpOp) {q : EIdx} (hq : o.dst.has q = true) (hlen : q.2.length = 5) :
    (q, unitSource o q) ∈ unitElems o (o.dst.unitOf q) := by
  obtain ⟨h0, -⟩ := (o.dst.has_iff q).mp hq
  have split : q.1 / unitLen * unitLen + q.1 % unitLen = q.1 := Nat.div_add_mod' ..
  rw [unitElems_eq, unitAt_unitOf hq hlen, List.mem_map]
  refine ⟨q.1 % unitLen, List.mem_range.mpr (lt_min (Nat.mod_lt _ (by decide)) (by omega)), ?_⟩
  dsimp only
  rw [split]

end Sys2Proof.Machine

end

section

namespace Sys2Proof.Machine

/-! ### What a turn has written lands at its end (R129) -/

theorem storedByte_cons (w : PWrite) (ws : List PWrite) (sp : Space) (a : Nat) (b : Byte) :
    storedByte (w :: ws) sp a b = storedByte ws sp a (storedByte [w] sp a b) := rfl

theorem storedByte_append (ws ws' : List PWrite) (sp : Space) (a : Nat) (b : Byte) :
    storedByte (ws ++ ws') sp a b = storedByte ws' sp a (storedByte ws sp a b) := List.foldl_append ..

/-- Two writes of one byte as one. -/
theorem storedByte_joined (w v : PWrite) (hsp : v.sp = w.sp) (ha : v.addr = w.addr) (sp : Space) (a : Nat) (b : Byte) :
    storedByte [⟨w.sp, w.addr, w.mask ||| v.mask, (w.val &&& ~~~ v.mask) ||| (v.val &&& v.mask)⟩] sp a b
      = storedByte [w, v] sp a b := by
  simp only [storedByte, List.foldl_cons, List.foldl_nil, hsp, ha]
  split
  · ext i hi
    simp only [BitVec.getElem_or, BitVec.getElem_and, BitVec.getElem_not]
    cases b[i] <;> cases w.mask[i] <;> cases v.mask[i] <;> cases w.val[i] <;> cases v.val[i] <;> rfl
  · rfl

/-- Joining the writes of a byte that follow one another changes nothing of what they leave. -/
theorem storedByte_joinPuts (ws : List PWrite) (sp : Space) (a : Nat) (b : Byte) :
    storedByte (joinPuts ws) sp a b = storedByte ws sp a b := by
  induction ws generalizing b with
  | nil => rfl
  | cons w t ih =>
    rw [storedByte_cons w t, ← ih, joinPuts]
    split
    · next v r e =>
      rw [e]
      split
      · next h =>
        rw [storedByte_cons, storedByte_joined w v h.1 h.2]
        rfl
      · rfl
    · next e => rw [e]; rfl

theorem State.digestWrites_byteAt (s : State) (p n : Nat) (ws : List PWrite) (sp : Space) (a : Nat) :
    (s.digestWrites p n ws).byteAt sp a = s.byteAt sp a := by
  have slots : ∀ f, (s.modSlot p n f).byteAt sp a = s.byteAt sp a := fun f => by
    unfold State.modSlot
    split <;> cases sp <;> rfl
  unfold State.digestWrites
  split
  · exact slots _
  · rfl

theorem State.endTurn_byteAt {s : State} (h : s.plainWrites) (o : ImpOp) (ws : List PWrite) (left : Nat) (sp : Space) (a : Nat) :
    (s.endTurn o ws left).2.byteAt sp a = storedByte ws sp a (s.byteAt sp a) := by
  rw [State.endTurn, State.stepWrite, State.digestWrites_byteAt, State.writeBytes_plain h, State.byteAt_putBytes,
    storedByte_joinPuts]

/-- Reading memories without stored errors changes nothing and meets no poison. -/
theorem State.readElems_state {s : State} (h : s.plainReads) (p : Nat) (f : Forme) (qs : List EIdx) :
    ∃ cs, s.readElems p f qs = (cs, false, s) := by
  simp only [State.readElems, State.readBytes_plain h]
  split <;> exact ⟨_, rfl⟩

theorem State.unitVals_state {s : State} (h : s.plainReads) (o : ImpOp) (js : List EIdx) :
    ∃ vs, s.unitVals o js = (vs, false, s) := by
  obtain ⟨cs, hc⟩ := State.readElems_state h o.part o.src js
  obtain ⟨sc, hs⟩ := State.readElems_state h o.part o.ssc ((js.filter (fun j => o.ssc.has (scaleIdx j))).map scaleIdx)
  unfold State.unitVals
  rw [hc]
  dsimp only
  rw [hs]
  split <;> exact ⟨_, rfl⟩

/-- A unit that reads memories without stored errors leaves the state as it was. -/
theorem State.moveUnit_state {s : State} (h : s.plainReads) (o : ImpOp) (u : Nat) : ∃ ws, s.moveUnit o u = (ws, s) := by
  obtain ⟨cs, hc⟩ := State.readElems_state h o.part o.src ((unitElems o u).filterMap (·.2))
  obtain ⟨vs, hv⟩ := State.unitVals_state h o ((unitElems o u).filterMap (·.2))
  unfold State.moveUnit
  dsimp only
  rw [hc, hv]
  split <;> exact ⟨_, rfl⟩

/-- The operation with k units more moved. -/
def ImpOp.movedOn (o : ImpOp) (k : Nat) : ImpOp := { o with pos := o.pos + k }

theorem ImpOp.movedOn_movedOn (o : ImpOp) (j k : Nat) : (o.movedOn j).movedOn k = o.movedOn (j + k) := by
  simp only [ImpOp.movedOn, Nat.add_assoc]

theorem unitElems_movedOn (o : ImpOp) (k u : Nat) : unitElems (o.movedOn k) u = unitElems o u := rfl

theorem takenElems_movedOn (o : ImpOp) (k : Nat) : takenElems (o.movedOn k) = takenElems o := by
  simp only [takenElems, unitElems_movedOn]
  rfl

theorem blockWrites_movedOn (o : ImpOp) (k : Nat) : blockWrites (o.movedOn k) = blockWrites o := rfl

theorem State.unitVals_movedOn (s : State) (o : ImpOp) (k : Nat) (js : List EIdx) :
    s.unitVals (o.movedOn k) js = s.unitVals o js := rfl

/-- What a unit writes does not depend on how far the operation has come. -/
theorem State.moveUnit_movedOn (s : State) (o : ImpOp) (k u : Nat) : s.moveUnit (o.movedOn k) u = s.moveUnit o u := by
  simp only [State.moveUnit, unitElems_movedOn, takenElems_movedOn, blockWrites_movedOn, State.unitVals_movedOn]
  rfl

/-- What the next n units write. -/
def State.unitWrites (s : State) (o : ImpOp) (n : Nat) : List PWrite :=
  (List.range n).flatMap (fun k => (s.moveUnit o (o.pos + k)).1)

theorem State.unitWrites_succ (s : State) (o : ImpOp) (n : Nat) :
    s.unitWrites o (n + 1) = (s.moveUnit o o.pos).1 ++ s.unitWrites (o.movedOn 1) n := by
  rw [State.unitWrites, List.range_succ_eq_map, List.flatMap_cons, List.flatMap_map]
  simp only [State.unitWrites, State.moveUnit_movedOn]
  simp only [ImpOp.movedOn, Nat.succ_eq_add_one, Nat.add_assoc, Nat.add_comm 1, Nat.add_zero]

/-- A turn that can pay for the next n units of an operation, none of which waits, moves them all. -/
theorem State.moveUnits_all {s : State} (h : s.plainReads) (c : Nat) {o : ImpOp} (hcode : o.code ≤ impDieslice) (ws : List PWrite)
    {left n : Nat} (htotal : o.total = some (o.pos + n)) (hcalm : ∀ k, k < n → s.unitWaits (o.movedOn k) = false)
    (hcost : ((List.range n).map (fun k => s.unitCost (o.movedOn k))).sum ≤ left) :
    s.moveUnits c o ws left n = s.endTurn (o.movedOn n) (ws ++ s.unitWrites o n) 0 := by
  induction n generalizing o ws left with
  | zero => rw [State.moveUnits, State.unitWrites, List.range_zero, List.flatMap_nil, List.append_nil]; rfl
  | succ n ih =>
    have walks : ¬ o.code ≥ impGather := Nat.not_le.mpr (Nat.lt_succ_of_le hcode)
    have first : s.unitWaits o = false := hcalm 0 (Nat.succ_pos n)
    obtain ⟨w, unit⟩ := State.moveUnit_state h o o.pos
    rw [List.range_succ_eq_map, List.map_cons, List.sum_cons, List.map_map] at hcost
    have pay : ¬ left < s.unitCost o := Nat.not_lt.mpr ((Nat.le_add_right _ _).trans hcost)
    have next : ∀ k, (o.movedOn 1).movedOn k = o.movedOn (k + 1) := fun k => by rw [ImpOp.movedOn_movedOn, Nat.add_comm]
    have rest := ih (o := o.movedOn 1) hcode (ws ++ w) (left := left - s.unitCost o)
      (htotal.trans (congrArg some (by rw [ImpOp.movedOn, Nat.add_assoc, Nat.add_comm 1])))
      (fun k hk => by rw [next]; exact hcalm (k + 1) (Nat.succ_lt_succ hk))
      (by simp only [next]; exact Nat.le_sub_of_add_le' hcost)
    unfold State.moveUnits
    rw [if_neg (by simp [htotal, first]), if_neg walks]
    dsimp only
    rw [if_neg pay, unit]
    dsimp only
    rw [s.unitWrites_succ, unit, ← List.append_assoc, ← next n, ← rest]
    rfl

end Sys2Proof.Machine

end

section

namespace Sys2Proof.Machine

/-! ### Elements as memory holds them -/

/-- Byte j of the tile-sized row of forme f that holds element i0 of row ix, as rd reads the places. -/
def State.rowByte (s : State) (rd : Space → Nat → Byte) (p : Nat) (f : Forme) (q : EIdx) (j : Nat) : Byte :=
  match s.formeXl p f (f.byteAt q.1 q.2 j) with
  | some l => rd l.1 l.2
  | none => 0

/-- Code of an element and its exponent byte, as rd reads the places. -/
def State.elemBy (s : State) (rd : Space → Nat → Byte) (p : Nat) (f : Forme) (q : EIdx) : Nat × Nat :=
  (elemCode f.fmt (s.rowByte rd p f q) (q.1 % f.fmt.perRow),
   if f.fmt = .zb8 then (s.rowByte rd p f q (240 + q.1 % f.fmt.perRow / 16)).toNat else 0)

theorem bitsAt_byte (rd : Nat → Byte) (k : Nat) : bitsAt rd (k * 8) 8 = (rd k).toNat := by
  have hb : (rd k).toNat < 256 := (rd k).isLt
  simp only [bitsAt, Nat.mul_mod_left, Nat.mul_div_cancel k (show 0 < 8 by decide), ceilDiv]
  simp [leNat, Nat.mod_eq_of_lt hb]

/-- The bytes of an element give its code. -/
theorem elemOf_row (f : Fmt) (rd : Nat → Byte) (i0 : Nat) :
    elemOf f i0 ((elemBytes f (i0 % f.perRow)).map rd)
      = (elemCode f rd (i0 % f.perRow), if f = .zb8 then (rd (240 + i0 % f.perRow / 16)).toNat else 0) := by
  by_cases hz : f = .zb8
  · subst hz
    refine Prod.ext ?_ rfl
    exact (bitsAt_byte rd (i0 % 240)).symm
  · simp only [elemOf, elemBytes, if_neg hz, List.map_map]
    rfl

theorem State.elemAt_eq (s : State) (p : Nat) (f : Forme) (q : EIdx) : s.elemAt p f q = s.elemBy s.byteAt p f q := by
  rw [State.elemAt, Forme.elemAddrs, List.map_map]
  exact elemOf_row f.fmt (s.rowByte s.byteAt p f q) q.1

theorem State.elemAfter_eq (s : State) (ws : List PWrite) (p : Nat) (f : Forme) (q : EIdx) :
    s.elemAfter ws p f q = s.elemBy (fun sp a => storedByte ws sp a (s.byteAt sp a)) p f q := by
  rw [State.elemAfter, Forme.elemAddrs, List.map_map]
  exact elemOf_row f.fmt (s.rowByte (fun sp a => storedByte ws sp a (s.byteAt sp a)) p f q) q.1

/-- What an element holds fits its format. -/
theorem State.elemAt_codeOk (s : State) (p : Nat) (f : Forme) (q : EIdx) : f.fmt.codeOk (s.elemAt p f q).1 := by
  rw [s.elemAt_eq]
  exact elemCode_codeOk ..

theorem State.elemAt_exp_lt (s : State) (p : Nat) (f : Forme) (q : EIdx) : (s.elemAt p f q).2 < 256 := by
  rw [s.elemAt_eq, State.elemBy]
  dsimp only
  split
  · exact BitVec.isLt _
  · decide

/-! ### Reads of elements -/

/-- The bytes of elements, read in one piece, are taken apart element by element. -/
theorem foldl_takeElems (f : Forme) (g : Nat → Byte) (qs : List EIdx) (acc : List (Nat × Nat)) :
    ((List.zip qs (qs.map f.elemAddrs)).foldl (fun (a : List (Nat × Nat) × List Byte) q =>
      (elemOf f.fmt q.1.1 (a.2.take q.2.length) :: a.1, a.2.drop q.2.length)) (acc, (qs.map f.elemAddrs).flatten.map g)).1
      = (qs.map (fun q => elemOf f.fmt q.1 ((f.elemAddrs q).map g))).reverse ++ acc := by
  induction qs generalizing acc with
  | nil => rfl
  | cons q qs ih =>
    simp only [List.map_cons, List.flatten_cons, List.map_append, List.zip_cons_cons, List.foldl_cons, List.reverse_cons,
      List.append_assoc, List.singleton_append]
    rw [List.take_left' (List.length_map ..), List.drop_left' (List.length_map ..), ih]

/-- The bytes at addresses that all have a place. -/
theorem State.bytes_located {s : State} {p : Nat} {f : Forme} {as : List Nat} (h : ∀ a ∈ as, (s.formeXl p f a).isSome = true) :
    ((as.map (s.formeXl p f)).filterMap id).map (fun l => s.byteAt l.1 l.2)
      = as.map (fun a => match s.formeXl p f a with | some l => s.byteAt l.1 l.2 | none => 0) := by
  rw [List.filterMap_map, Function.id_comp]
  induction as with
  | nil => rfl
  | cons a as ih =>
    obtain ⟨l, hl⟩ := Option.isSome_iff_exists.mp (h a List.mem_cons_self)
    rw [List.filterMap_cons_some (b := l) hl, List.map_cons, List.map_cons, ih fun b hb => h b (List.mem_cons_of_mem _ hb), hl]

/-- Looking up an element in a table of a list's elements. -/
theorem find?_zip_map {α β : Type} [BEq α] [LawfulBEq α] (l : List α) (g : α → β) {j : α} :
    (List.zip l (l.map g)).find? (fun t => t.1 == j) = if l.contains j then some (j, g j) else none := by
  induction l with
  | nil => rfl
  | cons x l ih =>
    rw [List.map_cons, List.zip_cons_cons, List.contains_cons]
    by_cases hx : x = j
    · subst hx
      simp
    · rw [List.find?_cons_of_neg (by simpa using hx), ih, beq_false_of_ne (Ne.symm hx), Bool.false_or]

/-- Elements with a place read as memory holds them. -/
theorem State.readElems_located {s : State} (h : s.plainReads) {p : Nat} {f : Forme} {qs : List EIdx} (hl : s.located p f qs) :
    s.readElems p f qs = (qs.map (s.elemAt p f), false, s) := by
  have places : ((qs.map f.elemAddrs).flatten.map (s.formeXl p f)).any (·.isNone) = false := by
    rw [List.any_eq_false]
    intro l hl'
    obtain ⟨a, ha, rfl⟩ := List.mem_map.mp hl'
    obtain ⟨as, has, ha⟩ := List.mem_flatten.mp ha
    obtain ⟨q, hq, rfl⟩ := List.mem_map.mp has
    simp [Option.isSome_iff_ne_none.mp (hl q hq a ha)]
  unfold State.readElems
  dsimp only
  rw [places, State.readBytes_plain h, State.bytes_located fun a ha => ?_]
  · dsimp only
    rw [if_neg Bool.false_ne_true, foldl_takeElems, List.append_nil, List.reverse_reverse]
    rfl
  · obtain ⟨as, has, ha⟩ := List.mem_flatten.mp ha
    obtain ⟨q, hq, rfl⟩ := List.mem_map.mp has
    exact hl q hq a ha

/-- Values of located source elements, with the scales of their blocks (R206). -/
theorem State.unitVals_located {s : State} (h : s.plainReads) {o : ImpOp} {js : List EIdx} (hsrc : s.located o.part o.src js)
    (hscale : scaledSrc o = true → s.located o.part o.ssc ((js.map scaleIdx).filter o.ssc.has)) :
    s.unitVals o js = (js.map (s.srcVal o), false, s) := by
  unfold State.unitVals
  rw [State.readElems_located h hsrc]
  dsimp only
  split
  · next hs =>
    have inside : (js.filter (fun j => o.ssc.has (scaleIdx j))).map scaleIdx = (js.map scaleIdx).filter o.ssc.has := by
      rw [List.filter_map]
      rfl
    rw [inside, State.readElems_located h (hscale hs), ← inside]
    dsimp only
    rw [Bool.or_false, List.map_map, List.zipWith_map_right, List.zipWith_self]
    refine Prod.ext (List.map_congr_left fun j hj => ?_) rfl
    rw [State.srcVal, if_pos hs]
    have listed : (js.filter (fun j => o.ssc.has (scaleIdx j))).contains j = o.ssc.has (scaleIdx j) := by
      rw [Bool.eq_iff_iff, List.contains_iff_mem, List.mem_filter]
      exact and_iff_right hj
    rw [find?_zip_map, listed]
    cases o.ssc.has (scaleIdx j) <;> rfl
  · next hs =>
    rw [List.map_map]
    refine Prod.ext (List.map_congr_left fun j _ => ?_) rfl
    rw [State.srcVal, if_neg hs]
    rfl

end Sys2Proof.Machine

end

section

namespace Sys2Proof.Machine

/-! ### Places of the elements of one row -/

theorem Template.xlStack_page {t : Template} {a x : Nat} (h : t.xlStack a = some x) : x % 2 ^ 21 = a % 2 ^ 21 := by
  unfold Template.xlStack stackBytes at h
  dsimp only at h
  split at h
  · cases h
  · split at h
    · cases h; rfl
    · split at h
      · cases h
      · cases h; omega

theorem Template.xlCase_page {t : Template} {a x : Nat} (h : t.xlCase a = some x) : x % 2 ^ 21 = a % 2 ^ 21 := by
  unfold Template.xlCase at h
  dsimp only at h
  split at h
  · cases h
  · split at h
    · cases h; rfl
    · split at h
      · cases h
      · cases h; omega

/-- Translation keeps the offset in a page of 2 MiB (R381). -/
theorem State.formeXl_page {s : State} {p : Nat} {f : Forme} {a : Nat} {l : Space × Nat} (h : s.formeXl p f a = some l) :
    l.2 % 2 ^ 21 = a % 2 ^ 21 := by
  unfold State.formeXl at h
  split at h
  · unfold stackBytes caseBytes storeBytes at h
    split at h <;> cases h <;> dsimp only <;> omega
  · unfold State.xl at h
    dsimp only at h
    split at h
    · obtain ⟨x, hx, rfl⟩ := Option.map_eq_some_iff.mp h
      exact Template.xlStack_page hx
    · obtain ⟨x, hx, rfl⟩ := Option.map_eq_some_iff.mp h
      exact Template.xlCase_page hx
    · split at h
      · cases h; rfl
      · cases h
    · cases h

/-- Bytes that a tile-sized row has, and where its elements end (Table 6.1). -/
theorem Fmt.row_shape (f : Fmt) : 64 ≤ f.perRow ∧ f.perRow * f.bits ≤ 8 * f.rowBytes ∧ f.rowBytes ≤ 256 ∧ 0 < f.bits := by
  cases f <;> decide

/-- Elements of one unit lie in tile-sized rows that are the same or neighbours. -/
theorem near_rows {f : Fmt} {lo x y : Nat} (hx : lo ≤ x ∧ x < lo + unitLen) (hy : lo ≤ y ∧ y < lo + unitLen) :
    x / f.perRow ≤ y / f.perRow + 1 := by
  have hrow := f.row_shape.1
  unfold unitLen at hx hy
  calc x / f.perRow ≤ (y + f.perRow) / f.perRow := Nat.div_le_div_right (by omega)
    _ = y / f.perRow + 1 := Nat.add_div_right _ (by omega)

theorem Fmt.rowBytes_cases (f : Fmt) : f.rowBytes = 192 ∨ f.rowBytes = 256 := by cases f <;> decide

/-- Where byte j of the tile-sized row that holds element i0 lies, in the natural, tile-major and die-sliced views (R195
to R197). -/
theorem Forme.byteAt_shape (f : Forme) (ix : List Nat) :
    (∃ b, ∀ i0 j, f.byteAt i0 ix j = b + (i0 / f.fmt.perRow * f.fmt.rowBytes + j))
    ∨ (∃ b, ∀ i0 j, f.byteAt i0 ix j = b + 32768 * (i0 / f.fmt.perRow) + j)
    ∨ ∃ b, ∀ i0 j, f.byteAt i0 ix j = b + 64 * ((i0 / f.fmt.perRow * f.fmt.rowBytes + j) / 4)
        + (i0 / f.fmt.perRow * f.fmt.rowBytes + j) % 4 := by
  unfold Forme.byteAt
  dsimp only
  split
  · have reorder : ∀ a b c d j : Nat, a + 32768 * (b + c) + d + j = a + 32768 * c + d + 32768 * b + j := by omega
    exact .inr (.inl ⟨_, fun i0 j => reorder ..⟩)
  · exact .inr (.inr ⟨_, fun i0 j => by rw [Nat.add_right_comm (f.base + _)]⟩)
  · exact .inl ⟨_, fun i0 j => by rw [Nat.add_assoc]⟩

/-- Positions in a run of tile-sized rows: those of neighbouring rows are near, and each has one row and byte. -/
theorem rowPos_near {f : Fmt} {m n i j : Nat} (hmn : m ≤ n + 1) (hnm : n ≤ m + 1) (hi : i < f.rowBytes) (hj : j < f.rowBytes) :
    m * f.rowBytes + i ≤ n * f.rowBytes + j + 512 ∧ n * f.rowBytes + j ≤ m * f.rowBytes + i + 512
      ∧ (m * f.rowBytes + i = n * f.rowBytes + j → m = n ∧ i = j) := by
  rcases f.rowBytes_cases with hr | hr <;> rw [hr] at hi hj ⊢ <;> omega

/-- No two bytes of the tile-sized rows of a unit share a place. -/
theorem byteAt_inj {s : State} {p : Nat} {f : Forme} {ix : List Nat} {lo x y i j : Nat} {l : Space × Nat}
    (hx : lo ≤ x ∧ x < lo + unitLen) (hy : lo ≤ y ∧ y < lo + unitLen) (hi : i < f.fmt.rowBytes) (hj : j < f.fmt.rowBytes)
    (h : s.formeXl p f (f.byteAt x ix i) = some l) (h' : s.formeXl p f (f.byteAt y ix j) = some l) :
    x / f.fmt.perRow = y / f.fmt.perRow ∧ i = j := by
  have page := (State.formeXl_page h).symm.trans (State.formeXl_page h')
  have hxy := near_rows (f := f.fmt) hx hy
  have hyx := near_rows (f := f.fmt) hy hx
  obtain ⟨near, near', same⟩ := rowPos_near hxy hyx hi hj
  have hrow := f.fmt.row_shape.2.2.1
  rcases f.byteAt_shape ix with ⟨b, hb⟩ | ⟨b, hb⟩ | ⟨b, hb⟩ <;> rw [hb, hb] at page
  · exact same (by omega)
  · omega
  · exact same (by omega)

/-! ### Masked writes of places, bit by bit -/

/-- The write reaches bit i of the byte at l. -/
def PWrite.hits (w : PWrite) (l : Space × Nat) (i : Nat) : Prop := (w.sp, w.addr) = l ∧ w.mask.getLsbD i = true

/-- The writes of one memory, as those of tile memory are written. -/
def writesOf (ws : List PWrite) (sp : Space) : List TWrite :=
  (ws.filter (fun w => w.sp = sp)).map (fun w => ⟨w.addr, w.mask, w.val⟩)

theorem storedByte_eq (ws : List PWrite) (sp : Space) (a : Nat) (b : Byte) :
    storedByte ws sp a b = writtenByte (writesOf ws sp) a b := by
  induction ws generalizing b with
  | nil => rfl
  | cons w ws ih =>
    by_cases hsp : w.sp = sp
    · simpa [storedByte, writtenByte, writesOf, hsp] using ih _
    · simpa [storedByte, writtenByte, writesOf, hsp] using ih b

theorem mem_writesOf {ws : List PWrite} {sp : Space} {v : TWrite} :
    v ∈ writesOf ws sp ↔ ∃ w ∈ ws, w.sp = sp ∧ v = ⟨w.addr, w.mask, w.val⟩ := by
  simp only [writesOf, List.mem_map, List.mem_filter, decide_eq_true_eq, and_assoc, eq_comm (a := v)]

section Bits

variable {ws : List PWrite} {l : Space × Nat} {i : Nat}

theorem bit_pos (a : Nat) (hi : i < 8) : (8 * a + i) / 8 = a ∧ (8 * a + i) % 8 = i := by omega

theorem hits_of_writesOf (hi : i < 8) {v : TWrite} (hv : v ∈ writesOf ws l.1) (hit : v.hits (8 * l.2 + i)) :
    ∃ w ∈ ws, w.hits l i ∧ v.val = w.val := by
  obtain ⟨w, hw, hsp, rfl⟩ := mem_writesOf.mp hv
  rw [TWrite.hits, (bit_pos l.2 hi).1, (bit_pos l.2 hi).2] at hit
  exact ⟨w, hw, ⟨Prod.ext hsp hit.1, hit.2⟩, rfl⟩

/-- A bit that no write reaches stays. -/
theorem storedByte_miss (hi : i < 8) (h : ∀ w ∈ ws, ¬ w.hits l i) (b : Byte) :
    (storedByte ws l.1 l.2 b).getLsbD i = b.getLsbD i := by
  have kept := writtenByte_miss (ws := writesOf ws l.1) (p := 8 * l.2 + i) (fun v hv hit => by
    obtain ⟨w, hw, hw', -⟩ := hits_of_writesOf hi hv hit
    exact h w hw hw') b
  rwa [(bit_pos l.2 hi).1, (bit_pos l.2 hi).2, ← storedByte_eq] at kept

/-- A bit that writes reach, all with one value, takes it. -/
theorem storedByte_hit (hi : i < 8) {v : Bool} (h : ∃ w ∈ ws, w.hits l i) (hv : ∀ w ∈ ws, w.hits l i → w.val.getLsbD i = v)
    (b : Byte) : (storedByte ws l.1 l.2 b).getLsbD i = v := by
  obtain ⟨w, hw, hsp, hm⟩ := h
  have set := writtenByte_hit (ws := writesOf ws l.1) (p := 8 * l.2 + i) (v := v)
    ⟨_, mem_writesOf.mpr ⟨w, hw, congrArg Prod.fst hsp, rfl⟩, by
      rw [TWrite.hits, (bit_pos l.2 hi).1, (bit_pos l.2 hi).2]
      exact ⟨congrArg Prod.snd hsp, hm⟩⟩
    (fun u hu hit => by
      obtain ⟨w', hw', hit', e⟩ := hits_of_writesOf hi hu hit
      rw [e, (bit_pos l.2 hi).2]
      exact hv w' hw' hit') b
  rwa [(bit_pos l.2 hi).1, (bit_pos l.2 hi).2, ← storedByte_eq] at set

end Bits

/-! ### What the writes of a unit may be -/

/-- A masked byte at a partition address: address, mask and value. -/
abbrev MaskedByte := Nat × Byte × Byte

/-- The masked byte is one of those listed, or part of one. -/
def Within (w : MaskedByte) (ws : List MaskedByte) : Prop :=
  ∃ v ∈ ws, v.1 = w.1 ∧ v.2.2 = w.2.2 ∧ ∀ i, w.2.1.getLsbD i = true → v.2.1.getLsbD i = true

theorem Within.of_mem {w : MaskedByte} {ws : List MaskedByte} (h : w ∈ ws) : Within w ws := ⟨w, h, rfl, rfl, fun _ h => h⟩

/-- Each masked byte is part of what one element of 32 from lo of row ix receives: a code that P allows, or, in ZB8, an
exponent for its block that X allows. -/
def UnitBytes (f : Forme) (ix : List Nat) (lo : Nat) (P X : Nat → Nat → Prop) (ws : List MaskedByte) : Prop :=
  ∀ w ∈ ws, ∃ y, (lo ≤ y ∧ y < lo + unitLen)
    ∧ ((∃ c, P y c ∧ Within w (f.elemWrite (y, ix) c)) ∨ (f.fmt = .zb8 ∧ ∃ x, X y x ∧ Within w (f.expWrite (y, ix) x)))

theorem mem_formePuts {s : State} {p : Nat} {f : Forme} {ws : List MaskedByte} {v : PWrite} :
    v ∈ s.formePuts p f ws ↔ ∃ w ∈ ws, ∃ l, s.formeXl p f w.1 = some l ∧ v = ⟨l.1, l.2, w.2.1, w.2.2⟩ := by
  simp only [State.formePuts, List.mem_filterMap, Option.map_eq_some_iff, eq_comm (a := v)]

section Unit

variable {s : State} {p : Nat} {f : Forme} {ix : List Nat} {lo : Nat} {P X : Nat → Nat → Prop} {ws : List MaskedByte}

/-- Bits of an element lie in the bytes of its tile-sized row, in ZB8 before the exponents. -/
theorem elemBit_lt (f : Fmt) {k i : Nat} (hk : k < f.perRow) (hi : i < f.bits) :
    (k * f.bits + i) / 8 < f.rowBytes ∧ (f = .zb8 → (k * f.bits + i) / 8 = k) := by
  obtain ⟨-, hfit, -, -⟩ := f.row_shape
  have hend : (k + 1) * f.bits ≤ f.perRow * f.bits := Nat.mul_le_mul_right _ hk
  rw [Nat.add_mul, Nat.one_mul] at hend
  refine ⟨by omega, fun h => ?_⟩
  subst h
  have : i < 8 := hi
  change (k * 8 + i) / 8 = k
  omega

theorem elemBit_inj {w k k' i i' : Nat} (hi : i < w) (hi' : i' < w) (h : k * w + i = k' * w + i') : k = k' ∧ i = i' := by
  have hk := congrArg (· / w) h
  have hw : 0 < w := by omega
  simp only [Nat.mul_comm _ w, Nat.mul_add_div hw, Nat.div_eq_of_lt hi, Nat.div_eq_of_lt hi', Nat.add_zero] at hk
  subst hk
  exact ⟨rfl, by omega⟩

/-- A write that reaches bit i of element x is part of a code that x receives. -/
theorem code_of_hits (hu : UnitBytes f ix lo P X ws) {x i : Nat} (hx : lo ≤ x ∧ x < lo + unitLen) (hi : i < f.fmt.bits)
    {l : Space × Nat} (hl : s.formeXl p f (f.byteAt x ix ((x % f.fmt.perRow * f.fmt.bits + i) / 8)) = some l)
    {v : PWrite} (hv : v ∈ s.formePuts p f ws) (hit : v.hits l ((x % f.fmt.perRow * f.fmt.bits + i) % 8)) :
    ∃ c, P x c ∧ v.val.getLsbD ((x % f.fmt.perRow * f.fmt.bits + i) % 8) = c.testBit i := by
  obtain ⟨w, hw, l', hl', rfl⟩ := mem_formePuts.mp hv
  obtain ⟨hsame, hmask⟩ := hit
  obtain rfl : l' = l := hsame
  have hpos : 0 < f.fmt.perRow := by have := f.fmt.row_shape.1; omega
  have hmod := fun z => Nat.mod_lt z hpos
  obtain ⟨hbyte, hzb⟩ := elemBit_lt f.fmt (hmod x) hi
  obtain ⟨y, hy, ⟨c, hc, u, hu, hua, huv, hum⟩ | ⟨hz, e, -, u, hu, hua, -⟩⟩ := hu w hw
  · obtain ⟨q, hq, rfl⟩ := List.mem_map.mp hu
    dsimp only at hq hua huv hum ⊢
    generalize hb : x % f.fmt.perRow * f.fmt.bits + i = b at *
    have hit : TWrite.hits ⟨0 + q.1, q.2.1, q.2.2⟩ (8 * q.1 + b % 8) := by
      refine ⟨by dsimp only; omega, ?_⟩
      rw [(bit_pos q.1 (Nat.mod_lt _ (by decide))).2]
      exact hum _ hmask
    obtain ⟨hlow, hhigh, hval⟩ := hits_of_mem_bitsPut hq hit
    rw [(bit_pos q.1 (Nat.mod_lt _ (by decide))).2, Nat.mul_zero, Nat.zero_add] at hval
    rw [Nat.mul_zero, Nat.zero_add] at hlow hhigh
    have hfit : (y % f.fmt.perRow + 1) * f.fmt.bits ≤ f.fmt.perRow * f.fmt.bits := Nat.mul_le_mul_right _ (hmod y)
    have hrow := f.fmt.row_shape.2.1
    rw [Nat.add_mul, Nat.one_mul] at hfit
    obtain ⟨hdiv, hq1⟩ := byteAt_inj hx hy hbyte (by omega) hl (hua.symm ▸ hl')
    have hbit : x % f.fmt.perRow * f.fmt.bits + i = y % f.fmt.perRow * f.fmt.bits + (b - y % f.fmt.perRow * f.fmt.bits) := by omega
    obtain ⟨hmodxy, hi'⟩ := elemBit_inj hi (by omega) hbit
    have hxy : x = y := by rw [← Nat.div_add_mod x f.fmt.perRow, ← Nat.div_add_mod y f.fmt.perRow, hdiv, hmodxy]
    subst hxy
    refine ⟨c, hc, huv ▸ hval.trans ?_⟩
    congr 1
    omega
  · have hk := hzb hz
    have hE : f.fmt.perRow = 240 := by rw [hz]; rfl
    have hB : f.fmt.rowBytes = 256 := by rw [hz]; rfl
    have hx240 := hmod x
    have past : ∀ j, 240 ≤ j → j < 256 → f.byteAt y ix j = w.1 → False := fun j h240 h256 hj => by
      have hij := (byteAt_inj hx hy hbyte (hB ▸ h256) hl (hj.symm ▸ hl')).2
      omega
    rcases List.mem_cons.mp hu with rfl | hu
    · exact absurd hua (past _ (by omega) (by dsimp only; omega))
    · rw [List.mem_singleton.mp hu] at hua
      exact absurd hua (past 255 (by decide) (by decide))

/-- A write that reaches the exponent byte of element x's block, whole, is the exponent of an element of that block. -/
theorem exp_of_hits (hz : f.fmt = .zb8) (hu : UnitBytes f ix lo P X ws) {x i : Nat} (hx : lo ≤ x ∧ x < lo + unitLen)
    {l : Space × Nat} (hl : s.formeXl p f (f.byteAt x ix (240 + x % 240 / 16)) = some l)
    {v : PWrite} (hv : v ∈ s.formePuts p f ws) (hit : v.hits l i) :
    ∃ y e, (lo ≤ y ∧ y < lo + unitLen) ∧ y / 16 = x / 16 ∧ X y e ∧ v.val = BitVec.ofNat 8 e := by
  obtain ⟨w, hw, l', hl', rfl⟩ := mem_formePuts.mp hv
  obtain ⟨hsame, hmask⟩ := hit
  obtain rfl : l' = l := hsame
  have hE : f.fmt.perRow = 240 := by rw [hz]; rfl
  have hB : f.fmt.rowBytes = 256 := by rw [hz]; rfl
  have hbyte : 240 + x % 240 / 16 < f.fmt.rowBytes := by omega
  obtain ⟨y, hy, ⟨c, hc, u, hu, hua, huv, hum⟩ | ⟨-, e, he, u, hu, hua, huv, -⟩⟩ := hu w hw
  · obtain ⟨q, hq, rfl⟩ := List.mem_map.mp hu
    obtain ⟨t, ht, rfl⟩ := mem_bitsPut.mp hq
    have hbits : f.fmt.bits = 8 := by rw [hz]; rfl
    rw [hbits, hE] at ht
    dsimp only at hua
    rw [hbits, hE] at hua
    unfold ceilDiv at ht
    have hj := (byteAt_inj hx hy hbyte (by omega) hl (hua.symm ▸ hl')).2
    omega
  · rcases List.mem_cons.mp hu with rfl | hu
    · dsimp only at hua huv
      obtain ⟨hdiv, hj⟩ := byteAt_inj hx hy hbyte (by omega) hl (hua.symm ▸ hl')
      rw [hE] at hdiv
      exact ⟨y, e, hy, by omega, he, huv.symm⟩
    · rw [List.mem_singleton.mp hu] at hua
      have hj := (byteAt_inj hx hy hbyte (by omega) hl (hua.symm ▸ hl')).2
      omega

end Unit

end Sys2Proof.Machine

end

section

namespace Sys2Proof.Machine

/-! ### Elements once a unit's writes have landed -/

theorem mem_elemBytes (f : Fmt) {k i : Nat} (hk : k < f.perRow) (hi : i < f.bits) : (k * f.bits + i) / 8 ∈ elemBytes f k := by
  unfold elemBytes
  split
  · next h => rw [(elemBit_lt f hk hi).2 h]; exact List.mem_cons_self
  · refine List.mem_map.mpr ⟨(k * f.bits + i) / 8 - k * f.bits / 8, List.mem_range.mpr ?_, by omega⟩
    unfold ceilDiv
    omega

theorem rowByte_place {s : State} {p : Nat} {f : Forme} {q : EIdx} {j : Nat} {l : Space × Nat}
    (h : s.formeXl p f (f.byteAt q.1 q.2 j) = some l) (rd : Space → Nat → Byte) : s.rowByte rd p f q j = rd l.1 l.2 := by
  rw [State.rowByte, h]

/-- An element of a tile-sized row is one of those it holds. -/
theorem Fmt.mod_perRow_lt (f : Fmt) (i0 : Nat) : i0 % f.perRow < f.perRow :=
  Nat.mod_lt _ (by have := f.row_shape.1; omega)

theorem State.elemBy_fst (s : State) (rd : Space → Nat → Byte) (p : Nat) (f : Forme) (q : EIdx) :
    (s.elemBy rd p f q).1 = elemCode f.fmt (s.rowByte rd p f q) (q.1 % f.fmt.perRow) := rfl

theorem State.elemBy_snd (s : State) (rd : Space → Nat → Byte) (p : Nat) (f : Forme) (q : EIdx) :
    (s.elemBy rd p f q).2 = if f.fmt = .zb8 then (s.rowByte rd p f q (240 + q.1 % f.fmt.perRow / 16)).toNat else 0 := rfl

theorem getLsbD_ones {i : Nat} (hi : i < 8) : (0xFF : Byte).getLsbD i = true := by
  have : ∀ i, i < 8 → (0xFF : Byte).getLsbD i = true := by decide
  exact this i hi

/-- A code whose every bit a byte reader shows is the code read. -/
theorem elemCode_of_bits {f : Fmt} {rd : Nat → Byte} {k c : Nat} (hc : f.codeOk c)
    (h : ∀ i, i < f.bits → (rd ((k * f.bits + i) / 8)).getLsbD ((k * f.bits + i) % 8) = c.testBit i) : elemCode f rd k = c := by
  have code : bitsAt rd (k * f.bits) f.bits = c := by
    apply Nat.eq_of_testBit_eq
    intro i
    rw [testBit_bitsAt]
    by_cases hi : i < f.bits
    · simp [hi, h i hi]
    · simp [hi, Nat.testBit_lt_two_pow (lt_of_lt_of_le hc.1 (Nat.pow_le_pow_right (by decide) (Nat.le_of_not_lt hi)))]
  rw [elemCode, code]
  split
  · next ha => exact Nat.mod_eq_of_lt (hc.2 ha)
  · rfl

/-- A byte is a code of a format of 8 bits. -/
theorem codeOk_of_byte {f : Fmt} {v : Nat} (hb : f.bits = 8) (hv : v < 256) : f.codeOk v :=
  ⟨by rw [hb]; exact hv, fun ha => by rw [ha] at hb; exact absurd hb (by decide)⟩

/-- Two readers that show the same bits of an element read the same code. -/
theorem elemCode_congr {f : Fmt} {rd rd' : Nat → Byte} {k : Nat}
    (h : ∀ i, i < f.bits → (rd ((k * f.bits + i) / 8)).getLsbD ((k * f.bits + i) % 8)
      = (rd' ((k * f.bits + i) / 8)).getLsbD ((k * f.bits + i) % 8)) : elemCode f rd k = elemCode f rd' k := by
  have code : bitsAt rd (k * f.bits) f.bits = bitsAt rd' (k * f.bits) f.bits := by
    apply Nat.eq_of_testBit_eq
    intro i
    rw [testBit_bitsAt, testBit_bitsAt]
    by_cases hi : i < f.bits
    · rw [h i hi]
    · simp [hi]
  rw [elemCode, elemCode, code]

section Unit

variable {s : State} {p : Nat} {f : Forme} {ix : List Nat} {lo : Nat} {P X : Nat → Nat → Prop} {ws : List MaskedByte} {x : Nat}

/-- The place of a bit of a located element. -/
theorem place_of_located (hl : s.located p f [(x, ix)]) {i : Nat} (hi : i < f.fmt.bits) :
    ∃ l, s.formeXl p f (f.byteAt x ix ((x % f.fmt.perRow * f.fmt.bits + i) / 8)) = some l :=
  Option.isSome_iff_exists.mp (hl (x, ix) List.mem_cons_self _
    (List.mem_map.mpr ⟨_, mem_elemBytes f.fmt (f.fmt.mod_perRow_lt x) hi, rfl⟩))

/-- An element that receives one code holds it, whatever was written before. -/
theorem elemAfter_code_append (hu : UnitBytes f ix lo P X ws) (hx : lo ≤ x ∧ x < lo + unitLen) (hl : s.located p f [(x, ix)]) {c : Nat}
    (hall : ∀ w ∈ f.elemWrite (x, ix) c, w ∈ ws) (huniq : ∀ c', P x c' → c' = c) (hc : f.fmt.codeOk c) (pre : List PWrite) :
    (s.elemAfter (pre ++ s.formePuts p f ws) p f (x, ix)).1 = c := by
  rw [s.elemAfter_eq, State.elemBy_fst]
  refine elemCode_of_bits hc fun i hi => ?_
  obtain ⟨l, hplace⟩ := place_of_located hl hi
  have hi8 : (x % f.fmt.perRow * f.fmt.bits + i) % 8 < 8 := Nat.mod_lt _ (by decide)
  rw [rowByte_place (q := (x, ix)) hplace, storedByte_append]
  refine storedByte_hit hi8 ?_ (fun v hv hit => ?_) _
  · obtain ⟨q, hq, ha, hm⟩ := exists_hits_bitsPut (b := x % f.fmt.perRow * f.fmt.bits) (w := f.fmt.bits) (base := 0)
      (p := x % f.fmt.perRow * f.fmt.bits + i) c (by omega) (by omega)
    have hq1 : q.1 = (x % f.fmt.perRow * f.fmt.bits + i) / 8 := (Nat.zero_add _).symm.trans ha
    exact ⟨_, mem_formePuts.mpr ⟨_, hall _ (List.mem_map.mpr ⟨q, hq, rfl⟩), l, by rw [← hplace, ← hq1], rfl⟩, rfl, hm⟩
  · obtain ⟨c', hc', hval⟩ := code_of_hits hu hx hi hplace hv hit
    rw [hval, huniq c' hc']

theorem elemAfter_code (hu : UnitBytes f ix lo P X ws) (hx : lo ≤ x ∧ x < lo + unitLen) (hl : s.located p f [(x, ix)]) {c : Nat}
    (hall : ∀ w ∈ f.elemWrite (x, ix) c, w ∈ ws) (huniq : ∀ c', P x c' → c' = c) (hc : f.fmt.codeOk c) :
    (s.elemAfter (s.formePuts p f ws) p f (x, ix)).1 = c := by
  rw [← List.nil_append (s.formePuts p f ws)]
  exact elemAfter_code_append hu hx hl hall huniq hc []

/-- An element that receives nothing keeps its code. -/
theorem elemAfter_kept (hu : UnitBytes f ix lo P X ws) (hx : lo ≤ x ∧ x < lo + unitLen) (hl : s.located p f [(x, ix)])
    (hno : ∀ c, ¬ P x c) : (s.elemAfter (s.formePuts p f ws) p f (x, ix)).1 = (s.elemAt p f (x, ix)).1 := by
  rw [s.elemAfter_eq, s.elemAt_eq, State.elemBy_fst, State.elemBy_fst]
  refine elemCode_congr fun i hi => ?_
  obtain ⟨l, hplace⟩ := place_of_located hl hi
  rw [rowByte_place (q := (x, ix)) hplace, rowByte_place (q := (x, ix)) hplace]
  refine storedByte_miss (Nat.mod_lt _ (by decide)) (fun v hv hit => ?_) _
  obtain ⟨c, hc, -⟩ := code_of_hits hu hx hi hplace hv hit
  exact hno c hc

/-- A ZB8 element whose block receives one exponent has it. -/
theorem elemAfter_exp (hz : f.fmt = .zb8) (hu : UnitBytes f ix lo P X ws) (hx : lo ≤ x ∧ x < lo + unitLen)
    (hl : s.located p f [(x, ix)]) {y e : Nat} (hy : y / 16 = x / 16) (hall : ∀ w ∈ f.expWrite (y, ix) e, w ∈ ws)
    (huniq : ∀ y e', lo ≤ y ∧ y < lo + unitLen → y / 16 = x / 16 → X y e' → e' = e) (he : e < 256) :
    (s.elemAfter (s.formePuts p f ws) p f (x, ix)).2 = e := by
  have hE : f.fmt.perRow = 240 := by rw [hz]; rfl
  obtain ⟨l, hplace⟩ := Option.isSome_iff_exists.mp (hl (x, ix) List.mem_cons_self (f.byteAt x ix (240 + x % 240 / 16))
    (List.mem_map.mpr ⟨_, by rw [hE, hz]; exact List.mem_cons_of_mem _ List.mem_cons_self, rfl⟩))
  have exponent : s.rowByte (fun sp a => storedByte (s.formePuts p f ws) sp a (s.byteAt sp a)) p f (x, ix) (240 + x % 240 / 16)
      = BitVec.ofNat 8 e := by
    rw [rowByte_place (q := (x, ix)) hplace]
    refine BitVec.eq_of_getLsbD_eq fun i hi => storedByte_hit hi ?_ (fun v hv hit => ?_) _
    · have same : f.byteAt y ix (240 + y % 240 / 16) = f.byteAt x ix (240 + x % 240 / 16) := by
        have h1 : y / 240 = x / 240 := by omega
        have h2 : y % 240 / 16 = x % 240 / 16 := by omega
        simp only [Forme.byteAt, hE, h1, h2]
      refine ⟨_, mem_formePuts.mpr ⟨_, hall _ List.mem_cons_self, l, by rw [← hplace, ← same], rfl⟩, rfl, ?_⟩
      exact getLsbD_ones hi
    · obtain ⟨y', e', hy', hblock, he', hval⟩ := exp_of_hits hz hu hx hplace hv hit
      rw [hval, huniq y' e' hy' hblock he']
  rw [s.elemAfter_eq, State.elemBy_snd, if_pos hz, hE, exponent, BitVec.toNat_ofNat, Nat.mod_eq_of_lt he]

theorem elemAfter_exp_zero (hz : f.fmt ≠ .zb8) (ws : List PWrite) (q : EIdx) : (s.elemAfter ws p f q).2 = 0 := by
  rw [s.elemAfter_eq, State.elemBy_snd, if_neg hz]

end Unit

end Sys2Proof.Machine

end

section

namespace Sys2Proof.Machine

/-! ### Lists of a unit's elements -/

/-- At most 32 elements of row ix, one after the other from lo, each with something beside it. -/
def UnitList {β : Type} (ix : List Nat) (lo : Nat) (es : List (EIdx × β)) : Prop :=
  ∃ n, n ≤ unitLen ∧ es.map (·.1) = (List.range n).map (fun k => ((lo + k, ix) : EIdx))

section UnitList

variable {β γ : Type} {ix : List Nat} {lo : Nat} {es : List (EIdx × β)}

theorem UnitList.map (h : UnitList ix lo es) (g : EIdx × β → γ) : UnitList ix lo (es.map (fun e => (e.1, g e))) := by
  obtain ⟨n, hn, e⟩ := h
  exact ⟨n, hn, by rw [List.map_map]; exact e⟩

theorem UnitList.mem (h : UnitList ix lo es) {e : EIdx × β} (he : e ∈ es) :
    e.1.2 = ix ∧ lo ≤ e.1.1 ∧ e.1.1 < lo + unitLen := by
  obtain ⟨n, hn, keys⟩ := h
  have hk : e.1 ∈ (List.range n).map (fun k => ((lo + k, ix) : EIdx)) := keys ▸ List.mem_map_of_mem he
  obtain ⟨k, hk, e1⟩ := List.mem_map.mp hk
  rw [← e1]
  have := List.mem_range.mp hk
  exact ⟨rfl, by dsimp only; omega, by dsimp only; omega⟩

theorem UnitList.unique (h : UnitList ix lo es) {q : EIdx} {a b : β} (ha : (q, a) ∈ es) (hb : (q, b) ∈ es) : a = b := by
  obtain ⟨n, -, keys⟩ := h
  have nodup : (es.map (·.1)).Nodup := by
    rw [keys]
    refine List.nodup_range.map fun j k e => ?_
    have := congrArg Prod.fst e
    dsimp only at this
    omega
  exact congrArg Prod.snd (List.inj_on_of_nodup_map nodup ha hb rfl)

theorem UnitList.length_le (h : UnitList ix lo es) : es.length ≤ unitLen := by
  obtain ⟨n, hn, keys⟩ := h
  have := congrArg List.length keys
  simp only [List.length_map, List.length_range] at this
  omega

end UnitList

theorem unitList_unitElems (o : ImpOp) (u : Nat) : UnitList (unitAt o.dst u).2 (unitAt o.dst u).1 (unitElems o u) :=
  ⟨_, Nat.min_le_left .., by rw [unitElems_eq, List.map_map]; rfl⟩

/-! ### Element by element -/

/-- What a position receives: the code and exponent that move there, or FILL, or nothing (R204). -/
def Forme.receives (f : Forme) (v : Option (Nat × Nat)) : Option (Nat × Nat) :=
  v.or (if f.padFill then some (f.fill % 2 ^ immBits f.fmt, f.fill / 256 % 256) else none)

/-- Masked bytes of an element's code, with its exponent in ZB8. -/
def Forme.elemPuts (f : Forme) (q : EIdx) (c : Nat × Nat) : List MaskedByte :=
  f.elemWrite q c.1 ++ (if f.fmt = .zb8 then f.expWrite q c.2 else [])

/-- Masked bytes of elements that each take a code, or are padding. -/
def Forme.unitPuts (f : Forme) (taken : List MaskedByte) (es : List (EIdx × Option (Nat × Nat))) : List MaskedByte :=
  es.flatMap (fun e => match e.2 with
    | some c => f.elemPuts e.1 c
    | none => clearOf taken (f.padWrite e.1))

theorem Forme.padWrite_eq (f : Forme) (q : EIdx) : f.padWrite q = (f.receives none).elim [] (f.elemPuts q) := by
  unfold Forme.padWrite Forme.receives
  cases f.padFill <;> rfl

theorem clearOf_nil (ws : List MaskedByte) : clearOf [] ws = ws := List.map_id ws

/-- Clearing bits leaves parts of the masked bytes. -/
theorem within_of_mem_clearOf {taken ws : List MaskedByte} {w : MaskedByte} (h : w ∈ clearOf taken ws) : Within w ws := by
  obtain ⟨v, hv, rfl⟩ := List.mem_map.mp h
  refine ⟨v, hv, rfl, rfl, fun i => ?_⟩
  refine List.foldlRecOn (motive := fun m : Byte => m.getLsbD i = true → v.2.1.getLsbD i = true) taken _ id fun m hm t _ hi => hm ?_
  split at hi
  · rw [BitVec.getLsbD_and, Bool.and_eq_true] at hi
    exact hi.1
  · exact hi

theorem Within.trans {w v : MaskedByte} {ws : List MaskedByte} (h : Within w [v]) (hv : v ∈ ws) : Within w ws := by
  obtain ⟨u, hu, h⟩ := h
  rw [List.mem_singleton.mp hu] at h
  exact ⟨v, hv, h⟩

section UnitBytes

variable {f : Forme} {ix : List Nat} {lo : Nat} {P X : Nat → Nat → Prop}

theorem UnitBytes.append {ws ws' : List MaskedByte} (h : UnitBytes f ix lo P X ws) (h' : UnitBytes f ix lo P X ws') :
    UnitBytes f ix lo P X (ws ++ ws') := fun w hw => (List.mem_append.mp hw).elim (h w) (h' w)

theorem UnitBytes.nil : UnitBytes f ix lo P X [] := fun _ h => absurd h List.not_mem_nil

theorem UnitBytes.flatMap {α : Type} {l : List α} {g : α → List MaskedByte} (h : ∀ a ∈ l, UnitBytes f ix lo P X (g a)) :
    UnitBytes f ix lo P X (l.flatMap g) := fun w hw => by
  obtain ⟨a, ha, hw⟩ := List.mem_flatMap.mp hw
  exact h a ha w hw

theorem UnitBytes.within {ws ws' : List MaskedByte} (h : UnitBytes f ix lo P X ws) (hw : ∀ w ∈ ws', Within w ws) :
    UnitBytes f ix lo P X ws' := fun w hw' => by
  obtain ⟨v, hv, ha, hval, hmask⟩ := hw w hw'
  obtain ⟨y, hy, ⟨c, hc, u, hu, hua, huv, hum⟩ | ⟨hz, x, hx, u, hu, hua, huv, hum⟩⟩ := h v hv
  · exact ⟨y, hy, .inl ⟨c, hc, u, hu, hua.trans ha, huv.trans hval, fun i hi => hum i (hmask i hi)⟩⟩
  · exact ⟨y, hy, .inr ⟨hz, x, hx, u, hu, hua.trans ha, huv.trans hval, fun i hi => hum i (hmask i hi)⟩⟩

theorem UnitBytes.clearOf {ws : List MaskedByte} (h : UnitBytes f ix lo P X ws) (taken : List MaskedByte) :
    UnitBytes f ix lo P X (Sys2Proof.Machine.clearOf taken ws) := h.within fun _ hw => within_of_mem_clearOf hw

theorem UnitBytes.elemWrite {y c : Nat} (hy : lo ≤ y ∧ y < lo + unitLen) (hP : P y c) :
    UnitBytes f ix lo P X (f.elemWrite (y, ix) c) := fun _ hw => ⟨y, hy, .inl ⟨c, hP, .of_mem hw⟩⟩

theorem UnitBytes.expWrite {y x : Nat} (hz : f.fmt = .zb8) (hy : lo ≤ y ∧ y < lo + unitLen) (hX : X y x) :
    UnitBytes f ix lo P X (f.expWrite (y, ix) x) := fun _ hw => ⟨y, hy, .inr ⟨hz, x, hX, .of_mem hw⟩⟩

theorem UnitBytes.elemPuts {y : Nat} {c : Nat × Nat} (hy : lo ≤ y ∧ y < lo + unitLen) (hP : P y c.1) (hX : X y c.2) :
    UnitBytes f ix lo P X (f.elemPuts (y, ix) c) := by
  refine (UnitBytes.elemWrite hy hP).append ?_
  split
  · next hz => exact UnitBytes.expWrite hz hy hX
  · exact .nil

end UnitBytes

/-- Element y of row ix receives code c. -/
def Forme.codeTaken (f : Forme) (ix : List Nat) (es : List (EIdx × Option (Nat × Nat))) (y c : Nat) : Prop :=
  ∃ v e, ((y, ix), v) ∈ es ∧ f.receives v = some (c, e)

/-- Element y of row ix receives exponent e for its block. -/
def Forme.expTaken (f : Forme) (ix : List Nat) (es : List (EIdx × Option (Nat × Nat))) (y e : Nat) : Prop :=
  ∃ v c, ((y, ix), v) ∈ es ∧ f.receives v = some (c, e)

section UnitPuts

variable {s : State} {p : Nat} {f : Forme} {ix : List Nat} {lo : Nat} {es : List (EIdx × Option (Nat × Nat))} {q : EIdx}

theorem unitBytes_unitPuts (h : UnitList ix lo es) (taken : List MaskedByte) :
    UnitBytes f ix lo (f.codeTaken ix es) (f.expTaken ix es) (f.unitPuts taken es) := by
  refine .flatMap fun e he => ?_
  obtain ⟨⟨y, ix'⟩, v⟩ := e
  obtain ⟨rfl, hy⟩ : ix' = ix ∧ lo ≤ y ∧ y < lo + unitLen := h.mem he
  have puts : ∀ c, f.receives v = some c →
      UnitBytes f ix' lo (f.codeTaken ix' es) (f.expTaken ix' es) (f.elemPuts (y, ix') c) := fun c hc =>
    .elemPuts hy ⟨v, c.2, he, hc⟩ ⟨v, c.1, he, hc⟩
  cases v with
  | some c => exact puts c rfl
  | none =>
    dsimp only
    rw [f.padWrite_eq]
    cases hr : f.receives none with
    | some c => exact (puts c hr).clearOf taken
    | none => exact .clearOf .nil taken

theorem mem_unitPuts {taken : List MaskedByte} {c : Nat × Nat} (h : (q, some c) ∈ es) {w : MaskedByte}
    (hw : w ∈ f.elemPuts q c) : w ∈ f.unitPuts taken es := List.mem_flatMap.mpr ⟨_, h, hw⟩

/-- An element that takes a code holds it. -/
theorem unitPuts_code (hes : UnitList ix lo es) (hl : s.located p f [q]) {c : Nat × Nat} (h : (q, some c) ∈ es)
    (hc : f.fmt.codeOk c.1) (taken : List MaskedByte) : (s.elemAfter (s.formePuts p f (f.unitPuts taken es)) p f q).1 = c.1 := by
  obtain ⟨rfl, hx⟩ := hes.mem h
  refine elemAfter_code (unitBytes_unitPuts hes taken) hx hl
    (fun w hw => mem_unitPuts h (List.mem_append_left _ hw)) (fun c' hc' => ?_) hc
  obtain ⟨v, e, hv, hr⟩ := hc'
  rw [← hes.unique h hv] at hr
  exact (congrArg Prod.fst (Option.some.inj hr)).symm

/-- A ZB8 element has the exponent that it takes, when every position of its block takes the same. -/
theorem unitPuts_exp (hz : f.fmt = .zb8) (hes : UnitList ix lo es) (hl : s.located p f [q]) {c : Nat × Nat}
    (h : (q, some c) ∈ es) (hsame : ∀ y v, ((y, q.2), v) ∈ es → y / 16 = q.1 / 16 → ∃ k, v = some (k, c.2)) (hc : c.2 < 256)
    (taken : List MaskedByte) : (s.elemAfter (s.formePuts p f (f.unitPuts taken es)) p f q).2 = c.2 := by
  obtain ⟨rfl, hx⟩ := hes.mem h
  refine elemAfter_exp hz (unitBytes_unitPuts hes taken) hx hl rfl
    (fun w hw => mem_unitPuts h (List.mem_append_right _ (by rw [if_pos hz]; exact hw))) (fun y e' _ hy he => ?_) hc
  obtain ⟨v, c', hv, hr⟩ := he
  obtain ⟨k, rfl⟩ := hsame y v hv hy
  exact (congrArg Prod.snd (Option.some.inj hr)).symm

/-- A padding position receives FILL, where no valid data takes any of it. -/
theorem unitPuts_fill (hes : UnitList ix lo es) (hl : s.located p f [q]) (h : (q, none) ∈ es) (hfill : f.padFill = true) :
    (s.elemAfter (s.formePuts p f (f.unitPuts [] es)) p f q).1 = f.fill % 2 ^ immBits f.fmt := by
  have filled : f.receives none = some (f.fill % 2 ^ immBits f.fmt, f.fill / 256 % 256) := by
    rw [Forme.receives, hfill]
    rfl
  obtain ⟨rfl, hx⟩ := hes.mem h
  refine elemAfter_code (unitBytes_unitPuts hes []) hx hl (fun w hw => List.mem_flatMap.mpr ⟨_, h, ?_⟩)
    (fun c' hc' => ?_) (codeOk_of_immBits (Nat.mod_lt _ (Nat.two_pow_pos _)))
  · dsimp only
    rw [clearOf_nil, f.padWrite_eq, filled]
    exact List.mem_append_left _ hw
  · obtain ⟨v, e, hv, hr⟩ := hc'
    rw [← hes.unique h hv, filled] at hr
    exact (congrArg Prod.fst (Option.some.inj hr)).symm

/-- A padding position stays under KEEP. -/
theorem unitPuts_keep (hz : f.fmt ≠ .zb8) (hes : UnitList ix lo es) (hl : s.located p f [q]) (h : (q, none) ∈ es)
    (hkeep : f.padFill = false) (taken : List MaskedByte) :
    s.elemAfter (s.formePuts p f (f.unitPuts taken es)) p f q = s.elemAt p f q := by
  obtain ⟨rfl, hx⟩ := hes.mem h
  refine Prod.ext (elemAfter_kept (unitBytes_unitPuts hes taken) hx hl fun c hc => ?_) ?_
  · obtain ⟨v, e, hv, hr⟩ := hc
    rw [← hes.unique h hv, Forme.receives, hkeep] at hr
    cases hr
  · rw [elemAfter_exp_zero hz, s.elemAt_eq, State.elemBy_snd, if_neg hz]

end UnitPuts

end Sys2Proof.Machine

end

section

namespace Sys2Proof.Machine

/-! ### What a unit writes -/

/-- Going through a unit's elements with the list of what their sources hold: each with a source takes the next. -/
theorem foldl_pairSources {β γ : Type} {step : List γ × List β → EIdx × Option EIdx → List γ × List β} {G : EIdx → β → List γ}
    {H : EIdx → List γ} (hs : ∀ a q j b t, step (a, b :: t) (q, some j) = (a ++ G q b, t))
    (hn : ∀ a q t, step (a, t) (q, none) = (a ++ H q, t)) (g : EIdx → β) (es : List (EIdx × Option EIdx)) (acc : List γ) :
    (es.foldl step (acc, (es.filterMap (·.2)).map g)).1
      = acc ++ es.flatMap (fun e => match e.2 with | some j => G e.1 (g j) | none => H e.1) := by
  induction es generalizing acc with
  | nil => exact (List.append_nil _).symm
  | cons e es ih =>
    obtain ⟨q, _ | j⟩ := e
    · rw [List.filterMap_cons_none rfl, List.foldl_cons, hn, ih, List.flatMap_cons, List.append_assoc]
    · rw [List.filterMap_cons_some (f := Prod.snd) (b := j) rfl, List.map_cons, List.foldl_cons, hs, ih, List.flatMap_cons, List.append_assoc]

/-- A unit's elements with what their sources hold. -/
def withSources {β : Type} (g : EIdx → β) (es : List (EIdx × Option EIdx)) : List (EIdx × Option β) :=
  es.map (fun e => (e.1, e.2.map g))

theorem mem_withSources {β : Type} {g : EIdx → β} {es : List (EIdx × Option EIdx)} {q : EIdx} {j : Option EIdx}
    (h : (q, j) ∈ es) : (q, j.map g) ∈ withSources g es := List.mem_map.mpr ⟨_, h, rfl⟩

theorem unitList_withSources {β : Type} (g : EIdx → β) (o : ImpOp) (u : Nat) :
    UnitList (unitAt o.dst u).2 (unitAt o.dst u).1 (withSources g (unitElems o u)) := (unitList_unitElems o u).map _

theorem withSources_withSources {β γ : Type} (g : EIdx → β) (k : β → γ) (es : List (EIdx × Option EIdx)) :
    (withSources g es).map (fun e => (e.1, e.2.map k)) = withSources (k ∘ g) es := by
  simp only [withSources, List.map_map, Function.comp_def, Option.map_map]

/-- The writes of elements that each take their source's code as it stands or converted. -/
theorem unitPuts_withSources (f : Forme) (taken : List MaskedByte) (g : EIdx → Nat × Nat) (es : List (EIdx × Option EIdx)) :
    f.unitPuts taken (withSources g es)
      = es.flatMap (fun e => match e.2 with | some j => f.elemPuts e.1 (g j) | none => clearOf taken (f.padWrite e.1)) := by
  rw [Forme.unitPuts, withSources, List.flatMap_map]
  refine List.flatMap_congr fun e _ => ?_
  cases e.2 <;> rfl

theorem Forme.elemPuts_plain (f : Forme) (hz : f.fmt ≠ .zb8) (q : EIdx) (c : Nat × Nat) : f.elemPuts q c = f.elemWrite q c.1 := by
  unfold Forme.elemPuts
  rw [if_neg hz, List.append_nil]

theorem Forme.padWrite_plain (f : Forme) (hz : f.fmt ≠ .zb8) (q : EIdx) :
    f.padWrite q = if f.padFill then f.elemWrite q (f.fill % 2 ^ immBits f.fmt) else [] := by
  unfold Forme.padWrite
  rw [if_neg hz, List.append_nil]

/-- A unit starts at a multiple of 32, so that its elements belong to one block of 32. -/
theorem unitElems_block {o : ImpOp} {u : Nat} {q q' : EIdx} {j j' : Option EIdx} (h : (q, j) ∈ unitElems o u)
    (h' : (q', j') ∈ unitElems o u) : scaleIdx q' = scaleIdx q := by
  obtain ⟨hix, hlo, hhi⟩ := (unitList_unitElems o u).mem h
  obtain ⟨hix', hlo', hhi'⟩ := (unitList_unitElems o u).mem h'
  have start : (unitAt o.dst u).1 = u % ceilDiv (o.dst.size 0) unitLen * 32 := rfl
  unfold unitLen at hhi hhi'
  dsimp only at hix hix' hlo hhi hlo' hhi'
  exact Prod.ext (by dsimp only [scaleIdx]; omega) (hix'.trans hix.symm)

/-- A list no longer than a block is one block. -/
theorem byBlock_single {n : Nat} {qs : List (EIdx × Option Val)} (hne : qs ≠ []) (h : qs.length ≤ n) : byBlock n qs = [qs] := by
  obtain ⟨q, t, rfl⟩ := List.exists_cons_of_ne_nil hne
  unfold byBlock chunks
  rw [List.take_of_length_le h, List.drop_of_length_le h]
  cases (q :: t).length / n <;> rfl

theorem mxScale_nil (f : Fmt) : mxScale f [] = 0 := rfl

/-- The elements of a block-scaled block, all under its scale. -/
theorem blockWrites_scaled {o : ImpOp} (hd : scaledDst o = true) (hz : o.dst.fmt ≠ .zb8) (taken : List MaskedByte)
    (qs : List (EIdx × Option Val)) :
    (blockWrites o taken qs).1 = o.dst.unitPuts taken
      (qs.map (fun e => (e.1, e.2.map (fun v => (mxElem o.dst.fmt (mxScale o.dst.fmt (qs.filterMap (·.2))) v, 0))))) := by
  have scale : (if (qs.filterMap (·.2)).isEmpty then 0 else mxScale o.dst.fmt (qs.filterMap (·.2)))
      = mxScale o.dst.fmt (qs.filterMap (·.2)) := by
    split
    · next h => rw [List.isEmpty_iff.mp h, mxScale_nil]
    · rfl
  unfold blockWrites
  dsimp only
  rw [if_pos hd, scale, Forme.unitPuts, List.flatMap_map]
  refine List.flatMap_congr fun e _ => ?_
  cases e.2 with
  | some v =>
    dsimp only [Option.map_some]
    rw [o.dst.elemPuts_plain hz]
  | none =>
    dsimp only [Option.map_none]
    rw [o.dst.padWrite_plain hz]
    split <;> rfl

/-- The scale of a block-scaled block, for its place in the scale forme. -/
theorem blockWrites_scale {o : ImpOp} (hd : scaledDst o = true) (taken : List MaskedByte) {qs : List (EIdx × Option Val)}
    {q : EIdx} (hne : qs ≠ []) (hq : ∀ e ∈ qs, scaleIdx e.1 = scaleIdx q) :
    (blockWrites o taken qs).2 = [(scaleIdx q, mxScale o.dst.fmt (qs.filterMap (·.2)))] := by
  obtain ⟨e, t, rfl⟩ := List.exists_cons_of_ne_nil hne
  unfold blockWrites
  dsimp only
  rw [if_pos hd, hq e List.mem_cons_self]
  dsimp only
  split
  · next h => rw [List.isEmpty_iff.mp h, mxScale_nil]
  · rfl

section Moves

variable {s : State} {o : ImpOp} {u : Nat}

/-- Elements that move code by code (R204, R492). -/
theorem moveUnit_codes (h : s.unitPlaced o u) (hc : movesCodes o = true) :
    (s.moveUnit o u).1 = s.formePuts o.part o.dst (o.dst.unitPuts (takenElems o)
      (withSources (s.elemAt o.part o.src) (unitElems o u))) := by
  obtain ⟨hplain, hsrc, -⟩ := h
  unfold State.moveUnit
  dsimp only
  rw [if_pos hc, State.readElems_located hplain hsrc, unitPuts_withSources]
  dsimp only
  rw [foldl_pairSources (G := o.dst.elemPuts) (H := fun q => clearOf (takenElems o) (o.dst.padWrite q))
    (fun a q j b t => by dsimp only; rw [List.append_assoc]; rfl) (fun a q t => rfl), List.nil_append]

/-- Laying the values read for a unit's elements beside them. -/
theorem foldl_values {step : List (EIdx × Option Val) × List Val → EIdx × Option EIdx → List (EIdx × Option Val) × List Val}
    (hs : ∀ a q j v t, step (a, v :: t) (q, some j) = (a ++ [(q, some v)], t))
    (hn : ∀ a q t, step (a, t) (q, none) = (a ++ [(q, none)], t)) (g : EIdx → Val) (es : List (EIdx × Option EIdx)) :
    (es.foldl step ([], (es.filterMap (·.2)).map g)).1 = withSources g es := by
  rw [foldl_pairSources (G := fun q v => [(q, some v)]) (H := fun q => [(q, none)]) hs hn, List.nil_append, withSources,
    List.map_eq_flatMap]
  refine List.flatMap_congr fun e _ => ?_
  cases e.2 <;> rfl

/-- A unit's elements with the values that they take. -/
def State.unitValues (s : State) (o : ImpOp) (u : Nat) : List (EIdx × Option Val) := withSources (s.srcVal o) (unitElems o u)

theorem moveUnit_values (h : s.unitPlaced o u) (hc : movesCodes o = false) :
    (s.moveUnit o u).1 = if scaledDst o || o.dst.fmt = .zb8 then
        (byBlock (if scaledDst o then 32 else 16) (s.unitValues o u)).flatMap (fun b =>
          s.formePuts o.part o.dst (blockWrites o (takenElems o) b).1
            ++ ((blockWrites o (takenElems o) b).2.filter (fun q => o.dsc.has q.1)).flatMap (fun q =>
              s.formePuts o.part o.dsc (o.dsc.elemWrite q.1 q.2)))
      else s.formePuts o.part o.dst ((s.unitValues o u).flatMap (fun q => match q.2 with
        | some v => o.dst.elemWrite q.1 (encode o.dst.fmt v)
        | none => clearOf (takenElems o) (o.dst.padWrite q.1))) := by
  obtain ⟨hplain, hsrc, -, hscale, -⟩ := h
  unfold State.moveUnit
  dsimp only
  rw [if_neg (Bool.eq_false_iff.mp hc), State.unitVals_located hplain hsrc hscale]
  dsimp only
  rw [foldl_values (fun a q j v t => rfl) (fun a q t => rfl)]
  rfl

/-- The values of the block of 32 that a unit is. -/
theorem unitValues_block {q : EIdx} {j : Option EIdx} (hq : (q, j) ∈ unitElems o u) :
    (s.unitValues o u).filterMap (·.2) = s.blockSrc o u 32 q := by
  have all_ : (unitElems o u).filter (fun e => e.1.1 / 32 == q.1 / 32) = unitElems o u :=
    List.filter_eq_self.mpr fun e he => beq_iff_eq.mpr (congrArg Prod.fst (unitElems_block hq he))
  rw [State.blockSrc, all_, State.unitValues, withSources, List.filterMap_map, List.map_filterMap]
  rfl

/-- Elements that each round once into the destination's format (R145). -/
theorem moveUnit_rounded (h : s.unitPlaced o u) (hc : movesCodes o = false) (hd : scaledDst o = false) (hz : o.dst.fmt ≠ .zb8) :
    (s.moveUnit o u).1 = s.formePuts o.part o.dst (o.dst.unitPuts (takenElems o)
      (withSources (fun j => (encode o.dst.fmt (s.srcVal o j), 0)) (unitElems o u))) := by
  rw [moveUnit_values h hc, hd, decide_eq_false hz, Bool.or_false, if_neg Bool.false_ne_true, unitPuts_withSources,
    State.unitValues, withSources, List.flatMap_map]
  refine congrArg (s.formePuts o.part o.dst) (List.flatMap_congr fun e _ => ?_)
  cases e.2 with
  | none => rfl
  | some j =>
    dsimp only [Option.map_some]
    rw [o.dst.elemPuts_plain hz]

/-- A block-scaled unit: its elements under the scale of their block, and the scale, where its forme has a place for it
(R146, R206). -/
theorem moveUnit_scaled (h : s.unitPlaced o u) (hd : scaledDst o = true) {q : EIdx} {j : Option EIdx}
    (hq : (q, j) ∈ unitElems o u) :
    (s.moveUnit o u).1 = s.formePuts o.part o.dst (blockWrites o (takenElems o) (s.unitValues o u)).1
      ++ if o.dsc.has (scaleIdx q) then
          s.formePuts o.part o.dsc (o.dsc.elemWrite (scaleIdx q) (mxScale o.dst.fmt (s.blockSrc o u 32 q))) else [] := by
  have converts : movesCodes o = false := by
    simp only [scaledDst, Bool.and_eq_true, beq_iff_eq] at hd
    simp [movesCodes, hd.1]
  have block : ∀ e ∈ s.unitValues o u, scaleIdx e.1 = scaleIdx q := fun e he => by
    obtain ⟨e', he', rfl⟩ := List.mem_map.mp he
    exact unitElems_block hq he'
  have hne : s.unitValues o u ≠ [] := List.ne_nil_of_mem (mem_withSources hq)
  have short : (s.unitValues o u).length ≤ 32 := (unitList_withSources ..).length_le
  rw [moveUnit_values h converts, hd, Bool.true_or, if_pos rfl, if_pos rfl, byBlock_single hne short, List.flatMap_singleton,
    blockWrites_scale hd _ hne block, unitValues_block hq]
  refine congrArg _ ?_
  split
  · next hs => rw [List.filter_cons_of_pos (by exact hs), List.filter_nil, List.flatMap_singleton]
  · next hs => rw [List.filter_cons_of_neg (by exact hs)]; rfl

end Moves

/-! ### Units of ZB8 that take new exponents (R146, R206) -/

/-- Elements before the n-th of consecutive ones from lo, and those from it on. -/
theorem split_consecutive {β : Type} {n lo : Nat} {qs : List (EIdx × β)} (h : qs.map (·.1.1) = List.range' lo qs.length) :
    (∀ e ∈ qs.take n, lo ≤ e.1.1 ∧ e.1.1 < lo + n) ∧ (∀ e ∈ qs.drop n, lo + n ≤ e.1.1)
      ∧ (qs.drop n).map (·.1.1) = List.range' (lo + n) (qs.drop n).length := by
  have back : (qs.drop n).map (·.1.1) = List.range' (lo + n) (qs.drop n).length := by
    rw [List.map_drop, h, List.drop_range', List.length_drop, Nat.mul_one]
  refine ⟨fun e he => ?_, fun e he => ?_, back⟩
  · obtain ⟨i, hi, rfl⟩ := List.mem_take_iff_getElem.mp he
    have key : (qs.map (·.1.1))[i]'(by rw [List.length_map]; omega) = lo + i := by simp only [h, List.getElem_range', Nat.one_mul]
    rw [List.getElem_map] at key
    omega
  · have key : e.1.1 ∈ (qs.drop n).map (·.1.1) := List.mem_map_of_mem he
    rw [back, List.mem_range'_1] at key
    exact key.1

theorem chunks_cons {β : Type} (n fuel : Nat) {qs : List β} (h : qs ≠ []) :
    chunks n (fuel + 1) qs = qs.take n :: chunks n fuel (qs.drop n) := by
  obtain ⟨q, t, rfl⟩ := List.exists_cons_of_ne_nil h
  rfl

/-- A block of consecutive elements cut at multiples of n is the elements with one quotient by n. -/
theorem mem_chunks {β : Type} {n : Nat} (hn : 0 < n) {fuel m : Nat} {qs : List (EIdx × β)}
    (hkeys : qs.map (·.1.1) = List.range' (n * m) qs.length) {b : List (EIdx × β)} (hb : b ∈ chunks n fuel qs) {q : EIdx × β}
    (hq : q ∈ b) : q ∈ qs ∧ b = qs.filter (fun e => e.1.1 / n == q.1.1 / n) := by
  induction fuel generalizing m qs with
  | zero => exact absurd hb List.not_mem_nil
  | succ fuel ih =>
    by_cases hqs : qs = []
    · rw [hqs] at hb
      exact absurd hb List.not_mem_nil
    · obtain ⟨front, back, keys⟩ := split_consecutive (n := n) hkeys
      have low : ∀ e ∈ qs.take n, e.1.1 / n = m := fun e he =>
        Nat.div_eq_of_lt_le (by rw [Nat.mul_comm]; exact (front e he).1) (by
          rw [Nat.succ_mul, Nat.mul_comm]; exact (front e he).2)
      have high : ∀ e ∈ qs.drop n, m < e.1.1 / n := fun e he =>
        (Nat.le_div_iff_mul_le hn).mpr (by rw [Nat.succ_mul, Nat.mul_comm]; exact back e he)
      have whole : ∀ k, qs.filter (fun e => e.1.1 / n == k)
          = (qs.take n).filter (fun e => e.1.1 / n == k) ++ (qs.drop n).filter (fun e => e.1.1 / n == k) := fun k => by
        rw [← List.filter_append, List.take_append_drop]
      rw [chunks_cons n fuel hqs] at hb
      rw [whole]
      rcases List.mem_cons.mp hb with rfl | hb
      · rw [low q hq, List.filter_eq_self.mpr fun e he => beq_iff_eq.mpr (low e he),
          List.filter_eq_nil_iff.mpr fun e he h => (high e he).ne' (beq_iff_eq.mp h), List.append_nil]
        exact ⟨List.mem_of_mem_take hq, rfl⟩
      · obtain ⟨hmem, he⟩ := ih (m := m + 1) (qs := qs.drop n) (by rw [Nat.mul_succ]; exact keys) hb
        have none_ : (qs.take n).filter (fun e => e.1.1 / n == q.1.1 / n) = [] :=
          List.filter_eq_nil_iff.mpr fun e he' h => (high q hmem).ne ((low e he').symm.trans (beq_iff_eq.mp h))
        rw [none_, List.nil_append]
        exact ⟨List.mem_of_mem_drop hmem, he⟩

/-- Every element stands in one of the blocks. -/
theorem exists_chunk {α : Type} {n fuel : Nat} {qs : List α} (hf : qs.length < n * fuel) {q : α} (hq : q ∈ qs) :
    ∃ b ∈ chunks n fuel qs, q ∈ b := by
  induction fuel generalizing qs with
  | zero => exact absurd hf (by omega)
  | succ fuel ih =>
    rw [chunks_cons n fuel (List.ne_nil_of_mem hq)]
    rw [← List.take_append_drop n qs] at hq
    rcases List.mem_append.mp hq with h | h
    · exact ⟨_, List.mem_cons_self, h⟩
    · have hlen : (qs.drop n).length < n * fuel := by
        have := List.length_pos_of_mem h
        rw [List.length_drop] at this ⊢
        rw [Nat.mul_succ] at hf
        omega
      obtain ⟨b, hb, hq⟩ := ih hlen h
      exact ⟨b, List.mem_cons_of_mem _ hb, hq⟩

section Blocks

variable {s : State} {o : ImpOp} {u : Nat}

/-- The exponent that the block of 16 of a unit's element q receives: that of its values, or, without any, FILL's (R206). -/
def State.blockExpOf (s : State) (o : ImpOp) (u : Nat) (q : EIdx) : Nat :=
  if (s.blockSrc o u 16 q).isEmpty then o.dst.fill / 256 % 256 else zbExp (s.blockSrc o u 16 q)

/-- The mantissa that a unit's element receives under the exponent of its block. -/
def State.blockCode (s : State) (o : ImpOp) (u y c : Nat) : Prop :=
  ∃ q j, (q, j) ∈ unitElems o u ∧ q.1 = y ∧ c = j.elim (o.dst.fill % 256) (fun j => zbMant (s.blockExpOf o u q) (s.srcVal o j))

/-- The exponent that the block of a unit's element y receives. -/
def State.blockExp (s : State) (o : ImpOp) (u y e : Nat) : Prop :=
  ∃ q j, (q, j) ∈ unitElems o u ∧ q.1 = y ∧ e = s.blockExpOf o u q

theorem blockSrc_congr {q q' : EIdx} {n : Nat} (h : q'.1 / n = q.1 / n) : s.blockSrc o u n q' = s.blockSrc o u n q := by
  rw [State.blockSrc, State.blockSrc, h]

theorem blockExpOf_congr {q q' : EIdx} (h : q'.1 / 16 = q.1 / 16) : s.blockExpOf o u q' = s.blockExpOf o u q := by
  rw [State.blockExpOf, State.blockExpOf, blockSrc_congr h]

/-- A block with a value has its exponent. -/
theorem blockExpOf_some {q j : EIdx} (h : (q, some j) ∈ unitElems o u) : s.blockExpOf o u q = zbExp (s.blockSrc o u 16 q) := by
  have value : s.srcVal o j ∈ s.blockSrc o u 16 q :=
    List.mem_map_of_mem (List.mem_filterMap.mpr ⟨_, List.mem_filter.mpr ⟨h, beq_self_eq_true _⟩, rfl⟩)
  unfold State.blockExpOf
  rw [if_neg fun he => List.ne_nil_of_mem value (List.isEmpty_iff.mp he)]

theorem unitValues_keys (s : State) (o : ImpOp) (u : Nat) :
    (s.unitValues o u).map (·.1.1) = List.range' (16 * (2 * (u % ceilDiv (o.dst.size 0) unitLen))) (s.unitValues o u).length := by
  have start : (unitAt o.dst u).1 = 16 * (2 * (u % ceilDiv (o.dst.size 0) unitLen)) := by
    change u % ceilDiv (o.dst.size 0) unitLen * 32 = _
    omega
  rw [State.unitValues, withSources, unitElems_eq, start]
  simp only [List.map_map, List.length_map, List.length_range]
  rw [List.range'_eq_map_range]
  rfl

/-- A block of a unit: its elements stand in the unit, all with one quotient by 16, and its values are those of each. -/
theorem mem_block {b : List (EIdx × Option Val)} (hb : b ∈ byBlock 16 (s.unitValues o u)) {e : EIdx × Option Val} (he : e ∈ b) :
    (∃ j, (e.1, j) ∈ unitElems o u ∧ e.2 = j.map (s.srcVal o)) ∧ b.filterMap (·.2) = s.blockSrc o u 16 e.1
      ∧ ∀ e' ∈ b, e'.1.1 / 16 = e.1.1 / 16 := by
  obtain ⟨hmem, hblock⟩ := mem_chunks (by decide) (unitValues_keys s o u) hb he
  obtain ⟨⟨q, j⟩, hq, rfl⟩ := List.mem_map.mp hmem
  refine ⟨⟨j, hq, rfl⟩, ?_, fun e' he' => ?_⟩
  · rw [hblock, State.unitValues, withSources, List.filter_map, List.filterMap_map, State.blockSrc, List.map_filterMap]
    rfl
  · rw [hblock] at he'
    exact beq_iff_eq.mp (List.mem_filter.mp he').2

/-- The writes of a ZB8 block that takes a new exponent. -/
theorem blockWrites_zb8 (hd : scaledDst o = false) (taken : List MaskedByte) {e : EIdx × Option Val} {b : List (EIdx × Option Val)}
    (hb : e :: b ∈ byBlock 16 (s.unitValues o u)) :
    blockWrites o taken (e :: b) =
      ((e :: b).flatMap (fun q => match q.2 with
        | some v => o.dst.elemWrite q.1 (zbMant (s.blockExpOf o u e.1) v)
        | none => if o.dst.padFill then clearOf taken (o.dst.elemWrite q.1 (o.dst.fill % 256)) else [])
      ++ if !(s.blockSrc o u 16 e.1).isEmpty then o.dst.expWrite e.1 (s.blockExpOf o u e.1)
        else if o.dst.padFill then clearOf taken (o.dst.expWrite e.1 (s.blockExpOf o u e.1)) else [], []) := by
  have values := (mem_block hb List.mem_cons_self).2.1
  unfold blockWrites
  dsimp only
  rw [if_neg (Bool.eq_false_iff.mp hd), values]
  rfl

theorem mem_unitElems_row {q : EIdx} {j : Option EIdx} (h : (q, j) ∈ unitElems o u) : q = (q.1, (unitAt o.dst u).2)
    ∧ (unitAt o.dst u).1 ≤ q.1 ∧ q.1 < (unitAt o.dst u).1 + unitLen := by
  obtain ⟨hix, hlo⟩ := (unitList_unitElems o u).mem h
  exact ⟨Prod.ext rfl hix, hlo⟩

theorem unitBytes_block (hz : o.dst.fmt = .zb8) (hd : scaledDst o = false) (taken : List MaskedByte)
    {b : List (EIdx × Option Val)} (hb : b ∈ byBlock 16 (s.unitValues o u)) :
    UnitBytes o.dst (unitAt o.dst u).2 (unitAt o.dst u).1 (s.blockCode o u) (s.blockExp o u) (blockWrites o taken b).1 := by
  cases b with
  | nil =>
    unfold blockWrites
    dsimp only
    rw [if_neg (Bool.eq_false_iff.mp hd)]
    exact .nil
  | cons e b =>
    obtain ⟨⟨j, hj, -⟩, -, same⟩ := mem_block hb List.mem_cons_self
    obtain ⟨hrow, hlo⟩ := mem_unitElems_row hj
    have exponent : UnitBytes o.dst (unitAt o.dst u).2 (unitAt o.dst u).1 (s.blockCode o u) (s.blockExp o u)
        (o.dst.expWrite e.1 (s.blockExpOf o u e.1)) := by
      have put := UnitBytes.expWrite (ix := (unitAt o.dst u).2) (P := s.blockCode o u) hz hlo (X := s.blockExp o u) ⟨_, _, hj, rfl, rfl⟩
      rwa [← hrow] at put
    rw [blockWrites_zb8 hd taken hb]
    refine .append (.flatMap fun q hq => ?_) ?_
    · obtain ⟨⟨k, hk, hval⟩, -, -⟩ := mem_block hb hq
      obtain ⟨hrow', hlo'⟩ := mem_unitElems_row hk
      rw [hval, hrow']
      cases k with
      | some k =>
        exact .elemWrite hlo' ⟨q.1, some k, hk, rfl, by rw [blockExpOf_congr (same q hq)]; rfl⟩
      | none =>
        dsimp only [Option.map_none]
        split
        · exact .clearOf (.elemWrite hlo' ⟨q.1, none, hk, rfl, rfl⟩) _
        · exact .nil
    · split
      · exact exponent
      · split
        · exact exponent.clearOf _
        · exact .nil

/-- ZB8 elements of several blocks, or of another format, under the exponents of their new blocks. -/
theorem moveUnit_zb8 (h : s.unitPlaced o u) (hc : movesCodes o = false) (hd : scaledDst o = false) (hz : o.dst.fmt = .zb8) :
    (s.moveUnit o u).1 = s.formePuts o.part o.dst
      ((byBlock 16 (s.unitValues o u)).flatMap (fun b => (blockWrites o (takenElems o) b).1)) := by
  have noScale : ∀ b, (blockWrites o (takenElems o) b).2 = [] := fun b => by
    unfold blockWrites
    dsimp only
    rw [if_neg (Bool.eq_false_iff.mp hd)]
  rw [moveUnit_values h hc, hd, decide_eq_true hz, Bool.or_true, if_pos rfl, if_neg Bool.false_ne_true]
  simp only [noScale, List.filter_nil, List.flatMap_nil, List.append_nil, State.formePuts, List.filterMap_flatMap]

theorem zbExp_lt (vs : List Val) : zbExp vs < 256 := by
  have wrapped : ∀ v : Int, wrapInt 8 v < 256 := fun v => by unfold wrapInt; omega
  unfold zbExp
  split
  · exact wrapped _
  · split <;> decide

theorem zbMant_lt (x : Nat) (v : Val) : zbMant x v < 256 := by
  have wrapped : ∀ v : Int, wrapInt 8 v < 256 := fun v => by unfold wrapInt; omega
  unfold zbMant
  split
  · decide
  · split
    · decide
    · exact wrapped _
    · exact wrapped _

/-- Each element of a placed unit is placed. -/
theorem located_unitElem (h : s.unitPlaced o u) {q : EIdx} {j : Option EIdx} (hq : (q, j) ∈ unitElems o u) :
    s.located o.part o.dst [q] := by
  obtain ⟨-, -, hdst, -⟩ := h
  intro q' hq'
  rw [List.mem_singleton.mp hq']
  exact hdst q (List.mem_map.mpr ⟨_, hq, rfl⟩)

/-- An element with a source stands in a block that writes its mantissa, and the exponent of the block. -/
theorem exists_block (hd : scaledDst o = false) (taken : List MaskedByte) {q j : EIdx} (hq : (q, some j) ∈ unitElems o u) :
    ∃ b ∈ byBlock 16 (s.unitValues o u),
      (∀ w ∈ o.dst.elemWrite q (zbMant (s.blockExpOf o u q) (s.srcVal o j)), w ∈ (blockWrites o taken b).1)
      ∧ ∃ y, y / 16 = q.1 / 16 ∧ ∀ w ∈ o.dst.expWrite (y, (unitAt o.dst u).2) (s.blockExpOf o u q), w ∈ (blockWrites o taken b).1 := by
  have hval : (q, some (s.srcVal o j)) ∈ s.unitValues o u := mem_withSources hq
  obtain ⟨b, hb, hqb⟩ := exists_chunk (n := 16) (fuel := (s.unitValues o u).length / 16 + 1) (by omega) hval
  refine ⟨b, hb, ?_⟩
  obtain ⟨e, t, rfl⟩ := List.exists_cons_of_ne_nil (List.ne_nil_of_mem hqb)
  obtain ⟨⟨k, hk, -⟩, -, same⟩ := mem_block hb List.mem_cons_self
  have hblock : q.1 / 16 = e.1.1 / 16 := same _ hqb
  have nonempty : (s.blockSrc o u 16 e.1).isEmpty = false := by
    rw [← blockSrc_congr hblock, ← (mem_block hb hqb).2.1, List.isEmpty_eq_false_iff]
    exact List.ne_nil_of_mem (List.mem_filterMap.mpr ⟨_, hqb, rfl⟩)
  rw [blockWrites_zb8 hd taken hb, nonempty, Bool.not_false, if_pos rfl, blockExpOf_congr hblock]
  refine ⟨fun w hw => List.mem_append_left _ (List.mem_flatMap.mpr ⟨_, hqb, hw⟩), e.1.1, hblock.symm, fun w hw => ?_⟩
  rw [← (mem_unitElems_row hk).1] at hw
  exact List.mem_append_right _ hw

/-- What an element of a ZB8 unit with a source holds, once the unit has landed. -/
theorem elemAfter_zb8 (h : s.unitPlaced o u) (hc : movesCodes o = false) (hd : scaledDst o = false) (hz : o.dst.fmt = .zb8)
    {q j : EIdx} (hq : (q, some j) ∈ unitElems o u) :
    s.elemAfter (s.moveUnit o u).1 o.part o.dst q
      = (zbMant (zbExp (s.blockSrc o u 16 q)) (s.srcVal o j), zbExp (s.blockSrc o u 16 q)) := by
  obtain ⟨hrow, hlo⟩ := mem_unitElems_row hq
  have hl := located_unitElem h hq
  have bytes := UnitBytes.flatMap (l := byBlock 16 (s.unitValues o u)) fun b hb => unitBytes_block hz hd (takenElems o) hb
  obtain ⟨b, hb, code, y, hy, exponent⟩ := exists_block (s := s) hd (takenElems o) hq
  have inBlocks : ∀ w ∈ (blockWrites o (takenElems o) b).1,
      w ∈ (byBlock 16 (s.unitValues o u)).flatMap (fun b => (blockWrites o (takenElems o) b).1) := fun w hw =>
    List.mem_flatMap.mpr ⟨b, hb, hw⟩
  rw [moveUnit_zb8 h hc hd hz, ← blockExpOf_some hq]
  generalize hix : (unitAt o.dst u).2 = ix at *
  generalize q.1 = x at hrow hlo hy
  subst hrow
  refine Prod.ext ?_ ?_
  · refine elemAfter_code bytes hlo hl (fun w hw => inBlocks w (code w hw)) (fun c' hc' => ?_)
      (codeOk_of_byte (by rw [hz]; rfl) (zbMant_lt _ _))
    obtain ⟨q', j', hq', hx, rfl⟩ := hc'
    obtain rfl : q' = (x, ix) := by rw [(mem_unitElems_row hq').1, hx, hix]
    rw [← (unitList_unitElems o u).unique hq hq']
    rfl
  · refine elemAfter_exp hz bytes hlo hl hy (fun w hw => inBlocks w (exponent w hw)) (fun y' e' _ hy' he' => ?_)
      (by rw [blockExpOf_some hq]; exact zbExp_lt _)
    obtain ⟨q', j', -, hx, rfl⟩ := he'
    exact blockExpOf_congr (by rw [hx]; exact hy')

end Blocks

end Sys2Proof.Machine

end

section

namespace Sys2Proof.Machine

/-! ### What each element of a unit holds once it has landed (R204 to R206, R492) -/

/-- Index n of the source element of a PERMUTE. -/
def permSource (d1 : W64) (q : EIdx) (n : Nat) : Nat := ((List.range 6).find? (fun d => descPerm d1 d == n)).elim 0 (idxOf q)

theorem srcIndex_permute (d1 : W64) (q : EIdx) : srcIndex impPermute d1 q = (permSource d1 q 0,
    [permSource d1 q 1, permSource d1 q 2, permSource d1 q 3, permSource d1 q 4, permSource d1 q 5]) := by
  have each : ∀ n, (match (List.range 6).find? (fun d => descPerm d1 d == n) with | some d => idxOf q d | none => 0)
      = permSource d1 q n := fun n => by
    unfold permSource
    cases (List.range 6).find? (fun d => descPerm d1 d == n) <;> rfl
  simp only [← each]
  rfl

theorem permSource_zero {d1 : W64} (h : descPerm d1 0 = 0) (q : EIdx) : permSource d1 q 0 = q.1 := by
  have found : (List.range 6).find? (fun d => descPerm d1 d == 0) = some 0 :=
    List.find?_range_eq_some.mpr ⟨beq_iff_eq.mpr h, by decide, fun j hj => absurd hj (Nat.not_lt_zero j)⟩
  rw [permSource, found]
  rfl

theorem permSource_succ {d1 : W64} (h : descPerm d1 0 = 0) (x y : Nat) (ix : List Nat) (n : Nat) :
    permSource d1 (x, ix) (n + 1) = permSource d1 (y, ix) (n + 1) := by
  unfold permSource
  cases hd : (List.range 6).find? (fun d => descPerm d1 d == n + 1) with
  | none => rfl
  | some d =>
    have walks := List.find?_some hd
    cases d with
    | zero => rw [beq_iff_eq, h] at walks; exact absurd walks (by omega)
    | succ d => rfl

/-- ZB8 elements that move by whole blocks keep dimension 0 in place (R492). -/
theorem srcIndex_row {o : ImpOp} (hc : movesCodes o = true) (hz : o.dst.fmt = .zb8) (ix : List Nat) :
    ∃ ix', ∀ x, srcIndex o.code o.d1 (x, ix) = (x, ix') := by
  simp only [movesCodes, hz, beq_self_eq_true, Bool.true_and, Bool.and_eq_true, Bool.not_eq_true', Bool.or_eq_false_iff,
    beq_eq_false_iff_ne, Bool.and_eq_false_iff, bne_eq_false_iff_eq] at hc
  obtain ⟨-, ht, hp⟩ := hc
  by_cases hcode : o.code = impPermute
  · have first := hp.resolve_left fun h => h hcode
    rw [hcode]
    refine ⟨[permSource o.d1 (0, ix) 1, permSource o.d1 (0, ix) 2, permSource o.d1 (0, ix) 3, permSource o.d1 (0, ix) 4,
      permSource o.d1 (0, ix) 5], fun x => ?_⟩
    simp only [srcIndex_permute, permSource_zero first, permSource_succ first x 0 ix]
  · exact ⟨ix, fun x => by rw [srcIndex, if_neg ht, if_neg hcode]⟩

/-- Elements of one ZB8 block read one exponent. -/
theorem elemAt_exp_congr (s : State) (p : Nat) {f : Forme} (hz : f.fmt = .zb8) {x y : Nat} (h : y / 16 = x / 16) (ix : List Nat) :
    (s.elemAt p f (y, ix)).2 = (s.elemAt p f (x, ix)).2 := by
  have hE : f.fmt.perRow = 240 := by rw [hz]; rfl
  have h1 : y / 240 = x / 240 := by omega
  have h2 : y % 240 / 16 = x % 240 / 16 := by omega
  rw [s.elemAt_eq, s.elemAt_eq, State.elemBy_snd, State.elemBy_snd, if_pos hz, if_pos hz]
  simp only [State.rowByte, Forme.byteAt, hE, h1, h2]

section

variable {s : State} {o : ImpOp} {u : Nat} {q j : EIdx}

/-- The positions of a block that moves whole all have sources, in one block. -/
theorem whole_block (hc : movesCodes o = true) (hf : o.src.fmt = o.dst.fmt) (hz : o.dst.fmt = .zb8)
    (hrows : o.src.fmt = .zb8 → o.src.size 0 % 240 = 0) (hq : (q, some j) ∈ unitElems o u) {y : Nat} {k : Option EIdx}
    (hk : ((y, q.2), k) ∈ unitElems o u) (hy : y / 16 = q.1 / 16) :
    ∃ j', k = some j' ∧ (s.elemAt o.part o.src j').2 = (s.elemAt o.part o.src j).2 := by
  obtain ⟨x, ix⟩ := q
  obtain ⟨ix', move⟩ := srcIndex_row hc hz ix
  obtain ⟨rfl, hsrc⟩ := unitSource_eq_some (unitSource_of_mem hq)
  have size := hrows (hf.trans hz)
  obtain ⟨hlt, hrest⟩ := (o.src.has_iff _).mp hsrc
  rw [move] at hlt hrest
  have there : o.src.has (y, ix') = true := (o.src.has_iff _).mpr ⟨by dsimp only at hlt hy ⊢; omega, hrest⟩
  refine ⟨(y, ix'), ?_, ?_⟩
  · rw [← unitSource_of_mem hk, unitSource, move, if_pos there]
  · rw [move]
    exact elemAt_exp_congr s o.part (hf.trans hz) hy ix'

/-- An element that moves as a code is the source element. -/
theorem elemAfter_moved (h : s.unitPlaced o u) (hc : movesCodes o = true) (hf : o.src.fmt = o.dst.fmt)
    (hq : (q, some j) ∈ unitElems o u) : s.elemAfter (s.moveUnit o u).1 o.part o.dst q = s.elemAt o.part o.src j := by
  have es := unitList_withSources (s.elemAt o.part o.src) o u
  have code : (q, some (s.elemAt o.part o.src j)) ∈ withSources (s.elemAt o.part o.src) (unitElems o u) := mem_withSources hq
  have hl := located_unitElem h hq
  have ok : o.dst.fmt.codeOk (s.elemAt o.part o.src j).1 := hf ▸ s.elemAt_codeOk o.part o.src j
  rw [moveUnit_codes h hc]
  obtain ⟨-, -, -, -, hrows, -⟩ := h
  refine Prod.ext (unitPuts_code es hl code ok _) ?_
  by_cases hz : o.dst.fmt = .zb8
  · refine unitPuts_exp hz es hl code (fun y v hv hy => ?_) (s.elemAt_exp_lt ..) _
    obtain ⟨⟨q', k⟩, hk, e⟩ := List.mem_map.mp hv
    obtain ⟨rfl, rfl⟩ := Prod.mk.inj e
    obtain ⟨j', rfl, he⟩ := whole_block (s := s) hc hf hz hrows hq hk hy
    exact ⟨(s.elemAt o.part o.src j').1, congrArg some (Prod.ext rfl he)⟩
  · rw [elemAfter_exp_zero hz, s.elemAt_eq, State.elemBy_snd, if_neg (hf ▸ hz)]

/-- An element that moves by value is rounded once. -/
theorem elemAfter_rounded (h : s.unitPlaced o u) (hc : movesCodes o = false) (hd : scaledDst o = false) (hz : o.dst.fmt ≠ .zb8)
    (hq : (q, some j) ∈ unitElems o u) :
    (s.elemAfter (s.moveUnit o u).1 o.part o.dst q).1 = encode o.dst.fmt (s.srcVal o j) := by
  rw [moveUnit_rounded h hc hd hz]
  exact unitPuts_code (unitList_withSources _ o u) (located_unitElem h hq) (mem_withSources hq) (encode_codeOk ..) _

/-- An element of a block-scaled destination is rounded once under the scale of its block. -/
theorem elemAfter_scaled (h : s.unitPlaced o u) (hd : scaledDst o = true) (hz : o.dst.fmt ≠ .zb8)
    (hs : o.dsc.has (scaleIdx q) = false) (hq : (q, some j) ∈ unitElems o u) :
    (s.elemAfter (s.moveUnit o u).1 o.part o.dst q).1
      = mxElem o.dst.fmt (mxScale o.dst.fmt (s.blockSrc o u 32 q)) (s.srcVal o j) := by
  have es : UnitList (unitAt o.dst u).2 (unitAt o.dst u).1 (s.unitValues o u) := unitList_withSources ..
  have value : (q, some (s.srcVal o j)) ∈ s.unitValues o u := mem_withSources hq
  rw [moveUnit_scaled h hd hq, hs, if_neg Bool.false_ne_true, List.append_nil, blockWrites_scaled hd hz, unitValues_block hq]
  exact unitPuts_code (c := (mxElem o.dst.fmt (mxScale o.dst.fmt (s.blockSrc o u 32 q)) (s.srcVal o j), 0)) (es.map _)
    (located_unitElem h hq) (List.mem_map.mpr ⟨_, value, rfl⟩) (encode_codeOk ..) _

theorem mxScale_lt (f : Fmt) (vs : List Val) : mxScale f vs < 256 := by
  unfold mxScale
  split <;> omega

/-- The scale of a block takes its place in the scale forme. -/
theorem elemAfter_scale (h : s.unitPlaced o u) (hd : scaledDst o = true) (hs : o.dsc.has (scaleIdx q) = true)
    (hf : o.dsc.fmt = .e8m0) (hl : s.located o.part o.dsc [scaleIdx q]) (hq : (q, some j) ∈ unitElems o u) :
    (s.elemAfter (s.moveUnit o u).1 o.part o.dsc (scaleIdx q)).1 = mxScale o.dst.fmt (s.blockSrc o u 32 q) := by
  have here : (scaleIdx q).1 ≤ (scaleIdx q).1 ∧ (scaleIdx q).1 < (scaleIdx q).1 + unitLen := ⟨le_rfl, by unfold unitLen; omega⟩
  rw [moveUnit_scaled h hd hq, if_pos hs]
  exact elemAfter_code_append (P := fun _ c => c = mxScale o.dst.fmt (s.blockSrc o u 32 q)) (X := fun _ _ => False)
    (UnitBytes.elemWrite here rfl) here hl (fun _ hw => hw) (fun _ hc => hc)
    (codeOk_of_byte (by rw [hf]; rfl) (mxScale_lt ..)) _

/-- A unit without scales, of another format than ZB8, is its elements' codes and its padding. -/
theorem moveUnit_plain (h : s.unitPlaced o u) (hd : scaledDst o = false) (hz : o.dst.fmt ≠ .zb8) :
    ∃ g, (s.moveUnit o u).1 = s.formePuts o.part o.dst (o.dst.unitPuts (takenElems o) (withSources g (unitElems o u))) := by
  cases hc : movesCodes o with
  | true => exact ⟨_, moveUnit_codes h hc⟩
  | false => exact ⟨_, moveUnit_rounded h hc hd hz⟩

/-- A padding position receives FILL, where no two elements of the destination share a bit (R204, R213). -/
theorem elemAfter_fill (h : s.unitPlaced o u) (hd : scaledDst o = false) (hz : o.dst.fmt ≠ .zb8) (hdist : o.dst.distinct = true)
    (hfill : o.dst.padFill = true) (hq : (q, none) ∈ unitElems o u) :
    (s.elemAfter (s.moveUnit o u).1 o.part o.dst q).1 = o.dst.fill % 2 ^ immBits o.dst.fmt := by
  obtain ⟨g, moved⟩ := moveUnit_plain h hd hz
  have free : takenElems o = [] := if_pos (by rw [hdist, Bool.true_or])
  rw [moved, free]
  exact unitPuts_fill (unitList_withSources _ o u) (located_unitElem h hq) (mem_withSources hq) hfill

/-- A padding position stays under KEEP. -/
theorem elemAfter_keep (h : s.unitPlaced o u) (hd : scaledDst o = false) (hz : o.dst.fmt ≠ .zb8)
    (hkeep : o.dst.padFill = false) (hq : (q, none) ∈ unitElems o u) :
    s.elemAfter (s.moveUnit o u).1 o.part o.dst q = s.elemAt o.part o.dst q := by
  obtain ⟨g, moved⟩ := moveUnit_plain h hd hz
  rw [moved]
  exact unitPuts_keep hz (unitList_withSources _ o u) (located_unitElem h hq) (mem_withSources hq) hkeep _

end

/-! ### Rows of GATHER, SCATTER and SCATTERADD (R207 to R209) -/

theorem gatherRows_skip (o : ImpOp) (k : Nat) : gatherRows o k (-1) = (none, false) := rfl

theorem gatherRows_bound {o : ImpOp} {v : Int}
    (h : v < -1 ∨ ((if o.code = impGather then o.src.size 1 else o.dst.size 1 : Nat) : Int) ≤ v) (k : Nat) :
    gatherRows o k v = (none, true) := by
  have inside : v ≠ -1 := fun e => by subst e; omega
  unfold gatherRows
  dsimp only
  rw [if_neg inside, if_pos h]

theorem gatherRows_inside {o : ImpOp} {v : Int} (h0 : 0 ≤ v)
    (h : v < ((if o.code = impGather then o.src.size 1 else o.dst.size 1 : Nat) : Int)) (k : Nat) :
    gatherRows o k v
      = if o.code = impGather then (if k < o.dst.size 1 then some (k, v.toNat) else none, false) else (some (v.toNat, k), false) := by
  unfold gatherRows
  dsimp only
  rw [if_neg (by omega), if_neg (by omega)]

/-- Elements of a piece of destination row dr, from its first. -/
theorem pieceElems_rows (o : ImpOp) (dr sr j : Nat) :
    (pieceElems o dr sr j).map (·.1)
      = (List.range (min unitLen (o.dst.size 0 - j * unitLen))).map (fun k => ((j * unitLen + k, [dr, 0, 0, 0, 0]) : EIdx)) := by
  rw [pieceElems, List.map_map, List.map_map]
  rfl

/-- The elements of a piece with the codes read for them. -/
def pieceCodes (o : ImpOp) (dr sr j : Nat) : List (EIdx × Option (Nat × Nat)) :=
  List.zip ((pieceElems o dr sr j).map (·.1)) (o.codes.drop (j * unitLen))

/-- The same with the sums of a format that rounds every addition (R209). -/
def pieceSums (o : ImpOp) (dr sr j : Nat) : List Val :=
  List.zipWith (fun (a : Val) (e : EIdx × Option (Nat × Nat)) => match e.2 with
    | some c => vadd a (valOf o.dst.fmt c)
    | none => a) ((o.prior.drop (j * unitLen)).map (valOf o.dst.fmt)) (pieceCodes o dr sr j)

/-- The elements of a piece that receive a sum, each with its rounded code. -/
def pieceRounded (o : ImpOp) (dr sr j : Nat) : List (EIdx × Option (Nat × Nat)) :=
  (List.zip (pieceCodes o dr sr j) (pieceSums o dr sr j)).map (fun e => (e.1.1, e.1.2.map (fun _ => (encode o.dst.fmt e.2, 0))))

section

variable {s : State} {o : ImpOp} {dr sr j i : Nat}

theorem pieceCodes_rows (hlen : o.codes.length = o.dst.size 0) : (pieceCodes o dr sr j).map (·.1)
    = (List.range (min unitLen (o.dst.size 0 - j * unitLen))).map (fun k => ((j * unitLen + k, [dr, 0, 0, 0, 0]) : EIdx)) := by
  rw [pieceCodes, List.map_fst_zip, pieceElems_rows]
  rw [pieceElems_rows, List.length_map, List.length_range, List.length_drop, hlen]
  exact Nat.min_le_right ..

theorem pieceCodes_getElem? (hi : i < unitLen) (hin : j * unitLen + i < o.dst.size 0) (hlen : o.codes.length = o.dst.size 0) :
    (pieceCodes o dr sr j)[i]? = some ((j * unitLen + i, [dr, 0, 0, 0, 0]), o.codes.getD (j * unitLen + i) none) := by
  rw [pieceCodes, List.getElem?_zip_eq_some]
  constructor
  · rw [pieceElems_rows, List.getElem?_map, List.getElem?_range (lt_min hi (by omega))]
    rfl
  · rw [List.getElem?_drop, List.getD_eq_getElem _ _ (by omega), List.getElem?_eq_getElem (by omega)]

theorem unitList_pieceCodes (hlen : o.codes.length = o.dst.size 0) :
    UnitList [dr, 0, 0, 0, 0] (j * unitLen) (pieceCodes o dr sr j) := ⟨_, Nat.min_le_left .., pieceCodes_rows hlen⟩

theorem unitList_pieceRounded (hlen : o.codes.length = o.dst.size 0) (hprior : o.prior.length = o.dst.size 0) :
    UnitList [dr, 0, 0, 0, 0] (j * unitLen) (pieceRounded o dr sr j) := by
  have size := congrArg List.length (pieceCodes_rows (dr := dr) (sr := sr) (j := j) hlen)
  simp only [List.length_map, List.length_range] at size
  have sums : (pieceSums o dr sr j).length = (pieceCodes o dr sr j).length := by
    rw [pieceSums, List.length_zipWith, List.length_map, List.length_drop, hprior, size]
    exact Nat.min_eq_right (Nat.min_le_right ..)
  refine ⟨_, Nat.min_le_left .., Eq.trans ?_ (pieceCodes_rows (sr := sr) hlen)⟩
  rw [pieceRounded, List.map_map]
  have fst := List.map_fst_zip (l₁ := pieceCodes o dr sr j) (l₂ := pieceSums o dr sr j) sums.ge
  exact (List.map_map (f := Prod.fst) (g := Prod.fst)).symm.trans (congrArg (List.map Prod.fst) fst)

/-- A piece of GATHER or SCATTER writes the codes read (R207). -/
theorem writePiece_codes (hc : o.code ≠ impScatterAdd) : (s.writePiece o dr sr j).2
    = s.formePuts o.part o.dst (o.dst.unitPuts (s.takenRows o) (pieceCodes o dr sr j)) := by
  unfold State.writePiece
  dsimp only
  rw [if_neg hc]
  rfl

/-- A piece of SCATTERADD in a format that rounds every addition writes the rounded sums (R209). -/
theorem writePiece_sums (hc : o.code = impScatterAdd) (hr : roundsEach o.dst.fmt = true) : (s.writePiece o dr sr j).2
    = s.formePuts o.part o.dst (o.dst.unitPuts (s.takenRows o) (pieceRounded o dr sr j)) := by
  have hz : o.dst.fmt ≠ .zb8 := fun h => by rw [h] at hr; exact absurd hr (by decide)
  unfold State.writePiece
  dsimp only
  rw [if_pos hc, hr, Bool.or_true, if_pos rfl, Forme.unitPuts, pieceRounded, List.flatMap_map]
  dsimp only
  refine congrArg (s.formePuts o.part o.dst) (List.flatMap_congr fun e _ => ?_)
  cases e.1.2 with
  | none => rfl
  | some c =>
    dsimp only [Option.map_some]
    rw [o.dst.elemPuts_plain hz]

/-- An element of a row receives the source row's code. -/
theorem elemAfter_row {cd : Nat × Nat} (hc : o.code ≠ impScatterAdd) (hz : o.dst.fmt ≠ .zb8) (hi : i < unitLen)
    (hin : j * unitLen + i < o.dst.size 0) (hl : s.located o.part o.dst [(j * unitLen + i, [dr, 0, 0, 0, 0])])
    (hlen : o.codes.length = o.dst.size 0) (hcd : o.codes.getD (j * unitLen + i) none = some cd) (hok : o.dst.fmt.codeOk cd.1)
    (hexp : cd.2 = 0) : s.elemAfter (s.writePiece o dr sr j).2 o.part o.dst (j * unitLen + i, [dr, 0, 0, 0, 0]) = cd := by
  have code := List.mem_of_getElem? (pieceCodes_getElem? (dr := dr) (sr := sr) hi hin hlen)
  rw [hcd] at code
  rw [writePiece_codes hc]
  exact Prod.ext (unitPuts_code (unitList_pieceCodes hlen) hl code hok _) ((elemAfter_exp_zero hz ..).trans hexp.symm)

/-- An element of a row receives the sum of what it held and the source row's element, rounded. -/
theorem elemAfter_sum {cd : Nat × Nat} (hc : o.code = impScatterAdd) (hr : roundsEach o.dst.fmt = true) (hi : i < unitLen)
    (hin : j * unitLen + i < o.dst.size 0) (hl : s.located o.part o.dst [(j * unitLen + i, [dr, 0, 0, 0, 0])])
    (hlen : o.codes.length = o.dst.size 0) (hprior : o.prior.length = o.dst.size 0)
    (hcd : o.codes.getD (j * unitLen + i) none = some cd) :
    (s.elemAfter (s.writePiece o dr sr j).2 o.part o.dst (j * unitLen + i, [dr, 0, 0, 0, 0])).1 = encode o.dst.fmt
      (vadd (valOf o.dst.fmt (o.prior.getD (j * unitLen + i) (0, 0))) (valOf o.dst.fmt cd)) := by
  have code := pieceCodes_getElem? (dr := dr) (sr := sr) hi hin hlen
  rw [hcd] at code
  have sum : (pieceSums o dr sr j)[i]?
      = some (vadd (valOf o.dst.fmt (o.prior.getD (j * unitLen + i) (0, 0))) (valOf o.dst.fmt cd)) := by
    rw [pieceSums, List.getElem?_zipWith, code, List.getElem?_map, List.getElem?_drop,
      List.getElem?_eq_getElem (by omega), List.getD_eq_getElem _ _ (by omega)]
    rfl
  have both := List.mem_of_getElem? ((List.getElem?_zip_eq_some (z := (_, _))).mpr ⟨code, sum⟩)
  rw [writePiece_sums hc hr]
  exact unitPuts_code (c := (_, 0)) (unitList_pieceRounded hlen hprior) hl (List.mem_map.mpr ⟨_, both, rfl⟩) (encode_codeOk ..) _

end

end Sys2Proof.Machine

end

section

namespace Sys2Proof.Machine

/-- Settles O12: turns by what finds its way to the head of the rotation, completion by whether the operation has moved
everything, units by the row they write (`UnitBytes`), and rows by the pieces that they take. -/
theorem impositionEnginesTakeTurns : Obligations.ImpositionEnginesTakeTurns := by
  unfold Obligations.ImpositionEnginesTakeTurns
  refine ⟨fun d x s => ?_, fun c x s o rest u m hshare htotal hclk hmv hseq hfault hsig => ?_, fun s o ht => ?_,
    fun s c o n left hplain hcode htotal hcalm hcost => ?_, fun o q => ?_, fun s o u h _ => ?_, fun s o k v => ?_⟩
  · refine ⟨fun hclk => by rw [exec_impositionTurn, State.impTurn_early (.inl hclk)],
      fun hcyc => by rw [exec_impositionTurn, State.impTurn_early (.inr hcyc)], fun hclk hdue => ?_⟩
    have takes := fun j (hj : j < 16) =>
      s.takesTurn_iff d.val x.val (Nat.mod_lt (sget 0 s.turns (4 * d.val + x.val)) (show 0 < 16 by decide)) hj
    refine ⟨fun none_ => ?_, fun j o rest hj works first hshare => ?_⟩
    · rw [exec_impositionTurn, State.impTurn_none hclk hdue fun j hj =>
        Bool.eq_false_iff.mpr fun h => none_ j hj ((takes j hj).mp h)]
      rfl
    · rw [exec_impositionTurn, State.impTurn_first hclk hdue hj ((takes j hj).mpr works) (fun j' hj' =>
        Bool.eq_false_iff.mpr fun h => first j' hj' ((takes j' (hj'.trans hj)).mp h)) hshare]
      rfl
  · refine ⟨fun h => by rw [exec_impositionComplete, State.impComplete_moving hshare htotal h], fun h hf => ?_, fun e h hf => ?_⟩
    · have done := State.impComplete_plain hshare htotal hclk hmv hseq hfault hsig h hf
      exact ⟨_, rfl, done.own, done.others, done.clusters⟩
    · exact ⟨_, rfl, State.impComplete_faulty hshare htotal hclk hmv hseq hfault hsig h hf⟩
  · exact ⟨s.impStart_nop ht, State.impStart_identity ht, fun e => State.impStart_fault ht⟩
  · rw [State.moveUnits_all hplain.1 c hcode [] htotal hcalm hcost]
    exact ⟨rfl, fun sp a => by rw [State.endTurn_byteAt hplain, List.nil_append]; rfl⟩
  · refine ⟨fun hq hlen => ⟨_, _, unitOf_lt hq, mem_unitElems_unitOf o hq hlen⟩, fun u j h => ?_⟩
    obtain ⟨rfl, hsrc⟩ := unitSource_eq_some (unitSource_of_mem h)
    refine ⟨hsrc, fun hc => srcIndex_of_same hc .., fun hc => ?_, fun hc hp k hk => ?_⟩
    · rw [hc]
      exact ⟨rfl, rfl, fun k hk _ => idxOf_transpose o.d1 q hk⟩
    · rw [hc]
      exact idxOf_permute_perm hp q hk
  · refine ⟨fun q j hq => ⟨fun hc hf => elemAfter_moved h hc hf hq, fun hc hd hz => elemAfter_rounded h hc hd hz hq,
      fun hc hd hz => ?_, fun hd hz hs => elemAfter_scaled h hd hz hs hq, fun hd hs hf hl => elemAfter_scale h hd hs hf hl hq⟩,
      fun q hq hd hdist hz => ⟨fun hfill => elemAfter_fill h hd hz hdist hfill hq, fun hkeep => elemAfter_keep h hd hz hkeep hq⟩⟩
    rw [elemAfter_zb8 h hc hd hz hq]
    exact ⟨rfl, rfl⟩
  · refine ⟨fun h => by rw [h, gatherRows_skip], fun h => gatherRows_bound h k, fun h0 hc hv hk => ?_, fun h0 hc hv => ?_,
      fun dr sr j i cd _ _ _ hi hin hl hlen hcd hlt ha12 hexp => ?_⟩
    · rw [gatherRows_inside h0 (by rwa [if_pos hc]), if_pos hc, if_pos hk]
    · rw [gatherRows_inside h0 (by rwa [if_neg hc]), if_neg hc]
    · exact ⟨fun hc hz => elemAfter_row hc hz hi hin (hl _ hin) hlen hcd ⟨hlt, ha12⟩ (hexp hz),
        fun hc hr hprior => elemAfter_sum hc hr hi hin (hl _ hin) hlen hprior hcd⟩

end Sys2Proof.Machine

end

section

namespace Sys2Proof.Machine

/-! ### Sparse maps, entry by entry -/

/-- A map keeps what it lists under the keys that a filter keeps. -/
theorem sget_filter_key {α : Type} (d : α) (m : SMap α) (keep : Nat → Bool) (k : Nat) :
    sget d (m.filter (fun e => keep e.1)) k = if keep k = true then sget d m k else d := by
  induction m with
  | nil => simp [sget]
  | cons e t ih =>
    obtain ⟨j, v⟩ := e
    by_cases hj : j = k
    · subst hj
      by_cases hk : keep j = true
      · simp [hk, sget]
      · simpa [hk] using ih
    · by_cases hk : keep j = true
      · simpa [hk, sget, hj] using ih
      · simpa [hk, sget, hj] using ih

/-- A change of every entry that leaves the unlisted value as it is changes what each key reads as. -/
theorem sget_map_snd {α : Type} {d : α} {f : α → α} (hf : f d = d) (m : SMap α) (k : Nat) :
    sget d (m.map (fun e => (e.1, f e.2))) k = f (sget d m k) := by
  induction m with
  | nil => exact hf.symm
  | cons e t ih =>
    obtain ⟨j, v⟩ := e
    by_cases hj : j = k
    · simp [sget, hj]
    · simpa [sget, hj] using ih

/-- A block of 2^28 bytes that is zeroed reads as 0, and the rest as before. -/
theorem mget_mzero_block (m : Mem) (i b : Nat) :
    mget (mzero m (i * 2 ^ 28) (2 ^ 28)) b = if b / 2 ^ 28 = i then 0 else mget m b := by
  have block : (i * 2 ^ 28 ≤ b ∧ b < i * 2 ^ 28 + 2 ^ 28) ↔ b / 2 ^ 28 = i := by omega
  refine (sget_filter_key 0 m (fun k => !(decide (i * 2 ^ 28 ≤ k) && decide (k < i * 2 ^ 28 + 2 ^ 28))) b).trans ?_
  by_cases h : b / 2 ^ 28 = i
  · obtain ⟨hlo, hhi⟩ := block.mpr h
    rw [if_pos h, decide_eq_true hlo, decide_eq_true hhi]
    rfl
  · rw [if_neg h, ← Bool.decide_and, decide_eq_false (mt block.mp h)]
    rfl

/-! ### What a retirement can reach (R408 to R411) -/

/-- The state but for what the retirement of a row can reach: registers, the integrity and keep units, the report of a
module failure, and the rings. -/
def State.beyondRetirement (s : State) : State :=
  { s with free := 0, regs := [], hostMem := [], mirror := {}, integ := {}, keep := {}, power := {}, host := {} }

@[simp] theorem State.withFree_beyond (s : State) (x) : (s.withFree x).beyondRetirement = s.beyondRetirement := rfl
@[simp] theorem State.withRegs_beyond (s : State) (x) : (s.withRegs x).beyondRetirement = s.beyondRetirement := rfl
@[simp] theorem State.withHostMem_beyond (s : State) (x) : (s.withHostMem x).beyondRetirement = s.beyondRetirement := rfl
@[simp] theorem State.withMirror_beyond (s : State) (x) : (s.withMirror x).beyondRetirement = s.beyondRetirement := rfl
@[simp] theorem State.withInteg_beyond (s : State) (x) : (s.withInteg x).beyondRetirement = s.beyondRetirement := rfl
@[simp] theorem State.withKeep_beyond (s : State) (x) : (s.withKeep x).beyondRetirement = s.beyondRetirement := rfl
@[simp] theorem State.withPower_beyond (s : State) (x) : (s.withPower x).beyondRetirement = s.beyondRetirement := rfl
@[simp] theorem State.withHost_beyond (s : State) (x) : (s.withHost x).beyondRetirement = s.beyondRetirement := rfl

@[simp] theorem State.pfev_beyond (s : State) (block p : Nat) : (s.pfev block p).beyondRetirement = s.beyondRetirement := by
  obtain ⟨r, h, o, e, -⟩ := s.pfev_frame block p
  simp [e]

@[simp] theorem State.recordRetirement_beyond (s : State) (w : RetWord) (n : Nat) :
    (s.recordRetirement w n).beyondRetirement = s.beyondRetirement := by
  obtain ⟨k, r, e, -⟩ := s.recordRetirement_frame w n
  simp [e]

@[simp] theorem State.moduleFail_beyond (s : State) : s.moduleFail.beyondRetirement = s.beyondRetirement := by
  obtain ⟨m, p, r, h, o, n, e, -⟩ := s.moduleFail_frame
  simp [e]

@[simp] theorem State.errLog_beyond (s : State) (site : Nat × Nat) (kind die loc : Nat) :
    (s.errLog site kind die loc).beyondRetirement = s.beyondRetirement := by
  unfold State.errLog
  exact (State.withRegs_beyond ..).trans ((State.withRegs_beyond ..).trans ((State.withRegs_beyond ..).trans
    (State.withRegs_beyond ..)))

theorem State.retireRow_beyond (s : State) (k die bank row : Nat) :
    (s.retireRow k die bank row).beyondRetirement = s.beyondRetirement := by
  unfold State.retireRow
  dsimp only
  split
  · rfl
  · split
    · rfl
    · split
      · exact s.moduleFail_beyond
      · simp

theorem State.errLog_reg (s : State) (site : Nat × Nat) (kind die loc : Nat) {k : Nat} (h : k < 2 ^ 21) :
    (s.errLog site kind die loc).reg k = s.reg k := by
  have log : k ≠ rLogctl (siteWin site) := by unfold rLogctl rStk; omega
  have entry : ∀ n, k ≠ rErrlog (siteWin site) n ∧ k ≠ rErrlog (siteWin site) n + 8 := fun n => by
    unfold rErrlog rStk; omega
  unfold State.errLog State.incFld
  dsimp only
  rw [State.reg_setFld_other _ _ _ _ _ _ log, State.reg_setFld_other _ _ _ _ _ _ log,
    State.reg_setReg_other _ _ _ _ (entry _).2, State.reg_setReg_other _ _ _ _ (entry _).1]

/-- A retirement leaves the stage of bring-up. -/
theorem State.retireRow_stage (s : State) (k die bank row : Nat) : (s.retireRow k die bank row).stage = s.stage := by
  suffices h : (s.retireRow k die bank row).reg rHostBoot = s.reg rHostBoot from State.fld_congr _ _ h
  unfold State.retireRow
  dsimp only
  split
  · rfl
  · split
    · rfl
    · split
      · exact s.moduleFail_reg (by decide) (by decide)
      · obtain ⟨q, r, e, hr⟩ := (s.withInteg { s.integ with
          retired := s.integ.retired ++ [retEntry 2 (k / 16) (k % 16) die bank 0 0] }).recordRetirement_frame
            (retEntry 2 (k / 16) (k % 16) die bank 0 0) (k / 16)
        rw [State.pfev_reg _ _ _ (by decide), State.errLog_reg _ _ _ _ _ (by decide), e]
        exact hr _ (by unfold rHostBoot rEcfg rStk; omega)

theorem State.retireWaiting_beyond (s : State) (k : Nat) : (s.retireWaiting k).beyondRetirement = s.beyondRetirement :=
  foldl_keeps (fun t => t.beyondRetirement = s.beyondRetirement) _ (fun t _ h => (t.retireRow_beyond ..).trans h) _ _ rfl

theorem State.retireWaiting_stage (s : State) (k : Nat) : (s.retireWaiting k).stage = s.stage :=
  foldl_keeps (fun t => t.stage = s.stage) _ (fun t _ h => (t.retireRow_stage ..).trans h) _ _ rfl

/-- Where no row waits for memory mode, none is retired. -/
theorem State.retireWaiting_none {s : State} (k : Nat) (h : s.integ.waitRows = []) : s.retireWaiting k = s := by
  have same : ({ s.integ with waitRows := [] } : Integrity) = s.integ := by rw [← h]
  unfold State.retireWaiting
  simp only [h, List.filter_nil, List.foldl_nil, same, State.withInteg_self]

end Sys2Proof.Machine

end

section

namespace Sys2Proof.Machine

/-! ### What an apply newly grants (R379) -/

/-- The clusters, flag groups, slices and channels that t grants beyond old. -/
def Template.newClusters (t old : Template) : List Nat := (t.beyond old).1
def Template.newGroups (t old : Template) : List Nat := (t.beyond old).2.1
def Template.newSlices (t old : Template) : List Nat := (t.beyond old).2.2.1
def Template.newChans (t old : Template) : List Nat := (t.beyond old).2.2.2

theorem Template.mem_newClusters {t old : Template} {c : Nat} :
    c ∈ t.newClusters old ↔ t.hasCluster c = true ∧ old.hasCluster c = false := by
  have granted : c < 32 ∧ t.clusters.testBit c = true ↔ t.hasCluster c = true := by
    simp only [Template.clusters, testBit_bf, Template.hasCluster, Nat.zero_add, Bool.and_eq_true, decide_eq_true_eq]
    exact ⟨fun ⟨hc, _, hbit⟩ => ⟨hbit, hc⟩, fun ⟨hbit, hc⟩ => ⟨hc, hc, hbit⟩⟩
  simp only [Template.newClusters, Template.beyond, List.mem_filter, mem_bitsOf, granted, Bool.not_eq_true']

theorem Template.mem_newGroups {t old : Template} {g : Nat} : g ∈ t.newGroups old ↔ g ∈ t.groups ∧ g ∉ old.groups := by
  simp [Template.newGroups, Template.beyond]

theorem Template.mem_newSlices {t old : Template} {i : Nat} : i ∈ t.newSlices old ↔ i ∈ t.slices ∧ i ∉ old.slices := by
  simp [Template.newSlices, Template.beyond]

theorem Template.mem_newChans {t old : Template} {k : Nat} : k ∈ t.newChans old ↔ k ∈ t.chans ∧ k ∉ old.chans := by
  simp [Template.newChans, Template.beyond]

/-- Flag groups, and request entries, that an apply newly grants hold nothing of their earlier holder. -/
def State.dropFlags (s : State) (gs : List Nat) : State := s.withFlags (s.flags.filter (fun e => !gs.contains (e.1 / 16)))
def State.dropReqs (s : State) (t old : Template) : State :=
  s.withReqs (s.reqs.filter (fun e => !(t.hasReq e.1 && !old.hasReq e.1)))

theorem State.zeroGrants_eq (s : State) (old t : Template) : s.zeroGrants old t =
    ((t.newChans old).foldl State.zeroChan ((t.newSlices old).foldl State.zeroSlice
      (((t.newClusters old).foldl State.zeroCluster
        (s.dropEarlier (t.newClusters old) (t.newSlices old) (t.newChans old))).dropFlags (t.newGroups old)))).dropReqs
      t old := rfl

/-- What stays of a cluster that is newly granted. -/
def Cluster.zeroed (x : Cluster) : Cluster :=
  { rcSize := x.rcSize, cyc := x.cyc, left := x.left, stretch := x.stretch, freeAt := x.freeAt }

theorem State.zeroCluster_frame (s : State) (c : Nat) :
    ∃ i, s.zeroCluster c = (s.modCluster c Cluster.zeroed).withInteg i ∧ i.waitRows = s.integ.waitRows := ⟨_, rfl, rfl⟩

/-- Zeroing clusters changes those alone, and the errors stored in them. -/
theorem State.foldl_zeroCluster (cs : List Nat) (s : State) : ∃ x i,
    cs.foldl State.zeroCluster s = (s.withClusters x).withInteg i ∧ i.waitRows = s.integ.waitRows
      ∧ ∀ c, sget {} x c = if c ∈ cs then (s.cluster c).zeroed else s.cluster c := by
  induction cs generalizing s with
  | nil => exact ⟨s.clusters, s.integ, rfl, rfl, fun _ => rfl⟩
  | cons a cs ih =>
    obtain ⟨i', e', hw'⟩ := s.zeroCluster_frame a
    obtain ⟨x, i, e, hw, hx⟩ := ih (s.zeroCluster a)
    rw [e'] at e hw hx
    refine ⟨x, i, by rw [List.foldl_cons, e', e]; rfl, hw.trans hw', fun c => ?_⟩
    have first := s.cluster_modCluster a c Cluster.zeroed
    rw [hx]
    refine (congrArg (fun y : Cluster => if c ∈ cs then y.zeroed else y) first).trans ?_
    by_cases hca : c = a
    · subst hca
      simp [Cluster.zeroed]
    · simp [hca]

/-- Zeroing case slices changes the case store alone, and the errors stored in it. -/
theorem State.foldl_zeroSlice (is : List Nat) (s : State) : ∃ m i,
    is.foldl State.zeroSlice s = (s.withCaseMem m).withInteg i ∧ i.waitRows = s.integ.waitRows
      ∧ ∀ b, mget m b = if b / 2 ^ 28 ∈ is then 0 else mget s.caseMem b := by
  induction is generalizing s with
  | nil => exact ⟨s.caseMem, s.integ, rfl, rfl, fun _ => rfl⟩
  | cons a is ih =>
    obtain ⟨m, i, e, hw, hm⟩ := ih (s.zeroSlice a)
    refine ⟨m, i, e, hw, fun b => ?_⟩
    have first : mget (s.zeroSlice a).caseMem b = _ := mget_mzero_block s.caseMem a b
    rw [hm, first]
    by_cases hb : b / 2 ^ 28 = a
    · simp only [hb, List.mem_cons, true_or, if_true, ite_self]
    · simp only [hb, List.mem_cons, false_or, if_false]

/-- Zeroing channels changes stack memory and channels alone, and what retirements reach; where no row waits for memory
mode it retires none. -/
structure ZeroesChans (s u : State) (ks : List Nat) : Prop where
  stack : ∀ b, mget u.stackMem b = if chanOfPa b ∈ ks then 0 else mget s.stackMem b
  state : ∀ k, (u.chan k).state = if k ∈ ks then .memory else (s.chan k).state
  clusters : u.clusters = s.clusters
  caseMem : u.caseMem = s.caseMem
  flags : u.flags = s.flags
  reqs : u.reqs = s.reqs
  parts : u.parts = s.parts
  scus : u.scus = s.scus
  time : u.time = s.time
  stage : u.stage = s.stage
  quiet : s.integ.waitRows = [] → u.integ.waitRows = [] ∧ u.regs = s.regs ∧ u.hostMem = s.hostMem ∧ u.host = s.host

/-- A channel in memory mode, zeroed; the rows that wait for it are not yet retired. -/
def State.emptyChan (s : State) (k : Nat) : State :=
  ((s.withStackMem (s.stackMem.filter (fun e => chanOfPa e.1 != k))).withInteg
    { s.integ with errs := s.integ.errs.filter (fun e => siteOfKey e.1 != (0, k)) }).setChan k
      { refreshing := (s.chan k).refreshing }

theorem State.zeroChan_eq (s : State) (k : Nat) : s.zeroChan k = (s.emptyChan k).retireWaiting k := rfl

theorem State.emptyChan_stack (s : State) (k b : Nat) :
    mget (s.emptyChan k).stackMem b = if chanOfPa b = k then 0 else mget s.stackMem b := by
  refine (sget_filter_key 0 s.stackMem (fun a => chanOfPa a != k) b).trans ?_
  by_cases h : chanOfPa b = k
  · simp [h]
  · simp [h, mget]

theorem State.emptyChan_state (s : State) (k j : Nat) :
    ((s.emptyChan k).chan j).state = if j = k then .memory else (s.chan j).state := by
  rw [State.emptyChan, State.chan_setChan]
  split <;> rfl

theorem State.zeroChan_zeroes (s : State) (k : Nat) : ZeroesChans s (s.zeroChan k) [k] := by
  rw [s.zeroChan_eq]
  have beyond := (s.emptyChan k).retireWaiting_beyond k
  have quiet := State.retireWaiting_none (s := s.emptyChan k) k
  have stage := (s.emptyChan k).retireWaiting_stage k
  generalize (s.emptyChan k).retireWaiting k = u at beyond quiet stage
  have stack : u.stackMem = (s.emptyChan k).stackMem := (congrArg State.stackMem beyond :)
  have chans : u.chans = (s.emptyChan k).chans := (congrArg State.chans beyond :)
  refine ⟨fun b => ?_, fun j => ?_, (congrArg State.clusters beyond :), (congrArg State.caseMem beyond :),
    (congrArg State.flags beyond :), (congrArg State.reqs beyond :), (congrArg State.parts beyond :),
    (congrArg State.scus beyond :), (congrArg State.time beyond :), stage, fun h => ?_⟩
  · rw [stack, s.emptyChan_stack]
    simp
  · rw [State.chan, chans]
    exact (s.emptyChan_state k j).trans (by simp)
  · rw [quiet h]
    exact ⟨h, rfl, rfl, rfl⟩

theorem ZeroesChans.cons {s t u : State} {k : Nat} {ks : List Nat} (h : ZeroesChans s t [k]) (h' : ZeroesChans t u ks) :
    ZeroesChans s u (k :: ks) where
  stack b := by
    rw [h'.stack, h.stack]
    by_cases hb : chanOfPa b = k
    · simp [hb]
    · simp [hb]
  state j := by
    rw [h'.state, h.state]
    by_cases hj : j = k
    · simp [hj]
    · simp [hj]
  clusters := h'.clusters.trans h.clusters
  caseMem := h'.caseMem.trans h.caseMem
  flags := h'.flags.trans h.flags
  reqs := h'.reqs.trans h.reqs
  parts := h'.parts.trans h.parts
  scus := h'.scus.trans h.scus
  time := h'.time.trans h.time
  stage := h'.stage.trans h.stage
  quiet hw := by
    obtain ⟨hrows, hregs, hmem, hhost⟩ := h.quiet hw
    obtain ⟨hrows', hregs', hmem', hhost'⟩ := h'.quiet hrows
    exact ⟨hrows', hregs'.trans hregs, hmem'.trans hmem, hhost'.trans hhost⟩

theorem State.foldl_zeroChan (ks : List Nat) (s : State) : ZeroesChans s (ks.foldl State.zeroChan s) ks := by
  induction ks generalizing s with
  | nil => exact ⟨fun _ => rfl, fun _ => rfl, rfl, rfl, rfl, rfl, rfl, rfl, rfl, rfl, fun h => ⟨h, rfl, rfl, rfl⟩⟩
  | cons k ks ih => exact (s.zeroChan_zeroes k).cons (ih _)

/-- What an apply newly grants is as after zeroing, and the rest as it was, but for what operations in flight were to do;
where no row waits for memory mode the registers and the event rings are as they were. -/
structure GrantsZeroed (s u : State) (old t : Template) : Prop where
  cluster : ∀ c, ∃ ops : List MvOp, ops.length = (s.cluster c).mv.length ∧ u.cluster c =
    if c ∈ t.newClusters old then ({ s.cluster c with mv := ops } : Cluster).zeroed else { s.cluster c with mv := ops }
  stack : ∀ b, mget u.stackMem b = if chanOfPa b ∈ t.newChans old then 0 else mget s.stackMem b
  chan : ∀ k, k ∈ t.newChans old → (u.chan k).state = .memory
  caseMem : ∀ b, mget u.caseMem b = if b / 2 ^ 28 ∈ t.newSlices old then 0 else mget s.caseMem b
  flag : ∀ d f, u.flag d f = if 16 * d + f / 16 ∈ t.newGroups old then {} else s.flag d f
  req : ∀ i, u.req i = if t.hasReq i = true ∧ old.hasReq i = false then {} else s.req i
  parts : u.parts = s.parts
  scus : u.scus = s.scus
  time : u.time = s.time
  stage : u.stage = s.stage
  quiet : s.integ.waitRows = [] → u.regs = s.regs ∧ u.hostMem = s.hostMem ∧ u.host.up = s.host.up

/-- An MV operation of an earlier holder, as State.dropEarlier leaves it. -/
def MvOp.keepOut (cs is ks : List Nat) (o : MvOp) : MvOp :=
  o.dropEarlier (fun w => placeIn cs is ks w.sp w.addr) (fun l => placeIn cs is ks l.1 l.2)

/-- Dropping what earlier holders had on its way changes, of a cluster, its MV operations alone, none of which goes. -/
theorem State.dropEarlier_cluster (s : State) (cs is ks : List Nat) (c : Nat) : ∃ ops : List MvOp,
    ops.length = (s.cluster c).mv.length ∧ (s.dropEarlier cs is ks).cluster c = { s.cluster c with mv := ops } :=
  ⟨(s.cluster c).mv.map (MvOp.keepOut cs is ks), List.length_map _, sget_map_snd (d := ({} : Cluster))
    (f := fun x : Cluster => { x with mv := x.mv.map (MvOp.keepOut cs is ks) }) rfl s.clusters c⟩

theorem State.dropEarlier_frame (s : State) (cs is ks : List Nat) : ∃ l x c k w g, s.dropEarlier cs is ks
    = (((((s.withLanding l).withClusters x).withChans c).withLinks k).withHost { s.host with waits := w }).withGroups g :=
  ⟨_, _, _, _, _, _, rfl⟩

/-- What dropping what earlier holders had on its way leaves as it was. -/
structure LeavesGrants (s u : State) : Prop where
  stackMem : u.stackMem = s.stackMem
  caseMem : u.caseMem = s.caseMem
  flags : u.flags = s.flags
  reqs : u.reqs = s.reqs
  parts : u.parts = s.parts
  scus : u.scus = s.scus
  time : u.time = s.time
  integ : u.integ = s.integ
  regs : u.regs = s.regs
  hostMem : u.hostMem = s.hostMem
  up : u.host.up = s.host.up

theorem State.dropEarlier_leaves (s : State) (cs is ks : List Nat) : LeavesGrants s (s.dropEarlier cs is ks) := by
  obtain ⟨l, x, c, k, w, g, e⟩ := s.dropEarlier_frame cs is ks
  rw [e]
  constructor <;> simp

theorem State.dropFlags_flag (s : State) (gs : List Nat) (d f : Nat) :
    (s.dropFlags gs).flag d f = if 16 * d + f / 16 ∈ gs then {} else s.flag d f := by
  have group : flagKey d f / 16 = 16 * d + f / 16 := by unfold flagKey; omega
  refine (sget_filter_key {} s.flags (fun k => !gs.contains (k / 16)) (flagKey d f)).trans ?_
  rw [group]
  by_cases h : 16 * d + f / 16 ∈ gs
  · simp [h]
  · simp [h, State.flag]

theorem State.dropReqs_req (s : State) (t old : Template) (i : Nat) :
    (s.dropReqs t old).req i = if t.hasReq i = true ∧ old.hasReq i = false then {} else s.req i := by
  refine (sget_filter_key {} s.reqs (fun k => !(t.hasReq k && !old.hasReq k)) i).trans ?_
  cases t.hasReq i <;> cases old.hasReq i <;> rfl

theorem State.zeroGrants_zeroes (s : State) (old t : Template) : GrantsZeroed s (s.zeroGrants old t) old t := by
  rw [s.zeroGrants_eq]
  have early := s.dropEarlier_cluster (t.newClusters old) (t.newSlices old) (t.newChans old)
  have left := s.dropEarlier_leaves (t.newClusters old) (t.newSlices old) (t.newChans old)
  generalize s.dropEarlier (t.newClusters old) (t.newSlices old) (t.newChans old) = d at early left ⊢
  obtain ⟨x, i, e, hrows, hcluster⟩ := State.foldl_zeroCluster (t.newClusters old) d
  rw [e]
  obtain ⟨m, i', e', hrows', hcase⟩ := State.foldl_zeroSlice (t.newSlices old)
    (((d.withClusters x).withInteg i).dropFlags (t.newGroups old))
  rw [e']
  have chans := State.foldl_zeroChan (t.newChans old)
    (((((d.withClusters x).withInteg i).dropFlags (t.newGroups old)).withCaseMem m).withInteg i')
  generalize (t.newChans old).foldl State.zeroChan _ = u at chans ⊢
  refine ⟨fun c => ?_, fun b => ?_, fun k hk => (chans.state k).trans (if_pos hk), fun b => ?_, fun n f => ?_, fun j => ?_,
    chans.parts.trans left.parts, chans.scus.trans left.scus, chans.time.trans left.time,
    chans.stage.trans (congrArg (fun r => bf (regGet r rHostBoot) 63 61) left.regs), fun hw => ?_⟩
  · obtain ⟨ops, hlen, hops⟩ := early c
    refine ⟨ops, hlen, ?_⟩
    rw [← hops, ← hcluster]
    exact congrArg (fun m => sget ({} : Cluster) m c) chans.clusters
  · rw [← left.stackMem]
    exact chans.stack b
  · rw [← left.caseMem]
    exact (congrArg (fun m => mget m b) chans.caseMem).trans (hcase b)
  · have flag : (u.dropReqs t old).flag n f = (d.dropFlags (t.newGroups old)).flag n f :=
      congrArg (fun m => sget ({} : DieFlag) m (flagKey n f)) chans.flags
    rw [flag, State.dropFlags_flag, State.flag, left.flags]
    rfl
  · have req : u.req j = s.req j := congrArg (fun m => sget ({} : Req) m j) (chans.reqs.trans left.reqs)
    rw [State.dropReqs_req, req]
  · obtain ⟨-, hregs, hmem, hhost⟩ := chans.quiet (hrows'.trans (hrows.trans ((congrArg _ left.integ).trans hw)))
    exact ⟨hregs.trans left.regs, hmem.trans left.hostMem, (congrArg HostOut.up hhost).trans left.up⟩

end Sys2Proof.Machine

end

section

namespace Sys2Proof.Machine

/-! ### Where a partition's addresses lie (R381) -/

theorem mapByte_lt (ws : List W64) (i : Nat) : mapByte ws i < 256 := by
  have h := bf_lt (wordAt ws (i / 8)) (8 * (i % 8) + 7) (8 * (i % 8))
  rwa [show 8 * (i % 8) + 7 - 8 * (i % 8) + 1 = 8 by omega] at h

theorem chanOfPa_lt {a : Nat} (h : a < 8 * stackBytes) : chanOfPa a < 128 := by
  unfold chanOfPa stackBytes at *
  omega

/-- A stack address of a partition lies in a channel that its template names. -/
theorem Template.xlStack_chan {t : Template} {a x : Nat} (h : t.xlStack a = some x) : chanOfPa x ∈ t.chans := by
  unfold Template.xlStack at h
  dsimp only at h
  split at h
  · cases h
  · next hlt =>
    rw [not_le] at hlt
    split at h
    · next hfull =>
      cases h
      rw [Template.chans, if_pos hfull]
      exact List.mem_range.mpr (chanOfPa_lt hlt)
    · next hfull =>
      split at h
      · cases h
      · next hvalid =>
        rw [not_lt] at hvalid
        have byte : t.chByte (chanOfPa a) < 256 := mapByte_lt ..
        rw [Template.chans, if_neg hfull]
        refine List.mem_filterMap.mpr ⟨chanOfPa a, List.mem_range.mpr (chanOfPa_lt hlt), ?_⟩
        dsimp only
        rw [if_pos hvalid]
        cases h
        generalize t.chByte (chanOfPa a) = b at hvalid byte
        unfold chanOfPa stackBytes at *
        congr 1
        omega

/-- A case address of a partition lies in a slice that its template names. -/
theorem Template.xlCase_slice {t : Template} {a x : Nat} (h : t.xlCase a = some x) : x / 2 ^ 28 ∈ t.slices := by
  unfold Template.xlCase caseBytes at h
  dsimp only at h
  split at h
  · cases h
  · next hlt =>
    split at h
    · next hfull =>
      cases h
      rw [Template.slices, if_pos hfull]
      exact List.mem_range.mpr (by omega)
    · next hfull =>
      split at h
      · cases h
      · next hvalid =>
        rw [not_lt] at hvalid
        rw [Template.slices, if_neg hfull]
        refine List.mem_filterMap.mpr ⟨a / 2 ^ 28, List.mem_range.mpr (by omega), ?_⟩
        dsimp only
        rw [if_pos hvalid]
        cases h
        congr 1
        omega

/-- A place that a partition's translation gives is its stack or case address translated, or lies in a store. -/
theorem State.xl_cases {s : State} {p sp c a x : Nat} {sp' : Space} (h : s.xl p sp c a = some (sp', x)) :
    (sp' = .stack ∧ (s.tmpl p).xlStack a = some x) ∨ (sp' = .case ∧ (s.tmpl p).xlCase a = some x) ∨ sp' = .store c := by
  unfold State.xl at h
  dsimp only at h
  split at h
  · obtain ⟨y, hy, e⟩ := Option.map_eq_some_iff.mp h
    cases e
    exact .inl ⟨rfl, hy⟩
  · obtain ⟨y, hy, e⟩ := Option.map_eq_some_iff.mp h
    cases e
    exact .inr (.inl ⟨rfl, hy⟩)
  · split at h
    · cases h
      exact .inr (.inr rfl)
    · cases h
  · cases h

theorem State.xl_stack {s : State} {p sp c a x : Nat} (h : s.xl p sp c a = some (.stack, x)) :
    chanOfPa x ∈ (s.tmpl p).chans := by
  obtain ⟨-, hx⟩ | ⟨e, -⟩ | e := State.xl_cases h
  · exact Template.xlStack_chan hx
  · cases e
  · cases e

theorem State.xl_case {s : State} {p sp c a x : Nat} (h : s.xl p sp c a = some (.case, x)) :
    x / 2 ^ 28 ∈ (s.tmpl p).slices := by
  obtain ⟨e, -⟩ | ⟨-, hx⟩ | e := State.xl_cases h
  · cases e
  · exact Template.xlCase_slice hx
  · cases e

/-! ### What a host error leaves of shared memories, flags and the PF's registers (R13, R391) -/

/-- Stack memory, the case store and the flags differ within what partition p is granted, and of the registers only those
of virtual functions. -/
structure SharedWithin (s t : State) (p : Nat) : Prop where
  tmpl : t.tmpl p = s.tmpl p
  stack : ∀ b, chanOfPa b ∉ (s.tmpl p).chans → mget t.stackMem b = mget s.stackMem b
  caseMem : ∀ b, b / 2 ^ 28 ∉ (s.tmpl p).slices → mget t.caseMem b = mget s.caseMem b
  flag : ∀ d f, d < 2 → f < 256 → 16 * d + f / 16 ∉ (s.tmpl p).groups → t.flag d f = s.flag d f
  reg : ∀ k, k < 2 ^ 32 → t.reg k = s.reg k

theorem SharedWithin.of_eq {s t : State} (p : Nat) (hp : t.parts = s.parts) (hm : t.stackMem = s.stackMem)
    (hc : t.caseMem = s.caseMem) (hf : t.flags = s.flags) (hr : t.regs = s.regs) : SharedWithin s t p where
  tmpl := by simp [State.tmpl, State.part, hp]
  stack _ _ := by rw [hm]
  caseMem _ _ := by rw [hc]
  flag _ _ _ _ _ := by rw [State.flag, hf]; rfl
  reg _ _ := by rw [State.reg, hr]; rfl

theorem SharedWithin.refl (s : State) (p : Nat) : SharedWithin s s p := .of_eq p rfl rfl rfl rfl rfl

theorem SharedWithin.trans {s t u : State} {p : Nat} (h : SharedWithin s t p) (h' : SharedWithin t u p) : SharedWithin s u p where
  tmpl := h'.tmpl.trans h.tmpl
  stack b hb := (h'.stack b (h.tmpl ▸ hb)).trans (h.stack b hb)
  caseMem b hb := (h'.caseMem b (h.tmpl ▸ hb)).trans (h.caseMem b hb)
  flag d f hd hf hg := (h'.flag d f hd hf (h.tmpl ▸ hg)).trans (h.flag d f hd hf hg)
  reg k hk := (h'.reg k hk).trans (h.reg k hk)

/-- A register of a virtual function. -/
theorem SharedWithin.setReg (s : State) (p : Nat) {j : Nat} (v : W64) (h : 2 ^ 32 ≤ j) : SharedWithin s (s.setReg j v) p :=
  { SharedWithin.refl s p with reg := fun _ hk => s.reg_setReg_other _ _ _ (by omega) }

theorem SharedWithin.withMem_xl {s : State} {p sp c a x : Nat} {sp' : Space} (b : Byte)
    (h : s.xl p sp c a = some (sp', x)) : SharedWithin s (s.withMem sp' (mset (s.memOf sp') x b)) p := by
  cases sp' with
  | stack => exact { SharedWithin.refl s p with
      stack := fun i hi => mget_mset_other _ _ _ _ (by rintro rfl; exact hi (State.xl_stack h)) }
  | case => exact { SharedWithin.refl s p with
      caseMem := fun i hi => mget_mset_other _ _ _ _ (by rintro rfl; exact hi (State.xl_case h)) }
  | store => exact .of_eq p rfl rfl rfl rfl rfl

theorem SharedWithin.setFlag {s : State} {p d n : Nat} (v : Bool) (who : Nat) (hd : d < 2) (hn : n < 256)
    (h : (s.tmpl p).hasFlag d n = true) : SharedWithin s (s.setFlag d n v who) p := by
  have granted : 16 * d + n / 16 ∈ (s.tmpl p).groups := by
    rw [Template.hasFlag, Nat.mod_eq_of_lt hd] at h
    exact mem_bitsOf.mpr ⟨by omega, h⟩
  have other : ∀ d' f, f < 256 → 16 * d' + f / 16 ∉ (s.tmpl p).groups → (s.setFlag d n v who).flag d' f = s.flag d' f := by
    intro d' f hf hg
    refine s.setFlagAt_flag_other (fun e => hg ?_) v who _
    obtain ⟨rfl, rfl⟩ := flagKey_inj hf hn e
    exact granted
  obtain ⟨x, e⟩ := s.setFlag_frame d n v who
  rw [e] at other ⊢
  exact { SharedWithin.refl s p with flag := fun d' f _ hf hg => other d' f hf hg }

/-- The ring registers of a partition's function lie beyond those of the physical function. -/
theorem le_ringBase (p : Nat) : 2 ^ 32 ≤ ringBase (p + 1) := by
  rw [ringBase, if_neg p.succ_ne_zero]
  omega

theorem SharedWithin.spoilRing (s : State) (p n k : Nat) : SharedWithin s (s.spoilRing (p + 1) n k) p := by
  have ring := le_ringBase p
  unfold State.spoilRing
  dsimp only
  split
  · exact .setReg s p _ (by unfold rEhead; omega)
  · exact .setReg s p _ (by unfold rEstat; omega)
  · exact .setReg s p _ (by unfold rEstat; omega)
  · exact .of_eq p rfl rfl rfl rfl rfl

/-- A free value of a host error falls within the offending partition. -/
theorem SharedWithin.spoil (s : State) (p n k : Nat) : SharedWithin s (s.spoil p n k) p := by
  have own : ∀ (c : Nat) (f : Cluster → Cluster),
      SharedWithin s (if (s.tmpl p).hasCluster c = true then s.modCluster c f else s) p := by
    intro c f
    split
    · exact .of_eq p rfl rfl rfl rfl rfl
    · exact .refl s p
  have ring := le_ringBase p
  unfold State.spoil
  dsimp only
  split
  · split
    · next h => exact .withMem_xl _ h
    · exact .refl s p
  · exact own _ _
  · exact own _ _
  · exact own _ _
  · exact own _ _
  · split
    · next h => exact .setFlag _ _ (Nat.mod_lt _ (by decide)) (Nat.mod_lt _ (by decide)) h
    · exact .refl s p
  · split
    · exact .refl s p
    · exact .of_eq p rfl rfl rfl rfl rfl
  · exact .setReg s p _ (by unfold rGalley; omega)
  · exact .setReg s p _ (by unfold rGtail; omega)
  · exact .setReg s p _ (by unfold rGhead; omega)
  · exact .spoilRing s p _ _

/-- A host error stays within the offending partition's grants. -/
theorem SharedWithin.unpredictable (s : State) (p : Nat) : SharedWithin s (s.unpredictable p) p :=
  foldl_keeps (fun t => SharedWithin s t p) _ (fun t k h => h.trans (.spoil t p s.free (k + 1))) _ _
    (.of_eq p rfl rfl rfl rfl rfl)

end Sys2Proof.Machine

end

section

namespace Sys2Proof.Machine

variable {s : State} {p : Nat} {t0 : Template}

/-! ### The check of an apply, and its start (R377, R378, R471, Table 14.4) -/

theorem State.applyCode_le (s : State) (p : Nat) (t : Template) : s.applyCode p t ≤ 6 := by
  unfold State.applyCode
  dsimp only
  split_ifs <;> decide

theorem State.hostApply_busy (h : s.busyPart p = true) : s.hostApply p = s := by
  rw [State.hostApply, State.applyStart, if_pos h, if_pos h, ite_self]

/-- Before READY an apply waits, with what the template holds now. -/
theorem State.hostApply_early (hr : s.ready = false) (hb : s.busyPart p = false) :
    s.hostApply p = s.withBoot { s.boot with applyQ := s.boot.applyQ ++ [(p, some (s.templateOf p))] } := by
  rw [State.hostApply, hr, hb]
  rfl

/-- An apply that fails a check shows REJECT and its code. -/
def State.rejectApply (s : State) (p code : Nat) : State := (s.setBit (rPart p) 61 true).setFld (rPart p) 59 56 code

/-- An apply that passes is under way, a release where the template names no cluster. -/
def State.beginApply (s : State) (p : Nat) (t : Template) : State :=
  (((s.setBit (rPart p) 61 false).setFld (rPart p) 59 56 0).setBit (rPart p) 60 true).modPart p
    (fun q => { q with taking := some t, releasing := t.clusters == 0 })

theorem State.hostApply_rejected (hr : s.ready = true) (hb : s.busyPart p = false) (h : s.applyCode p (s.templateOf p) ≠ 0) :
    s.hostApply p = s.rejectApply p (s.applyCode p (s.templateOf p)) := by
  rw [State.hostApply, hr, State.applyStart, hb]
  exact if_pos h

theorem State.hostApply_passed (hr : s.ready = true) (hb : s.busyPart p = false) (h : s.applyCode p (s.templateOf p) = 0) :
    s.hostApply p = s.beginApply p (s.templateOf p) := by
  rw [State.hostApply, hr, State.applyStart, hb]
  exact if_neg (not_not.mpr h)

theorem State.rejectApply_frame (s : State) (p code : Nat) : s.rejectApply p code = s.withRegs (s.rejectApply p code).regs := rfl

theorem State.rejectApply_reg (s : State) (p code : Nat) {k : Nat} (h : k ≠ rPart p) : (s.rejectApply p code).reg k = s.reg k :=
  (State.reg_setFld_other _ _ _ _ _ _ h).trans (State.reg_setFld_other _ _ _ _ _ _ h)

theorem State.rejectApply_code (s : State) (p : Nat) {code : Nat} (h : code ≤ 6) :
    (s.rejectApply p code).fbit (rPart p) 61 = true ∧ (s.rejectApply p code).fld (rPart p) 59 56 = code :=
  ⟨(State.fbit_setFld_beside _ (by decide) (by decide)).trans (State.fbit_setBit_same _ _ _ (by decide)),
    State.fld_setFld_lt _ _ _ _ _ (by decide) (by decide) (by omega)⟩

/-- A rejection leaves BUSY and VALID. -/
theorem State.rejectApply_bits (s : State) (p code : Nat) :
    (s.rejectApply p code).busyPart p = s.busyPart p ∧ (s.rejectApply p code).validPart p = s.validPart p :=
  ⟨(State.fbit_setFld_beside _ (by decide) (by decide)).trans (State.fbit_setBit_beside _ _ _ (by decide)),
    (State.fbit_setFld_beside _ (by decide) (by decide)).trans (State.fbit_setBit_beside _ _ _ (by decide))⟩

theorem State.beginApply_frame (s : State) (p : Nat) (t : Template) :
    s.beginApply p t = (s.withRegs (s.beginApply p t).regs).withParts (s.beginApply p t).parts := rfl

theorem State.beginApply_part (s : State) (p : Nat) (t : Template) (q : Nat) : (s.beginApply p t).part q =
    if q = p then { s.part p with taking := some t, releasing := t.clusters == 0 } else s.part q :=
  State.part_modPart _ p q (fun q => { q with taking := some t, releasing := t.clusters == 0 })

theorem State.beginApply_bits (s : State) (p : Nat) (t : Template) : (s.beginApply p t).busyPart p = true
    ∧ (s.beginApply p t).fbit (rPart p) 61 = false ∧ (s.beginApply p t).fld (rPart p) 59 56 = 0 := by
  have shown : (s.beginApply p t).reg (rPart p)
      = (((s.setBit (rPart p) 61 false).setFld (rPart p) 59 56 0).setBit (rPart p) 60 true).reg (rPart p) := rfl
  refine ⟨(State.fbit_congr 60 shown).trans (State.fbit_setBit_same _ _ _ (by decide)),
    (State.fbit_congr 61 shown).trans ?_, (State.fld_congr 59 56 shown).trans ?_⟩
  · rw [State.fbit_setBit_beside _ _ _ (by decide), State.fbit_setFld_beside _ (by decide) (by decide),
      State.fbit_setBit_same _ _ _ (by decide)]
  · rw [State.setBit, State.fld_setFld_other _ _ _ _ _ _ _ (by decide) (by decide) (by decide),
      State.fld_setFld_lt _ _ _ _ _ (by decide) (by decide) (by decide)]

/-! ### The bits that the end of an apply or release shows (R378, R379) -/

/-- VALID, FULL, and nothing under way any more. -/
def State.showForce (s : State) (p : Nat) (valid full : Bool) : State :=
  (((s.setBit (rPart p) 63 valid).setBit (rPart p) 60 false).setBit (rPart p) 52 full).showPends

theorem State.showForce_frame (s : State) (p : Nat) (valid full : Bool) : ∃ r, s.showForce p valid full = s.withRegs r := by
  simp only [State.showForce, State.showPends, State.showPend, State.setBit, State.setFld, State.setReg,
    State.withRegs_withRegs_twice]
  exact ⟨_, rfl⟩

theorem State.showPends_reg (s : State) {k : Nat} (h : k ≠ rHostClmap) : s.showPends.reg k = s.reg k :=
  (State.showPend_reg _ 1 h).trans (s.showPend_reg 0 h)

theorem rPart_ne_rHostClmap (p : Nat) : rPart p ≠ rHostClmap := by unfold rPart rHostClmap; omega

theorem State.showForce_reg (s : State) (valid full : Bool) {k : Nat} (h : k ≠ rPart p) (hc : k ≠ rHostClmap) :
    (s.showForce p valid full).reg k = s.reg k := by
  rw [State.showForce, State.showPends_reg _ hc]
  exact (State.reg_setFld_other _ _ _ _ _ _ h).trans ((State.reg_setFld_other _ _ _ _ _ _ h).trans
    (State.reg_setFld_other _ _ _ _ _ _ h))

theorem State.showForce_bits (s : State) (p : Nat) (valid full : Bool) : (s.showForce p valid full).validPart p = valid
    ∧ (s.showForce p valid full).busyPart p = false ∧ (s.showForce p valid full).fbit (rPart p) 52 = full := by
  have shown : ∀ i, (s.showForce p valid full).fbit (rPart p) i
      = (((s.setBit (rPart p) 63 valid).setBit (rPart p) 60 false).setBit (rPart p) 52 full).fbit (rPart p) i :=
    fun i => State.fbit_congr i (State.showPends_reg _ (rPart_ne_rHostClmap p))
  refine ⟨(shown 63).trans ?_, (shown 60).trans ?_, (shown 52).trans (State.fbit_setBit_same _ _ _ (by decide))⟩
  · rw [State.fbit_setBit_beside _ _ _ (by decide), State.fbit_setBit_beside _ _ _ (by decide),
      State.fbit_setBit_same _ _ _ (by decide)]
  · rw [State.fbit_setBit_beside _ _ _ (by decide), State.fbit_setBit_same _ _ _ (by decide)]

/-! ### The end of an apply (R379, R380) -/

/-- The template by which a partition holds its grants. -/
def State.tmplInForce (s : State) (p : Nat) : Template := if s.validPart p then s.tmpl p else {}

/-- Where no template was valid before, serving state, galley and parameter blocks hold nothing. -/
def State.freshPart (s : State) (p : Nat) (was : Bool) : State := if was then s else (s.setScu p {}).dropRings p

/-- The template that an apply took is in force. -/
def State.takeTmpl (s : State) (p : Nat) (t : Template) : State :=
  (s.modPart p (fun q => { q with tmpl := t, taking := none })).showForce p true t.full

theorem State.takeTmpl_frame (s : State) (p : Nat) (t : Template) :
    ∃ r, s.takeTmpl p t = (s.modPart p (fun q => { q with tmpl := t, taking := none })).withRegs r :=
  State.showForce_frame ..

/-- A template that names a channel or slice twice is a host error (Table 14.8). -/
def State.namedTwice (s : State) (p : Nat) (t : Template) : State := if t.twice then s.unpredictable p else s

/-- An apply's end: what it newly grants is zeroed; its template is in force; and the state that posts its record. -/
def State.granting (s : State) (p : Nat) (t : Template) : State := s.zeroGrants (s.tmplInForce p) t
def State.inForce (s : State) (p : Nat) (t : Template) : State :=
  ((s.granting p t).freshPart p (s.validPart p)).takeTmpl p t
def State.applied (s : State) (p : Nat) (t : Template) : State := (s.inForce p t).namedTwice p t

theorem State.applyDone_eq (ht : (s.part p).taking = some t0) (hr : (s.part p).releasing = false) :
    s.applyDone p = (s.applied p t0).pfev 9 p := by
  unfold State.applyDone State.applied State.namedTwice State.inForce State.takeTmpl State.freshPart State.granting
    State.showForce State.tmplInForce State.tmpl
  dsimp only
  rw [ht]
  dsimp only
  rw [hr, if_neg Bool.false_ne_true]

theorem State.applyDone_idle (h : (s.part p).taking = none) : s.applyDone p = s := by
  unfold State.applyDone
  dsimp only
  rw [h]

/-- Whether a key lies in a partition's galley or parameter blocks. -/
def inRings (p k : Nat) : Bool :=
  decide (rParam p 0 ≤ k) && decide (k < rParam p 64) || decide (rGalley p 0 ≤ k) && decide (k < rGalley p 1024)

theorem inRings_iff {k : Nat} : inRings p k = true
    ↔ (rParam p 0 ≤ k ∧ k < rParam p 64) ∨ (rGalley p 0 ≤ k ∧ k < rGalley p 1024) := by
  simp only [inRings, Bool.or_eq_true, Bool.and_eq_true, decide_eq_true_eq]

/-- A key in them is one of a virtual function, at the offset of a plain register. -/
theorem inRings_offset {k : Nat} (h : inRings p k = true) : 2 ^ 32 ≤ k ∧ (p < 16 → 2 ^ 32 ≤ k % 2 ^ 48
    ∧ ((0x1000 ≤ k % 2 ^ 48 % 2 ^ 32 ∧ k % 2 ^ 48 % 2 ^ 32 < 0x1800)
      ∨ (0x10000 ≤ k % 2 ^ 48 % 2 ^ 32 ∧ k % 2 ^ 48 % 2 ^ 32 < 0x20000))) := by
  rw [inRings_iff] at h
  unfold rParam rGalley at h
  omega

/-- The galley and the parameter blocks are plain registers, 0 at reset. -/
theorem resetWord_inRings {k : Nat} (hp : p < 16) (h : inRings p k = true) : resetWord (layoutOf k) = 0 := by
  obtain ⟨virtual, offset⟩ := (inRings_offset h).2 hp
  unfold layoutOf
  dsimp only
  rw [if_neg (not_lt.mpr virtual)]
  generalize k % 2 ^ 48 % 2 ^ 32 = off at offset
  have ring : ¬ off < 0x40 := by omega
  unfold layoutVf
  rw [if_neg ring]
  split
  · rfl
  · split
    · rfl
    · split <;> rfl

theorem State.sget_dropRings (s : State) (k : Nat) :
    sget 0 (s.dropRings p).regs k = if inRings p k = true then 0 else sget 0 s.regs k :=
  (sget_filter_key 0 s.regs (fun k => !inRings p k) k).trans (by cases inRings p k <;> rfl)

theorem State.dropRings_reg (s : State) {k : Nat} (h : inRings p k = false) : (s.dropRings p).reg k = s.reg k :=
  congrArg (· ^^^ resetWord (layoutOf k)) ((s.sget_dropRings k).trans (if_neg (by rw [h]; exact Bool.false_ne_true)))

theorem State.dropRings_empty (s : State) {k : Nat} (hp : p < 16) (h : inRings p k = true) : (s.dropRings p).reg k = 0 := by
  rw [State.reg, regGet, s.sget_dropRings, if_pos h, resetWord_inRings hp h]
  rfl

/-- A partition that is fresh differs in serving state and its own registers alone. -/
theorem State.freshPart_frame (s : State) (p : Nat) (was : Bool) : ∃ x r, s.freshPart p was = (s.withScus x).withRegs r
    ∧ (∀ q, q ≠ p → sget {} x q = s.scu q) ∧ (was = false → sget {} x p = {}) := by
  cases was
  · exact ⟨_, _, rfl, fun q hq => sget_sset_other _ _ _ _ _ hq, fun _ => sget_sset_same ..⟩
  · exact ⟨s.scus, s.regs, rfl, fun _ _ => rfl, nofun⟩

/-- The registers of the physical function are none of a partition's galley and parameter blocks. -/
theorem not_inRings {k : Nat} (h : k < 2 ^ 32) : inRings p k = false :=
  Bool.eq_false_iff.mpr fun hk => absurd (inRings_offset hk).1 (not_le.mpr h)

theorem State.freshPart_reg (s : State) (was : Bool) {k : Nat} (h : k < 2 ^ 32) : (s.freshPart p was).reg k = s.reg k := by
  cases was
  · exact (s.setScu p {}).dropRings_reg (not_inRings h)
  · rfl

end Sys2Proof.Machine

end

section

namespace Sys2Proof.Machine

variable {s : State} {p : Nat} {t0 : Template}

/-! ### What the end of an apply takes, and what it reaches (R13, R379) -/

/-- Clusters, memories, flags, channels and request entries are as they were. -/
structure SameUnits (s u : State) : Prop where
  clusters : u.clusters = s.clusters
  stackMem : u.stackMem = s.stackMem
  caseMem : u.caseMem = s.caseMem
  flags : u.flags = s.flags
  chans : u.chans = s.chans
  reqs : u.reqs = s.reqs

theorem SameUnits.pfev (s : State) (block p : Nat) : SameUnits s (s.pfev block p) := by
  obtain ⟨r, h, o, e, -⟩ := s.pfev_frame block p
  rw [e]
  exact ⟨rfl, rfl, rfl, rfl, rfl, rfl⟩

theorem SameUnits.trans {s t u : State} (h : SameUnits s t) (h' : SameUnits t u) : SameUnits s u :=
  ⟨h'.clusters.trans h.clusters, h'.stackMem.trans h.stackMem, h'.caseMem.trans h.caseMem, h'.flags.trans h.flags,
    h'.chans.trans h.chans, h'.reqs.trans h.reqs⟩

theorem SameUnits.takeTmpl (s : State) (p : Nat) (was : Bool) (t : Template) :
    SameUnits s ((s.freshPart p was).takeTmpl p t) := by
  obtain ⟨x, r, e, -⟩ := s.freshPart_frame p was
  obtain ⟨r', e'⟩ := (s.freshPart p was).takeTmpl_frame p t
  rw [e', e]
  exact ⟨rfl, rfl, rfl, rfl, rfl, rfl⟩

/-- What differs between s and u is what p takes: its template, its serving state and registers, and within t what its
template names; of a cluster that is not in it, MV operations may have lost what they were to move. -/
structure TakesWithin (s u : State) (p : Nat) (t : Template) : Prop where
  cluster : ∀ c, t.hasCluster c = false →
    u.cluster c = { s.cluster c with mv := (u.cluster c).mv } ∧ (u.cluster c).mv.length = (s.cluster c).mv.length
  stack : ∀ b, chanOfPa b ∉ t.chans → mget u.stackMem b = mget s.stackMem b
  caseMem : ∀ b, b / 2 ^ 28 ∉ t.slices → mget u.caseMem b = mget s.caseMem b
  flag : ∀ d f, d < 2 → f < 256 → 16 * d + f / 16 ∉ t.groups → u.flag d f = s.flag d f
  req : ∀ i, t.hasReq i = false → u.req i = s.req i
  scu : ∀ q, q ≠ p → u.scu q = s.scu q

theorem TakesWithin.trans {s u v : State} (h : TakesWithin s u p t0) (h' : TakesWithin u v p t0) : TakesWithin s v p t0 where
  cluster c hc := by
    obtain ⟨e, hlen⟩ := h.cluster c hc
    obtain ⟨e', hlen'⟩ := h'.cluster c hc
    exact ⟨by rwa [e] at e', hlen'.trans hlen⟩
  stack b hb := (h'.stack b hb).trans (h.stack b hb)
  caseMem b hb := (h'.caseMem b hb).trans (h.caseMem b hb)
  flag d f hd hf hg := (h'.flag d f hd hf hg).trans (h.flag d f hd hf hg)
  req i hi := (h'.req i hi).trans (h.req i hi)
  scu q hq := (h'.scu q hq).trans (h.scu q hq)

theorem SameUnits.takesWithin {u : State} (h : SameUnits s u) (hscu : ∀ q, q ≠ p → u.scu q = s.scu q) :
    TakesWithin s u p t0 where
  cluster c _ := by
    have e : u.cluster c = s.cluster c := congrArg (fun m => sget ({} : Cluster) m c) h.clusters
    rw [e]
    exact ⟨rfl, rfl⟩
  stack b _ := congrArg (fun m => mget m b) h.stackMem
  caseMem b _ := congrArg (fun m => mget m b) h.caseMem
  flag d f _ _ _ := congrArg (fun m => sget ({} : DieFlag) m (flagKey d f)) h.flags
  req i _ := congrArg (fun m => sget ({} : Req) m i) h.reqs
  scu := hscu

theorem GrantsZeroed.takesWithin {u : State} {old t : Template} (h : GrantsZeroed s u old t) (p : Nat) :
    TakesWithin s u p t where
  cluster c hc := by
    obtain ⟨ops, hlen, e⟩ := h.cluster c
    rw [if_neg (fun hn => by rw [(Template.mem_newClusters.mp hn).1] at hc; cases hc)] at e
    rw [e]
    exact ⟨rfl, hlen⟩
  stack b hb := (h.stack b).trans (if_neg fun hn => hb (Template.mem_newChans.mp hn).1)
  caseMem b hb := (h.caseMem b).trans (if_neg fun hn => hb (Template.mem_newSlices.mp hn).1)
  flag d f _ _ hg := (h.flag d f).trans (if_neg fun hn => hg (Template.mem_newGroups.mp hn).1)
  req i hi := (h.req i).trans (if_neg fun hn => by rw [hn.1] at hi; cases hi)
  scu q _ := congrArg (fun m => sget ({} : ScuPart) m q) h.scus

theorem Template.hasReq_iff {t : Template} {i : Nat} : t.hasReq i = true ↔ t.rqBase ≤ i ∧ i < t.rqBase + t.rqCount := by
  rw [Template.hasReq, Bool.and_eq_true, decide_eq_true_eq, decide_eq_true_eq]

/-- What t grants beyond old is as after zeroing. -/
structure NewGrants (s u : State) (old t : Template) : Prop where
  cluster : ∀ c, t.hasCluster c = true → old.hasCluster c = false → u.cluster c = (s.cluster c).zeroed
  chan : ∀ k, k ∈ t.chans → k ∉ old.chans → (u.chan k).state = .memory ∧ ∀ b, chanOfPa b = k → mget u.stackMem b = 0
  slice : ∀ b, b / 2 ^ 28 ∈ t.slices → b / 2 ^ 28 ∉ old.slices → mget u.caseMem b = 0
  flag : ∀ d f, 16 * d + f / 16 ∈ t.groups → 16 * d + f / 16 ∉ old.groups → u.flag d f = {}
  req : ∀ i, t.hasReq i = true → old.hasReq i = false → u.req i = {}

theorem GrantsZeroed.newGrants {u v : State} {old t : Template} (h : GrantsZeroed s u old t) (hv : SameUnits u v) :
    NewGrants s v old t where
  cluster c hc ho := by
    obtain ⟨ops, -, e⟩ := h.cluster c
    rw [if_pos (Template.mem_newClusters.mpr ⟨hc, ho⟩)] at e
    exact (congrArg (fun m => sget ({} : Cluster) m c) hv.clusters).trans e
  chan k hk ho := by
    have new := Template.mem_newChans.mpr ⟨hk, ho⟩
    refine ⟨(congrArg (fun m => (sget ({} : Chan) m k).state) hv.chans).trans (h.chan k new), fun b hb => ?_⟩
    rw [hv.stackMem, h.stack, hb, if_pos new]
  slice b hb ho := by rw [hv.caseMem, h.caseMem, if_pos (Template.mem_newSlices.mpr ⟨hb, ho⟩)]
  flag d f hg ho := (congrArg (fun m => sget ({} : DieFlag) m (flagKey d f)) hv.flags).trans
    ((h.flag d f).trans (if_pos (Template.mem_newGroups.mpr ⟨hg, ho⟩)))
  req i hi ho := (congrArg (fun m => sget ({} : Req) m i) hv.reqs).trans ((h.req i).trans (if_pos ⟨hi, ho⟩))

/-- A host error of a partition falls within its template in force. -/
theorem TakesWithin.unpredictable (s : State) (p : Nat) : TakesWithin s (s.unpredictable p) p (s.tmpl p) where
  cluster c hc := by
    rw [(StaysWithin.unpredictable s p).cluster c hc]
    exact ⟨rfl, rfl⟩
  stack := (SharedWithin.unpredictable s p).stack
  caseMem := (SharedWithin.unpredictable s p).caseMem
  flag := (SharedWithin.unpredictable s p).flag
  req := (StaysWithin.unpredictable s p).req
  scu := (StaysWithin.unpredictable s p).scu

theorem State.takeTmpl_part (s : State) (p : Nat) (t : Template) (q : Nat) :
    (s.takeTmpl p t).part q = if q = p then { s.part p with tmpl := t, taking := none } else s.part q := by
  obtain ⟨r, e⟩ := s.takeTmpl_frame p t
  rw [e]
  exact s.part_modPart p q (fun q => { q with tmpl := t, taking := none })

theorem State.takeTmpl_reg (s : State) (t : Template) {k : Nat} (h : k ≠ rPart p) (hc : k ≠ rHostClmap) :
    (s.takeTmpl p t).reg k = s.reg k := State.showForce_reg _ _ _ h hc

/-- What a template that names nothing twice leaves in force is final; one that does leaves values of its own free. -/
theorem State.namedTwice_spec (s : State) (p : Nat) :
    (s.namedTwice p (s.tmpl p)).parts = s.parts ∧ (∀ k, k < 2 ^ 32 → (s.namedTwice p (s.tmpl p)).reg k = s.reg k)
      ∧ TakesWithin s (s.namedTwice p (s.tmpl p)) p (s.tmpl p) := by
  unfold State.namedTwice
  split
  · exact ⟨s.unpredictable_parts p, (SharedWithin.unpredictable s p).reg, .unpredictable s p⟩
  · exact ⟨rfl, fun _ _ => rfl, SameUnits.takesWithin ⟨rfl, rfl, rfl, rfl, rfl, rfl⟩ fun _ _ => rfl⟩

section Applied

variable (s p t0)

theorem State.granting_zeroes : GrantsZeroed s (s.granting p t0) (s.tmplInForce p) t0 := s.zeroGrants_zeroes _ _

/-- Beside what it zeroes, an apply changes templates, serving states and registers alone. -/
theorem State.inForce_frame : ∃ x y r, s.inForce p t0 = (((s.granting p t0).withScus x).withParts y).withRegs r
    ∧ (∀ q, q ≠ p → sget {} x q = (s.granting p t0).scu q) ∧ (s.validPart p = false → sget {} x p = {}) := by
  obtain ⟨x, r, e, hscu⟩ := (s.granting p t0).freshPart_frame p (s.validPart p)
  obtain ⟨r', e'⟩ := ((s.granting p t0).freshPart p (s.validPart p)).takeTmpl_frame p t0
  rw [e] at e'
  exact ⟨x, _, r', (congrArg (fun u : State => u.takeTmpl p t0) e).trans e', hscu⟩

theorem State.inForce_part (q : Nat) :
    (s.inForce p t0).part q = if q = p then { s.part p with tmpl := t0, taking := none } else s.part q := by
  obtain ⟨x, r, e, -⟩ := (s.granting p t0).freshPart_frame p (s.validPart p)
  have parts : ∀ q, (((s.granting p t0).freshPart p (s.validPart p))).part q = s.part q := fun q => by
    rw [e]
    exact congrArg (fun m => sget ({} : Part) m q) (s.granting_zeroes p t0).parts
  rw [State.inForce, State.takeTmpl_part, parts, parts]

theorem State.inForce_tmpl : (s.inForce p t0).tmpl p = t0 := by
  rw [State.tmpl, State.inForce_part, if_pos rfl]

theorem State.inForce_reg {k : Nat} (hk : k < 2 ^ 32) (h : k ≠ rPart p) (hc : k ≠ rHostClmap) :
    (s.inForce p t0).reg k = (s.granting p t0).reg k :=
  (State.takeTmpl_reg _ _ h hc).trans (State.freshPart_reg _ _ hk)

theorem State.inForce_takesWithin : TakesWithin s (s.inForce p t0) p t0 := by
  obtain ⟨x, y, r, e, hscu, -⟩ := s.inForce_frame p t0
  refine ((s.granting_zeroes p t0).takesWithin p).trans ((SameUnits.takeTmpl ..).takesWithin fun q hq => ?_)
  change (s.inForce p t0).scu q = _
  rw [e]
  exact hscu q hq

theorem State.applied_spec : (s.applied p t0).parts = (s.inForce p t0).parts
    ∧ (∀ k, k < 2 ^ 32 → (s.applied p t0).reg k = (s.inForce p t0).reg k) ∧ TakesWithin s (s.applied p t0) p t0 := by
  have spec := (s.inForce p t0).namedTwice_spec p
  rw [s.inForce_tmpl] at spec
  obtain ⟨hparts, hreg, hwithin⟩ := spec
  exact ⟨hparts, hreg, (s.inForce_takesWithin p t0).trans hwithin⟩

end Applied

end Sys2Proof.Machine

end

section

namespace Sys2Proof.Machine

variable {s : State} {p : Nat} {t0 : Template}

/-! ### What the end of an apply leaves (R379, R380) -/

theorem rEstat_zero_lt : rEstat 0 < 2 ^ 32 := by decide

theorem rPart_ne_rEstat (p : Nat) : rPart p ≠ rEstat 0 := by
  have pf : rEstat 0 = 0x220 := rfl
  unfold rPart
  omega

/-- A record that follows a change of other registers, or of what waits at the host port, is posted as from before it. -/
theorem recordPosted.of_port {u t : State} {f : Nat} {ws : List W64} (h : recordPosted u t f ws)
    (hreg : ∀ k ∈ [rEbase f, rEhead f, rEstat f], u.reg k = s.reg k) (hmem : u.hostMem = s.hostMem)
    (hup : u.host.up = s.host.up) : recordPosted s t f ws := by
  obtain ⟨taken, lost⟩ := h.of_ring (s := s.withHost u.host) hreg hmem rfl
  have shut : (s.withHost u.host).ringShut f ↔ s.ringShut f := by
    unfold State.ringShut
    rw [State.withHost_host, hup]
    rfl
  exact ⟨fun h => taken (mt shut.mp h), fun h => lost (shut.mpr h)⟩

/-- The event ring of the physical function lies beside a template's PART_CTL and beside HOST_CLMAP. -/
theorem pfRing_beside {k : Nat} (p : Nat) (h : k ∈ [rEbase 0, rEhead 0, rEstat 0]) :
    k < 2 ^ 32 ∧ k ≠ rPart p ∧ k ≠ rHostClmap := by
  have bound : k < 0x1000 ∧ k ≠ rHostClmap := by revert k; decide
  unfold rPart
  omega

section
variable (s p t0)

theorem State.applyEnd_parts : ((s.applied p t0).pfev 9 p).parts = (s.inForce p t0).parts := by
  obtain ⟨r, h, o, e, -⟩ := (s.applied p t0).pfev_frame 9 p
  rw [e]
  exact (s.applied_spec p t0).1

theorem State.applyEnd_part (q : Nat) :
    ((s.applied p t0).pfev 9 p).part q = if q = p then { s.part p with tmpl := t0, taking := none } else s.part q := by
  rw [State.part, State.applyEnd_parts]
  exact s.inForce_part p t0 q

theorem State.applyEnd_reg {k : Nat} (hk : k < 2 ^ 32) (h : k ≠ rEstat 0) :
    ((s.applied p t0).pfev 9 p).reg k = (s.inForce p t0).reg k :=
  (State.pfev_reg _ _ _ h).trans ((s.applied_spec p t0).2.1 k hk)

/-- The template is in force, valid, with nothing under way. -/
theorem State.applyEnd_bits (hp : p < 16) : ((s.applied p t0).pfev 9 p).validPart p = true
    ∧ ((s.applied p t0).pfev 9 p).busyPart p = false ∧ ((s.applied p t0).pfev 9 p).fbit (rPart p) 52 = t0.full := by
  have bit : ∀ i, ((s.applied p t0).pfev 9 p).fbit (rPart p) i = (s.inForce p t0).fbit (rPart p) i := fun i =>
    State.fbit_congr i (s.applyEnd_reg p t0 (by unfold rPart; omega) (rPart_ne_rEstat p))
  obtain ⟨hvalid, hbusy, hfull⟩ := State.showForce_bits (((s.granting p t0).freshPart p (s.validPart p)).modPart p
    (fun q => { q with tmpl := t0, taking := none })) p true t0.full
  exact ⟨(bit 63).trans hvalid, (bit 60).trans hbusy, (bit 52).trans hfull⟩

theorem State.applyEnd_stage : ((s.applied p t0).pfev 9 p).stage = s.stage := by
  have boot := s.applyEnd_reg p t0 (k := rHostBoot) (by decide) (by decide)
  rw [s.inForce_reg p t0 (by decide) (by unfold rPart rHostBoot; omega) (by decide)] at boot
  exact (State.fld_congr 63 61 boot).trans (s.granting_zeroes p t0).stage

theorem State.applyEnd_takesWithin : TakesWithin s ((s.applied p t0).pfev 9 p) p t0 := by
  refine (s.applied_spec p t0).2.2.trans ((SameUnits.pfev ..).takesWithin fun q _ => ?_)
  obtain ⟨r, h, o, e, -⟩ := (s.applied p t0).pfev_frame 9 p
  rw [e]
  rfl

end

/-- A template that names nothing twice leaves no value free. -/
theorem State.applied_once (h : t0.twice = false) : s.applied p t0 = s.inForce p t0 := by
  rw [State.applied, State.namedTwice, h]
  rfl

theorem State.applyEnd_newGrants (h : t0.twice = false) :
    NewGrants s ((s.applied p t0).pfev 9 p) (s.tmplInForce p) t0 := by
  refine (s.granting_zeroes p t0).newGrants (SameUnits.trans ?_ (SameUnits.pfev ..))
  rw [State.applied_once h]
  exact SameUnits.takeTmpl ..

/-- Where none was valid before, the serving state, the galley and the parameter blocks hold nothing. -/
theorem State.applyEnd_fresh (hp : p < 16) (h : t0.twice = false) (hv : s.validPart p = false) :
    ((s.applied p t0).pfev 9 p).scu p = {} ∧ ∀ k, inRings p k = true → ((s.applied p t0).pfev 9 p).reg k = 0 := by
  rw [State.applied_once h]
  constructor
  · obtain ⟨x, y, r, e, -, hscu⟩ := s.inForce_frame p t0
    obtain ⟨r', h', o, e', -⟩ := (s.inForce p t0).pfev_frame 9 p
    rw [e', e]
    exact hscu hv
  · intro k hk
    have virtual := (inRings_offset hk).1
    have estat : k ≠ rEstat 0 := fun e => absurd rEstat_zero_lt (by omega)
    rw [State.pfev_reg _ _ _ estat, State.inForce, hv,
      State.takeTmpl_reg _ _ (by unfold rPart; omega) (by unfold rHostClmap; omega)]
    exact State.dropRings_empty _ hp hk

theorem State.applyEnd_posts (h : t0.twice = false) (hw : s.integ.waitRows = []) :
    recordPosted s ((s.applied p t0).pfev 9 p) 0 [evWord 9 p (9 * 2 ^ 48), s.nowWord, 0, 0] := by
  obtain ⟨hregs, hmem, hup⟩ := (s.granting_zeroes p t0).quiet hw
  rw [State.applied_once h]
  have posted : recordPosted (s.inForce p t0) ((s.inForce p t0).pfev 9 p) 0
      [evWord 9 p (9 * 2 ^ 48), (s.inForce p t0).nowWord, 0, 0] := State.postAt_recordPosted ..
  obtain ⟨x, y, r, e, -⟩ := s.inForce_frame p t0
  have time : (s.inForce p t0).time = s.time := by
    rw [e, State.withRegs_time, State.withParts_time, State.withScus_time, (s.granting_zeroes p t0).time]
  have host : (s.inForce p t0).hostMem = s.hostMem ∧ (s.inForce p t0).host.up = s.host.up := by
    rw [e, State.withRegs_hostMem, State.withParts_hostMem, State.withScus_hostMem, State.withRegs_host,
      State.withParts_host, State.withScus_host]
    exact ⟨hmem, hup⟩
  have now : (s.inForce p t0).nowWord = s.nowWord := congrArg (fun t : TimeUnit => BitVec.ofNat 64 t.ns) time
  rw [← now]
  refine posted.of_port (fun k hk => ?_) host.1 host.2
  obtain ⟨hlt, hpart, hmap⟩ := pfRing_beside p hk
  rw [s.inForce_reg p t0 hlt hpart hmap]
  exact congrArg (regGet · k) hregs

/-! ### The end of a release (R378) -/

/-- A partition whose release is done holds no template. -/
def Part.released (q : Part) : Part := { q with tmpl := {}, taking := none, releasing := false, frame := none, copies := [] }

/-- The state in which a release posts its record. -/
def State.released (s : State) (p : Nat) : State := (s.modPart p Part.released).showForce p false false

theorem State.releaseDone_eq (ht : (s.part p).taking = some t0) (hr : (s.part p).releasing = true) :
    s.releaseDone p = (s.released p).pfev 9 p := by
  unfold State.releaseDone State.released State.showForce Part.released
  dsimp only
  rw [ht, hr]
  exact if_neg Bool.false_ne_true

theorem State.releaseDone_idle (h : (s.part p).taking = none) : s.releaseDone p = s := by
  unfold State.releaseDone
  dsimp only
  rw [h, Option.isNone_none, Bool.or_true, if_pos rfl]

theorem State.released_frame (s : State) (p : Nat) : ∃ r, s.released p = (s.modPart p Part.released).withRegs r :=
  State.showForce_frame ..

/-- A release changes its partition's run state, its registers and the event ring alone. -/
theorem State.releaseEnd_frame (s : State) (p : Nat) : ∃ r h o,
    (s.released p).pfev 9 p = (((s.modPart p Part.released).withRegs r).withHostMem h).withHost o := by
  obtain ⟨r, h, o, e, -⟩ := (s.released p).pfev_frame 9 p
  obtain ⟨r', e'⟩ := s.released_frame p
  exact ⟨r, h, o, by rw [e, e', State.withRegs_withRegs_twice]⟩

theorem State.releaseEnd_part (s : State) (p q : Nat) :
    ((s.released p).pfev 9 p).part q = if q = p then (s.part p).released else s.part q := by
  obtain ⟨r, h, o, e⟩ := s.releaseEnd_frame p
  rw [e]
  exact s.part_modPart p q Part.released

theorem State.releaseEnd_memories (s : State) (p : Nat) : ((s.released p).pfev 9 p).clusters = s.clusters
    ∧ ((s.released p).pfev 9 p).stackMem = s.stackMem := by
  obtain ⟨r, h, o, e⟩ := s.releaseEnd_frame p
  rw [e]
  exact ⟨rfl, rfl⟩

/-- Nothing is valid or under way any more. -/
theorem State.releaseEnd_bits (s : State) (p : Nat) : ((s.released p).pfev 9 p).validPart p = false
    ∧ ((s.released p).pfev 9 p).busyPart p = false ∧ ((s.released p).pfev 9 p).fbit (rPart p) 52 = false := by
  have bit : ∀ i, ((s.released p).pfev 9 p).fbit (rPart p) i = (s.released p).fbit (rPart p) i := fun i =>
    State.fbit_congr i (State.pfev_reg _ _ _ (rPart_ne_rEstat p))
  obtain ⟨hvalid, hbusy, hfull⟩ := (s.modPart p Part.released).showForce_bits p false false
  exact ⟨(bit 63).trans hvalid, (bit 60).trans hbusy, (bit 52).trans hfull⟩

theorem State.released_reg (s : State) {k : Nat} (h : k ≠ rPart p) (hc : k ≠ rHostClmap) : (s.released p).reg k = s.reg k :=
  State.showForce_reg _ _ _ h hc

theorem State.releaseEnd_stage (s : State) (p : Nat) : ((s.released p).pfev 9 p).stage = s.stage :=
  State.fld_congr 63 61 ((State.pfev_reg _ _ _ (by decide)).trans
    (s.released_reg (by unfold rPart rHostBoot; omega) (by decide)))

theorem State.releaseEnd_posts (s : State) (p : Nat) :
    recordPosted s ((s.released p).pfev 9 p) 0 [evWord 9 p (9 * 2 ^ 48), s.nowWord, 0, 0] := by
  have posted : recordPosted (s.released p) ((s.released p).pfev 9 p) 0
      [evWord 9 p (9 * 2 ^ 48), (s.released p).nowWord, 0, 0] := State.postAt_recordPosted ..
  obtain ⟨r, e⟩ := s.released_frame p
  have now : (s.released p).nowWord = s.nowWord := by rw [e]; rfl
  rw [← now]
  refine posted.of_ring (fun k hk => ?_) (by rw [e]; rfl) (by rw [e]; rfl)
  obtain ⟨-, hpart, hmap⟩ := pfRing_beside p hk
  exact s.released_reg hpart hmap

end Sys2Proof.Machine

end

section

namespace Sys2Proof.Machine

/-! ### APPLY, RELEASE and their ends -/

theorem exec_apply (p : PartId) (s : State) : exec (.apply p) s = .next (s.hostApply p.val) := rfl

theorem exec_release (p : PartId) (s : State) :
    exec (.release p) s = .next (if (s.templateOf p.val).clusters = 0 then s.hostApply p.val else s) := rfl

theorem State.bootAfterApply_of_stage {s : State} (h : s.stage ≠ 6) : s.bootAfterApply = s := if_neg h

theorem exec_applyDone {p : PartId} {s : State} (h : (s.applyDone p.val).stage ≠ 6) :
    exec (.applyDone p) s = .next (s.applyDone p.val) := congrArg Host.Outcome.next (State.bootAfterApply_of_stage h)

theorem exec_releaseDone {p : PartId} {s : State} (h : (s.releaseDone p.val).stage ≠ 6) :
    exec (.releaseDone p) s = .next (s.releaseDone p.val) := congrArg Host.Outcome.next (State.bootAfterApply_of_stage h)

/-- Settles O43: an apply by whether it is busy, early, rejected or passes; the end of one by what it zeroes
(`GrantsZeroed`) and what it reaches (`TakesWithin`); the end of a release by its partition and record. -/
theorem templatesApplyAndRelease : Obligations.TemplatesApplyAndRelease := by
  unfold Obligations.TemplatesApplyAndRelease
  intro p s
  refine ⟨fun hb => by rw [exec_apply, State.hostApply_busy hb], fun hr _ hb => by rw [exec_apply, State.hostApply_early hr hb],
    fun hr hb => ⟨fun hcode => ?_, fun hcode => ?_⟩, fun hc => by rw [exec_release, if_neg hc], fun ht hs => ?_,
    fun t0 ht hs => ⟨fun hrel => ?_, fun hrel => ?_⟩⟩
  · rw [exec_apply, State.hostApply_rejected hr hb hcode]
    obtain ⟨hreject, hshown⟩ := s.rejectApply_code p.val (s.applyCode_le p.val (s.templateOf p.val))
    obtain ⟨hbusy, hvalid⟩ := s.rejectApply_bits p.val (s.applyCode p.val (s.templateOf p.val))
    exact ⟨_, rfl, hreject, hshown, hbusy.trans hb, hvalid, fun k hk => s.rejectApply_reg _ _ hk, s.rejectApply_frame ..⟩
  · obtain ⟨hbusy, hreject, hshown⟩ := s.beginApply_bits p.val (s.templateOf p.val)
    have begins := State.hostApply_passed hr hb hcode
    exact ⟨_, by rw [exec_apply, begins], hbusy, hreject, hshown, (s.beginApply_part ..).trans (if_pos rfl),
      fun q hq => (s.beginApply_part ..).trans (if_neg hq), s.beginApply_frame ..,
      fun hc => by rw [exec_release, if_pos hc, begins]⟩
  · rw [exec_applyDone (by rwa [State.applyDone_idle ht]), exec_releaseDone (by rwa [State.releaseDone_idle ht]),
      State.applyDone_idle ht, State.releaseDone_idle ht]
    exact ⟨rfl, rfl⟩
  · refine ⟨_, exec_applyDone (by rwa [State.applyDone_eq ht hrel, State.applyEnd_stage]), ?_⟩
    rw [State.applyDone_eq ht hrel]
    obtain ⟨hvalid, hbusy, hfull⟩ := s.applyEnd_bits p.val t0 p.isLt
    have within := s.applyEnd_takesWithin p.val t0
    have own := (s.applyEnd_part p.val t0 p.val).trans (if_pos rfl)
    refine ⟨hvalid, hbusy, hfull, congrArg Part.tmpl own, congrArg Part.taking own, fun honce => ⟨fun hv => ?_,
      fun c _ hc ho => ?_, fun k hk ho => ?_, fun b hb ho _ => ?_, fun d f _ _ hg ho => ?_, fun i hlo hhi ho => ?_,
      State.applyEnd_posts honce⟩, within.cluster, fun k b hk hb => within.stack b (hb ▸ hk), within.caseMem, within.flag,
      fun i hi => within.req i (Bool.eq_false_iff.mpr fun h => hi (Template.hasReq_iff.mp h)),
      fun q hq => ⟨(s.applyEnd_part p.val t0 q).trans (if_neg hq), within.scu q hq⟩⟩
    · obtain ⟨hscu, hrings⟩ := State.applyEnd_fresh p.isLt honce hv
      exact ⟨hscu, fun k hlo hhi => hrings k (inRings_iff.mpr (.inl ⟨hlo, hhi⟩)),
        fun k hlo hhi => hrings k (inRings_iff.mpr (.inr ⟨hlo, hhi⟩))⟩
    · rw [(State.applyEnd_newGrants honce).cluster c hc ho]
      exact ⟨rfl, rfl, rfl, rfl, rfl, rfl, rfl, rfl⟩
    · exact (State.applyEnd_newGrants honce).chan k hk ho
    · exact (State.applyEnd_newGrants honce).slice b hb ho
    · rw [(State.applyEnd_newGrants honce).flag d f hg ho]
    · exact (State.applyEnd_newGrants honce).req i (Template.hasReq_iff.mpr ⟨hlo, hhi⟩)
        (Bool.eq_false_iff.mpr fun h => ho (Template.hasReq_iff.mp h))
  · refine ⟨_, exec_releaseDone (by rwa [State.releaseDone_eq ht hrel, State.releaseEnd_stage]), ?_⟩
    rw [State.releaseDone_eq ht hrel]
    obtain ⟨hvalid, hbusy, hfull⟩ := s.releaseEnd_bits p.val
    obtain ⟨hclusters, hstack⟩ := s.releaseEnd_memories p.val
    have own := (s.releaseEnd_part p.val p.val).trans (if_pos rfl)
    exact ⟨hvalid, hbusy, hfull, congrArg Part.tmpl own, congrArg Part.taking own,
      fun q hq => (s.releaseEnd_part p.val q).trans (if_neg hq), hclusters, hstack, s.releaseEnd_posts p.val⟩

end Sys2Proof.Machine

end

section

namespace Sys2Proof.Machine

/-! ### A release counts the lines it writes (R282, R465) -/

/-- The RFINAL that group 0 of cluster 0 holds: one byte at the start of the stacks, for partition 0. -/
def heldByte : HeldFinal :=
  { writes := [⟨.stack, 0, 0xFF, 1⟩], die := 0, flag := 0, granted := false, part := 0, slot := none, since := 0 }

/-- That RFINAL announced and counted, while performance counter 0 counts the memory lines (event 6) of partition 0, to
which channel 0 is granted. -/
def releaseCounted : State :=
  ((State.reset.setBit (rPart 0) 63 true).setReg (rTrcPcsel 0) (1 <<< 63 ||| 6 <<< 56 ||| 1 <<< 40)).withParts
      [(0, { tmpl := { chmap := [0x80] } })]
    |>.setGroup (groupKey 0 0 0) { announced := some 0, held := some heldByte }

/-- Refutes O13, in its clause on a release within the module, which claims that no register changes: the block that is
released is an access of stack lines in memory mode, and a performance counter that selects event 6 counts it. -/
theorem not_writesLandAndFinalsRelease : ¬ Obligations.WritesLandAndFinalsRelease := by
  unfold Obligations.WritesLandAndFinalsRelease
  rintro ⟨-, -, release, -⟩
  obtain ⟨-, -, released⟩ := release 0 0 releaseCounted
  have plain : releaseCounted.plainWrites := by
    unfold State.plainWrites
    decide +kernel
  obtain ⟨t, ht, -, -, -, -, -, regs, -, -⟩ := released heldByte 0 (by decide +kernel) (Nat.zero_le _) rfl
    (by decide +kernel) (by decide +kernel) plain (by decide +kernel)
  have ended : releaseCounted.rfinalRelease none 0 0 = t := Host.Outcome.next.inj ht
  exact absurd (ended ▸ regs) (by decide +kernel)

/-! ### A tier device of more than 2^46 bytes (R392) -/

/-- TIER port 0 switched to PCIe and training. -/
def tierTraining : State := State.reset.setFld (rTier 0) 61 60 1

/-- Refutes O42, in its clause that the training of one tier port leaves the poisoned lines of the others: CAP has 32
bits, so a device of port 0 may report 2^17 GiB, twice the 2^46 bytes of a port's range; its poisoned line number 2^40
then takes the number of the first line of port 1. -/
theorem not_hostPortEvents : ¬ Obligations.HostPortEvents := by
  unfold Obligations.HostPortEvents
  intro events
  obtain ⟨-, -, -, trained, -⟩ := events tierTraining
  obtain ⟨t, ht, -, -, -, -, others, -, -⟩ := (trained 0 (2 ^ 17) [2 ^ 40]).1 (by decide +kernel)
  cases ht
  exact absurd ((others (2 ^ 40) (by decide)).mp (by decide +kernel)) (by decide +kernel)

end Sys2Proof.Machine
end

section

namespace Sys2Proof.Machine

/-! ### Rows of near-bank commands (Table 8.9) -/

/-- Every row of Table 8.9 starts the next command of its channel's list where it is the row's operation. -/
theorem exec_of_nbOf {i : Instr} {k op : Nat} (h : nbOf i = some (k, op)) (s : State) : exec i s = .next (s.nbStart k op) := by
  cases i <;> simp only [nbOf, reduceCtorEq, Option.some.injEq, Prod.mk.injEq] at h <;> obtain ⟨rfl, rfl⟩ := h <;> rfl

theorem chanKey_div (n : StackId) (m : ChanId) : chanKey n m / 16 = n.val := by
  have := m.isLt
  unfold chanKey
  omega

theorem chanKey_mod (n : StackId) (m : ChanId) : chanKey n m % 16 = m.val := by
  have := m.isLt
  unfold chanKey
  omega

/-! ### Fields of a command (Table 8.8) -/

theorem NbList.cmd_cases (l : NbList) : l.cmd = {} ∨ ∃ lo hi, l.cmd = nbParse lo hi := by
  unfold NbList.cmd
  split
  · exact .inl rfl
  · exact .inr ⟨_, _, rfl⟩

theorem NbList.cmd_die_lt (l : NbList) : l.cmd.die < 16 := by
  obtain h | ⟨lo, hi, h⟩ := l.cmd_cases
  · rw [h]; decide
  · rw [h]; exact Nat.mod_lt _ (by decide)

theorem NbList.cmd_len_pos (l : NbList) : 0 < l.cmd.len := by
  obtain h | ⟨lo, hi, h⟩ := l.cmd_cases
  · rw [h]; decide
  · rw [h]; exact Nat.lt_of_lt_of_le Nat.zero_lt_one (Nat.le_max_left ..)

theorem NbList.cmd_dies_lt (l : NbList) {d : Nat} (h : d ∈ l.cmd.dies) : d < 16 := by
  unfold NbCmd.dies at h
  split at h
  · next e he =>
    have : e = l.cmd.die := by
      unfold NbCmd.oneDie at he
      split at he
      · exact (Option.some.inj he).symm
      · cases he
    rw [List.mem_singleton.mp h, this]
    exact l.cmd_die_lt
  · have := List.mem_range.mp h
    split at this <;> omega

theorem NbCmd.dies_nodup (c : NbCmd) : c.dies.Nodup := by
  unfold NbCmd.dies
  split
  · exact List.nodup_singleton _
  · exact List.nodup_range

/-! ### What a command's effect can reach -/

/-- What acting on channel k can reach of the stacks: between s and t no cluster, flag, clock, case store or tier byte
differs, and of the channels k alone, in its NBUs, merge slots and marked segments. -/
structure NbSide (k : Nat) (s t : State) : Prop where
  time : t.time = s.time
  clusters : t.clusters = s.clusters
  flags : t.flags = s.flags
  caseMem : t.caseMem = s.caseMem
  tierMem : t.tierMem = s.tierMem
  own : t.chan k = { s.chan k with nbus := (t.chan k).nbus, slots := (t.chan k).slots, dirty := (t.chan k).dirty }
  others : ∀ j, j ≠ k → t.chan j = s.chan j

theorem NbSide.of_eq {k : Nat} {s t : State} (htime : t.time = s.time) (hclusters : t.clusters = s.clusters)
    (hflags : t.flags = s.flags) (hcase : t.caseMem = s.caseMem) (htier : t.tierMem = s.tierMem)
    (hchans : t.chans = s.chans) : NbSide k s t where
  time := htime
  clusters := hclusters
  flags := hflags
  caseMem := hcase
  tierMem := htier
  own := by rw [State.chan, hchans]; rfl
  others j _ := by rw [State.chan, hchans]; rfl

theorem NbSide.refl (k : Nat) (s : State) : NbSide k s s := .of_eq rfl rfl rfl rfl rfl rfl

theorem NbSide.trans {k : Nat} {s t u : State} (h : NbSide k s t) (h' : NbSide k t u) : NbSide k s u where
  time := h'.time.trans h.time
  clusters := h'.clusters.trans h.clusters
  flags := h'.flags.trans h.flags
  caseMem := h'.caseMem.trans h.caseMem
  tierMem := h'.tierMem.trans h.tierMem
  own := by rw [h'.own, h.own]
  others j hj := (h'.others j hj).trans (h.others j hj)

theorem NbSide.foldl {β : Type} {k : Nat} (f : State → β → State) (hf : ∀ s x, NbSide k s (f s x)) (l : List β) (s : State) :
    NbSide k s (l.foldl f s) := foldl_keeps (NbSide k s) f (fun _ x h => h.trans (hf _ x)) l s (.refl k s)

/-- Counts, logs, records and retirements reach nothing of the stacks' work. -/
theorem NbSide.of_beyond {k : Nat} {s t : State} (h : t.beyondRetirement = s.beyondRetirement) : NbSide k s t :=
  .of_eq (congrArg State.time h :) (congrArg State.clusters h :) (congrArg State.flags h :) (congrArg State.caseMem h :)
    (congrArg State.tierMem h :) (congrArg State.chans h :)

theorem NbSide.modChan {k : Nat} (s : State) (f : Chan → Chan)
    (hf : ∀ x : Chan, f x = { x with nbus := (f x).nbus, slots := (f x).slots, dirty := (f x).dirty }) :
    NbSide k s (s.modChan k f) where
  time := rfl
  clusters := rfl
  flags := rfl
  caseMem := rfl
  tierMem := rfl
  own := by rw [State.chan_modChan, if_pos rfl]; exact hf _
  others j hj := by rw [State.chan_modChan, if_neg hj]

theorem NbSide.setNbu (k : Nat) (s : State) (b d : Nat) (x : Nbu) : NbSide k s (s.setNbu k b d x) :=
  .modChan s _ fun _ => rfl

theorem NbSide.setMslot (k : Nat) (s : State) (n : Nat) (m : MergeSlot) : NbSide k s (s.setMslot k n m) :=
  .modChan s _ fun _ => rfl

theorem NbSide.withStackMem (k : Nat) (s : State) (m : Mem) : NbSide k s (s.withStackMem m) := .of_eq rfl rfl rfl rfl rfl rfl

theorem NbSide.modSlot (k : Nat) (s : State) (p n : Nat) (f : SlotRun → SlotRun) : NbSide k s (s.modSlot p n f) := by
  obtain ⟨q, e⟩ := s.modSlot_frame p n f
  rw [e]
  exact .of_eq rfl rfl rfl rfl rfl rfl

theorem State.qualifyRow_beyond (s : State) (k die bank row : Nat) :
    (s.qualifyRow k die bank row).beyondRetirement = s.beyondRetirement := by
  unfold State.qualifyRow
  split
  · exact s.retireRow_beyond ..
  · rfl

theorem State.noteRowError_beyond (s : State) (k die bank row : Nat) :
    (s.noteRowError k die bank row).beyondRetirement = s.beyondRetirement := by
  unfold State.noteRowError
  dsimp only
  split
  · exact State.qualifyRow_beyond ..
  · rfl

/-- What a load finds in a die word is counted, logged and reported, and its row may retire (R247, R401). -/
theorem State.noteWord_beyond (s : State) (k bank d j : Nat) (f : Nat × Bool × List Bool) :
    (s.noteWord k bank d j f).beyondRetirement = s.beyondRetirement := by
  unfold State.noteWord
  extract_lets r loc t
  have poisoned : t.beyondRetirement = s.beyondRetirement :=
    foldl_keeps (fun u => u.beyondRetirement = s.beyondRetirement) _ (fun u i hu => by
      split
      · exact (State.errLog_beyond ..).trans hu
      · exact hu) _ _ rfl
  split
  · exact (State.noteRowError_beyond ..).trans ((State.errLog_beyond ..).trans poisoned)
  · split
    · exact (State.qualifyRow_beyond ..).trans ((State.pfev_beyond ..).trans ((State.errLog_beyond ..).trans poisoned))
    · exact poisoned

theorem State.nbLoad_beyond (s : State) (k bank d off n : Nat) :
    (s.nbLoad k bank d off n).2.2.beyondRetirement = s.beyondRetirement := by
  unfold State.nbLoad
  extract_lets nan raw first found at_ bytes ue t u
  split
  · rfl
  · split
    · rfl
    · have noted : u.beyondRetirement = s.beyondRetirement :=
        foldl_keeps (fun v => v.beyondRetirement = s.beyondRetirement) _ (fun v q hv => (State.noteWord_beyond ..).trans hv) _ _ rfl
      dsimp only
      split
      · exact noted
      · exact noted

theorem NbSide.nbLoadAll (s : State) (k bank : Nat) (dies : List Nat) (off n : Nat) :
    NbSide k s (s.nbLoadAll k bank dies off n).2.2 :=
  List.foldlRecOn (motive := fun a : List (Nat × List Nat) × NbFound × State => NbSide k s a.2.2) _ _ (.refl k s)
    fun a ha d _ => ha.trans (.of_beyond (State.nbLoad_beyond a.2.2 k bank d off n))

theorem NbSide.mapNbus (s : State) (k : Nat) (c : NbCmd) (f : Nbu → Nbu) : NbSide k s (s.mapNbus k c f) :=
  .foldl _ (fun _ _ => .setNbu ..) _ _

theorem NbSide.nbStream (s : State) (k : Nat) (c : NbCmd) (f : Nbu → List Nat → Nbu) : NbSide k s (s.nbStream k c f).2 :=
  (NbSide.nbLoadAll s k c.bank c.dies c.off (32 * c.len)).trans (.foldl _ (fun _ _ => .setNbu ..) _ _)

theorem NbSide.nbAtt (s : State) (k : Nat) (c : NbCmd) : NbSide k s (s.nbAtt k c).2 :=
  List.foldlRecOn (motive := fun a : NbEff × State => NbSide k s a.2) _ _ (.refl k s)
    fun a ha d _ => (ha.trans (.of_beyond (State.nbLoad_beyond a.2 k c.bank d c.off _))).trans (.setNbu ..)

theorem NbSide.markUnits (s : State) (k bank off n : Nat) : NbSide k s (s.markUnits k bank off n).2.2 := by
  refine List.foldlRecOn (motive := fun a : List Nat × Bool × State => NbSide k s a.2.2) _ _ (.refl k s) fun a ha u _ => ?_
  dsimp only
  split
  · exact ha
  · split
    · exact ha.trans (.modChan a.2.2 (fun ch => { ch with dirty := linsert (segOf bank (off + 32 * u)) ch.dirty }) fun _ => rfl)
    · exact ha

theorem NbSide.nbPut (k : Nat) (s : State) (l : NbList) (ws : List PWrite) : NbSide k s (s.nbPut l ws) := by
  unfold State.nbPut
  extract_lets lines hit keep ws' t u v
  have cleared : NbSide k s t := by
    refine .foldl _ (fun s n => ?_) _ _
    exact .of_beyond rfl
  have written : NbSide k s u := cleared.trans (.withStackMem ..)
  have digested : NbSide k s v := by
    dsimp only [v]
    split
    · refine written.trans ?_
      unfold State.digestWrites
      split
      · exact .modSlot ..
      · exact .refl ..
    · exact written
  split
  · exact digested
  · refine digested.trans ?_
    unfold State.markPages
    split
    · exact .refl ..
    · exact .of_beyond rfl

theorem NbSide.setBit (k : Nat) (s : State) (r i : Nat) (b : Bool) : NbSide k s (s.setBit r i b) := .of_beyond rfl

theorem NbSide.nbStore (s : State) (k : Nat) (l : NbList) (bank off n : Nat) (dies : List Nat) (bytes : Nat → List Byte) :
    NbSide k s (s.nbStore k l bank off n dies bytes).2 := by
  unfold State.nbStore
  dsimp only
  split
  · exact .refl ..
  · have put : ∀ ws, NbSide k s ((s.markUnits k bank off n).2.2.nbPut l ws) := fun ws =>
      (NbSide.markUnits s k bank off n).trans (.nbPut k _ l ws)
    split
    · exact (put _).trans (.setBit ..)
    · exact put _

/-- What any command's action can reach (Table 8.9). -/
theorem NbSide.nbEffect (s : State) (k : Nat) (l : NbList) (c : NbCmd) : NbSide k s (s.nbEffect k l c).2 := by
  unfold State.nbEffect
  dsimp only
  split
  case h_1 | h_6 | h_7 | h_8 | h_9 | h_10 | h_11 | h_12 => exact .nbStream ..
  case h_2 | h_4 | h_13 => exact .nbStore ..
  case h_3 | h_5 | h_14 | h_15 | h_16 | h_17 | h_22 => dsimp only; exact .mapNbus ..
  case h_18 => exact .nbAtt ..
  case h_19 | h_20 | h_21 => exact .setMslot ..
  case h_23 | h_24 => exact .refl ..

end Sys2Proof.Machine
end

section

namespace Sys2Proof.Machine

/-! ### A command starts (R233, R235, R238) -/

/-- A started command as its list keeps it until it ends. -/
def NbCmd.runAt (c : NbCmd) (opened : Bool) (now : Nat) (puts : List PWrite) : NbRun :=
  { bank := if c.namesBank then some c.bank else none
    slot := if c.namesSlot then some c.slot else none
    onBus := c.usesBus
    next := (c.time opened).2
    row := if c.op = 0x07 then c.row + 1 else 0
    lastRow := if c.op = 0x07 then c.lastRow + 1 else 0
    due := 16 * now + (c.time opened).1
    isPutc := c.op == 0x2C
    puts := puts
    burst := if c.isBurst then some now else none }

/-- The list once command c has started, within its limits or not, with its effect. -/
def NbList.goneOn (l : NbList) (c : NbCmd) (ok opened : Bool) (now : Nat) (e : NbEff) : NbList :=
  { l with
    line := (l.after c).1
    q := (l.after c).2
    powHeld := none
    ended := l.ended || c.op == 0x02
    running := if (c.time opened).1 + (c.time opened).2 = 0 then l.running else l.running ++ [c.runAt opened now e.puts]
    addrSt := l.addrSt || !ok
    ueSt := l.ueSt || e.ue
    wbSt := l.wbSt || e.wb
    first := if (!ok || e.ue || e.wb) && !(l.addrSt || l.ueSt || l.wbSt) then l.index else l.first }

/-- The channel once a burst has begun: its row is open, and the power rules keep the burst. -/
def Chan.burstBegun (ch : Chan) (c : NbCmd) (opened : Bool) (now : Nat) : Chan :=
  { ch.prune now with
    openRow := if c.op = 0x07 then ch.openRow else sset 0 ch.openRow c.bank (c.lastRow + 1)
    bursts := (ch.prune now).bursts ++ [{ bank := c.bank, start := now, stop := none
                                          activates := c.activates opened (c.burstAt now), die := c.oneDie }] }

/-- The effect of a command, none beyond its limits (R237). -/
def State.nbActs (s : State) (k : Nat) (l : NbList) (c : NbCmd) : NbEff × State :=
  if c.inLimits l (s.storeTop l.cluster) then s.nbEffect k l c else ({}, s)

/-- The effect with what the list's step and the counters take of it. -/
def State.nbCounted (s : State) (k : Nat) (l : NbList) (c : NbCmd) : State :=
  let t := (s.nbActs k l c).2
  let u := t.stepPoison (t.runOf l.cluster) (s.nbActs k l c).1.poison
  match l.powHeld with
  | some h => u.perf 8 l.part none (u.now - h)
  | none => u

/-- A command that starts acts, takes its place in its list, and keeps its burst. -/
theorem State.nbGo_eq (s : State) (k : Nat) (l : NbList) (c : NbCmd) :
    s.nbGo k l c =
      let t := s.nbCounted k l c
      let u := t.setHead k (l.goneOn c (c.inLimits l (s.storeTop l.cluster)) ((s.chan k).rowOpen c) t.now (s.nbActs k l c).1)
      if c.isBurst then u.modChan k (fun ch => ch.burstBegun c ((s.chan k).rowOpen c) u.now) else u := rfl

/-- What starting the command at the head of channel k leaves: the list gone on, what the effect left of the channel and of
the stacks, and nothing else but the step's record and the counters. -/
structure NbStarted (s t : State) (k : Nat) (l : NbList) (rest : List NbList) : Prop where
  lists : (t.chan k).lists = l.goneOn l.cmd (l.cmd.inLimits l (s.storeTop l.cluster)) ((s.chan k).rowOpen l.cmd) s.now
    (s.nbActs k l l.cmd).1 :: rest
  state : (t.chan k).state = (s.chan k).state
  nbus : (t.chan k).nbus = ((s.nbActs k l l.cmd).2.chan k).nbus
  slots : (t.chan k).slots = ((s.nbActs k l l.cmd).2.chan k).slots
  dirty : (t.chan k).dirty = ((s.nbActs k l l.cmd).2.chan k).dirty
  others : ∀ j, j ≠ k → t.chan j = s.chan j
  clusters : t.clusters = s.clusters
  flags : t.flags = s.flags
  caseMem : t.caseMem = s.caseMem
  tierMem : t.tierMem = s.tierMem
  stackMem : t.stackMem = (s.nbActs k l l.cmd).2.stackMem
  reg : ∀ r, (∀ j, j < 8 → r ≠ rTrcPcnt j) → t.reg r = (s.nbActs k l l.cmd).2.reg r

theorem NbSide.nbActs (s : State) (k : Nat) (l : NbList) (c : NbCmd) : NbSide k s (s.nbActs k l c).2 := by
  unfold State.nbActs
  split
  · exact .nbEffect ..
  · exact .refl ..

/-- Counting changes the record of the list's step and the performance counters. -/
theorem State.nbCounted_frame (s : State) (k : Nat) (l : NbList) (c : NbCmd) :
    ∃ p r, s.nbCounted k l c = ((s.nbActs k l c).2.withParts p).withRegs r
      ∧ ∀ j, (∀ i, i < 8 → j ≠ rTrcPcnt i) → (s.nbCounted k l c).reg j = (s.nbActs k l c).2.reg j := by
  unfold State.nbCounted
  extract_lets t u
  have marked : ∃ p, u = t.withParts p := by
    dsimp only [u]
    unfold State.stepPoison
    split
    · split
      · exact t.modSlot_frame ..
      · exact ⟨t.parts, rfl⟩
    · exact ⟨t.parts, rfl⟩
  obtain ⟨p, e⟩ := marked
  split
  · next h _ =>
    have counted := u.perf_countsOnly 8 l.part none (u.now - h)
    exact ⟨p, _, counted.regs.trans (congrArg (State.withRegs · _) e), fun j hj => by rw [counted.reg j hj, e]; rfl⟩
  · exact ⟨p, u.regs, by rw [e]; rfl, fun j _ => by rw [e]; rfl⟩

/-- Opening rows and keeping bursts leaves everything else. -/
theorem NbStarted.modChan {s t : State} {k : Nat} {l : NbList} {rest : List NbList} (h : NbStarted s t k l rest) (f : Chan → Chan)
    (hf : ∀ x : Chan, f x = { x with openRow := (f x).openRow, bursts := (f x).bursts }) :
    NbStarted s (t.modChan k f) k l rest := by
  have own : (t.modChan k f).chan k = f (t.chan k) := by rw [State.chan_modChan, if_pos rfl]
  exact
    { h with
      lists := by rw [own, hf]; exact h.lists
      state := by rw [own, hf]; exact h.state
      nbus := by rw [own, hf]; exact h.nbus
      slots := by rw [own, hf]; exact h.slots
      dirty := by rw [own, hf]; exact h.dirty
      others := fun j hj => by rw [State.chan_modChan, if_neg hj]; exact h.others j hj }

theorem State.nbGo_started {s : State} {k : Nat} {l : NbList} {rest : List NbList} (h : (s.chan k).lists = l :: rest) :
    NbStarted s (s.nbGo k l l.cmd) k l rest := by
  have side := NbSide.nbActs s k l l.cmd
  obtain ⟨p, r, frame, reg⟩ := s.nbCounted_frame k l l.cmd
  have now : (s.nbCounted k l l.cmd).now = s.now := by rw [frame]; exact congrArg TimeUnit.ns side.time
  have chan : ∀ j, (s.nbCounted k l l.cmd).chan j = (s.nbActs k l l.cmd).2.chan j := fun j => by rw [frame]; rfl
  have tail : ((s.nbCounted k l l.cmd).chan k).lists.tail = rest := by rw [chan, side.own, h]; rfl
  have head : ∀ gone, gone = l.goneOn l.cmd (l.cmd.inLimits l (s.storeTop l.cluster)) ((s.chan k).rowOpen l.cmd) s.now
      (s.nbActs k l l.cmd).1 → NbStarted s ((s.nbCounted k l l.cmd).setHead k gone) k l rest := by
    rintro gone rfl
    unfold State.setHead
    exact
      { lists := by rw [State.chan_modChan, if_pos rfl, tail]
        state := by rw [State.chan_modChan, if_pos rfl, chan, side.own]
        nbus := by rw [State.chan_modChan, if_pos rfl, chan]
        slots := by rw [State.chan_modChan, if_pos rfl, chan]
        dirty := by rw [State.chan_modChan, if_pos rfl, chan]
        others := fun j hj => by rw [State.chan_modChan, if_neg hj, chan, side.others j hj]
        clusters := by rw [frame]; exact side.clusters
        flags := by rw [frame]; exact side.flags
        caseMem := by rw [frame]; exact side.caseMem
        tierMem := by rw [frame]; exact side.tierMem
        stackMem := by rw [frame]; rfl
        reg := fun j hj => reg j hj }
  rw [State.nbGo_eq]
  dsimp only
  split
  · exact (head _ (by rw [now])).modChan _ fun _ => rfl
  · exact head _ (by rw [now])

/-- The channel lets the command at the head of its list start. -/
theorem State.nbStart_go {s : State} {k op : Nat} {l : NbList} {rest : List NbList} (h : s.nbMayStart k op l rest) :
    s.nbStart k op = s.nbGo k l l.cmd := by
  obtain ⟨hfrozen, hruns, hrefresh, hlists, harrived, hended, hop, hmay, hpower⟩ := h
  have hold : (l.cmd.isBurst && !s.powerAllows k l l.cmd) = false := by
    cases hb : l.cmd.isBurst
    · rfl
    · rw [hpower hb]; rfl
  simp only [State.nbStart, hlists, hfrozen, hruns, hrefresh, harrived, hended, hop, hmay, hold]
  simp

/-- A row whose command may start starts it. -/
theorem exec_nbStarted {i : Instr} {k op : Nat} {s : State} {l : NbList} {rest : List NbList} (hi : nbOf i = some (k, op))
    (h : s.nbMayStart k op l rest) : ∃ t, exec i s = .next t ∧ NbStarted s t k l rest := by
  obtain ⟨-, -, -, hlists, -⟩ := id h
  refine ⟨_, exec_of_nbOf hi s, ?_⟩
  rw [State.nbStart_go h]
  exact State.nbGo_started hlists

/-! ### Starting and waiting (R233, R238, R239) -/

/-- Nothing starts on a channel that stands still, that has no list to run, or whose next command is another or waits. -/
theorem State.nbStart_still {s : State} {k op : Nat} {l : NbList} {rest : List NbList} (hl : (s.chan k).lists = l :: rest)
    (h : s.frozen = true ∨ (s.chan k).state.runs = false ∨ (s.chan k).refreshing.isSome = true ∨ l.arrived = false
      ∨ l.ended = true ∨ l.cmd.op ≠ op ∨ l.mayStart l.cmd = false) : s.nbStart k op = s := by
  simp only [State.nbStart, hl]
  rw [if_pos]
  simp only [Bool.or_eq_true, Bool.not_eq_true', bne_iff_ne]
  tauto

/-- A burst that the power rules alone hold is remembered from the first attempt on. -/
theorem State.nbStart_held {s : State} {k op : Nat} {l : NbList} {rest : List NbList} (hl : (s.chan k).lists = l :: rest)
    (hfrozen : s.frozen = false) (hruns : (s.chan k).state.runs = true) (hrefresh : (s.chan k).refreshing = none)
    (harrived : l.arrived = true) (hended : l.ended = false) (hop : l.cmd.op = op) (hmay : l.mayStart l.cmd = true)
    (hburst : l.cmd.isBurst = true) (hpower : s.powerAllows k l l.cmd = false) :
    s.nbStart k op = if l.powHeld.isSome then s
      else s.modChan k (fun ch => { ch with lists := { l with powHeld := some s.now } :: rest }) := by
  simp only [State.nbStart, hl, hfrozen, hruns, hrefresh, harrived, hended, hop, hmay, hburst, hpower, State.setHead,
    State.modChan, List.tail_cons]
  simp

theorem pair_sum_eq_zero {p : Nat × Nat} : p.1 + p.2 = 0 ↔ p = (0, 0) := by
  rw [Nat.add_eq_zero_iff, Prod.ext_iff]

/-- Settles O14: a command that may start does, as `NbStarted` says; and every other attempt finds the channel still. -/
theorem nearBankCommandsStartOrWait : Obligations.NearBankCommandsStartOrWait := by
  unfold Obligations.NearBankCommandsStartOrWait
  refine ⟨fun i k op s l rest hi h => ?_, fun i k op s hi => ⟨fun hl => ?_, fun l rest hl hstill => ?_,
    fun l rest hl hfrozen hruns hrefresh harrived hended hop hmay hburst hpower => ?_⟩⟩
  · obtain ⟨t, ht, started⟩ := exec_nbStarted hi h
    obtain ⟨-, -, -, -, harrived, hended, hop, -, -⟩ := h
    refine ⟨_, t, ht, started.lists, rfl, ?_, rfl, harrived, rfl, rfl, fun h0 => if_pos (pair_sum_eq_zero.mpr h0),
      fun h0 => ⟨_, if_neg (mt pair_sum_eq_zero.mp h0), rfl, rfl, rfl, rfl, rfl⟩, started.state, started.others,
      started.clusters, started.flags, started.caseMem, started.tierMem⟩
    simp only [NbList.goneOn, hended, hop, Bool.false_or]
  · rw [exec_of_nbOf hi, State.nbStart, hl]
  · rw [exec_of_nbOf hi, State.nbStart_still hl hstill]
  · rw [exec_of_nbOf hi, State.nbStart_held hl hfrozen hruns hrefresh harrived hended hop hmay hburst hpower]

end Sys2Proof.Machine
end

section

namespace Sys2Proof.Machine

/-! ### NBUs and merge slots under updates -/

theorem nbuKey_inj {b d b' d' : Nat} (hd : d < 16) (hd' : d' < 16) : 16 * b' + d' = 16 * b + d ↔ b' = b ∧ d' = d := by omega

theorem State.nbu_setNbu (s : State) (k : Nat) {b d b' d' : Nat} (hd : d < 16) (hd' : d' < 16) (x : Nbu) :
    (s.setNbu k b d x).nbu k b' d' = if b' = b ∧ d' = d then x else s.nbu k b' d' := by
  simp only [State.nbu, State.setNbu, State.chan_modChan, if_true, sget_sset, nbuKey_inj hd hd']

@[simp] theorem State.nbu_setMslot (s : State) (k n b d : Nat) (m : MergeSlot) : (s.setMslot k n m).nbu k b d = s.nbu k b d := by
  simp only [State.nbu, State.setMslot, State.chan_modChan, if_true]

theorem State.mslot_setMslot (s : State) (k n j : Nat) (m : MergeSlot) :
    (s.setMslot k n m).mslot k j = if j = n then m else s.mslot k j := by
  simp only [State.mslot, State.setMslot, State.chan_modChan, if_true, sget_sset]

/-- The NBUs of some dies of one bank, each changed in its own way. -/
def State.eachNbu (s : State) (k bank : Nat) (ds : List Nat) (g : Nat → Nbu → Nbu) : State :=
  ds.foldl (fun s d => s.setNbu k bank d (g d (s.nbu k bank d))) s

theorem State.eachNbu_nbu (k bank : Nat) (g : Nat → Nbu → Nbu) (b : Nat) {d : Nat} (hd : d < 16) :
    ∀ (ds : List Nat) (s : State), ds.Nodup → (∀ e ∈ ds, e < 16) →
      (s.eachNbu k bank ds g).nbu k b d = if b = bank ∧ d ∈ ds then g d (s.nbu k bank d) else s.nbu k b d
  | [], s, _, _ => by simp [State.eachNbu]
  | e :: ds, s, hnd, hlt => by
    obtain ⟨hnot, hnd⟩ := List.nodup_cons.mp hnd
    obtain ⟨he, hlt⟩ := List.forall_mem_cons.mp hlt
    have step := State.eachNbu_nbu k bank g b hd ds (s.setNbu k bank e (g e (s.nbu k bank e))) hnd hlt
    refine (show _ = _ from step).trans ?_
    rw [State.nbu_setNbu s k he hd, State.nbu_setNbu s k he hd]
    by_cases hde : d = e
    · subst hde
      by_cases hb : b = bank <;> simp [hb, hnot]
    · simp [hde]

/-! ### Loads without stored errors (R247) -/

/-- Bytes of one die's slice as they stand. -/
def State.dieBytes (s : State) (k bank d off n : Nat) : List Byte :=
  (List.range n).map (fun j => mget s.stackMem (paOfDie k bank d (off + j)))

theorem State.nbLoad_plain {s : State} (herrs : s.integ.errs = []) (hret : s.integ.retired = []) (k bank d off n : Nat) :
    s.nbLoad k bank d off n = (s.dieBytes k bank d off n, {}, s) := by
  simp [State.nbLoad, State.sliceRetired, herrs, hret, State.dieBytes]

theorem State.nbLoadAll_plain {s : State} (herrs : s.integ.errs = []) (hret : s.integ.retired = []) (k bank : Nat)
    (ds : List Nat) (off n : Nat) :
    s.nbLoadAll k bank ds off n = (ds.map (fun d => (d, codes16 (s.dieBytes k bank d off n))), {}, s) := by
  have loop : ∀ (ds : List Nat) (xs : List (Nat × List Nat)),
      ds.foldl (fun (a : List (Nat × List Nat) × NbFound × State) d =>
        let (bs, f, s) := a.2.2.nbLoad k bank d off n
        (a.1 ++ [(d, codes16 bs)], { ue := a.2.1.ue || f.ue, poison := a.2.1.poison || f.poison }, s)) (xs, {}, s)
        = (xs ++ ds.map (fun d => (d, codes16 (s.dieBytes k bank d off n))), {}, s) := by
    intro ds
    induction ds with
    | nil => intro xs; rw [List.foldl_nil, List.map_nil, List.append_nil]
    | cons d ds ih =>
      intro xs
      rw [List.foldl_cons]
      simp only [State.nbLoad_plain herrs hret]
      exact (ih _).trans (by rw [List.append_assoc]; rfl)
  exact loop ds []

/-- An operation that streams bank data changes each selected NBU by the codes of its own die. -/
theorem State.nbStream_plain {s : State} (herrs : s.integ.errs = []) (hret : s.integ.retired = []) (k : Nat) (c : NbCmd)
    (f : Nbu → List Nat → Nbu) :
    s.nbStream k c f
      = ({}, s.eachNbu k c.bank c.dies (fun d x => f x (codes16 (s.dieBytes k c.bank d c.off (32 * c.len))))) := by
  simp only [State.nbStream, State.nbLoadAll_plain herrs hret, List.foldl_map]
  rfl

theorem State.nbAtt_plain {s : State} (herrs : s.integ.errs = []) (hret : s.integ.retired = []) (k : Nat) (c : NbCmd) :
    s.nbAtt k c = ({}, s.eachNbu k c.bank c.dies (fun d x =>
      x.att c (codes16 (s.dieBytes k c.bank d c.off (64 * c.vb * c.entries d))) (c.entries d))) := by
  have loop : ∀ (ds : List Nat) (t : State), t.stackMem = s.stackMem → t.integ = s.integ →
      ds.foldl (fun (a : NbEff × State) d =>
        let n := c.entries d
        let (bs, f, s) := a.2.nbLoad k c.bank d c.off (64 * c.vb * n)
        ({ ue := a.1.ue || f.ue, poison := a.1.poison || f.poison },
            s.setNbu k c.bank d ((s.nbu k c.bank d).att c (codes16 bs) n))) ({}, t)
        = ({}, t.eachNbu k c.bank ds (fun d x =>
            x.att c (codes16 (s.dieBytes k c.bank d c.off (64 * c.vb * c.entries d))) (c.entries d))) := by
    intro ds
    induction ds with
    | nil => intro t _ _; rfl
    | cons d ds ih =>
      intro t hmem hinteg
      have bytes : ∀ n, t.dieBytes k c.bank d c.off n = s.dieBytes k c.bank d c.off n := fun n => by
        rw [State.dieBytes, hmem]; rfl
      rw [List.foldl_cons]
      simp only [State.nbLoad_plain (hinteg ▸ herrs) (hinteg ▸ hret), bytes]
      exact ih _ hmem hinteg
  exact loop c.dies s rfl rfl

/-! ### Stores leave NBUs and merge slots -/

theorem State.markUnits_units (s : State) (k bank off n : Nat) :
    (((s.markUnits k bank off n).2.2.chan k).nbus = (s.chan k).nbus)
      ∧ ((s.markUnits k bank off n).2.2.chan k).slots = (s.chan k).slots := by
  refine List.foldlRecOn (motive := fun a : List Nat × Bool × State =>
    (a.2.2.chan k).nbus = (s.chan k).nbus ∧ (a.2.2.chan k).slots = (s.chan k).slots) _ _ ⟨rfl, rfl⟩ fun a ha u _ => ?_
  dsimp only
  split
  · exact ha
  · split
    · simpa only [State.chan_setChan, if_true] using ha
    · exact ha

theorem State.nbPut_chans (s : State) (l : NbList) (ws : List PWrite) : (s.nbPut l ws).chans = s.chans := by
  unfold State.nbPut
  extract_lets lines hit keep ws' t u v
  have cleared : t.chans = s.chans := by
    refine foldl_keeps (fun t => t.chans = s.chans) _ (fun t n h => ?_) _ _ rfl
    exact h
  have digested : v.chans = s.chans := by
    dsimp only [v]
    split
    · unfold State.digestWrites
      split
      · obtain ⟨q, e⟩ := u.modSlot_frame _ _ _
        rw [e]
        exact cleared
      · exact cleared
    · exact cleared
  split
  · exact digested
  · unfold State.markPages
    split
    · exact digested
    · exact digested

theorem State.chan_setBit (s : State) (r i : Nat) (b : Bool) (k : Nat) : (s.setBit r i b).chan k = s.chan k := rfl

theorem State.nbStore_units (s : State) (k : Nat) (l : NbList) (bank off n : Nat) (dies : List Nat) (bytes : Nat → List Byte) :
    ((s.nbStore k l bank off n dies bytes).2.chan k).nbus = (s.chan k).nbus
      ∧ ((s.nbStore k l bank off n dies bytes).2.chan k).slots = (s.chan k).slots := by
  have marked := s.markUnits_units k bank off n
  have put : ∀ ws, ((s.markUnits k bank off n).2.2.nbPut l ws).chan k = (s.markUnits k bank off n).2.2.chan k := fun ws => by
    rw [State.chan, State.nbPut_chans]; rfl
  unfold State.nbStore
  dsimp only
  split
  · exact ⟨rfl, rfl⟩
  · split
    · rw [State.chan_setBit, put]; exact marked
    · rw [put]; exact marked

theorem State.nbStore_nbu (s : State) (k : Nat) (l : NbList) (bank off n : Nat) (dies : List Nat) (bytes : Nat → List Byte)
    (b d : Nat) : (s.nbStore k l bank off n dies bytes).2.nbu k b d = s.nbu k b d := by
  rw [State.nbu, (s.nbStore_units ..).1]; rfl

/-! ### What an operation leaves in a selected NBU (Table 8.9) -/

/-- What command c of list l leaves in the NBU of the selected die d that held x. -/
def State.nbAfter (s : State) (k : Nat) (l : NbList) (c : NbCmd) (d : Nat) (x : Nbu) : Nbu :=
  let cs := codes16 (s.dieBytes k c.bank d c.off (32 * c.len))
  let imm := f32v (BitVec.ofNat 32 c.imm)
  match c.op with
  | 0x04 => x.setV (16 * c.va) (cs.map (BitVec.ofNat 16))
  | 0x06 => x.setV (16 * c.va) ((codes16 (l.dataBytes c)).map (BitVec.ofNat 16))
  | 0x08 => { v := x.v }
  | 0x10 => { x with dotr := to32 (mulr imm (x.dot (16 * c.va) cs)) }
  | 0x11 => x.mapAcc (16 * c.len) (fun e v => addr v (mulr (f32v x.pr) (b16v (cs.getD e 0))))
  | 0x12 => x.mapAcc (16 * c.len) (fun e v => addr v (mulr (x.vAt (16 * c.va + e)) (b16v (cs.getD e 0))))
  | 0x13 => vOp c vadd x cs
  | 0x14 => vOp c vmul x cs
  | 0x15 => vOp c vmaxv x cs
  | 0x16 => vOp c (fun a b => if vlt b a then one else vzero) x cs
  | 0x18 => { x with pr := to32 (exp2r (f32v x.dotr)) }
  | 0x19 => x.osm c
  | 0x1A => x.mapAcc (16 * c.vb) (fun _ v => mulr v imm)
  | 0x1B => if immIs c 0 then x.mapAcc (16 * c.vb) (fun e _ => x.vAt (16 * c.va + e))
      else x.setV (16 * c.va) ((List.range (16 * c.vb)).map (fun i => to16 (x.accAt i)))
  | 0x20 => x.att c (codes16 (s.dieBytes k c.bank d c.off (64 * c.vb * c.entries d))) (c.entries d)
  | 0x2B => x.setV (16 * c.va) ((List.range (16 * c.len)).map (fun e => to16 ((s.mslot k c.slot).at_ e)))
  | _ => x

section
variable {s : State} {k : Nat} {l : NbList} {c : NbCmd}

theorem State.eachNbu_after {g : Nat → Nbu → Nbu} (h : ∀ d x, s.nbAfter k l c d x = g d x) :
    s.eachNbu k c.bank c.dies g = s.eachNbu k c.bank c.dies (s.nbAfter k l c) :=
  congrArg _ (funext fun d => funext fun x => (h d x).symm)

/-- The operations that stream bank data through the NBUs. -/
theorem State.nbEffect_streams (herrs : s.integ.errs = []) (hret : s.integ.retired = [])
    (h : c.op ∈ [0x04, 0x10, 0x11, 0x12, 0x13, 0x14, 0x15, 0x16]) :
    s.nbEffect k l c = ({}, s.eachNbu k c.bank c.dies (s.nbAfter k l c)) := by
  simp only [List.mem_cons, List.not_mem_nil, or_false] at h
  rcases h with h | h | h | h | h | h | h | h <;>
    · simp only [State.nbEffect, h, State.nbStream_plain herrs hret]
      exact congrArg _ (State.eachNbu_after fun d x => by simp only [State.nbAfter, h])

theorem State.mapNbus_eq (f : Nbu → Nbu) : s.mapNbus k c f = s.eachNbu k c.bank c.dies (fun _ => f) := rfl

/-- The operations on the NBUs alone. -/
theorem State.nbEffect_maps (h : c.op ∈ [0x06, 0x08, 0x18, 0x19, 0x1A, 0x1B, 0x2B]) :
    s.nbEffect k l c = ({}, s.eachNbu k c.bank c.dies (s.nbAfter k l c)) := by
  simp only [List.mem_cons, List.not_mem_nil, or_false] at h
  rcases h with h | h | h | h | h | h | h <;>
    · simp only [State.nbEffect, h, State.mapNbus_eq]
      exact congrArg _ (State.eachNbu_after fun d x => by simp only [State.nbAfter, h])

theorem State.nbEffect_att (herrs : s.integ.errs = []) (hret : s.integ.retired = []) (h : c.op = 0x20) :
    s.nbEffect k l c = ({}, s.eachNbu k c.bank c.dies (s.nbAfter k l c)) := by
  simp only [State.nbEffect, h, State.nbAtt_plain herrs hret]
  exact congrArg _ (State.eachNbu_after fun d x => by simp only [State.nbAfter, h])

/-- The operations that leave every NBU. -/
theorem State.nbEffect_nbu_kept (h : c.op ∈ [0x00, 0x01, 0x02, 0x05, 0x07, 0x17, 0x28, 0x29, 0x2A, 0x2C]) (b d : Nat) :
    (s.nbEffect k l c).2.nbu k b d = s.nbu k b d := by
  simp only [List.mem_cons, List.not_mem_nil, or_false] at h
  rcases h with h | h | h | h | h | h | h | h | h | h <;> simp only [State.nbEffect, h, State.nbu_setMslot, State.nbStore_nbu]

theorem State.nbAfter_kept (h : c.op ∈ [0x00, 0x01, 0x02, 0x05, 0x07, 0x17, 0x28, 0x29, 0x2A, 0x2C]) (d : Nat) (x : Nbu) :
    s.nbAfter k l c d x = x := by
  simp only [List.mem_cons, List.not_mem_nil, or_false] at h
  rcases h with h | h | h | h | h | h | h | h | h | h <;> simp only [State.nbAfter, h]

/-- The effect of every operation on the NBUs of its bank: each selected one as `nbAfter` says, and no other. -/
theorem State.nbEffect_nbu {i : Instr} {op : Nat} (hi : nbOf i = some (k, op)) (hop : c.op = op) (herrs : s.integ.errs = [])
    (hret : s.integ.retired = []) (hdies : ∀ d ∈ c.dies, d < 16) (b : Nat) {d : Nat} (hd : d < 16) :
    (s.nbEffect k l c).2.nbu k b d
      = if b = c.bank ∧ d ∈ c.dies then s.nbAfter k l c d (s.nbu k c.bank d) else s.nbu k b d := by
  have each : s.nbEffect k l c = ({}, s.eachNbu k c.bank c.dies (s.nbAfter k l c)) → (s.nbEffect k l c).2.nbu k b d
      = if b = c.bank ∧ d ∈ c.dies then s.nbAfter k l c d (s.nbu k c.bank d) else s.nbu k b d := fun h => by
    rw [h]; exact State.eachNbu_nbu k c.bank _ b hd c.dies s c.dies_nodup hdies
  have kind : op ∈ [0x04, 0x10, 0x11, 0x12, 0x13, 0x14, 0x15, 0x16] ∨ op ∈ [0x06, 0x08, 0x18, 0x19, 0x1A, 0x1B, 0x2B] ∨ op = 0x20
      ∨ op ∈ [0x00, 0x01, 0x02, 0x05, 0x07, 0x17, 0x28, 0x29, 0x2A, 0x2C] := by
    cases i <;> simp only [nbOf, reduceCtorEq, Option.some.injEq, Prod.mk.injEq] at hi <;> obtain ⟨-, rfl⟩ := hi <;> decide
  rw [← hop] at kind
  rcases kind with h | h | h | h
  · exact each (State.nbEffect_streams herrs hret h)
  · exact each (State.nbEffect_maps h)
  · exact each (State.nbEffect_att herrs hret h)
  · rw [State.nbEffect_nbu_kept h, State.nbAfter_kept h]
    split
    · next hb => rw [hb.1]
    · rfl

end

/-! ### Merge slots (R242 to R244) -/

/-- What a merge command leaves in its slot. -/
def State.slotAfter (s : State) (k : Nat) (c : NbCmd) : MergeSlot :=
  if c.op = 0x28 then c.dies.foldl (fun m d => m.fold (s.nbu k c.bank d) (16 * c.vb) (immIs c 0)) (s.mslot k c.slot)
  else if c.op = 0x29 then (s.mslot k c.slot).finish else {}

theorem State.nbEffect_merges (s : State) (k : Nat) (l : NbList) {c : NbCmd} (h : c.op = 0x28 ∨ c.op = 0x29 ∨ c.op = 0x2A) :
    s.nbEffect k l c = ({}, s.setMslot k c.slot (s.slotAfter k c)) := by
  rcases h with h | h | h <;> simp only [State.nbEffect, State.slotAfter, h] <;> rfl

/-- PUTC's bytes as writes of its cluster's store (R245). -/
theorem State.nbEffect_putc (s : State) (k : Nat) (l : NbList) {c : NbCmd} (h : c.op = 0x2C) :
    s.nbEffect k l c = ({ puts := putsAt (.store l.cluster) (c.imm % 2 ^ 23) ((s.mslot k c.slot).putBytes c) }, s) := by
  simp only [State.nbEffect, h]

/-- Whole bytes as writes, each byte with its place. -/
theorem putsAt_eq_zip (sp : Space) (a : Nat) (bs : List Byte) :
    putsAt sp a bs = (List.zip (List.range bs.length) bs).map (fun q => ⟨sp, a + q.1, 0xFF, q.2⟩) := by
  refine List.ext_getElem (by simp [putsAt]) fun i h _ => ?_
  have hi : i < bs.length := by simpa [putsAt] using h
  simp [putsAt, hi]

theorem State.nbActs_within {s : State} {k : Nat} {l : NbList} {c : NbCmd} (h : c.inLimits l (s.storeTop l.cluster) = true) :
    s.nbActs k l c = s.nbEffect k l c := if_pos h

theorem NbStarted.nbu {s t : State} {k : Nat} {l : NbList} {rest : List NbList} (h : NbStarted s t k l rest) (b d : Nat) :
    t.nbu k b d = (s.nbActs k l l.cmd).2.nbu k b d := by rw [State.nbu, h.nbus]; rfl

theorem NbStarted.mslot {s t : State} {k : Nat} {l : NbList} {rest : List NbList} (h : NbStarted s t k l rest) (n : Nat) :
    t.mslot k n = (s.nbActs k l l.cmd).2.mslot k n := by rw [State.mslot, h.slots]; rfl

/-! ### NearBankComputes -/

/-- A scaled exponent of minus infinity leaves OSM's probability 0 and nothing else (R236). -/
theorem Nbu.osm_eq (x : Nbu) (c : NbCmd) :
    x.osm c = if f32v x.dotr = negInf then { x with pr := 0 } else x.softmax (f32v x.dotr) (16 * c.vb) none := by
  simp only [Nbu.osm, isNegInf, beq_iff_eq]

/-- Settles O15: by what a start leaves (`NbStarted`), each NBU as `nbAfter` says, each merge slot as `slotAfter` says, and
PUTC's bytes. -/
theorem nearBankComputes : Obligations.NearBankComputes := by
  unfold Obligations.NearBankComputes
  refine ⟨fun i k op s l rest d hi h herrs hret hlim => ?_, fun i k op s l rest hi hmerge h hlim => ?_,
    fun n m s l rest h hlim => ?_⟩
  · obtain ⟨t, ht, started⟩ := exec_nbStarted hi h
    obtain ⟨-, -, -, -, -, -, hop, -, -⟩ := h
    have nbu : ∀ b d', d' < 16 → t.nbu k b d' = if b = l.cmd.bank ∧ d' ∈ l.cmd.dies
        then s.nbAfter k l l.cmd d' (s.nbu k l.cmd.bank d') else s.nbu k b d' := fun b d' hd' => by
      rw [started.nbu, State.nbActs_within hlim]
      exact State.nbEffect_nbu hi hop herrs hret (fun _ he => l.cmd_dies_lt he) b hd'
    refine ⟨t, ht, fun b d' hd' hnot => (nbu b d' hd').trans (if_neg hnot), fun hd => ?_⟩
    dsimp only
    rw [(nbu l.cmd.bank d (l.cmd_dies_lt hd)).trans (if_pos ⟨rfl, hd⟩), ← hop]
    refine ⟨fun h => State.nbAfter_kept h .., ?_⟩
    and_intros <;>
      · intro h
        simp only [State.nbAfter, h, Nbu.osm_eq] <;> rfl
  · obtain ⟨t, ht, started⟩ := exec_nbStarted hi h
    obtain ⟨-, -, -, -, -, -, hop, -, -⟩ := h
    subst hop
    have acts := (State.nbActs_within (k := k) hlim).trans (s.nbEffect_merges k l hmerge)
    have slot : ∀ j, t.mslot k j = if j = l.cmd.slot then s.slotAfter k l.cmd else s.mslot k j := fun j => by
      rw [started.mslot, acts]; exact s.mslot_setMslot ..
    have own := (slot l.cmd.slot).trans (if_pos rfl)
    refine ⟨t, ht, fun h => ?_, fun h => ?_, fun h => ?_, fun j hj => (slot j).trans (if_neg hj), fun b d => ?_, ?_⟩
    · rw [own, State.slotAfter, h]; rfl
    · rw [own, State.slotAfter, h]; rfl
    · rw [own, State.slotAfter, h]; rfl
    · rw [started.nbu, acts]; exact s.nbu_setMslot ..
    · rw [started.stackMem, acts]; rfl
  · obtain ⟨t, ht, started⟩ := exec_nbStarted (i := .putc n m) rfl h
    obtain ⟨-, -, -, -, -, -, hop, -, -⟩ := h
    have acts := (State.nbActs_within (k := chanKey n m) hlim).trans (s.nbEffect_putc (chanKey n m) l hop)
    have takes : ∀ opened, l.cmd.time opened = (1920, 0) := fun opened => by
      simp [NbCmd.time, NbCmd.isBurst, hop]
    refine ⟨_, _, t, ht, started.lists, if_neg (by rw [takes]; decide), ?_, fun j => ?_, started.clusters⟩
    · simp only [NbCmd.runAt, acts, putsAt_eq_zip]
      rfl
    · rw [started.mslot, acts]

end Sys2Proof.Machine
end

section

namespace Sys2Proof.Machine

/-! ### Where the bytes of a die lie (R216, R231) -/

/-- The bytes of the data dies of one bank lie at places of their own. -/
theorem paOfDie_inj {k bank d j d' j' : Nat} (hd : d < 16) (hd' : d' < 16)
    (h : paOfDie k bank d j = paOfDie k bank d' j') : d = d' ∧ j = j' := by
  unfold paOfDie paOfRow at h
  have := Nat.mod_lt k (show 0 < 16 by decide)
  generalize k / 16 * stackBytes = base at h
  generalize k % 16 = m at h this
  omega

/-! ### Bytes written one after another -/

section
variable {α : Type} {addr : α → Nat} {val : α → Byte}

/-- A byte that no write names stays. -/
theorem mget_foldl_mset_other {ws : List α} {a : Nat} (h : ∀ w ∈ ws, addr w ≠ a) (m : Mem) :
    mget (ws.foldl (fun m w => mset m (addr w) (val w)) m) a = mget m a := by
  induction ws generalizing m with
  | nil => rfl
  | cons w ws ih =>
    obtain ⟨hw, hws⟩ := List.forall_mem_cons.mp h
    rw [List.foldl_cons, ih hws, mget_mset_other _ _ _ _ (Ne.symm hw)]

/-- A byte reads as the writes that name it agree. -/
theorem mget_foldl_mset_agreed {ws : List α} {a : Nat} {v : Byte} (hsome : ∃ w ∈ ws, addr w = a)
    (hall : ∀ w ∈ ws, addr w = a → val w = v) (m : Mem) :
    mget (ws.foldl (fun m w => mset m (addr w) (val w)) m) a = v := by
  induction ws generalizing m with
  | nil => obtain ⟨_, h, _⟩ := hsome; cases h
  | cons w ws ih =>
    obtain ⟨hw, hws⟩ := List.forall_mem_cons.mp hall
    rw [List.foldl_cons]
    by_cases later : ∃ w ∈ ws, addr w = a
    · exact ih later hws _
    · rw [mget_foldl_mset_other (fun w hw ha => later ⟨w, hw, ha⟩)]
      have here : addr w = a := by
        obtain ⟨x, hx, ha⟩ := hsome
        rcases List.mem_cons.mp hx with rfl | hx
        · exact ha
        · exact absurd ⟨x, hx, ha⟩ later
      rw [here, mget_mset_same, hw here]

end

/-! ### Marking segments (R248) -/

theorem length_linsert {g : Nat} {l : List Nat} (h : g ∉ l) : (linsert g l).length = l.length + 1 := by
  induction l with
  | nil => rfl
  | cons x l ih =>
    obtain ⟨hx, hl⟩ := List.ne_and_not_mem_of_not_mem_cons h
    unfold linsert
    split
    · rfl
    · rw [List.length_cons, ih hl, List.length_cons]

/-- One more unit of a store: marked before, marked now, or refused. -/
theorem State.markUnits_succ (s : State) (k bank off n : Nat) :
    s.markUnits k bank off (n + 1) =
      let a := s.markUnits k bank off n
      let g := segOf bank (off + 32 * n)
      if (a.2.2.chan k).dirty.contains g then (a.1 ++ [n], a.2.1, a.2.2)
      else if (a.2.2.chan k).dirty.length < (a.2.2.chan k).wlimit then
        (a.1 ++ [n], a.2.1, a.2.2.setChan k { a.2.2.chan k with dirty := linsert g (a.2.2.chan k).dirty })
      else (a.1, true, a.2.2) := by
  unfold State.markUnits
  rw [List.range_succ, List.foldl_append]
  rfl

/-- Marking changes the channel's marks alone. -/
theorem State.markUnits_frame (s : State) (k bank off n : Nat) : ∃ x, (s.markUnits k bank off n).2.2 = s.withChans x := by
  induction n with
  | zero => exact ⟨s.chans, rfl⟩
  | succ n ih =>
    obtain ⟨x, e⟩ := ih
    rw [State.markUnits_succ]
    dsimp only
    split
    · exact ⟨x, e⟩
    · split
      · rw [e]; exact ⟨_, rfl⟩
      · exact ⟨x, e⟩

/-- Where the write limit leaves room for every unit, each is marked. -/
theorem State.markUnits_room {s : State} {k bank off n : Nat} (h : (s.chan k).dirty.length + n ≤ (s.chan k).wlimit) :
    (s.markUnits k bank off n).1 = List.range n ∧ (s.markUnits k bank off n).2.1 = false
      ∧ ((s.markUnits k bank off n).2.2.chan k).dirty.length ≤ (s.chan k).dirty.length + n
      ∧ ((s.markUnits k bank off n).2.2.chan k).wlimit = (s.chan k).wlimit := by
  induction n with
  | zero => exact ⟨rfl, rfl, Nat.le_refl _, rfl⟩
  | succ n ih =>
    obtain ⟨units, refused, dirty, limit⟩ := ih (Nat.le_of_succ_le h)
    rw [State.markUnits_succ]
    dsimp only
    split
    · exact ⟨by rw [units, List.range_succ], refused, Nat.le_succ_of_le dirty, limit⟩
    · next hg =>
      rw [if_pos (by omega)]
      refine ⟨by rw [units, List.range_succ], refused, ?_, ?_⟩
      · rw [State.chan_setChan, if_pos rfl]
        dsimp only
        rw [length_linsert (by simpa using hg)]
        omega
      · rw [State.chan_setChan, if_pos rfl]
        exact limit

/-- Where the limit is reached and no unit is marked, each is refused. -/
theorem State.markUnits_full {s : State} {k bank off n : Nat} (hfull : (s.chan k).wlimit ≤ (s.chan k).dirty.length)
    (hnone : ∀ u, u < n → (s.chan k).dirty.contains (segOf bank (off + 32 * u)) = false) :
    s.markUnits k bank off n = ([], decide (0 < n), s) := by
  induction n with
  | zero => rfl
  | succ n ih =>
    rw [State.markUnits_succ, ih fun u hu => hnone u (Nat.lt_succ_of_lt hu)]
    dsimp only
    rw [hnone n (Nat.lt_succ_self n), if_neg Bool.false_ne_true, if_neg (Nat.not_lt.mpr hfull)]
    simp

/-! ### Near-bank stores without stored errors (R247, R248) -/

/-- Without stored errors, a copy map or a digest a near-bank store is its bytes. -/
theorem State.nbPut_plain {s : State} (herrs : s.integ.errs = []) (hcopied : s.mirror.copied = [])
    (hmir : ∀ p, s.mirrored p = false) (l : NbList) (ws : List PWrite) :
    s.nbPut l ws = s.withStackMem (ws.foldl (fun m w => mset m w.addr w.val) s.stackMem) := by
  have clean : ∀ a, s.errOf .stack a = {} := fun a => by rw [State.errOf, herrs]; rfl
  have undigested : ∀ p n ws m, (s.withStackMem m).digestWrites p n ws = s.withStackMem m := fun p n ws m =>
    if_neg (by rw [show (s.withStackMem m).mirrored p = false from hmir p]; decide)
  have still : (s.withStackMem (ws.foldl (fun m w => mset m w.addr w.val) s.stackMem)).mirror.copied = [] := hcopied
  simp only [State.nbPut, clean, bne_self_eq_false, List.filter_false, List.filter_nil, List.isEmpty_nil, if_true, List.foldl_nil,
    undigested]
  split <;> simp only [still, List.isEmpty_nil, if_true]

/-- The writes of n units on each of some dies. -/
def storeWrites (k bank off n : Nat) (dies : List Nat) (bytes : Nat → List Byte) : List PWrite :=
  dies.flatMap (fun d => (List.range n).flatMap (fun u => (List.range 32).map (fun i =>
    ⟨.stack, paOfDie k bank d (off + 32 * u + i), 0xFF, (bytes d).getD (32 * u + i) 0⟩)))

theorem mem_storeWrites {k bank off n : Nat} {dies : List Nat} {bytes : Nat → List Byte} {w : PWrite} :
    w ∈ storeWrites k bank off n dies bytes
      ↔ ∃ d ∈ dies, ∃ j, j < 32 * n ∧ w = ⟨.stack, paOfDie k bank d (off + j), 0xFF, (bytes d).getD j 0⟩ := by
  simp only [storeWrites, List.mem_flatMap, List.mem_map, List.mem_range]
  refine exists_congr fun d => and_congr_right fun _ => ⟨?_, ?_⟩
  · rintro ⟨u, hu, i, hi, rfl⟩
    exact ⟨32 * u + i, by omega, by rw [Nat.add_assoc]⟩
  · rintro ⟨j, hj, rfl⟩
    refine ⟨j / 32, by omega, j % 32, Nat.mod_lt _ (by decide), ?_⟩
    rw [Nat.add_assoc, Nat.div_add_mod]

/-- A store whose units all find room leaves its bytes on every die, and nothing else. -/
theorem mget_storeWrites {k bank off n : Nat} {dies : List Nat} (bytes : Nat → List Byte) (m : Mem)
    (hdies : ∀ d ∈ dies, d < 16) :
    (∀ d ∈ dies, ∀ j, j < 32 * n → mget ((storeWrites k bank off n dies bytes).foldl (fun m w => mset m w.addr w.val) m)
        (paOfDie k bank d (off + j)) = (bytes d).getD j 0)
      ∧ ∀ a, (∀ d ∈ dies, ∀ j, j < 32 * n → a ≠ paOfDie k bank d (off + j)) →
        mget ((storeWrites k bank off n dies bytes).foldl (fun m w => mset m w.addr w.val) m) a = mget m a := by
  constructor
  · intro d hd j hj
    refine mget_foldl_mset_agreed ⟨_, mem_storeWrites.mpr ⟨d, hd, j, hj, rfl⟩, rfl⟩ (fun w hw ha => ?_) m
    obtain ⟨d', hd', j', -, rfl⟩ := mem_storeWrites.mp hw
    obtain ⟨rfl, hoff⟩ := paOfDie_inj (hdies d' hd') (hdies d hd) ha
    rw [Nat.add_left_cancel hoff]
  · intro a ha
    refine mget_foldl_mset_other (fun w hw h => ?_) m
    obtain ⟨d, hd, j, hj, rfl⟩ := mem_storeWrites.mp hw
    exact ha d hd j hj h.symm

section
variable {s : State} {k : Nat} {l : NbList} {bank off n : Nat} {dies : List Nat} {bytes : Nat → List Byte}

theorem State.nbStore_plain (herrs : s.integ.errs = []) (hret : s.integ.retired = []) (hcopied : s.mirror.copied = [])
    (hmir : ∀ p, s.mirrored p = false) (hdies : dies ≠ []) :
    s.nbStore k l bank off n dies bytes =
      let (units, refused, t) := s.markUnits k bank off n
      let u := t.withStackMem ((dies.flatMap (fun d => units.flatMap (fun u => (List.range 32).map (fun i =>
        (⟨.stack, paOfDie k bank d (off + 32 * u + i), 0xFF, (bytes d).getD (32 * u + i) 0⟩ : PWrite))))).foldl
          (fun m w => mset m w.addr w.val) t.stackMem)
      (refused, if refused then u.setBit (rChst (k / 16) (k % 16)) 61 true else u) := by
  obtain ⟨x, e⟩ := s.markUnits_frame k bank off n
  have whole : dies.filter (fun d => !s.sliceRetired k d bank) = dies := by
    simp [State.sliceRetired, hret]
  have put := fun ws => State.nbPut_plain (s := (s.markUnits k bank off n).2.2) (by rw [e]; exact herrs) (by rw [e]; exact hcopied)
    (fun p => by rw [e]; exact hmir p) l ws
  simp only [State.nbStore, whole, List.isEmpty_iff, hdies, if_false, put]

/-- A store that finds room for all its segments. -/
theorem State.nbStore_room (herrs : s.integ.errs = []) (hret : s.integ.retired = []) (hcopied : s.mirror.copied = [])
    (hmir : ∀ p, s.mirrored p = false) (hdies : dies ≠ []) (h : (s.chan k).dirty.length + n ≤ (s.chan k).wlimit) :
    (s.nbStore k l bank off n dies bytes).2.stackMem
      = (storeWrites k bank off n dies bytes).foldl (fun m w => mset m w.addr w.val) s.stackMem := by
  obtain ⟨x, e⟩ := s.markUnits_frame k bank off n
  obtain ⟨units, refused, -, -⟩ := State.markUnits_room (bank := bank) (off := off) h
  rw [State.nbStore_plain herrs hret hcopied hmir hdies]
  simp only [units, refused, e]
  rfl

/-- A store that finds no room for any of its segments sets WB. -/
theorem State.nbStore_full (herrs : s.integ.errs = []) (hret : s.integ.retired = []) (hcopied : s.mirror.copied = [])
    (hmir : ∀ p, s.mirrored p = false) (hdies : dies ≠ []) (hn : 0 < n) (hfull : (s.chan k).wlimit ≤ (s.chan k).dirty.length)
    (hnone : ∀ u, u < n → (s.chan k).dirty.contains (segOf bank (off + 32 * u)) = false) :
    (s.nbStore k l bank off n dies bytes).2 = s.setBit (rChst (k / 16) (k % 16)) 61 true := by
  have nothing : (dies.flatMap fun _ => ([] : List PWrite)) = [] := by simp
  rw [State.nbStore_plain herrs hret hcopied hmir hdies, State.markUnits_full hfull hnone]
  simp only [hn, decide_true, if_true, List.flatMap_nil, nothing]
  rfl

end

/-- The bytes that a store of command c of list l puts on die d: STV's elements of V, STI's list data, STA's of ACC. -/
def State.storedElems (s : State) (k : Nat) (l : NbList) (c : NbCmd) (d : Nat) : List Byte :=
  if c.op = 0x05 then
    (List.range (16 * c.len)).flatMap (fun e => leBytes 2 (sget 0 (s.nbu k c.bank d).v (16 * c.va + e)).toNat)
  else if c.op = 0x07 then l.dataBytes c
  else if c.imm.testBit 0 then (List.range (8 * c.len)).flatMap (fun e => leBytes 4 (sget 0 (s.nbu k c.bank d).acc e).toNat)
  else (List.range (16 * c.len)).flatMap (fun e => leBytes 2 (encode .bf16 ((s.nbu k c.bank d).accAt e)))

theorem State.nbEffect_stores (s : State) (k : Nat) (l : NbList) {c : NbCmd} (h : c.op = 0x05 ∨ c.op = 0x07 ∨ c.op = 0x17) :
    (s.nbEffect k l c).2 = (s.nbStore k l c.bank c.off c.len c.dies (s.storedElems k l c)).2 := by
  have one : c.op = 0x07 → c.dies = [c.die] := fun h => by simp [NbCmd.dies, NbCmd.oneDie, h]
  rcases h with h | h | h
  · have bytes : s.storedElems k l c = fun d => (List.range (16 * c.len)).flatMap (fun e =>
        leBytes 2 (sget 0 (s.nbu k c.bank d).v (16 * c.va + e)).toNat) := funext fun d => if_pos h
    simp only [State.nbEffect, h, bytes]
  · have bytes : s.storedElems k l c = fun _ => l.dataBytes c := funext fun d => by simp [State.storedElems, h]
    simp only [State.nbEffect, h, bytes, one h]
  · have bytes : s.storedElems k l c = fun d =>
        if immIs c 0 then (List.range (8 * c.len)).flatMap (fun e => leBytes 4 (sget 0 (s.nbu k c.bank d).acc e).toNat)
        else (List.range (16 * c.len)).flatMap (fun e => leBytes 2 (encode .bf16 ((s.nbu k c.bank d).accAt e))) :=
      funext fun d => by simp [State.storedElems, h, immIs]
    simp only [State.nbEffect, h, bytes]

theorem NbCmd.dies_ne_nil {c : NbCmd} (h : c.op ≠ 0x20) : c.dies ≠ [] := by
  unfold NbCmd.dies
  split
  · exact List.cons_ne_nil _ _
  · rw [if_neg h]; decide

theorem rChst_ne_rTrcPcnt (n m j : Nat) (hj : j < 8) : rChst n m ≠ rTrcPcnt j := by
  unfold rChst rStk rTrcPcnt
  omega

/-- Settles O16: a store acts through `nbStore`, which finds room for all its units or for none. -/
theorem nearBankStores : Obligations.NearBankStores := by
  unfold Obligations.NearBankStores
  intro i k op s l rest hi hstore h herrs hret hcopied hmir hlim
  obtain ⟨t, ht, started⟩ := exec_nbStarted hi h
  obtain ⟨-, -, -, -, -, -, hop, -, -⟩ := h
  subst hop
  have dies : l.cmd.dies ≠ [] := NbCmd.dies_ne_nil (by omega)
  have acts : (s.nbActs k l l.cmd).2 = _ := (congrArg Prod.snd (State.nbActs_within hlim)).trans (s.nbEffect_stores k l hstore)
  refine ⟨t, ht, fun room => ?_, fun full none => ?_⟩
  · rw [started.stackMem, acts, State.nbStore_room herrs hret hcopied hmir dies room]
    exact mget_storeWrites _ _ fun d hd => l.cmd_dies_lt hd
  · have refused := acts.trans (State.nbStore_full herrs hret hcopied hmir dies l.cmd_len_pos full none)
    refine ⟨by rw [started.stackMem, refused]; rfl, by rw [started.dirty, refused]; rfl, ?_⟩
    rw [State.fbit_congr 61 (started.reg _ fun j hj => rChst_ne_rTrcPcnt _ _ j hj), refused]
    exact State.fbit_setBit_same _ _ _ (by decide)

end Sys2Proof.Machine
end

section

namespace Sys2Proof.Machine

/-! ### The work of a mode switch (R226, R227) -/

/-- Without stored errors and retired slices a recode finds nothing to report. -/
theorem State.recode_plain {s : State} (herrs : s.integ.errs = []) (hret : s.integ.retired = []) (k : Nat) : s.recode k = s := by
  simp [State.recode, herrs, hret]

/-- A switch waits for the channel's lists and for the line accesses it accepted. -/
theorem State.switchWork_waits {s : State} {k : Nat} (h : (s.chan k).lists ≠ [] ∨ s.lineBusy k = true) (st : ChState) :
    s.switchWork k st = s := by
  have waits : (s.frozen || (s.chan k).state != st || !(s.chan k).lists.isEmpty || (s.chan k).refreshing.isSome
      || s.lineBusy k) = true := by
    rcases h with h | h
    · rw [List.isEmpty_eq_false_iff.mpr h]; simp
    · rw [h]; simp
  unfold State.switchWork
  dsimp only
  split
  · rw [if_pos waits]
  · rfl

section
variable {s : State} {k wl : Nat} (hsw : (s.chan k).switch = some (wl, none)) (hfrozen : s.frozen = false)
  (hrefresh : (s.chan k).refreshing = none) (hlists : (s.chan k).lists = []) (hbusy : s.lineBusy k = false)
  (herrs : s.integ.errs = []) (hret : s.integ.retired = [])
include hsw hfrozen hrefresh hlists hbusy

/-- To processor mode: NBUs and merge slots empty, WLIMIT that of the entry. -/
theorem State.switchWork_toProcessor (hstate : (s.chan k).state = .toProcessor) :
    s.switchWork k .toProcessor = s.setChan k { s.chan k with
      nbus := [], slots := [], wlimit := wl, openRow := [], switch := some (wl, some (s.now + 500)) } := by
  simp [State.switchWork, hsw, hfrozen, hrefresh, hlists, hbusy, hstate]

include herrs hret

/-- To memory mode: the marked segments are recoded, and no segment is marked after. -/
theorem State.switchWork_toMemory (hstate : (s.chan k).state = .toMemory) (hwait : s.integ.waitRows = []) :
    s.switchWork k .toMemory = s.setChan k { s.chan k with
      dirty := [], wlimit := 0, openRow := []
      switch := some (wl, some (s.now + 500 + recodeNs (s.chan k).dirty.length)) } := by
  simp [State.switchWork, hsw, hfrozen, hrefresh, hlists, hbusy, hstate, State.recode_plain herrs hret, State.modChan]
  exact State.retireWaiting_none k hwait

/-- In place: the same recode, WLIMIT that of the entry. -/
theorem State.switchWork_recoding (hstate : (s.chan k).state = .recoding) :
    s.switchWork k .recoding = s.setChan k { s.chan k with
      dirty := [], wlimit := wl, openRow := []
      switch := some (wl, some (s.now + 500 + recodeNs (s.chan k).dirty.length)) } := by
  simp [State.switchWork, hsw, hfrozen, hrefresh, hlists, hbusy, hstate, State.recode_plain herrs hret, State.modChan]

end

/-! ### Refreshes (R239) -/

/-- A running command that a refresh of d ns from t puts off. -/
def NbRun.later (r : NbRun) (t d : Nat) : NbRun := if 16 * t < r.due then { r with due := r.due + 16 * d } else r

/-- Off the bus, or on it with its transfer in progress, a command is only put off. -/
theorem Chan.putOff_of_no_transfer {ch : Chan} {t : Nat} {r : NbRun} (h : r.onBus = true → 0 < r.next → 16 * t < r.due) (d : Nat) :
    ch.putOff t d r = (ch, r.later t d) := by
  have off : (r.onBus && decide (0 < r.next) && decide (r.due ≤ 16 * t)) = false := by
    simpa [Bool.and_eq_false_iff, or_iff_not_imp_left] using h
  simp only [Chan.putOff, off, Bool.false_eq_true, if_false]
  rfl

/-- Where no bus transfer has just ended, the commands of a list are put off one by one. -/
theorem Chan.delay_lists {ch : Chan} {l : NbList} {rest : List NbList} {t : Nat} (hlists : ch.lists = l :: rest)
    (h : ∀ r ∈ l.running, r.onBus = true → 0 < r.next → 16 * t < r.due) (d : Nat) :
    (ch.delay t d).lists = { l with running := l.running.map (fun r => r.later t d) } :: rest := by
  have each : ∀ (rs done : List NbRun), (∀ r ∈ rs, r.onBus = true → 0 < r.next → 16 * t < r.due) →
      rs.foldl (fun (a : Chan × List NbRun) r => let (c, r) := a.1.putOff t d r; (c, a.2 ++ [r])) (ch, done)
        = (ch, done ++ rs.map (fun r => r.later t d)) := by
    intro rs
    induction rs with
    | nil => intro done _; simp
    | cons r rs ih =>
      intro done hrs
      obtain ⟨hr, hrs⟩ := List.forall_mem_cons.mp hrs
      rw [List.foldl_cons, Chan.putOff_of_no_transfer hr]
      dsimp only
      rw [ih _ hrs, List.map_cons, List.append_assoc]
      rfl
  simp only [Chan.delay, hlists, each l.running [] h]
  rfl

theorem rTrcHstat_ne_rTrcPcnt (j : Nat) : rTrcHstat ≠ rTrcPcnt j := by unfold rTrcHstat rTrcPcnt; omega

theorem CountsOnly.frozen {s t : State} (h : CountsOnly s t) : t.frozen = s.frozen := by
  have halted : t.halted = s.halted := by
    rw [State.halted, State.halted, State.fbit_congr _ (h.reg rTrcHstat fun j _ => rTrcHstat_ne_rTrcPcnt j)]
  rw [State.frozen, State.frozen, halted, h.tripped]

/-- A channel without a list and without a switch: its rows close. -/
theorem State.refreshStart_idle {s : State} {k : Nat} (hlists : (s.chan k).lists = []) (hsw : (s.chan k).switch = none) :
    s.refreshStart k = s.modChan k (fun ch => { ch with refreshing := some s.now, openRow := [] }) := by
  have uncounted : s.refreshCounted k = s := by simp [State.refreshCounted, hlists]
  have nothing : (s.chan k).delay s.now 350 = s.chan k := by
    unfold Chan.delay
    rw [hlists, hsw]
    dsimp only [Option.map_none]
    rw [← hlists, ← hsw]
  rw [State.refreshStart_eq, uncounted]
  simp only [State.modChan, nothing, ite_self, Chan.rowsKept, hlists, List.any_nil, List.filter_false]

/-- A channel whose list runs: its work is put off by 350 ns. -/
theorem State.refreshStart_lists {s : State} {k : Nat} {l : NbList} {rest : List NbList} (hlists : (s.chan k).lists = l :: rest)
    (hfrozen : s.frozen = false) (h : ∀ r ∈ l.running, r.onBus = true → 0 < r.next → 16 * s.now < r.due) :
    ((s.refreshStart k).chan k).lists = { l with running := l.running.map (fun r => r.later s.now 350) } :: rest := by
  have counts := s.refreshCounted_countsOnly k
  have chan : (s.refreshCounted k).chan k = s.chan k := by rw [counts.regs]; rfl
  rw [State.refreshStart_eq, State.chan_modChan, if_pos rfl, counts.frozen, hfrozen, counts.refreshOnly.now, chan]
  exact Chan.delay_lists hlists h 350

theorem State.refreshStart_others (s : State) {k j : Nat} (h : j ≠ k) : (s.refreshStart k).chan j = s.chan j := by
  rw [State.refreshStart_eq, State.chan_modChan, if_neg h, (s.refreshCounted_countsOnly k).regs]
  rfl

/-- The calendar of a channel's refreshes: its place in the period, `extra` ns later for the second of a throttled stack. -/
theorem State.refreshCal_eq {s : State} {n : StackId} {m : ChanId} (hrefresh : (s.chan (chanKey n m)).refreshing = none)
    (halive : s.power.alive = true) (htrip : s.tripped = false) (extra : Nat) :
    s.refreshCal (chanKey n m) extra
      = if s.now % 3900 = (240 * m.val + 20 * n.val + extra) % 3900 then s.refreshStart (chanKey n m) else s := by
  simp [State.refreshCal, hrefresh, halive, htrip, chanKey_div, chanKey_mod]

/-- The place of a channel lies within the period. -/
theorem refreshPlace_lt (n : StackId) (m : ChanId) : (240 * m.val + 20 * n.val + 0) % 3900 = 240 * m.val + 20 * n.val :=
  Nat.mod_eq_of_lt (by have := n.isLt; have := m.isLt; omega)

theorem State.refreshDone_of_begun {s : State} {k t : Nat} (h : (s.chan k).refreshing = some t) :
    s.refreshDone k = if t + 350 ≤ s.now then s.modChan k (fun ch => { ch with refreshing := none }) else s := by
  simp [State.refreshDone, h]

theorem State.not_tripped_of_not_frozen {s : State} (h : s.frozen = false) : s.tripped = false :=
  (Bool.or_eq_false_iff.mp h).2

/-- Settles O17: the switch by its three kinds, the refresh of a channel that is idle and of one whose list runs. -/
theorem modeSwitchAndRefresh : Obligations.ModeSwitchAndRefresh := by
  unfold Obligations.ModeSwitchAndRefresh
  constructor
  · intro n m s wl hsw hfrozen hrefresh herrs hret hwait
    exact ⟨fun h => ⟨congrArg Host.Outcome.next (State.switchWork_waits h _), congrArg Host.Outcome.next (State.switchWork_waits h _),
        congrArg Host.Outcome.next (State.switchWork_waits h _)⟩,
      fun hl hb hst => congrArg Host.Outcome.next (State.switchWork_toProcessor hsw hfrozen hrefresh hl hb hst),
      fun hl hb hst => congrArg Host.Outcome.next (State.switchWork_toMemory hsw hfrozen hrefresh hl hb herrs hret hst hwait),
      fun hl hb hst => congrArg Host.Outcome.next (State.switchWork_recoding hsw hfrozen hrefresh hl hb herrs hret hst)⟩
  · intro n m s
    dsimp only
    refine ⟨?_, ?_, ?_, ?_⟩
    · intro hlists _ hsw hrefresh halive htrip
      have cal := State.refreshCal_eq hrefresh halive htrip
      have begun := State.refreshStart_idle hlists hsw
      refine ⟨fun h => congrArg Host.Outcome.next ?_, fun h => congrArg Host.Outcome.next ?_, fun hthr h => congrArg Host.Outcome.next ?_⟩
      · rw [cal 0, refreshPlace_lt, if_pos h, begun]
      · rw [cal 0, refreshPlace_lt, if_neg h]
      · rw [if_pos hthr, cal 1950, if_pos h, begun]
    · intro l rest hlists hfrozen hrefresh halive hnow hbus
      refine ⟨s.refreshStart (chanKey n m), congrArg Host.Outcome.next ?_, ?_, State.refreshStart_lists hlists hfrozen hbus,
        fun k' hk' => s.refreshStart_others hk'⟩
      · rw [State.refreshCal_eq hrefresh halive (State.not_tripped_of_not_frozen hfrozen) 0, refreshPlace_lt, if_pos hnow]
      · rw [State.refreshStart_refreshing, if_pos rfl]
    · intro hthr
      exact congrArg Host.Outcome.next (if_neg (by rw [hthr]; decide))
    · intro t ht
      have done := State.refreshDone_of_begun ht
      exact ⟨fun h => congrArg Host.Outcome.next (done.trans (if_pos h)), fun h => congrArg Host.Outcome.next (done.trans (if_neg (Nat.not_le.mpr h)))⟩

end Sys2Proof.Machine
end

section

namespace Sys2Proof.Machine

/-! ### The list at the head of a channel (R233) -/

theorem State.setHead_lists {s : State} {k : Nat} {l : NbList} {rest : List NbList} (h : (s.chan k).lists = l :: rest)
    (l' : NbList) : ((s.setHead k l').chan k).lists = l' :: rest := by
  rw [State.setHead, State.chan_modChan, if_pos rfl, h]
  rfl

/-- A list is copied into the channel unit when its turn has lasted 5 sixteenths of a ns a line. -/
theorem State.nbListArrived_of_due {s : State} {n : StackId} {m : ChanId} {l : NbList} {rest : List NbList} {t : Nat}
    (hlists : (s.chan (chanKey n m)).lists = l :: rest) (hfrozen : s.frozen = false) (hturn : l.turn = some t)
    (harrived : l.arrived = false) (hruns : (s.chan (chanKey n m)).state.runs = true) (hdue : t + 5 * l.len ≤ 16 * s.now)
    (herrs : s.integ.errs = []) :
    s.nbListArrived (chanKey n m) = s.modChan (chanKey n m) (fun ch => { ch with lists := { l with
      arrived := true
      bytes := (List.range (64 * l.len)).map (fun j => mget (s.cluster l.cluster).store ((l.addr + j) % 2 ^ 23))
      fullCh := min 16 (max 8 (s.fld (rStk n.val) 4 0)) } :: rest }) := by
  have unpoisoned : s.stepPoison (s.runOf l.cluster) false = s := by unfold State.stepPoison; split <;> rfl
  simp only [State.nbListArrived, hlists, hturn, hfrozen, harrived, hruns, Bool.not_true, Bool.or_self, Bool.false_or,
    decide_eq_true_eq, if_neg (Nat.not_lt.mpr hdue), State.readBytes_plain ⟨herrs, State.not_tripped_of_not_frozen hfrozen⟩,
    unpoisoned, chanKey_div, List.map_map]
  rw [State.setHead, State.modChan, hlists]
  rfl

/-! ### The end of a list (R233, R237, R276) -/

/-- The lists after the one that ends: the turn of the next begins at t sixteenths of a ns. -/
def listsAfter (t : Nat) : List NbList → List NbList
  | h :: r => { h with turn := some t } :: r
  | [] => []

theorem State.nbListComplete_waits {s : State} {k : Nat} {l : NbList} {rest : List NbList} (hlists : (s.chan k).lists = l :: rest)
    (h : l.ended = false ∨ l.running ≠ []) : s.nbListComplete k = s := by
  have waits : (s.frozen || !l.ended || !l.running.isEmpty) = true := by
    rcases h with h | h
    · rw [h]; simp
    · rw [List.isEmpty_eq_false_iff.mpr h]; simp
  simp only [State.nbListComplete, hlists, waits, if_true]

/-- A list without a status to report leaves the channel, and its NBCMD completes. -/
theorem State.nbListComplete_of_ended {s : State} {k : Nat} {l : NbList} {rest : List NbList}
    (hlists : (s.chan k).lists = l :: rest) (hfrozen : s.frozen = false) (hended : l.ended = true) (hrun : l.running = [])
    (haddr : l.addrSt = false) (hue : l.ueSt = false) (hwb : l.wbSt = false) :
    s.nbListComplete k = ((s.modChan k (fun ch => { ch with lists := listsAfter (16 * s.now) rest })).modCluster l.cluster
      Cluster.cacheDrop).mvDone l.cluster l.seq := by
  simp only [State.nbListComplete, hlists, hfrozen, hended, hrun, haddr, hue, hwb, Bool.not_true, Bool.or_self, List.isEmpty_nil,
    Bool.false_eq_true, if_false]
  cases rest <;> rfl

/-! ### The end of a command (R233, R235) -/

theorem State.nbCommandDone_early {s : State} {k j : Nat} {l : NbList} {rest : List NbList} {r : NbRun}
    (hlists : (s.chan k).lists = l :: rest) (hrun : l.running[j]? = some r) (h : 16 * s.now < r.due) :
    s.nbCommandDone k j = s := by
  simp only [State.nbCommandDone, hlists, hrun, h, decide_true, Bool.or_true, if_true]

/-- A command whose bus transfer ends gives up the bus and goes on. -/
theorem State.nbCommandDone_offBus {s : State} {k j : Nat} {l : NbList} {rest : List NbList} {r : NbRun}
    (hlists : (s.chan k).lists = l :: rest) (hrun : l.running[j]? = some r) (hfrozen : s.frozen = false)
    (hdue : r.due ≤ 16 * s.now) (hbus : r.onBus = true) (hnext : 0 < r.next) :
    s.nbCommandDone k j = (s.setChan k ((s.chan k).offBus r).1).setHead k { l with
      running := setAt l.running j ((s.chan k).offBus r).2 } := by
  simp only [State.nbCommandDone, hlists, hrun, hfrozen, hbus, hnext, Bool.false_or, decide_eq_true_eq, Nat.not_lt.mpr hdue,
    Bool.true_and, if_true, if_false]

theorem Chan.offBus_lists (ch : Chan) (r : NbRun) : (ch.offBus r).1.lists = ch.lists := by
  unfold Chan.offBus
  dsimp only
  split <;> rfl

theorem Chan.offBus_openRow (ch : Chan) (r : NbRun) :
    (r.row = 0 → (ch.offBus r).1.openRow = ch.openRow)
      ∧ (r.row ≠ 0 → sget 0 (ch.offBus r).1.openRow (r.bank.getD 0) = r.lastRow) := by
  unfold Chan.offBus
  dsimp only
  constructor
  · intro h; rw [if_pos h]
  · intro h; rw [if_neg h]; exact sget_sset_same _ _ _ _

/-- The burst of a command that ends stops, and its time counts (event 7). -/
def State.burstOver (s : State) (k : Nat) (l : NbList) (r : NbRun) : State :=
  match r.burst with
  | some t =>
    let s := s.modChan k (fun ch => { ch with
      bursts := ch.bursts.map (fun (b : Burst) => if b.stop.isNone
          && some b.bank == r.bank then { b with stop := some s.now } else b) })
    s.perf 7 l.part none (s.now - t)
  | none => s

theorem State.burstOver_refreshOnly (s : State) (k : Nat) (l : NbList) (r : NbRun) : RefreshOnly s (s.burstOver k l r) := by
  unfold State.burstOver
  split
  · exact (RefreshOnly.modChan ..).trans (State.perf_countsOnly ..).refreshOnly
  · exact .refl s

theorem CountsOnly.chan {s t : State} (h : CountsOnly s t) (k : Nat) : t.chan k = s.chan k := by rw [h.regs]; rfl

theorem State.burstOver_lists (s : State) (k : Nat) (l : NbList) (r : NbRun) :
    ((s.burstOver k l r).chan k).lists = (s.chan k).lists := by
  unfold State.burstOver
  split
  · dsimp only
    rw [(State.perf_countsOnly ..).chan, State.chan_modChan, if_pos rfl]
  · rfl

theorem State.burstOver_others (s : State) {k i : Nat} (h : i ≠ k) (l : NbList) (r : NbRun) :
    (s.burstOver k l r).chan i = s.chan i := by
  unfold State.burstOver
  split
  · dsimp only
    rw [(State.perf_countsOnly ..).chan, State.chan_modChan, if_neg h]
  · rfl

theorem rMirCtl_ne_rTrcPcnt (j : Nat) : rMirCtl ≠ rTrcPcnt j := by unfold rMirCtl rTrcPcnt; omega

theorem RefreshOnly.mirrored {s t : State} (h : RefreshOnly s t) (p : Nat) : t.mirrored p = s.mirrored p :=
  State.fbit_congr _ (h.reg rMirCtl fun j _ => rMirCtl_ne_rTrcPcnt j)

theorem rThmStat_ne_rTrcPcnt (j : Nat) : rThmStat ≠ rTrcPcnt j := by unfold rThmStat rTrcPcnt; omega

theorem RefreshOnly.plainWrites {s t : State} (h : RefreshOnly s t) (hs : s.plainWrites) : t.plainWrites := by
  obtain ⟨⟨errs, trip⟩, copied, flips⟩ := hs
  have integ : t.integ = s.integ := by rw [h.units]; rfl
  have mirror : t.mirror = s.mirror := by rw [h.units]; rfl
  exact ⟨⟨by rw [integ, errs], (State.fbit_congr _ (h.reg rThmStat fun j _ => rThmStat_ne_rTrcPcnt j)).trans trip⟩,
    by rw [mirror, copied], fun x hx => (State.fbit_congr _ (h.reg _ rTrcPcnt_ne_flip)).trans (flips x hx)⟩

theorem RefreshOnly.byteAt {s t : State} (h : RefreshOnly s t) (sp : Space) (a : Nat) : t.byteAt sp a = s.byteAt sp a := by
  rw [h.units]; cases sp <;> rfl

section
variable {s : State} {k j : Nat} {l : NbList} {rest : List NbList} {r : NbRun}

/-- The list goes on without command j, and its burst is over. -/
def State.leftBy (s : State) (k j : Nat) (l : NbList) (r : NbRun) : State :=
  (s.setHead k { l with running := dropAt l.running j }).burstOver k l r

theorem State.leftBy_refreshOnly : RefreshOnly s (s.leftBy k j l r) :=
  (RefreshOnly.modChan ..).trans (State.burstOver_refreshOnly ..)

/-- A command that ends leaves the list, and its bytes are written. -/
theorem State.nbCommandDone_ends (hlists : (s.chan k).lists = l :: rest) (hrun : l.running[j]? = some r)
    (hfrozen : s.frozen = false) (hdue : r.due ≤ 16 * s.now) (hbus : r.onBus = false ∨ r.next = 0) (hplain : s.plainWrites)
    (hmir : ∀ p, s.mirrored p = false) :
    s.nbCommandDone k j = r.puts.foldl State.putByte (s.leftBy k j l r) := by
  have off : (r.onBus && decide (0 < r.next)) = false := by
    rcases hbus with h | h <;> simp [h]
  have left : RefreshOnly s (s.leftBy k j l r) := State.leftBy_refreshOnly
  have plain := left.plainWrites hplain
  have written : s.nbCommandDone k j = (match (s.leftBy k j l r).runOf l.cluster with
      | some (p, n) => (s.leftBy k j l r).stepWrite p n r.puts
      | none => (s.leftBy k j l r).writeBytes r.puts) := by
    simp only [State.nbCommandDone, hlists, hrun, hfrozen, off, Bool.false_or, decide_eq_true_eq, Nat.not_lt.mpr hdue,
      Bool.false_eq_true, if_false]
    rfl
  rw [written]
  split
  · next p n _ => exact State.stepWrite_plain plain ((left.mirrored p).trans (hmir p)) n _
  · exact State.writeBytes_plain plain _

end

/-- Settles O18: the arrival, the end of the list, and the three ways in which the due time of a command finds it. -/
theorem nearBankListsRunAndEnd : Obligations.NearBankListsRunAndEnd := by
  unfold Obligations.NearBankListsRunAndEnd
  constructor
  · intro n m s l rest hlists hfrozen
    refine ⟨fun t hturn harr hruns hdue herrs => congrArg Host.Outcome.next
        (State.nbListArrived_of_due hlists hfrozen hturn harr hruns hdue herrs),
      fun h => congrArg Host.Outcome.next (State.nbListComplete_waits hlists h), ?_⟩
    intro o hended hrun haddr hue hwb hmv hseq hsig
    have dropped := ClusterAt.of_modCluster
      (s.modChan (chanKey n m) (fun ch => { ch with lists := listsAfter (16 * s.now) rest })) l.cluster Cluster.cacheDrop
    have ends := State.nbListComplete_of_ended hlists hfrozen hended hrun haddr hue hwb
    generalize State.modCluster _ l.cluster Cluster.cacheDrop = u at dropped ends
    have mv : (u.cluster l.cluster).mv = [{ o with fills := [] }] := by
      rw [dropped.own]
      exact congrArg (List.map _) hmv
    have done := State.mvDone_lone mv hsig
    rw [← hseq] at ends
    generalize u.mvDone l.cluster _ = t at done ends
    have chans : t.chans = (s.modChan (chanKey n m) (fun ch => { ch with lists := listsAfter (16 * s.now) rest })).chans := by
      rw [done.clusters, dropped.clusters]; rfl
    have chan : ∀ k, t.chan k
        = (s.modChan (chanKey n m) (fun ch => { ch with lists := listsAfter (16 * s.now) rest })).chan k := fun k => by
      rw [State.chan, chans]; rfl
    refine ⟨t, congrArg Host.Outcome.next ends, ?_, by rw [done.own], by rw [done.own, dropped.own]; rfl, fun k hk => ?_,
      fun c hc => (done.others c hc).trans (dropped.others c hc), ?_⟩
    · rw [chan, State.chan_modChan, if_pos rfl]
      cases rest <;> rfl
    · rw [chan, State.chan_modChan, if_neg hk]
    · rw [chans, done.clusters, dropped.clusters]; rfl
  · intro n m j s l rest r hlists hrun hfrozen _
    refine ⟨fun h => congrArg Host.Outcome.next (State.nbCommandDone_early hlists hrun h), fun hdue hbus hnext => ?_,
      fun hdue hbus hplain hmir => ?_⟩
    · obtain ⟨same, last⟩ := (s.chan (chanKey n m)).offBus_openRow r
      refine ⟨_, congrArg Host.Outcome.next (State.nbCommandDone_offBus hlists hrun hfrozen hdue hbus hnext), ?_, fun h => ?_,
        fun h => ?_, fun k hk => ?_, rfl⟩
      · refine (State.setHead_lists (rest := rest) (l := l) ?_ _).trans rfl
        rw [State.chan_setChan, if_pos rfl, Chan.offBus_lists, hlists]
      · rw [State.setHead, State.chan_modChan, if_pos rfl, State.chan_setChan, if_pos rfl]
        exact same h
      · rw [State.setHead, State.chan_modChan, if_pos rfl, State.chan_setChan, if_pos rfl]
        exact last h
      · rw [State.setHead, State.chan_modChan, if_neg hk, State.chan_setChan, if_neg hk]
    · have left : RefreshOnly s (s.leftBy (chanKey n m) j l r) := State.leftBy_refreshOnly
      obtain ⟨c, mem, case_, e⟩ := State.putBytes_frame r.puts (s.leftBy (chanKey n m) j l r)
      have chan : ∀ k, (r.puts.foldl State.putByte (s.leftBy (chanKey n m) j l r)).chan k
          = (s.leftBy (chanKey n m) j l r).chan k := fun k => by rw [e]; rfl
      refine ⟨_, congrArg Host.Outcome.next (State.nbCommandDone_ends hlists hrun hfrozen hdue hbus hplain hmir), ?_,
        fun sp a => by rw [State.byteAt_putBytes, left.byteAt], fun k hk => ?_, ?_, ?_, ?_⟩
      · rw [chan, State.leftBy, State.burstOver_lists, State.setHead_lists hlists]
      · rw [chan, State.leftBy, State.burstOver_others _ hk, State.setHead, State.chan_modChan, if_neg hk]
      all_goals rw [e, left.units]; rfl

end Sys2Proof.Machine
end

section

namespace Sys2Proof.Machine

/-! ### What a tier access can change -/

/-- Host memory, interrupts, time, partitions, and the registers in the windows of the functions stay. -/
structure TierSide (s t : State) : Prop where
  hostMem : t.hostMem = s.hostMem
  host : t.host = s.host
  time : t.time = s.time
  parts : t.parts = s.parts
  reg : ∀ k, 2 ^ 32 ≤ k → t.reg k = s.reg k

theorem TierSide.refl (s : State) : TierSide s s := ⟨rfl, rfl, rfl, rfl, fun _ _ => rfl⟩

theorem TierSide.trans {s t u : State} (h : TierSide s t) (h' : TierSide t u) : TierSide s u where
  hostMem := h'.hostMem.trans h.hostMem
  host := h'.host.trans h.host
  time := h'.time.trans h.time
  parts := h'.parts.trans h.parts
  reg k hk := (h'.reg k hk).trans (h.reg k hk)

theorem TierSide.withRegs {s t : State} (h : t = s.withRegs t.regs) (reg : ∀ k, 2 ^ 32 ≤ k → t.reg k = s.reg k) : TierSide s t :=
  ⟨by rw [h]; rfl, by rw [h]; rfl, by rw [h]; rfl, by rw [h]; rfl, reg⟩

theorem CountsOnly.tierSide {s t : State} (h : CountsOnly s t) : TierSide s t :=
  .withRegs h.regs fun k hk => h.reg k fun j hj => by unfold rTrcPcnt; omega

theorem TierSide.putBytes (s : State) (ws : List PWrite) : TierSide s (ws.foldl State.putByte s) := by
  obtain ⟨c, m, k, e⟩ := State.putBytes_frame ws s
  rw [e]
  exact ⟨rfl, rfl, rfl, rfl, fun _ _ => rfl⟩

/-- Error counters of the tier ports alone. -/
structure PortCounts (s t : State) : Prop where
  regs : t = s.withRegs t.regs
  reg : ∀ k, 2 ^ 32 ≤ k → t.reg k = s.reg k

theorem PortCounts.refl (s : State) : PortCounts s s := ⟨rfl, fun _ _ => rfl⟩

theorem PortCounts.trans {s t u : State} (h : PortCounts s t) (h' : PortCounts t u) : PortCounts s u where
  regs := by rw [h'.regs, h.regs]; rfl
  reg k hk := (h'.reg k hk).trans (h.reg k hk)

theorem PortCounts.tierSide {s t : State} (h : PortCounts s t) : TierSide s t := .withRegs h.regs h.reg

theorem State.tierErr_portCounts (s : State) (a : Nat) : PortCounts s (s.tierErr a) := by
  unfold State.tierErr
  split
  · exact ⟨rfl, fun k hk => State.reg_setFld_other _ _ _ _ _ _ (by unfold rTier; omega)⟩
  · exact .refl s

theorem State.tierErrs_portCounts (s : State) (as : List Nat) : PortCounts s (s.tierErrs as) :=
  List.foldlRecOn (motive := PortCounts s) _ _ (.refl s) fun t ht _ _ => ht.trans (t.tierErr_portCounts _)

theorem PortCounts.tierMem {s t : State} (h : PortCounts s t) : t.tierMem = s.tierMem := by rw [h.regs]; rfl

theorem PortCounts.byteAt {s t : State} (h : PortCounts s t) (sp : Space) (a : Nat) : t.byteAt sp a = s.byteAt sp a := by
  rw [h.regs]; cases sp <;> rfl

/-! ### Poison delivered with bytes (R393) -/

/-- Poisoning changes the stored errors alone. -/
theorem State.poisonRun_integ (s : State) (ls : List (Space × Nat)) : s.poisonRun ls = s.withInteg (s.poisonRun ls).integ := by
  refine List.foldlRecOn (motive := fun t => t = s.withInteg t.integ) _ _ rfl fun t ht u _ => ?_
  rw [State.setErr]
  conv_lhs => rw [ht]
  rfl

theorem State.poisonRun_tierSide (s : State) (ls : List (Space × Nat)) : TierSide s (s.poisonRun ls) := by
  rw [s.poisonRun_integ]
  exact ⟨rfl, rfl, rfl, rfl, fun _ _ => rfl⟩

theorem State.errOf_setErr (s : State) (sp sp' : Space) (a a' : Nat) (e : ErrPat) :
    (s.setErr sp a e).errOf sp' a' = if errKey sp' a' = errKey sp a then e else s.errOf sp' a' := sget_sset _ _ _ _ _

/-- Every line or unit of the run is poisoned. -/
theorem State.poisonRun_poisons (s : State) {ls : List (Space × Nat)} {l : Space × Nat} (h : l ∈ ls) :
    ((s.poisonRun ls).errOf l.1 (unitBase l.1 l.2)).poison = true := by
  have each : ∀ us : List (Space × Nat), ∀ t : State,
      (l.1, unitBase l.1 l.2) ∈ us ∨ (t.errOf l.1 (unitBase l.1 l.2)).poison = true →
      ((us.foldl (fun s u => s.setErr u.1 u.2 { poison := true }) t).errOf l.1 (unitBase l.1 l.2)).poison = true := by
    intro us
    induction us with
    | nil => intro t h; exact h.resolve_left List.not_mem_nil
    | cons u us ih =>
      intro t h
      refine ih _ ?_
      rw [State.errOf_setErr]
      rcases h with h | h
      · rcases List.mem_cons.mp h with h | h
        · rw [← h]; exact .inr (by rw [if_pos rfl])
        · exact .inl h
      · exact .inr (by split <;> [rfl; exact h])
  exact each _ s (.inl (List.mem_eraseDups.mpr (List.mem_map_of_mem h)))

/-! ### Which tier bytes a port serves (R392) -/

theorem State.tierUp_congr {s t : State} (h : ∀ n, n < 3 → t.reg (rTier n) = s.reg (rTier n)) (a n : Nat) :
    t.tierUp a n = s.tierUp a n := by
  simp only [State.tierUp]
  by_cases hp : a / 2 ^ 46 < 3
  · rw [h _ hp]
  · simp only [hp, decide_false, Bool.false_and]

theorem CountsOnly.tierUp {s t : State} (h : CountsOnly s t) (a n : Nat) : t.tierUp a n = s.tierUp a n :=
  State.tierUp_congr (fun n hn => h.reg _ fun j _ => by unfold rTier rTrcPcnt; omega) a n

/-- A port that serves a run serves each of its bytes. -/
theorem State.tierUp_byte {s : State} {a n i : Nat} (h : s.tierUp a n = true) (hi : i < n) : s.tierUp (a + i) 1 = true := by
  simp only [State.tierUp, Bool.and_eq_true, decide_eq_true_eq] at h ⊢
  obtain ⟨⟨⟨port, up⟩, link⟩, cap⟩ := h
  have same : (a + i) / 2 ^ 46 = a / 2 ^ 46 := by omega
  rw [same]
  exact ⟨⟨⟨port, up⟩, link⟩, by omega⟩

/-- A port that serves a byte serves the first of its line. -/
theorem State.tierUp_line {s : State} {a : Nat} (h : s.tierUp a 1 = true) : s.tierUp (64 * (a / 64)) 1 = true := by
  simp only [State.tierUp, Bool.and_eq_true, decide_eq_true_eq] at h ⊢
  obtain ⟨⟨⟨port, up⟩, link⟩, cap⟩ := h
  have same : 64 * (a / 64) / 2 ^ 46 = a / 2 ^ 46 := by omega
  rw [same]
  exact ⟨⟨⟨port, up⟩, link⟩, by omega⟩

/-- Whether the tier gives the byte at an address: its port serves the line, which returns no poison. -/
def State.tierGives (s : State) (a : Nat) : Bool := s.tierUp (64 * (a / 64)) 1 && !s.tierPoison.contains (a / 64)

theorem State.tierGives_iff {s : State} {a : Nat} :
    s.tierGives a = true ↔ s.tierUp (64 * (a / 64)) 1 = true ∧ a / 64 ∉ s.tierPoison := by
  simp [State.tierGives]

theorem CountsOnly.tierGives {s t : State} (h : CountsOnly s t) (a : Nat) : t.tierGives a = s.tierGives a := by
  have poison : t.tierPoison = s.tierPoison := by rw [h.regs]; rfl
  rw [State.tierGives, State.tierGives, h.tierUp, poison]

/-- A run that a port serves and that meets no poison is given whole. -/
theorem State.tierGives_run {s : State} {a n i : Nat} (hup : s.tierUp a n = true) (hbad : s.tierBad a n = false) (hi : i < n) :
    s.tierGives (a + i) = true := by
  refine State.tierGives_iff.mpr ⟨State.tierUp_line (State.tierUp_byte hup hi), fun hp => ?_⟩
  have met := List.any_eq_false.mp hbad _ hp
  simp only [Bool.and_eq_true, decide_eq_true_eq, not_and] at met
  omega

/-! ### Bytes to the tier (R385, R392) -/

/-- Tier memory after bytes went to the addresses that a port serves. -/
def State.tierWritten (s : State) (a : Nat) (bs : List Byte) : Mem :=
  if s.tierUp a bs.length then mput s.tierMem a bs
  else (((List.range bs.length).map (fun i => (a + i, bs.getD i 0))).filter (fun q => s.tierUp q.1 1)).foldl
    (fun m q => mset m q.1 q.2) s.tierMem

/-- A line written whole returns no poison any more. -/
def State.tierCleared (s : State) (a n : Nat) : State :=
  if s.tierPoison.isEmpty then s else
    s.withTierPoison (s.tierPoison.filter (fun l => !(decide (a ≤ 64 * l) && decide (64 * l + 64 ≤ a + n) && s.tierUp (64 * l) 64)))

theorem State.tierCleared_frame (s : State) (a n : Nat) : ∃ x, s.tierCleared a n = s.withTierPoison x := by
  unfold State.tierCleared
  split
  · exact ⟨s.tierPoison, rfl⟩
  · exact ⟨_, rfl⟩

theorem State.tierPut_counts (s : State) (a : Nat) (bs : List Byte) :
    PortCounts ((s.withTierMem (s.tierWritten a bs)).tierCleared a bs.length) (s.tierPut a bs) := by
  unfold State.tierPut State.tierWritten
  split
  · exact .refl _
  · exact State.tierErrs_portCounts ..

/-- Bytes for the tier go to its memory, and touch no memory of the module. -/
theorem State.tierPut_acts (s : State) (a : Nat) (bs : List Byte) :
    (s.tierPut a bs).tierMem = s.tierWritten a bs ∧ (∀ sp b, (s.tierPut a bs).byteAt sp b = s.byteAt sp b)
      ∧ TierSide s (s.tierPut a bs) := by
  have counts := s.tierPut_counts a bs
  obtain ⟨x, e⟩ := (s.withTierMem (s.tierWritten a bs)).tierCleared_frame a bs.length
  rw [e] at counts
  refine ⟨counts.tierMem, fun sp b => ?_, TierSide.trans ?_ counts.tierSide⟩
  · rw [counts.byteAt]; cases sp <;> rfl
  · exact ⟨rfl, rfl, rfl, rfl, fun _ _ => rfl⟩

/-- A byte outside the run, or that no port serves, stays. -/
theorem State.tierWritten_beside {s : State} {a : Nat} {bs : List Byte} {b : Nat}
    (h : b < a ∨ a + bs.length ≤ b ∨ s.tierUp b 1 = false) : mget (s.tierWritten a bs) b = mget s.tierMem b := by
  unfold State.tierWritten
  split
  · next hup =>
    rcases Nat.lt_or_ge b a with hb | hb
    · exact mget_mput_below _ _ _ _ hb
    · by_cases hin : b < a + bs.length
      · have served := State.tierUp_byte hup (show b - a < bs.length by omega)
        rw [Nat.add_sub_cancel' hb] at served
        rw [served] at h
        have := h.resolve_right (by simp [hin])
        omega
      · exact mget_mput_above _ _ _ _ (Nat.not_lt.mp hin)
  · refine mget_foldl_mset_other (addr := Prod.fst) (val := Prod.snd) (fun q hq hb => ?_) _
    obtain ⟨hq, served⟩ := List.mem_filter.mp hq
    obtain ⟨i, hi, rfl⟩ := List.mem_map.mp hq
    have hi := List.mem_range.mp hi
    subst hb
    rw [served] at h
    simp only [Bool.true_eq_false, or_false] at h
    omega

/-- A byte of the run that a port serves arrives. -/
theorem State.tierWritten_served {s : State} {a : Nat} {bs : List Byte} {i : Nat} (hi : i < bs.length)
    (h : s.tierUp (a + i) 1 = true) : mget (s.tierWritten a bs) (a + i) = bs.getD i 0 := by
  unfold State.tierWritten
  split
  · exact mget_mput_at _ _ _ _ hi
  · refine mget_foldl_mset_agreed (addr := Prod.fst) (val := Prod.snd)
      ⟨_, List.mem_filter.mpr ⟨List.mem_map.mpr ⟨i, List.mem_range.mpr hi, rfl⟩, h⟩, rfl⟩ (fun q hq ha => ?_) _
    obtain ⟨j, -, rfl⟩ := List.mem_map.mp (List.mem_filter.mp hq).1
    rw [Nat.add_left_cancel ha]

/-- A copy to the tier moves the bytes of the places (R385). -/
theorem State.tierOut_acts {s : State} (h : s.plainReads) (a : Nat) (ls : List (Space × Nat)) :
    (∀ sp b, (s.tierOut a ls).byteAt sp b = s.byteAt sp b)
      ∧ (∀ b, b < a ∨ a + ls.length ≤ b ∨ s.tierUp b 1 = false → mget (s.tierOut a ls).tierMem b = mget s.tierMem b)
      ∧ (∀ i l, ls[i]? = some l → s.tierUp (a + i) 1 = true → mget (s.tierOut a ls).tierMem (a + i) = s.byteAt l.1 l.2)
      ∧ TierSide s (s.tierOut a ls) := by
  have counts := s.countLines_countsOnly none ls
  have read : (s.countLines none ls).readBytes ls = (ls.map (fun l => s.byteAt l.1 l.2), false, s.countLines none ls) := by
    rw [State.readBytes_plain ⟨by rw [counts.integ]; exact h.1, counts.tripped.trans h.2⟩]
    simp only [counts.byteAt]
  have out : s.tierOut a ls = (s.countLines none ls).tierPut a (ls.map fun l => s.byteAt l.1 l.2) := by rw [State.tierOut, read]
  have mem : (s.countLines none ls).tierMem = s.tierMem := by rw [counts.regs]; rfl
  obtain ⟨written, bytes, side⟩ := (s.countLines none ls).tierPut_acts a (ls.map fun l => s.byteAt l.1 l.2)
  rw [out]
  refine ⟨fun sp b => (bytes sp b).trans (counts.byteAt sp b), fun b hb => ?_, fun i l hl hup => ?_, counts.tierSide.trans side⟩
  · rw [written, State.tierWritten_beside (by rwa [List.length_map, counts.tierUp]), mem]
  · have hi : i < ls.length := (List.getElem?_eq_some_iff.mp hl).1
    rw [written, State.tierWritten_served (by rwa [List.length_map]) (by rwa [counts.tierUp])]
    simp [List.getD_eq_getElem?_getD, hl]

/-! ### Bytes from the tier (R385, R392, R393) -/

/-- A write of the module itself goes to memory as it stands. -/
theorem State.writeBytes_own {s : State} (h : s.plainWrites) (ws : List PWrite) :
    s.writeBytes ws false = ws.foldl State.putByte s := by
  obtain ⟨⟨errs, trip⟩, copied, -⟩ := h
  by_cases hws : ws.isEmpty
  · rw [List.isEmpty_iff.mp hws]; rfl
  · obtain ⟨c, m, k, e⟩ := State.putBytes_frame ws s
    have unmarked : (ws.foldl State.putByte s).mirror.copied = [] := by rw [e]; exact copied
    have put : (fun (s : State) (w : PWrite) => s.withMem w.sp (mmask (s.memOf w.sp) w.addr w.mask w.val)) = State.putByte := rfl
    simp [State.writeBytes, hws, errs, trip, put, unmarked]

/-- The write of a tier byte to its place. -/
def State.tierWrite (s : State) (q : Nat × Space × Nat) : PWrite := ⟨q.2.1, q.2.2, 0xFF, mget s.tierMem q.1⟩

/-- Each byte that the tier gives is written, each other one delivered as poison. -/
theorem State.tierInEach_plain {s : State} (h : s.plainWrites) (qs : List (Nat × Space × Nat)) :
    s.tierInEach qs = (((((qs.filter (fun q => s.tierGives q.1)).map s.tierWrite).foldl State.putByte s).tierErrs
      ((qs.filter (fun q => !s.tierGives q.1)).map (·.1))).poisonRun ((qs.filter (fun q => !s.tierGives q.1)).map (·.2))) := by
  have bad : ∀ q ∈ qs, ((qs.map (·.1 / 64)).eraseDups.filter
      (fun l => !s.tierUp (64 * l) 1 || s.tierPoison.contains l)).contains (q.1 / 64) = !s.tierGives q.1 := by
    intro q hq
    have named : q.1 / 64 ∈ (qs.map (·.1 / 64)).eraseDups := List.mem_eraseDups.mpr (List.mem_map_of_mem hq)
    rw [Bool.eq_iff_iff, List.contains_iff_mem, List.mem_filter, and_iff_right named, State.tierGives, Bool.not_and, Bool.not_not]
  have ok := List.filter_congr fun q hq => (congrArg not (bad q hq)).trans (Bool.not_not _)
  have lost := List.filter_congr bad
  simp only [State.tierInEach, ok, lost, State.writeBytes_own h]
  rfl

/-- Whether or not it is given whole, a run comes from the tier byte by byte. -/
theorem State.tierIn_eq_each {s : State} (h : s.plainWrites) (a : Nat) (ls : List (Space × Nat)) :
    s.tierIn a ls = (s.countLines none ls).tierInEach ((List.zip (List.range ls.length) ls).map (fun q => (a + q.1, q.2))) := by
  have plain := (s.countLines_countsOnly none ls).refreshOnly.plainWrites h
  unfold State.tierIn
  dsimp only
  generalize s.countLines none ls = u at plain
  split
  · next whole =>
    obtain ⟨hup, hbad⟩ := Bool.and_eq_true_iff.mp whole
    have given : ∀ q ∈ (List.zip (List.range ls.length) ls).map (fun q => (a + q.1, q.2)), u.tierGives q.1 = true := by
      intro q hq
      obtain ⟨⟨i, l⟩, hil, rfl⟩ := List.mem_map.mp hq
      exact State.tierGives_run hup (by simpa using hbad) (List.mem_range.mp (List.of_mem_zip hil).1)
    rw [State.tierInEach_plain plain, List.filter_eq_self.mpr given,
      List.filter_eq_nil_iff.mpr fun q hq => by rw [given q hq]; decide, State.writeBytes_own plain, ← List.zip_swap, List.map_map,
      List.map_map]
    rfl
  · rfl

/-- A copy from the tier delivers what the tier gives, and poison for the rest. -/
theorem State.tierIn_acts {s : State} (h : s.plainWrites) (a : Nat) (ls : List (Space × Nat)) :
    (s.tierIn a ls).tierMem = s.tierMem
      ∧ ((∀ i, i < ls.length → s.tierGives (a + i) = true) → ∀ sp b, (s.tierIn a ls).byteAt sp b
          = storedByte ((List.zip ls (List.range ls.length)).map (fun q => ⟨q.1.1, q.1.2, 0xFF, mget s.tierMem (a + q.2)⟩)) sp b
            (s.byteAt sp b))
      ∧ (∀ i l, ls[i]? = some l → s.tierGives (a + i) = false →
          ((s.tierIn a ls).errOf l.1 (unitBase l.1 l.2)).poison = true)
      ∧ TierSide s (s.tierIn a ls) := by
  have counts := s.countLines_countsOnly none ls
  have plain := counts.refreshOnly.plainWrites h
  have gives := counts.tierGives
  have mem : (s.countLines none ls).tierMem = s.tierMem := by rw [counts.regs]; rfl
  have each := (State.tierIn_eq_each h a ls).trans (State.tierInEach_plain plain _)
  rw [each]
  generalize s.countLines none ls = u at counts gives mem
  have errs := State.tierErrs_portCounts
  refine ⟨?_, fun all sp b => ?_, fun i l hl hlost => ?_, ?_⟩
  · rw [State.poisonRun_integ]
    refine (errs ..).tierMem.trans ?_
    obtain ⟨c, m, k, e⟩ := State.putBytes_frame (((List.zip (List.range ls.length) ls).map (fun q => (a + q.1, q.2))).filter
      (fun q => u.tierGives q.1) |>.map u.tierWrite) u
    rw [e]
    exact mem
  · have given : ∀ q ∈ (List.zip (List.range ls.length) ls).map (fun q => (a + q.1, q.2)), u.tierGives q.1 = true := by
      intro q hq
      obtain ⟨⟨i, l⟩, hil, rfl⟩ := List.mem_map.mp hq
      exact (gives _).trans (all i (List.mem_range.mp (List.of_mem_zip hil).1))
    rw [List.filter_eq_self.mpr given, List.filter_eq_nil_iff.mpr fun q hq => by rw [given q hq]; decide]
    refine (State.byteAt_putBytes ..).trans ?_
    rw [counts.byteAt, ← List.zip_swap ls, List.map_map, List.map_map, ← mem]
    rfl
  · refine State.poisonRun_poisons _ (List.mem_map.mpr ⟨(a + i, l), List.mem_filter.mpr ⟨List.mem_map.mpr ⟨(i, l), ?_, rfl⟩, ?_⟩, rfl⟩)
    · obtain ⟨hi, hl⟩ := List.getElem?_eq_some_iff.mp hl
      exact List.mem_iff_getElem.mpr ⟨i, by simpa using hi, by simp [hl]⟩
    · rw [gives, hlost]; rfl
  · exact counts.tierSide.trans ((TierSide.putBytes ..).trans ((errs ..).tierSide.trans (State.poisonRun_tierSide ..)))

/-! ### TIERCOPY and its COPYDONE (R385) -/

theorem ring_above {p k : Nat} (h : k ∈ [rEbase (p + 1), rEhead (p + 1), rEstat (p + 1)]) : 2 ^ 32 ≤ k := by
  have base : 2 ^ 32 ≤ ringBase (p + 1) := by unfold ringBase; rw [if_neg (Nat.succ_ne_zero p)]; omega
  simp only [List.mem_cons, List.not_mem_nil, or_false] at h
  rcases h with rfl | rfl | rfl
  · exact base.trans (Nat.le_add_right ..)
  · exact base.trans (Nat.le_add_right ..)
  · exact base.trans (Nat.le_add_right ..)

/-- The record of a copy goes to the ring of its function, whatever the copy did before. -/
theorem TierSide.copyRecord {s u : State} (h : TierSide s u) (p : Nat) (err : Bool) (cookie : W32) :
    recordPosted s (u.copyRecord p err cookie) (p + 1)
      [evWord 8 p ((if err then 2 ^ 55 else 0) + cookie.toNat), s.nowWord, 0, 0] := by
  have posted := u.postAt_recordPosted (p + 1) (evWord 8 p (boolNat err * 2 ^ 55 + cookie.toNat)) u.now 0 0
  have now : u.now = s.now := congrArg TimeUnit.ns h.time
  have body : boolNat err * 2 ^ 55 = if err then 2 ^ 55 else 0 := by cases err <;> rfl
  rw [now, body] at posted
  have post : u.copyRecord p err cookie = u.postAt (p + 1) (evWord 8 p ((if err then 2 ^ 55 else 0) + cookie.toNat)) s.now 0 0 := by
    rw [State.copyRecord, State.post, now, body]
  rw [post]
  exact posted.of_ring (fun k hk => h.reg k (ring_above hk)) h.hostMem h.host

/-- ERR 1 in the record of a copy. -/
theorem TierSide.copyFailed {s u : State} (h : TierSide s u) (p : Nat) (cookie : W32) :
    recordPosted s (u.copyRecord p true cookie) (p + 1) [evWord 8 p (2 ^ 55 + cookie.toNat), s.nowWord, 0, 0] :=
  h.copyRecord p true cookie

/-- ERR 0 in the record of a copy. -/
theorem TierSide.copyMoved {s u : State} (h : TierSide s u) (p : Nat) (cookie : W32) :
    recordPosted s (u.copyRecord p false cookie) (p + 1) [evWord 8 p cookie.toNat, s.nowWord, 0, 0] := by
  have posted := h.copyRecord p false cookie
  rw [if_neg Bool.false_ne_true, Nat.zero_add] at posted
  exact posted

/-- The places of a copy, where every byte of its range has one. -/
theorem State.copyPlaces_eq (s : State) (p : Nat) (j : TierJob) :
    s.copyPlaces p j = if (s.placesFrom p (boolNat j.sp) j.paddr j.len).length = j.len
      then some (s.placesFrom p (boolNat j.sp) j.paddr j.len) else none := by
  have places : ((List.range j.len).map fun i => s.xl p (boolNat j.sp) 0 (j.paddr + i)).filterMap id
      = s.placesFrom p (boolNat j.sp) j.paddr j.len := by rw [List.filterMap_map]; rfl
  have whole : (s.placesFrom p (boolNat j.sp) j.paddr j.len).length = j.len
      ↔ ∀ i ∈ List.range j.len, (s.xl p (boolNat j.sp) 0 (j.paddr + i)).isSome = true := by
    have all := List.filterMap_length_eq_length (l := List.range j.len) (f := fun i => s.xl p (boolNat j.sp) 0 (j.paddr + i))
    rwa [List.length_range] at all
  have missing : ((List.range j.len).map fun i => s.xl p (boolNat j.sp) 0 (j.paddr + i)).any (·.isNone) = true
      ↔ ¬ (s.placesFrom p (boolNat j.sp) j.paddr j.len).length = j.len := by
    rw [whole]
    simp
  simp only [State.copyPlaces, places, missing, ite_not]

/-- The stacks and the case store of a partition lie as its template says. -/
theorem State.xl_congr {s t : State} {p : Nat} (h : t.tmpl p = s.tmpl p) (b : Bool) (a : Nat) :
    t.xl p (boolNat b) 0 a = s.xl p (boolNat b) 0 a := by
  cases b
  · exact congrArg (fun x => (Template.xlStack x a).map _) h
  · exact congrArg (fun x => (Template.xlCase x a).map _) h

theorem State.copyPlaces_congr {s t : State} {p : Nat} (h : t.tmpl p = s.tmpl p) (j : TierJob) :
    t.copyPlaces p j = s.copyPlaces p j := by
  simp only [State.copyPlaces, State.xl_congr h]

/-- Copy k of partition p is under way no more. -/
def State.dropCopy (s : State) (p k : Nat) : State := s.modPart p (fun q => { q with copies := dropAt q.copies k })

theorem State.dropCopy_copies (s : State) (p k : Nat) : ((s.dropCopy p k).part p).copies = dropAt (s.part p).copies k := by
  rw [State.dropCopy, State.part_modPart, if_pos rfl]

theorem State.dropCopy_places (s : State) (p k : Nat) (j : TierJob) : (s.dropCopy p k).copyPlaces p j = s.copyPlaces p j :=
  State.copyPlaces_congr (by rw [State.tmpl, State.dropCopy, State.part_modPart, if_pos rfl]; rfl) j

/-- A record changes rings and interrupts alone. -/
theorem State.copyRecord_frame (s : State) (p : Nat) (err : Bool) (cookie : W32) :
    ∃ r m o, s.copyRecord p err cookie = ((s.withRegs r).withHostMem m).withHost o := by
  obtain ⟨r, m, o, e, -⟩ := s.post_frame p 8 (boolNat err * 2 ^ 55 + cookie.toNat) 0 0
  exact ⟨r, m, o, e⟩

section
variable {s : State} {p k : Nat} {j : TierJob} {ls : List (Space × Nat)}

/-- A copy whose range has no places ends with ERR 1. -/
theorem State.copyDone_nowhere (hj : (s.part p).copies[k]? = some j) (hhalt : s.halted = false) (hls : s.copyPlaces p j = none) :
    s.copyDone p k = (s.dropCopy p k).copyRecord p true j.cookie := by
  have places := (s.dropCopy_places p k j).trans hls
  unfold State.dropCopy at places ⊢
  simp only [State.copyDone, hj, hhalt, places, Bool.false_eq_true, if_false]

/-- A copy goes on while a channel that it touches is refreshed or calibrated. -/
theorem State.copyDone_waits (hj : (s.part p).copies[k]? = some j) (hhalt : s.halted = false)
    (hls : s.copyPlaces p j = some ls) (hcalm : s.calm ls = false) : s.copyDone p k = s := by
  have places := (s.dropCopy_places p k j).trans hls
  have waits : (s.dropCopy p k).calm ls = false := hcalm
  unfold State.dropCopy at places waits
  simp only [State.copyDone, hj, hhalt, places, waits, Bool.false_eq_true, if_false, Bool.not_false, if_true]

/-- A copy whose places all answer moves its bytes and posts its record. -/
theorem State.copyDone_moves (hj : (s.part p).copies[k]? = some j) (hhalt : s.halted = false)
    (hls : s.copyPlaces p j = some ls) (hcalm : s.calm ls = true) (hline : ∀ l ∈ ls, s.lineOk l = true) :
    s.copyDone p k = (if j.toTier then (s.dropCopy p k).tierOut j.taddr ls
      else (s.dropCopy p k).tierIn j.taddr ls).copyRecord p false j.cookie := by
  have places := (s.dropCopy_places p k j).trans hls
  have calm : (s.dropCopy p k).calm ls = true := hcalm
  have near : ls.filter (fun l => !(s.dropCopy p k).lineOk l) = [] :=
    List.filter_eq_nil_iff.mpr fun l hl => by
      rw [show (s.dropCopy p k).lineOk l = true from hline l hl]; decide
  unfold State.dropCopy at places calm near ⊢
  simp only [State.copyDone, hj, hhalt, places, calm, near, List.isEmpty_nil, Bool.false_eq_true, if_false, Bool.not_true, if_true]

end

theorem State.galleyDo_tierCopy {s : State} {p : Nat} {e : List W64} (h : bf (wordAt e 0) 63 56 = 5) :
    s.galleyDo p e = s.tierCopy p e := by
  simp [State.galleyDo, h]

/-- The copy that a TIERCOPY names. -/
def tierJobOf (e : List W64) : TierJob :=
  { toTier := bit (wordAt e 0) 55, sp := bit (wordAt e 0) 54, taddr := (wordAt e 1).toNat / 64 * 64
    paddr := (wordAt e 2).toNat / 64 * 64, len := 64 * bf (wordAt e 3) 31 0
    cookie := BitVec.ofNat 32 (wordAt e 4).toNat }

/-- A copy's range in the tier range of a template. -/
def TierJob.tierOk (j : TierJob) (t : Template) : Prop :=
  bf t.tier 63 32 * 2 ^ 30 ≤ j.taddr ∧ j.taddr + j.len ≤ bf t.tier 63 32 * 2 ^ 30 + bf t.tier 31 0 * 2 ^ 30

theorem State.tierCopy_eq (s : State) (p : Nat) (e : List W64) :
    s.tierCopy p e = if (tierJobOf e).taddr < bf (s.tmpl p).tier 63 32 * 2 ^ 30
        ∨ bf (s.tmpl p).tier 63 32 * 2 ^ 30 + bf (s.tmpl p).tier 31 0 * 2 ^ 30 < (tierJobOf e).taddr + (tierJobOf e).len
        ∨ (s.copyPlaces p (tierJobOf e)).isNone
      then s.copyRecord p true (tierJobOf e).cookie
      else s.modPart p (fun q => { q with copies := q.copies ++ [tierJobOf e] }) := rfl

theorem State.tierCopy_starts {s : State} {p : Nat} {e : List W64} (htier : (tierJobOf e).tierOk (s.tmpl p))
    (hls : (s.placesFrom p (boolNat (tierJobOf e).sp) (tierJobOf e).paddr (tierJobOf e).len).length = (tierJobOf e).len) :
    s.tierCopy p e = s.modPart p (fun q => { q with copies := q.copies ++ [tierJobOf e] }) := by
  obtain ⟨base, top⟩ := htier
  have places := s.copyPlaces_eq p (tierJobOf e)
  rw [if_pos hls] at places
  rw [State.tierCopy_eq, places, if_neg]
  rintro (h | h | h)
  · exact Nat.not_lt.mpr base h
  · exact Nat.not_lt.mpr top h
  · exact Bool.false_ne_true h

theorem State.tierCopy_fails {s : State} {p : Nat} {e : List W64} (h : ¬ (tierJobOf e).tierOk (s.tmpl p)
    ∨ (s.placesFrom p (boolNat (tierJobOf e).sp) (tierJobOf e).paddr (tierJobOf e).len).length ≠ (tierJobOf e).len) :
    s.tierCopy p e = s.copyRecord p true (tierJobOf e).cookie := by
  rw [State.tierCopy_eq, if_pos]
  rcases h with h | h
  · rcases Nat.lt_or_ge (tierJobOf e).taddr (bf (s.tmpl p).tier 63 32 * 2 ^ 30) with hbase | hbase
    · exact .inl hbase
    · exact .inr (.inl (Nat.not_le.mp fun htop => h ⟨hbase, htop⟩))
  · have places := s.copyPlaces_eq p (tierJobOf e)
    rw [if_neg h] at places
    exact .inr (.inr (congrArg Option.isNone places))

/-- What stays when a record is posted. -/
theorem State.copyRecord_keeps (s : State) (p : Nat) (err : Bool) (cookie : W32) :
    (s.copyRecord p err cookie).parts = s.parts ∧ (s.copyRecord p err cookie).tierMem = s.tierMem
      ∧ (∀ sp a, (s.copyRecord p err cookie).byteAt sp a = s.byteAt sp a)
      ∧ ∀ sp a, (s.copyRecord p err cookie).errOf sp a = s.errOf sp a := by
  obtain ⟨r, m, o, e⟩ := s.copyRecord_frame p err cookie
  rw [e]
  exact ⟨rfl, rfl, fun sp _ => by cases sp <;> rfl, fun _ _ => rfl⟩

theorem State.copyRecord_onlyRecords (s : State) (p : Nat) (err : Bool) (cookie : W32) :
    onlyRecords s (s.copyRecord p err cookie) [p + 1] := by
  unfold State.copyRecord State.post
  exact s.postAt_onlyRecords _ _ _ _ _ (List.mem_singleton.mpr rfl)

/-- The end of a copy whose range has no places. -/
theorem State.dropCopy_record (s : State) (p k : Nat) (cookie : W32) :
    (((s.dropCopy p k).copyRecord p true cookie).part p).copies = dropAt (s.part p).copies k
      ∧ onlyRecords s (((s.dropCopy p k).copyRecord p true cookie).withParts s.parts) [p + 1] := by
  obtain ⟨parts, -⟩ := (s.dropCopy p k).copyRecord_keeps p true cookie
  obtain ⟨-, reg⟩ := (s.dropCopy p k).copyRecord_onlyRecords p true cookie
  obtain ⟨r, m, o, e⟩ := (s.dropCopy p k).copyRecord_frame p true cookie
  generalize (s.dropCopy p k).copyRecord p true cookie = t at parts reg e
  refine ⟨by rw [State.part, parts]; exact s.dropCopy_copies p k, ?_, reg⟩
  rw [e]
  cases s
  rfl

/-- Settles O44: the checks of TIERCOPY, then its COPYDONE by direction. -/
theorem tierCopiesMoveTheirBytes : Obligations.TierCopiesMoveTheirBytes := by
  unfold Obligations.TierCopiesMoveTheirBytes
  intro p s
  refine ⟨fun e hcmd hvalid hwaits hmir => ?_, fun k hk => congrArg Host.Outcome.next ?_, fun k j hj hhalt => ?_⟩
  · have run : exec (.tierCopy p e) s = .next (s.tierCopy p.val e) :=
      congrArg Host.Outcome.next ((State.galleyRow_runs hcmd hvalid hwaits hmir).trans (State.galleyDo_tierCopy hcmd))
    refine ⟨fun base top hls => run.trans (congrArg Host.Outcome.next (State.tierCopy_starts ⟨base, top⟩ hls)), fun h => ?_⟩
    refine ⟨_, run.trans (congrArg Host.Outcome.next (State.tierCopy_fails ?_)),
      s.copyRecord_onlyRecords p.val true _, (TierSide.refl s).copyFailed p.val _⟩
    rcases h with h | h | h
    · exact .inl fun ok => Nat.not_lt.mpr ok.1 h
    · exact .inl fun ok => Nat.not_lt.mpr ok.2 h
    · exact .inr h
  · unfold State.copyDone
    split
    · rfl
    · next j hj =>
      rw [hj] at hk
      exact if_pos (hk.resolve_left (by simp))
  · have places := s.copyPlaces_eq p.val j
    dsimp only
    generalize s.placesFrom p.val (boolNat j.sp) j.paddr j.len = ls at places
    refine ⟨fun hls => ?_, fun hls hcalm => ?_, fun hls hcalm hline hplain => ?_⟩
    · rw [if_neg hls] at places
      obtain ⟨copies, only⟩ := s.dropCopy_record p.val k j.cookie
      exact ⟨_, congrArg Host.Outcome.next (State.copyDone_nowhere hj hhalt places), copies, only,
        (TierSide.refl (s.dropCopy p.val k)).copyFailed p.val j.cookie⟩
    · rw [if_pos hls] at places
      exact congrArg Host.Outcome.next (State.copyDone_waits hj hhalt places hcalm)
    · rw [if_pos hls] at places
      have done : exec (.copyDone p k) s = .next _ :=
        congrArg Host.Outcome.next (State.copyDone_moves hj hhalt places hcalm hline)
      have plain : (s.dropCopy p.val k).plainWrites := hplain
      have copies := s.dropCopy_copies p.val k
      cases dir : j.toTier with
      | true =>
        rw [dir, if_pos rfl] at done
        obtain ⟨kept, beside, arrived, side⟩ := State.tierOut_acts plain.1 j.taddr ls
        generalize (s.dropCopy p.val k).tierOut j.taddr ls = u at kept beside arrived side done
        obtain ⟨parts, tier, bytes, -⟩ := u.copyRecord_keeps p.val false j.cookie
        refine ⟨_, done, by rw [State.part, parts, side.parts]; exact copies, fun _ => ⟨fun sp b => (bytes sp b).trans (kept sp b),
          fun a ha => ?_, fun i l hl hup => ?_⟩, fun h => Bool.noConfusion h, ?_⟩
        · rw [tier]; exact beside a ha
        · rw [tier]; exact arrived i l hl hup
        · exact side.copyMoved p.val j.cookie
      | false =>
        rw [dir, if_neg Bool.false_ne_true] at done
        obtain ⟨kept, given, lost, side⟩ := State.tierIn_acts plain j.taddr ls
        generalize (s.dropCopy p.val k).tierIn j.taddr ls = u at kept given lost side done
        obtain ⟨parts, tier, bytes, errs⟩ := u.copyRecord_keeps p.val false j.cookie
        refine ⟨_, done, by rw [State.part, parts, side.parts]; exact copies, fun h => Bool.noConfusion h, fun _ => ⟨tier.trans kept,
          fun all sp b => (bytes sp b).trans (given (fun i hi => State.tierGives_iff.mpr (all i hi)) sp b), fun i l hl no => ?_⟩, ?_⟩
        · rw [errs]
          exact lost i l hl (Bool.eq_false_iff.mpr fun yes => no (State.tierGives_iff.mp yes))
        · exact side.copyMoved p.val j.cookie

end Sys2Proof.Machine
end
